-- ==== Sys2Proof/Word.lean ====
section
/-! DEFINITION. The word types of the device and the plain shape of sparse data.
A register word is 32 bits (R43), a wide register and a tag are 64 bits (R27, R43). -/

namespace Sys2Proof

/-- One byte. -/
abbrev Byte := BitVec 8
/-- One 32-bit word of the control space (R43). -/
abbrev Word := BitVec 32
/-- One 64-bit word: a tag (R27), a wide register (R43), a vector instruction (R169). -/
abbrev DWord := BitVec 64

/-- Sparse data: keys strictly rising, no entry equal to what an unlisted key reads as.
The operations that keep this form stand in Machine/Ops.lean. -/
abbrev FMap (α : Type) := List (Nat × α)

/-- Tiles T0 to T63 (R12). -/
abbrev TileId := Fin 64
/-- Quadrants Q0 to Q3 (R15). -/
abbrev QuadId := Fin 4
/-- HBM stacks 0 to 7. -/
abbrev StackId := Fin 8
/-- Gwetre ports G0 to G23. -/
abbrev PortId := Fin 24
/-- Cammos host ports HP0 and HP1. -/
abbrev HostId := Fin 2

end Sys2Proof
end

