-- ==== Sys2Proof/Syntax.lean ====
section
/-! DEFINITION. The commands of the device: one constructor per row of spec/opcode_table.json, with the
operands the row's step takes from outside (a master's access, an event at a pin or a link, an agent's name). -/

namespace Sys2Proof

/-- The three masters of the control space, with their ids 0, 1 and 2 (R51). -/
inductive Master where
  | hp0 | hp1 | mgmt
  deriving DecidableEq, Repr

/-- The ten blocks of a tile, in the order of their block ids (R14, R48). -/
inductive TileUnit where
  | tl | sqc | vec | ftb | mnt | tmem | dmv | scrb | stat | que
  deriving DecidableEq, Repr

/-- The blocks of the die (R48). -/
inductive Block where
  | dev | own | rot | flt | pwr | mtr
  | hbm (s : StackId) | gwp (p : PortId) | cam (h : HostId)
  | qdsp (q : QuadId) | qstat (q : QuadId) | srv (q : QuadId) | qque (q : QuadId)
  | tile (t : TileId) (u : TileUnit)
  deriving DecidableEq, Repr

/-- The tile memories (R236). -/
inductive MemSel where
  | amem | pmem | wmem
  deriving DecidableEq, Repr

/-- The queues with a QUE_ page (R324, R441). -/
inductive QueueId where
  | sq (q : QuadId) (k : Fin 16)
  | cq (q : QuadId) (k : Fin 16)
  | work (t : TileId)
  | comp (t : TileId)
  | fault
  /-- the data queue of a Gwetre port, and the telemetry queue of a quadrant's statistics unit (R323, R324) -/
  | fab (p : PortId)
  | tele (q : QuadId)
  deriving DecidableEq, Repr

/-- Why a feeder's access was not granted in a gang beat (R112, R240). -/
inductive BankWait where
  | granted | conflict | convoy
  deriving DecidableEq, Repr

/-- One tile's self-test outcome: failing physical columns, and the first mismatching memory line (R498, R499). -/
structure TileTest where
  tile : TileId
  columns : List (BitVec 8)
  badLines : List (MemSel × Nat)
  deriving DecidableEq, Repr

/-- How a packet's trailer checks: CRC good, bad, or inverted by a forwarding port (R355). -/
inductive CrcState where
  | good | bad | stomped
  deriving DecidableEq, Repr

/-- A Gwetre packet as it arrives: the eight header words, the payload as decrypted, bytes 16 to 27 of its trailer, and what the
receiver's two checks find (R351, R352, R354). Its zero fill decides nothing. -/
structure GwPacket where
  header : List Word
  payload : List Byte
  rsvd : List Byte
  crc : CrcState
  tagOk : Bool
  deriving DecidableEq, Repr

/-- A Cammos flit as it arrives: the link word, the 120 stream bytes, and whether its CRC matches (R378). -/
structure CamFlit where
  link : Word
  stream : List Byte
  crcOk : Bool
  deriving DecidableEq, Repr

/-- What a link partner presents at the end of Gwetre training: its chip id, whether it is keyed and its certificates pass, and
its serial, link public key and nonce (R478, R480). -/
structure GwTraining where
  lanes : BitVec 4
  peer : BitVec 16
  peerKeyed : Bool
  certOk : Bool
  serial : BitVec 128
  linkKey : List Byte
  nonce : BitVec 256
  deriving DecidableEq, Repr

/-- The kinds of request an HBM controller serves (R335). -/
inductive HbmKind where
  | demandRead | prefetch | write
  deriving DecidableEq, Repr

/-- A block with activity counters (R405): a tile, an HBM controller, a Gwetre port, a Cammos port. -/
inductive ActBlock where
  | tile (t : TileId) | hbm (k : StackId) | port (p : PortId) | host (h : HostId)
  deriving DecidableEq, Repr

/-- Events that a block's activity counter counts (R13, R405): the counter, whether the array or the vector engine drew their
energy (R410), the item whose work caused them, if any (R411), and how many. -/
structure ActEvent where
  block : ActBlock
  counter : Fin 48
  array : Bool
  vector : Bool
  item : Option (Fin 4 × BitVec 16)
  count : Nat
  deriving DecidableEq, Repr

/-- The reference clock inputs the root of trust watches (R525). -/
inductive RefClk where
  | fab | host | hbm | pwr
  deriving DecidableEq, Repr

/-- A requester of the request caps (R290). -/
inductive Requester where
  | sequencer | vector | feeder | drain | mover | router | scrubber
  deriving DecidableEq, Repr

/-- What the signature of an operator's command verifies under: no key, the named key slot of the command's partition, or that slot of
another partition (R475). -/
inductive OpSig where
  | fails
  | verifies
  | otherPart (p : Fin 4)
  deriving DecidableEq, Repr

/-- The commands (spec/opcode_table.json, in its order). -/
inductive Instr where
  -- the control space (chapter 02)
  | registerWrite (m : Master) (bytes : Nat) (addr : BitVec 25) (v : Word)
  | lowWordRead (m : Master) (bytes : Nat) (addr : BitVec 25)
  | securePageRead (m : Master) (page : Fin 16) (off : BitVec 12)
  | counterClear (m : Master) (b : Block)
  -- packets and handshakes (chapter 01)
  | packetArrival (dst src : Block) (tag : DWord)
  | handshakeStall (t : TileId) (nbr : Block) (beats : Nat)
  -- enable, drain, re-arm (chapters 02, 15, 18)
  | pgEnSet (m : Master) (b : Block)
  | pgEnClear (m : Master) (b : Block)
  | drain (m : Master) (b : Block)
  | rearm (m : Master) (b : Block)
  | drainProbeAck (b : Block)
  | drainComplete (b : Block)
  | rearmComplete (b : Block)
  -- ownership and generations
  | devClaim (m : Master) (v : Word)
  | devHandover (m : Master) (v : Word)
  | devGenCommit (m : Master) (v : Word)
  | dispatcherMarkerPlace (q : QuadId)
  | markerTake (t : TileId)
  | tileBlockGenSwitch (t : TileId) (u : TileUnit)
  | routerMarkerSend (t : TileId)
  | peripheralGenSwitch (b : Block)
  | systemBlockGenSwitch (b : Block)
  -- reset and start-up
  | devReset (m : Master) (v : Word)
  | resetNAssert (retain : Bool)
  | resetNDeassert
  | powerLoss (vddSys : Bool)
  | avsActionComplete (q : QuadId) (vddm : Bool) (readback : Option Nat) (fault : Bool)
  | selftestComplete (results : List TileTest)
  | hbmTrainingComplete (s : StackId) (trained : Word)
  | hbmZeroFillComplete (s : StackId)
  | tileFirmwareLoaded
  -- arrays (chapters 04, 05)
  | arrayDescriptorAccept (t : TileId)
  | arrayBeat (t : TileId) (wait : BankWait)
  | runStallClose (t : TileId)
  | arrayDescriptorComplete (t : TileId)
  | mntDrainRel (m : Master) (t : TileId) (v : Word)
  -- the tile sequencer (chapter 10)
  | itemStart (t : TileId)
  | itemEnd (t : TileId) (item : BitVec 16)
  | seqWaitRelease (t : TileId)
  | sqNop (t : TileId)
  | sqAdd (t : TileId)
  | sqSub (t : TileId)
  | sqMul (t : TileId)
  | sqAnd (t : TileId)
  | sqOr (t : TileId)
  | sqXor (t : TileId)
  | sqShl (t : TileId)
  | sqShr (t : TileId)
  | sqAddi (t : TileId)
  | sqLui (t : TileId)
  | sqLd (t : TileId)
  | sqSt (t : TileId)
  | sqBeq (t : TileId)
  | sqBne (t : TileId)
  | sqBlt (t : TileId)
  | sqBge (t : TileId)
  | sqLoop (t : TileId)
  | sqJal (t : TileId)
  | sqJr (t : TileId)
  | sqIssue (t : TileId)
  | sqWait (t : TileId)
  | sqFence (t : TileId)
  | sqSignal (t : TileId)
  | sqGenmark (t : TileId)
  | sqGets (t : TileId)
  | sqPuts (t : TileId)
  -- the vector engine (chapters 06, 07)
  | vld (t : TileId)
  | vst (t : TileId)
  | vgth (t : TileId)
  | vsct (t : TileId)
  | vscta (t : TileId)
  | vctx (t : TileId)
  | vpld (t : TileId)
  | vmark (t : TileId)
  | vadd (t : TileId)
  | vsub (t : TileId)
  | vmul (t : TileId)
  | vfma (t : TileId)
  | vmin (t : TileId)
  | vmax (t : TileId)
  | vmov (t : TileId)
  | vcvt (t : TileId)
  | viadd (t : TileId)
  | visub (t : TileId)
  | vimul (t : TileId)
  | vand (t : TileId)
  | vor (t : TileId)
  | vxor (t : TileId)
  | vshl (t : TileId)
  | vshr (t : TileId)
  | vsar (t : TileId)
  | vcmp (t : TileId)
  | vsel (t : TileId)
  | vrrow (t : TileId)
  | vrcol (t : TileId)
  | vrall (t : TileId)
  | vtr4 (t : TileId)
  | vperm (t : TileId)
  | vscan (t : TileId)
  | vslot (t : TileId)
  | vtfn (t : TileId)
  | vftswap (t : TileId)
  | vrstat (t : TileId)
  | smaxStep (t : TileId)
  | vprg (t : TileId)
  | vprgm (t : TileId)
  | scGo (m : Master) (t : TileId) (v : Word)
  | scAbort (m : Master) (t : TileId)
  | scComplete (t : TileId)
  | ftbLoad (src : Option Master) (t : TileId) (v : Word)
  | ftbLoadComplete (t : TileId) (slot : Fin 8)
  -- tile memories (chapter 08)
  | scrubCredit (t : TileId)
  | scrubLine (t : TileId) (mem : MemSel)
  | scrbRestart (m : Master) (t : TileId) (v : Word)
  | tmemAgingPromote (t : TileId) (r : Requester) (mem : MemSel) (bank : BitVec 6) (waited : Nat)
  | wideReserve (t : TileId) (mem : MemSel) (row : BitVec 11) (waited : Nat)
  -- moving tensors (chapter 09)
  | move (t : TileId)
  | streamOpen (t : TileId)
  | streamClose (t : TileId)
  | moveComplete (t : TileId) (token : Fin 32)
  | streamPrefetch (q : QuadId) (slot : BitVec 8)
  -- work submission and queues (chapter 10)
  | run (q : QuadId)
  | jobStart (q : QuadId)
  | jobEnd (q : QuadId)
  | jobAbort (q : QuadId)
  | jobNumberFree (part : Fin 4) (job : BitVec 6)
  | sqDoorbell (m : Master) (q : QuadId) (k : Fin 16) (v : Word)
  | cqHead (m : Master) (q : QuadId) (k : Fin 16) (v : Word)
  | queEnable (m : Master) (id : QueueId)
  | queDisable (m : Master) (id : QueueId)
  | queFlush (m : Master) (id : QueueId)
  | queRingCfg (m : Master) (id : QueueId) (v : Word)
  | queSpillSize (m : Master) (id : QueueId) (v : Word)
  | queuePacketWrite (id : QueueId) (words : List DWord) (sop eop : Bool) (bad : Option Nat)
  | queuePacketTake (id : QueueId) (bad : Bool)
  | completionRecordWrite (q : QuadId) (k : Fin 16)
  | completionPhaseWrite (q : QuadId) (k : Fin 16)
  -- main memory (chapter 11)
  | hbmAccess (s : StackId) (kind : HbmKind) (pa : BitVec 39) (data : List Byte) (item : BitVec 16)
      (poison onDie : Bool)
  | hbmAgingPromote (s : StackId) (channel : BitVec 5) (pc : Bool) (bank : BitVec 6) (waited : Nat)
  | hbmScrubSector (s : StackId)
  | hbmRefresh (s : StackId) (channel : BitVec 5) (pc : Bool) (bank : BitVec 6)
  | ptInval (m : Master) (v : Word)
  | ptInvalComplete (part : Fin 4)
  | hbmRetrain (m : Master) (s : StackId) (v : Word)
  | hbmRetire (m : Master) (s : StackId) (v : Word)
  | hbmSubConfirm (m : Master) (s : StackId)
  | hbmEvacuationComplete (q : QuadId)
  | hbmRetrainComplete (q : QuadId) (ok : Bool)
  -- the Gwetre fabric (chapter 12)
  | gwWrite (p : PortId) (pk : GwPacket)
  | gwRead (p : PortId) (pk : GwPacket)
  | gwWriteAck (p : PortId) (pk : GwPacket)
  | gwReadData (p : PortId) (pk : GwPacket)
  | gwError (p : PortId) (pk : GwPacket)
  | linkCtrl (p : PortId) (pk : GwPacket)
  | gwpLinkDown (p : PortId) (lostAlignment : Bool)
  | gwpTrainComplete (p : PortId) (peer : GwTraining)
  | gwpAbandon (m : Master) (p : PortId) (v : Word)
  -- the Cammos host link (chapter 13)
  | camDataFlit (h : HostId) (f : CamFlit)
  | camControlFlit (h : HostId) (f : CamFlit)
  | regRd (h : HostId)
  | regWr (h : HostId)
  | memRd (h : HostId)
  | memWr (h : HostId)
  | db (h : HostId)
  | cpl (h : HostId)
  | camLinkDown (h : HostId) (lostAlignment : Bool)
  | camTrainComplete (h : HostId) (lanes : Byte)
  | camAbandon (m : Master) (h : HostId) (v : Word)
  | camSessClose (m : Master) (h : HostId) (v : Word)
  -- power and metering (chapter 14)
  | sensorSample (temps : List (BitVec 10))
  | estimationWindowEnd (events : List ActEvent)
  | meterReading (mj : List Nat)
  | meterSilence (failedCheck : Bool)
  | meterApportion (mj : List Nat)
  | meterNvCommit
  | periodicRecord
  | jobStartMark
  | jobStopMark
  | partMapMark
  | resetMark
  | meterRestart (unmetMs : Nat) (image : Bool)
  -- faults (chapter 15)
  | faultMessage (src : Block)
  | fltLogPop (m : Master)
  | fltInjectMessage (m : Master) (v : Word)
  | fltInjectCode (m : Master) (v : Word)
  -- training (chapter 16)
  | tapPacket (q : QuadId)
  | srvStep (m : Master) (q : QuadId) (v : Word)
  | securePointStream (q : QuadId)
  | deltaFold (q : QuadId) (src : Fin 16) (slot : Fin 64)
  | securePointComplete (q : QuadId)
  | srvCommit (m : Master) (q : QuadId) (v : Word)
  | srvAbort (m : Master) (q : QuadId)
  | srvCheck (m : Master) (q : QuadId)
  | srvRestore (m : Master) (q : QuadId) (v : Word)
  | restoreComplete (q : QuadId) (ok : Bool)
  -- the root of trust (chapter 17): the command waiting in master m's slot; whether its signature verifies
  | forceTake (m : Master) (sigOk : Bool)
  | rotReset (m : Master) (sigOk : Bool)
  | partSet (m : Master) (sigOk : Bool)
  | pwrSet (m : Master) (sigOk : Bool)
  | imageLoad (m : Master) (makerSigned instSigned makerOk instOk : Bool)
  | imageApplyComplete (component : BitVec 16) (target : Nat) (ok : Bool)
  | enroll (m : Master) (sigOk : Bool)
  | instRotate (m : Master) (sigOk : Bool)
  | lcSet (m : Master) (sigOk : Bool)
  | factory (m : Master) (sigOk : Bool)
  | repairClear (m : Master) (sigOk : Bool)
  | sessionOpen (m : Master) (sig : OpSig)
  | sessionClose (m : Master) (sig : OpSig)
  | attest (m : Master)
  | measure (m : Master)
  | cert (m : Master)
  | auditRead (m : Master)
  | tamper (detector : Fin 3)
  -- start-up and service (chapters 18, 19)
  | refclkLoss (clk : RefClk)
  | partitionZeroFillComplete (part : Fin 4)
  | devSelftest (m : Master) (v : Word)
  | tileRetire (m : Master) (v : Word)
  | rotSensorSample (temps : List (BitVec 10))
  deriving DecidableEq, Repr

end Sys2Proof
end

