-- ==== Sys2Proof/Config.lean ====
section
/-! DEFINITION. What the spec leaves open or names without its arithmetic: free values, chip data and the cryptographic
functions. None has a body, so no proof can rest on a value of one (notes/assumptions 3, 4, 6, 10, 12). -/

namespace Sys2Proof.Config
open Sys2Proof

/-- The n-th free value: a number that nothing constrains (entry 4). A step that needs one takes `free s.nfree`. -/
opaque free : Nat → Nat

/-- The fused 32-byte secrets and the maker's 57-byte public key in ROM (R477; entry 6). -/
opaque memRoot : List Byte
opaque linkRoot : List Byte
opaque makerKey : List Byte

/-- AES-256-XTS under a data key and a tweak key (R341, R478; entry 3): the permutation of 16-byte block j of the sector whose tweak is
PA[38:6]. Arguments: data key, tweak key, tweak, j. -/
opaque xts : List Byte → List Byte → Nat → Nat → Equiv.Perm (BitVec 128)

/-- SHAKE256 of a message, with the output length in bytes (R473, R488, R489; entry 3). -/
opaque shake256 : List Byte → Nat → List Byte

/-- An Ed448 signature by the device key of the given role over a message (R478, R488, R492; entry 3). -/
opaque sign : Nat → List Byte → List Byte

/-- X448 of a 56-byte scalar and a 56-byte u-coordinate (R478, R480, R481; entry 3). -/
opaque x448 : List Byte → List Byte → List Byte

/-- AES-256-GCM under a 32-byte key of a confidential session or a link direction (R354, R394, R395; entry 3): sealing answers the
ciphertext with its tag, opening the plain bytes or none where the tag fails. Arguments: the key, the 96-bit nonce, the authenticated
bytes, the payload. -/
opaque gcmSeal : List Byte → Nat → List Byte → List Byte → List Byte
opaque gcmOpen : List Byte → Nat → List Byte → List Byte → Option (List Byte)

/-- The 128-bit device serial, and the public half of the 57-byte identity key (R477, R478; entry 6). -/
opaque deviceSerial : Nat
opaque identityKey : List Byte

/-- Yarinwick's signature over the first 128 bytes of a certificate (R478; entry 3). -/
opaque makerSign : List Byte → List Byte

/-- What a component was installed with at manufacture: its version and its digest (R493; entry 6). -/
opaque factoryVersion : Nat → Word
opaque factoryDigest : Nat → List Byte

/-- The fused version floor of a component (R491; entry 6). -/
opaque fusedFloor : Nat → Word

/-- The voltage table of a quadrant (R402, R506; entry 6), the fused one or the v-th applied by image: VDD and VDDM in
mV at a speed point and a temperature column, before interpolation between columns. -/
opaque tableVdd : Fin 4 → Nat → Nat → Nat → Nat
opaque tableVddm : Fin 4 → Nat → Nat → Nat → Nat

/-- The leakage constants of a quadrant (R535, R506; entry 6), fused or with the v-th weights applied by image, FP32: LC and LM in W, the doubling interval D in °C; and
whether the controller rounds 2 to the power of an FP32 number up, which the spec does not state. -/
opaque leakCore : Fin 4 → Nat → Word
opaque leakMem : Fin 4 → Nat → Word
opaque leakDouble : Fin 4 → Nat → Word
opaque exp2Up : Word → Bool

/-- The weight of an activity counter, in pJ per event (R405; entry 6): of a quadrant's tiles, controllers, Gwetre and Cammos ports (0 to 3), by
counter, fused or with the v-th weights applied by image. -/
opaque weightPj : Fin 4 → Nat → Nat → Nat → Nat

/-- Maximum energies in one window of 2 µs, in pJ (R407; entry 6): of a block by its id, fused or with the v-th weights, and of the VDD_SYS blocks; and the
constant E_sys of a window (R405), by the estimator images that the four quadrants have been given (R506). -/
opaque maxBlockPj : Nat → Nat → Nat
opaque maxSysPj : Nat
opaque sysWindowPj : List Nat → Nat

/-- The fused maker maximum of PWR_LIMIT, in W (R409). -/
def limitMax : Nat := 1000

/-- What a route image's payload says, whose layout the spec does not give (R358; entry 30): the chip id, the route entry
of a chip id, and the reduce windows' base and size registers. -/
opaque routeChip : List Byte → Nat
opaque routeEntry : List Byte → Nat → Byte
opaque routeWindow : List Byte → Nat → Nat × Nat

/-- The block of the mirror buffers at which the survival engine's own tensor of sequence slots lies (R454; entry 29). -/
opaque slotTensorBlock : Nat

/-- The coefficient words of a built-in table, by table and word (R224; entry 10). -/
opaque builtinWord : Fin 11 → Nat → Word

/-- A spreading pattern of the array bubbles: whether position b of 64 is withheld at fraction n/64 (R410; entry 7). -/
opaque bubblePattern : Nat → Nat → Bool

/-- The set of a cache slice that a line belongs to, modulo its 8,192 sets (R286; entry 12). -/
opaque cacheSet : Nat → Nat

/-- The bank that the fixed map of R332 gives a physical address, modulo 64, and the sector of a moved channel that stands at an offset
of its quadrant within a substitute region in use, modulo the 2²⁵ of a channel (R342; entry 12). -/
opaque hbmBank : Nat → Nat
opaque regionSector : Nat → Nat

/-- The meter's public key, by 32-bit word (R416, R420; entry 6). -/
opaque meterPubkey : Nat → Word

/-- The 32-byte digest of the meter's legally relevant software after a number of accepted changes (R416, R417;
entry 6). -/
opaque meterDigest : Nat → List Byte

end Sys2Proof.Config
end

