-- ==== Sys2Proof/Machine/Float.lean ====
section
/-! DEFINITION. Exact arithmetic on the element formats of chapter 03 (R72 to R74) and the IEEE 754
operations of the vector engine (R164): every operation is formed exactly and rounded once. -/

namespace Sys2Proof.Machine

/-- The value of an element: (-1)^neg × mant × 2^exp, an infinity, or a NaN (R72). -/
inductive FVal where
  | nan
  | inf (neg : Bool)
  | fin (neg : Bool) (mant : Nat) (exp : Int)
  deriving DecidableEq, Repr

/-- What the all-ones exponent encodes (R72, the Infinity and NaN columns). -/
inductive Special where
  | none | nanOnly | ieee
  deriving DecidableEq, Repr

/-- The shape of a floating format: exponent bits, mantissa bits, bias, special encodings (R72). -/
structure FSpec where
  eb : Nat
  mb : Nat
  bias : Nat
  special : Special
  deriving DecidableEq, Repr

/-- The element formats, in the order of their codes (R132 codes 0 to 8, R170 codes 9 and 10). -/
inductive Fmt where
  | e2m1 | e3m2 | e2m3 | e4m3 | e5m2 | int8 | t2 | bf16 | fp16 | fp32 | int32
  deriving DecidableEq, Repr

/-- A rounding mode with its generator word: to nearest even, or stochastic with draw `r` (R83, R84). -/
inductive Rnd where
  | rne
  | sr (r : Nat)
  deriving DecidableEq, Repr

/-- R170: the format named by a memory format code. -/
def fmtOfCode : Nat → Option Fmt
  | 0 => some .e2m1 | 1 => some .e3m2 | 2 => some .e2m3 | 3 => some .e4m3 | 4 => some .e5m2
  | 5 => some .int8 | 6 => some .t2 | 7 => some .bf16 | 8 => some .fp16 | 9 => some .fp32
  | 10 => some .int32 | _ => none

/-- R72: the width of an element in bits. -/
def fmtWidth : Fmt → Nat
  | .e2m1 => 4 | .e3m2 | .e2m3 => 6 | .e4m3 | .e5m2 | .int8 => 8 | .t2 => 2
  | .bf16 | .fp16 => 16 | .fp32 | .int32 => 32

/-- R72: the floating formats' shapes; `none` for INT8, T2 and INT32. -/
def fmtSpec : Fmt → Option FSpec
  | .fp32 => some ⟨8, 23, 127, .ieee⟩
  | .bf16 => some ⟨8, 7, 127, .ieee⟩
  | .fp16 => some ⟨5, 10, 15, .ieee⟩
  | .e4m3 => some ⟨4, 3, 7, .nanOnly⟩
  | .e5m2 => some ⟨5, 2, 15, .ieee⟩
  | .e3m2 => some ⟨3, 2, 3, .none⟩
  | .e2m3 => some ⟨2, 3, 1, .none⟩
  | .e2m1 => some ⟨2, 1, 1, .none⟩
  | .int8 | .t2 | .int32 => none

def specF32 : FSpec := ⟨8, 23, 127, .ieee⟩
def specBF16 : FSpec := ⟨8, 7, 127, .ieee⟩
def specF16 : FSpec := ⟨5, 10, 15, .ieee⟩

/-- R75: formats narrower than 16 bits are block-scaled. -/
def fmtBlockScaled : Fmt → Bool
  | .bf16 | .fp16 | .fp32 | .int32 => false
  | _ => true

/-- R72: the value that a floating encoding holds. -/
def decodeFloat (s : FSpec) (bits : Nat) : FVal :=
  let m := bits % 2 ^ s.mb
  let e := (bits >>> s.mb) % 2 ^ s.eb
  let neg := (bits >>> (s.mb + s.eb)) % 2 == 1
  let top := e == 2 ^ s.eb - 1
  if top && s.special == .ieee then
    if m == 0 then .inf neg else .nan
  else if top && s.special == .nanOnly && m == 2 ^ s.mb - 1 then .nan
  else if e == 0 then .fin neg m (1 - (s.bias : Int) - s.mb)
  else .fin neg (2 ^ s.mb + m) ((e : Int) - s.bias - s.mb)

/-- Two's complement reading of `w` bits. -/
def signedOf (w bits : Nat) : Int :=
  if bits % 2 ^ w < 2 ^ (w - 1) then ((bits % 2 ^ w : Nat) : Int)
  else ((bits % 2 ^ w : Nat) : Int) - 2 ^ w

def fvalOfInt (i : Int) : FVal := .fin (i < 0) i.natAbs 0

/-- R72, R73, R74, R81: the value of an element. The reserved T2 code 10 has no value; its reader
checks for it first (R74), and here it reads as NaN. -/
def decodeElem (f : Fmt) (bits : Nat) : FVal :=
  match f with
  | .e2m1 =>
      -- R73: code 1000 is -0 and reads as zero
      if bits % 16 == 8 then .fin false 0 0 else decodeFloat ⟨2, 1, 1, .none⟩ bits
  | .int8 => fvalOfInt (signedOf 8 bits)
  | .int32 => fvalOfInt (signedOf 32 bits)
  | .t2 =>
      match bits % 4 with
      | 0 => .fin false 0 0
      | 1 => .fin false 1 0
      | 3 => .fin true 1 0
      | _ => .nan
  | .fp32 => decodeFloat specF32 bits
  | .bf16 => decodeFloat specBF16 bits
  | .fp16 => decodeFloat specF16 bits
  | .e4m3 => decodeFloat ⟨4, 3, 7, .nanOnly⟩ bits
  | .e5m2 => decodeFloat ⟨5, 2, 15, .ieee⟩ bits
  | .e3m2 => decodeFloat ⟨3, 2, 3, .none⟩ bits
  | .e2m3 => decodeFloat ⟨2, 3, 1, .none⟩ bits

/-- m / 2^sh rounded to an integer under the mode: ties to even, or R84 steps 1 to 3. -/
def roundShift (rnd : Rnd) (m sh : Nat) : Nat :=
  let q := m >>> sh
  let rem := m % 2 ^ sh
  match rnd with
  | .rne => if 2 * rem > 2 ^ sh || (2 * rem == 2 ^ sh && sh != 0 && q % 2 == 1) then q + 1 else q
  | .sr r => if (rem * 2 ^ 32) / 2 ^ sh > r then q + 1 else q

/-- m × 2^e as a multiple of 2^q, rounded under the mode. -/
def roundTo (rnd : Rnd) (m : Nat) (e q : Int) : Nat :=
  if q ≤ e then m <<< (e - q).toNat else roundShift rnd m (q - e).toNat

/-- The unit in the last place of the format at m × 2^e, its exponent range unbounded above (R82). -/
def quantum (s : FSpec) (m : Nat) (e : Int) : Int :=
  max (e + (Nat.log2 m : Int) - s.mb) (1 - (s.bias : Int) - s.mb)

/-- The largest finite magnitude of the format, as mantissa and exponent (R72). -/
def maxFinite (s : FSpec) : Nat × Int :=
  match s.special with
  | .ieee => (2 ^ (s.mb + 1) - 1, (2 ^ s.eb : Nat) - 2 - (s.bias : Int) - s.mb)
  | .nanOnly => (2 ^ (s.mb + 1) - 2, (2 ^ s.eb : Nat) - 1 - (s.bias : Int) - s.mb)
  | .none => (2 ^ (s.mb + 1) - 1, (2 ^ s.eb : Nat) - 1 - (s.bias : Int) - s.mb)

/-- m1 × 2^e1 ≤ m2 × 2^e2, exactly. -/
def magLe (m1 : Nat) (e1 : Int) (m2 : Nat) (e2 : Int) : Bool :=
  if e1 ≤ e2 then m1 ≤ m2 <<< (e2 - e1).toNat else m1 <<< (e1 - e2).toNat ≤ m2

/-- The encoding, without its sign, of a representable magnitude m × 2^q. -/
def encodeMag (s : FSpec) (m : Nat) (q : Int) : Nat :=
  if m == 0 then 0
  else
    let l := Nat.log2 m
    let ex := q + (l : Int)
    let emin : Int := 1 - (s.bias : Int)
    if ex < emin then m <<< (q - (emin - s.mb)).toNat
    else
      let field := (ex + s.bias).toNat
      let mant := (m <<< s.mb) >>> l
      (field <<< s.mb) + (mant - 2 ^ s.mb)

def signBit (s : FSpec) (neg : Bool) : Nat := if neg then 2 ^ (s.eb + s.mb) else 0

/-- The all-ones exponent with zero mantissa. -/
def infBits (s : FSpec) : Nat := (2 ^ s.eb - 1) <<< s.mb

/-- R164: 0x7FC0_0000, 0x7FC0 and 0x7E00; R82: the format's quiet NaN (S.1111.111 for E4M3). R72 gives E5M2 three NaN
encodings and names none of them quiet: 0x7E is a DESIGN CHOICE (entry 38). -/
def nanBits (s : FSpec) : Nat :=
  match s.special with
  | .nanOnly => 2 ^ (s.eb + s.mb) - 1
  | _ => infBits s + 2 ^ (s.mb - 1)

/-- R164: a value rounded once into an IEEE format, overflow giving an infinity. -/
def packIeee (s : FSpec) (v : FVal) : Nat :=
  match v with
  | .nan => nanBits s
  | .inf n => signBit s n + infBits s
  | .fin n m e =>
    let q := quantum s m e
    let m' := roundTo .rne m e q
    if m == 0 then signBit s n
    else if magLe m' q (maxFinite s).1 (maxFinite s).2 then signBit s n + encodeMag s m' q
    else signBit s n + infBits s

/-- An FP32 word's value. -/
def f32v (w : Word) : FVal := decodeFloat specF32 w.toNat

/-- A value as an FP32 word, rounded to nearest even. -/
def f32 (v : FVal) : Word := BitVec.ofNat 32 (packIeee specF32 v)

def f32NaN : Word := 0x7FC00000#32
def f32PosInf : Word := 0x7F800000#32
def f32NegInf : Word := 0xFF800000#32
def f32One : Word := 0x3F800000#32

/-- A sum's exact value; an exact cancellation gives +0, the sum of two zeros of one sign keeps it. -/
def fvAdd (a b : FVal) : FVal :=
  match a, b with
  | .nan, _ | _, .nan => .nan
  | .inf x, .inf y => if x == y then .inf x else .nan
  | .inf x, .fin .. => .inf x
  | .fin .., .inf y => .inf y
  | .fin n1 m1 e1, .fin n2 m2 e2 =>
    let e := min e1 e2
    let i1 : Int := (m1 <<< (e1 - e).toNat : Nat)
    let i2 : Int := (m2 <<< (e2 - e).toNat : Nat)
    let s := (if n1 then -i1 else i1) + (if n2 then -i2 else i2)
    if s == 0 then .fin (n1 && n2) 0 e else .fin (s < 0) s.natAbs e

def fvNeg : FVal → FVal
  | .nan => .nan
  | .inf n => .inf (!n)
  | .fin n m e => .fin (!n) m e

def fvAbs : FVal → FVal
  | .nan => .nan
  | .inf _ => .inf false
  | .fin _ m e => .fin false m e

/-- A product's exact value; infinity times zero is NaN. -/
def fvMul (a b : FVal) : FVal :=
  match a, b with
  | .nan, _ | _, .nan => .nan
  | .inf x, .inf y => .inf (x != y)
  | .inf x, .fin n m _ => if m == 0 then .nan else .inf (x != n)
  | .fin n m _, .inf y => if m == 0 then .nan else .inf (n != y)
  | .fin n1 m1 e1, .fin n2 m2 e2 => .fin (n1 != n2) (m1 * m2) (e1 + e2)

/-- A quotient carried to at least 60 bits with the discarded part folded into the last bit, so that
one rounding to any format of at most 24 significand bits is the rounding of the exact quotient. -/
def fvDiv (a b : FVal) : FVal :=
  match a, b with
  | .nan, _ | _, .nan => .nan
  | .inf _, .inf _ => .nan
  | .inf x, .fin n _ _ => .inf (x != n)
  | .fin n _ _, .inf y => .fin (n != y) 0 0
  | .fin n1 m1 e1, .fin n2 m2 e2 =>
    if m2 == 0 then (if m1 == 0 then .nan else .inf (n1 != n2))
    else
      let sh := 60 + Nat.log2 m2
      let num := m1 <<< sh
      let q := num / m2
      let sticky := if num % m2 == 0 then 0 else 1
      .fin (n1 != n2) (2 * q + sticky) (e1 - e2 - sh - 1)

/-- Exact order of two numbers; `none` when either is NaN. Zeros of both signs are equal. -/
def fvCmp (a b : FVal) : Option Ordering :=
  match a, b with
  | .nan, _ | _, .nan => none
  | .inf x, .inf y => some (if x == y then .eq else if x then .lt else .gt)
  | .inf x, .fin .. => some (if x then .lt else .gt)
  | .fin .., .inf y => some (if y then .gt else .lt)
  | .fin n1 m1 e1, .fin n2 m2 e2 =>
    let e := min e1 e2
    let i1 : Int := (m1 <<< (e1 - e).toNat : Nat)
    let i2 : Int := (m2 <<< (e2 - e).toNat : Nat)
    some (compare (if n1 then -i1 else i1) (if n2 then -i2 else i2))

def fvLt (a b : FVal) : Bool := fvCmp a b == some .lt
def fvLe (a b : FVal) : Bool := fvCmp a b == some .lt || fvCmp a b == some .eq
def fvIsNaN : FVal → Bool
  | .nan => true
  | _ => false
def fvIsZero : FVal → Bool
  | .fin _ m _ => m == 0
  | _ => false
def fvNegative : FVal → Bool
  | .nan => false
  | .inf n => n
  | .fin n _ _ => n

/-- R164: IEEE 754-2019 minimum: NaN wins, -0 is less than +0. -/
def fvMin (a b : FVal) : FVal :=
  match fvCmp a b with
  | none => .nan
  | some .lt => a
  | some .gt => b
  | some .eq => if fvNegative a then a else b

/-- R164: IEEE 754-2019 maximum. -/
def fvMax (a b : FVal) : FVal :=
  match fvCmp a b with
  | none => .nan
  | some .gt => a
  | some .lt => b
  | some .eq => if fvNegative a then b else a

/-- The FP32 operations of R164, each with one rounding to nearest even. -/
def f32Add (a b : Word) : Word := f32 (fvAdd (f32v a) (f32v b))
def f32Sub (a b : Word) : Word := f32 (fvAdd (f32v a) (fvNeg (f32v b)))
def f32Mul (a b : Word) : Word := f32 (fvMul (f32v a) (f32v b))
def f32Fma (a b c : Word) : Word := f32 (fvAdd (fvMul (f32v a) (f32v b)) (f32v c))
def f32Div (a b : Word) : Word := f32 (fvDiv (f32v a) (f32v b))
def f32Min (a b : Word) : Word := f32 (fvMin (f32v a) (f32v b))
def f32Max (a b : Word) : Word := f32 (fvMax (f32v a) (f32v b))
def f32Neg (a : Word) : Word := f32 (fvNeg (f32v a))
def f32OfNat (n : Nat) : Word := f32 (.fin false n 0)
def f32Lt (a b : Word) : Bool := fvLt (f32v a) (f32v b)
def f32Le (a b : Word) : Bool := fvLe (f32v a) (f32v b)
def f32IsNaN (a : Word) : Bool := fvIsNaN (f32v a)

/-- R77: a tensor scale must be positive, finite and normal. -/
def tscaleOk (t : Word) : Bool :=
  let e := (t.toNat >>> 23) % 256
  t.toNat < 2 ^ 31 && e != 0 && e != 255

/-- R173: FP32 to INT32, to nearest even, limited to the range, NaN giving 0. -/
def f32ToInt32 (w : Word) : Word :=
  match f32v w with
  | .nan => 0
  | .inf n => if n then 0x80000000#32 else 0x7FFFFFFF#32
  | .fin n m e =>
    let r := roundTo .rne m e 0
    if n then (if r ≥ 2 ^ 31 then 0x80000000#32 else BitVec.ofInt 32 (-(r : Int)))
    else (if r ≥ 2 ^ 31 then 0x7FFFFFFF#32 else BitVec.ofNat 32 r)

/-- R173: INT32 to FP32, to nearest even. -/
def int32ToF32 (w : Word) : Word := f32 (fvalOfInt w.toInt)

end Sys2Proof.Machine
end

