-- ==== Sys2Proof/Machine/Format.lean ====
section
/-! DEFINITION. Block scaling, narrowing casts, stochastic rounding's generator, K-block promotion
and OCP Microscaling interchange (chapter 03). -/

namespace Sys2Proof.Machine

/-- Bytes, least significant first, as one number. -/
def natOfBytes : List Byte → Nat
  | [] => 0
  | b :: bs => b.toNat + 256 * natOfBytes bs

/-- The low `n` bytes of a number, least significant first. -/
def bytesOfNat : Nat → Nat → List Byte
  | 0, _ => []
  | n + 1, v => BitVec.ofNat 8 v :: bytesOfNat n (v / 256)

/-- R78: elements packed from bit 0 upwards, `w` bits each. -/
def packBits (w : Nat) : List Nat → Nat
  | [] => 0
  | c :: cs => c % 2 ^ w + 2 ^ w * packBits w cs

/-- R78: the first `n` elements of a bit string. -/
def unpackBits (w : Nat) : Nat → Nat → List Nat
  | 0, _ => []
  | n + 1, v => v % 2 ^ w :: unpackBits w n (v / 2 ^ w)

def roundUp (n k : Nat) : Nat := (n + k - 1) / k * k

/-- R78: bytes of one 32-element block. -/
def blockBytes (f : Fmt) : Nat := 4 * fmtWidth f

/-- R78: the parts of a block row, as byte offsets from its start, and its size. -/
structure RowLayout where
  header : Nat
  scales : Nat
  slots : Nat
  ext : Nat
  size : Nat
  deriving DecidableEq, Repr

/-- R78: promotion header (when P > 0), scale bytes, element slots, extension slots (when P > 0). -/
def rowLayout (f : Fmt) (kb p : Nat) : RowLayout :=
  let h := if p > 0 then (kb + 511) / 512 * 64 else 0
  let s := h + roundUp kb 64
  let e := s + roundUp (kb * blockBytes f) 64
  let x := if p > 0 then roundUp (p * 16) 64 else 0
  ⟨0, h, s, e, e + x⟩

/-- R76: the value of an S8 byte, as mantissa and exponent: (4 + MAN) × 2^(EXP - 38). -/
def s8Value (code : Nat) : Nat × Int := (4 + code % 4, (code / 4 : Nat) - 38)

/-- R76: codes 0xFC to 0xFF are invalid. -/
def s8Valid (code : Nat) : Bool := code < 0xFC

/-- The least `n` < 2^k with `p n`, for a `p` that stays true once true. -/
def leastBelow (p : Nat → Bool) : Nat → Nat → Nat
  | 0, acc => acc
  | k + 1, acc => if p (acc + 2 ^ k - 1) then leastBelow p k acc else leastBelow p k (acc + 2 ^ k)

/-- R79: E_max, as mantissa and exponent; T2 does not use it. -/
def eMax : Fmt → Nat × Int
  | .e4m3 => (448, 0) | .e5m2 => (57344, 0) | .e3m2 => (28, 0) | .e2m3 => (15, -1)
  | .e2m1 => (6, 0) | .int8 => (127, 0) | _ => (1, 0)

/-- R79 step 3: the smallest S8 code whose value is at least amax / E_max, and whether it saturates. -/
def chooseS8 (f : Fmt) (amax : FVal) : Nat × Bool :=
  match amax with
  | .nan => (0, false)
  | .inf _ => (0xFB, true)
  | .fin _ m e =>
    let em := eMax f
    let c := leastBelow (fun code =>
      let s := s8Value code
      magLe m e (s.1 * em.1) (s.2 + em.2)) 8 0
    if c ≥ 0xFC then (0xFB, true) else (c, false)

/-- The largest magnitude among finite and infinite values, NaN left out (R79 step 2). -/
def amaxOf : List FVal → FVal
  | [] => .fin false 0 0
  | .nan :: vs => amaxOf vs
  | v :: vs => fvMax (fvAbs v) (amaxOf vs)

/-- The sum of the finite magnitudes and their number (R80). -/
def finiteSum : List FVal → FVal × Nat
  | [] => (.fin false 0 0, 0)
  | .fin _ m e :: vs => let r := finiteSum vs; (fvAdd (.fin false m e) r.1, r.2 + 1)
  | _ :: vs => finiteSum vs

/-- R80: the S8 code nearest to sum / n, a tie going to the lower code, and whether it saturates. -/
def chooseS8T2 (vs : List FVal) : Nat × Bool :=
  match finiteSum vs with
  | (.fin _ m e, n) =>
    if n == 0 || m == 0 then (0, false)
    -- a mean above 1.75 × 2^26 saturates
    else if !magLe m e (n * 7) 24 then (0xFB, true)
    else
      -- the smallest code whose value is at least the mean, then its neighbour below if nearer or tied
      let c := leastBelow (fun code => let s := s8Value code; magLe m e (n * s.1) s.2) 8 0
      if c == 0 then (0, false)
      else
        let lo := s8Value (c - 1)
        let hi := s8Value c
        -- mean - lo ≤ hi - mean  iff  2 × sum ≤ n × (lo + hi)
        let mid := fvAdd (.fin false lo.1 lo.2) (.fin false hi.1 hi.2)
        match mid with
        | .fin _ mm me => if magLe (2 * m) e (n * mm) me then (c - 1, false) else (c, false)
        | _ => (c, false)
  | _ => (0, false)

/-- One narrowed element: its encoding and what R82 counts or poisons. -/
structure CastRes where
  bits : Nat
  clip : Bool
  under : Bool
  poison : Bool
  deriving DecidableEq, Repr

/-- R82 to R84: one value narrowed into a format. FP32 and INT32 are no narrow formats and are packed
under R164 and R173. -/
def castElem (f : Fmt) (rnd : Rnd) (v : FVal) : CastRes :=
  match f with
  | .int32 => ⟨(f32ToInt32 (f32 v)).toNat, false, false, false⟩
  | .fp32 => ⟨packIeee specF32 v, false, false, false⟩
  | .int8 =>
    match v with
    | .nan => ⟨0, false, false, true⟩
    | .inf n => ⟨if n then 129 else 127, true, false, false⟩
    | .fin n m e =>
      let r := roundTo rnd m e 0
      if r > 127 then ⟨if n then 129 else 127, true, false, false⟩
      else ⟨if n then (256 - r) % 256 else r, false, m != 0 && r == 0, false⟩
  | .t2 =>
    match v with
    | .nan => ⟨0, false, false, true⟩
    | .inf n => ⟨if n then 3 else 1, true, false, false⟩
    | .fin n m e =>
      if !magLe m e 3 (-1) then ⟨if n then 3 else 1, true, false, false⟩
      else
        let r := min 1 (roundTo rnd m e 0)
        ⟨if r == 0 then 0 else if n then 3 else 1, false, m != 0 && r == 0, false⟩
  | _ =>
    match fmtSpec f with
    | none => ⟨0, false, false, false⟩
    | some s =>
      let mx := maxFinite s
      match v with
      | .nan => if s.special == .none then ⟨0, false, false, true⟩ else ⟨nanBits s, false, false, false⟩
      | .inf n =>
        if s.special == .ieee then ⟨signBit s n + infBits s, false, false, false⟩
        else ⟨signBit s n + encodeMag s mx.1 mx.2, true, false, false⟩
      | .fin n m e =>
        if m == 0 then ⟨signBit s n, false, false, false⟩
        else
          let q := quantum s m e
          let m' := roundTo rnd m e q
          if magLe m' q mx.1 mx.2 then ⟨signBit s n + encodeMag s m' q, false, m' == 0, false⟩
          else ⟨signBit s n + encodeMag s mx.1 mx.2, true, false, false⟩

/-- One block cast: the scale byte, the element codes and the counts of R89. -/
structure BlockCast where
  scale : Nat
  codes : List Nat
  clips : Nat
  unders : Nat
  sat : Bool
  poison : Bool
  deriving DecidableEq, Repr

def countTrue (bs : List Bool) : Nat := (bs.filter id).length

/-- Elements of a block rounded as x × r (R79 step 4): the exact product, rounded once. -/
def castScaled (f : Fmt) (r : FVal) (rnds : List Rnd) (xs : List FVal) : List CastRes :=
  (xs.zip rnds).map fun p => castElem f p.2 (fvMul p.1 r)

/-- R79, R80, R81: 32 source values cast into a block-scaled format with tensor scale `t`. Where 1/(t × S) leaves FP32's
range, which the spec does not speak of, the rounded reciprocal is an infinity or 0, and a zero source value times an infinity
is NaN (DESIGN CHOICE, entry 38). -/
def castBlock (f : Fmt) (t : Word) (rnds : List Rnd) (xs : List Word) : BlockCast :=
  let rt := f32v (f32Div f32One t)
  let prods := xs.map fun x => f32v (f32 (fvMul (f32v x) rt))
  let sc := if f == .t2 then chooseS8T2 prods else chooseS8 f (amaxOf prods)
  let s := s8Value sc.1
  let recip := f32v (f32 (fvDiv (.fin false 1 0) (fvMul (f32v t) (.fin false s.1 s.2))))
  let rs := castScaled f recip rnds (xs.map f32v)
  ⟨sc.1, rs.map (·.bits), countTrue (rs.map (·.clip)), countTrue (rs.map (·.under)), sc.2,
    (rs.map (·.poison)).any id⟩

/-- The error and signal sums of R91, FP32 in element order. -/
def promoSums (s : FVal) : List Nat → List Word → Word → Word → Word × Word
  | q :: qs, x :: xs, err, sig =>
    let d := f32Sub (f32 (fvMul (decodeElem .e2m1 q) s)) x
    promoSums s qs xs (f32Add err (f32Mul d d)) (f32Add sig (f32Mul x x))
  | _, _, err, sig => (err, sig)

/-- What a stored FP4 block of a row with promotion capacity is (R91). -/
structure PromoCast where
  cast : BlockCast
  promoted : Bool
  overCeiling : Bool
  deriving DecidableEq, Repr

/-- R91 for one block: `room` says whether the row has promoted fewer than P blocks. -/
def castPromo (p : Nat) (room : Bool) (qerr t : Word) (rnds : List Rnd) (xs : List Word) : PromoCast :=
  let c4 := castBlock .e2m1 t rnds xs
  if p == 0 then ⟨c4, false, false⟩
  else
    let rt := f32Div f32One t
    let s := s8Value c4.scale
    let sums := promoSums (.fin false s.1 s.2) c4.codes (xs.map fun x => f32Mul x rt) 0 0
    let bad := f32Lt 0 sums.2 && f32Lt (f32Mul (f32Mul qerr qerr) sums.2) sums.1
    if bad then
      if room then ⟨castBlock .e4m3 t rnds xs, true, false⟩ else ⟨c4, false, true⟩
    else ⟨c4, false, false⟩

/-- R92: the element slot of a promoted block holds bits [7:4] of each E4M3 code. -/
def promoSlot (codes : List Nat) : List Nat := codes.map (· / 16)
/-- R92: its extension slot holds bits [3:0]. -/
def promoExt (codes : List Nat) : List Nat := codes.map (· % 16)

/-- One element read back: element × S × TSCALE, the product with TSCALE rounded once (R75, R180). -/
def dequant (f : Fmt) (bits scale : Nat) (t : Word) : Word :=
  let s := s8Value scale
  f32 (fvMul (fvMul (decodeElem f bits) (.fin false s.1 s.2)) (f32v t))

/-! ## Philox-4×32-10 (R85) -/

/-- One round of Philox-4×32: the counter words under key words k0 and k1. -/
def philoxRound (k0 k1 c0 c1 c2 c3 : Nat) : Nat × Nat × Nat × Nat :=
  let p0 := 0xD2511F53 * c0
  let p1 := 0xCD9E8D57 * c2
  ((p1 / 2 ^ 32) ^^^ c1 ^^^ k0, p1 % 2 ^ 32, (p0 / 2 ^ 32) ^^^ c3 ^^^ k1, p0 % 2 ^ 32)

/-- `n` rounds, the key bumped by the Weyl constants between rounds. -/
def philoxRounds : Nat → Nat → Nat → Nat → Nat → Nat → Nat → List Nat
  | 0, _, _, c0, c1, c2, c3 => [c0, c1, c2, c3]
  | n + 1, k0, k1, c0, c1, c2, c3 =>
    let r := philoxRound k0 k1 c0 c1 c2 c3
    philoxRounds n ((k0 + 0x9E3779B9) % 2 ^ 32) ((k1 + 0xBB67AE85) % 2 ^ 32) r.1 r.2.1 r.2.2.1 r.2.2.2

/-- R85 and R190: the word that element `n` draws; `c3` is 0x5352_0000 for stochastic rounding and
0x524E_0000 plus the draw number for RND. -/
def philoxWord (seed tensor step n c3 : Nat) : Nat :=
  let out := philoxRounds 10 (seed % 2 ^ 32) (seed / 2 ^ 32 % 2 ^ 32)
    (n / 4 % 2 ^ 32) ((tensor % 2 ^ 16) * 2 ^ 14 + n / 2 ^ 34 % 2 ^ 14) (step % 2 ^ 32) c3
  out.getD (n % 4) 0

/-- The rounding mode of one element of a cast: stochastic draws by R85. -/
def drawRnd (stoch : Bool) (seed tensor step n : Nat) : Rnd :=
  if stoch then .sr (philoxWord seed tensor step n 0x53520000) else .rne

/-! ## OCP Microscaling (R104, R105) -/

/-- R104: an E8M0 scale loaded as S8; `none` for the NaN code 255. The flags: limited to 0x00, to 0xFB. -/
def mxToS8 (x : Nat) : Option (Nat × Bool × Bool) :=
  if x == 255 then none
  else if x ≤ 90 then some (0, true, false)
  else if x ≤ 153 then some (4 * (x - 91), false, false)
  else some (0xFB, false, true)

/-- R105: emax of the MX v1.0 scale rule. -/
def mxEmax : Fmt → Int
  | .e2m1 => 2 | .e3m2 => 4 | .e2m3 => 2 | .e4m3 => 8 | .e5m2 => 15 | _ => 0

/-- R105: the E8M0 exponent of a block cast from wide values: ⌊log2 amax⌋ - emax, kept in 0 to 254.
The clamp at the ends is MX v1.0's own range; the code 0 of a block whose amax is 0, and the code 254 of one whose amax is
infinite, are DESIGN CHOICES (entry 38). -/
def mxScale (f : Fmt) (xs : List FVal) : Nat :=
  match amaxOf xs with
  | .fin _ m e => if m == 0 then 0 else (min 254 (max 0 (e + (Nat.log2 m : Int) - mxEmax f + 127))).toNat
  | _ => 254

/-- R105: 32 values cast into an MX block. The destination's TSCALE does not divide them: MX has no tensor scale, and R105
does not say (DESIGN CHOICE, entry 38). -/
def castMxBlock (f : Fmt) (rnds : List Rnd) (xs : List FVal) : BlockCast :=
  let x := mxScale f xs
  let rs := castScaled f (.fin false 1 (127 - (x : Int))) rnds xs
  ⟨x, rs.map (·.bits), countTrue (rs.map (·.clip)), countTrue (rs.map (·.under)), false,
    (rs.map (·.poison)).any id⟩

/-- R105: a stored S8 scale that has an exact E8M0 code (its MAN is 0). -/
def s8ToMx (code : Nat) : Option Nat := if code % 4 == 0 && s8Valid code then some (code / 4 + 91) else none

/-! ## Array arithmetic (R96 to R102) -/

/-- R102: whether the array accepts a pair. -/
def pairOk (a b : Fmt) : Bool :=
  let fp (f : Fmt) := f == .e2m1 || f == .e3m2 || f == .e2m3 || f == .e4m3 || f == .e5m2
  (fp a && fp b) || (a == .int8 && b == .int8) || (a == .t2 && fp b) || (fp a && b == .t2) ||
    (a == .bf16 && b == .bf16) || (a == .fp16 && b == .fp16)

/-- R96: array beats per K-block of an accepted pair, `promoted` after R94. -/
def beatsPerBlock (a b : Fmt) (promoted : Bool) : Nat :=
  match a, b with
  | .e2m1, .e2m1 => if promoted then 32 else 16
  | .t2, .e2m1 | .e2m1, .t2 => if promoted then 32 else 8
  | .bf16, _ | .fp16, _ => 128
  | _, _ => 32

/-- The block-level result of 32 products (R97 step 1, R101). -/
def blockSum : List (FVal × FVal) → FVal
  | [] => .fin false 0 0
  | (a, b) :: ps => fvAdd (fvMul a b) (blockSum ps)

/-- R97 steps 2 and 3, R100: the scaled block sum added to the accumulator with one rounding; an
exactly zero block leaves the accumulator as it is. -/
def accumBlock (acc : Word) (sum : FVal) (sa sb : Nat) : Word :=
  if fvIsZero sum then acc
  else
    let va := s8Value sa
    let vb := s8Value sb
    f32 (fvAdd (f32v acc) (fvMul sum (.fin false (va.1 * vb.1) (va.2 + vb.2))))

/-- R98: the BF16 or FP16 products of a K-block, each added with one rounding in ascending K. A K-block whose products are all
zero leaves the accumulator unchanged (R100; that the rule's zero sum is one of zero products here is DEDUCED, entry 39). -/
def accumWide (acc : Word) (ps : List (FVal × FVal)) : Word :=
  if ps.all (fun p => fvIsZero (fvMul p.1 p.2)) then acc
  else ps.foldl (fun acc p => f32 (fvAdd (f32v acc) (fvMul p.1 p.2))) acc

end Sys2Proof.Machine
end

