-- ==== Sys2Proof/Machine/RegMap.lean ====
section
/-! DEFINITION. The control-space map: block ids and types (R48), pages (R14, R49, R310, R318, R374, R375, R398,
R399, R420, R441, R471) and, for each kind of page, the registers the chapters list, with access type, reset value
and the bits that a write sets. Offsets and resets follow the register tables of the rules each list names. -/

namespace Sys2Proof.Machine
open Sys2Proof

/-! ## Blocks (R48) -/

def TileUnit.index : TileUnit → Nat
  | .tl => 0 | .sqc => 1 | .vec => 2 | .ftb => 3 | .mnt => 4 | .tmem => 5 | .dmv => 6 | .scrb => 7 | .stat => 8
  | .que => 9

def tileUnits : List TileUnit := [.tl, .sqc, .vec, .ftb, .mnt, .tmem, .dmv, .scrb, .stat, .que]

/-- The block id of R48. -/
def blockId : Block → Nat
  | .dev => 0x001 | .own => 0x002 | .rot => 0x010 | .flt => 0x020 | .pwr => 0x030 | .mtr => 0x040
  | .hbm s => 0x080 + s.val | .gwp p => 0x090 + p.val | .cam h => 0x0F0 + h.val
  | .qdsp q => 0x100 + 16 * q.val | .qstat q => 0x101 + 16 * q.val | .srv q => 0x102 + 16 * q.val
  | .qque q => 0x103 + 16 * q.val
  | .tile t u => 0x400 + 16 * t.val + TileUnit.index u

/-- PG_ID.TYPE (R48). -/
def blockType : Block → Nat
  | .dev => 0x001 | .own => 0x002 | .rot => 0x010 | .flt => 0x020 | .pwr => 0x030 | .mtr => 0x040
  | .hbm _ => 0x080 | .gwp _ => 0x090 | .cam _ => 0x0F0
  | .qdsp _ => 0x100 | .qstat _ => 0x101 | .srv _ => 0x102 | .qque _ => 0x103
  | .tile _ u => 0x400 + TileUnit.index u

/-- PG_CAPS.DRAINABLE (R531). -/
def drainable : Block → Bool
  | .dev => false | .own => false | .flt => false | .mtr => false
  | .rot => true | .pwr => true | .hbm _ => true | .gwp _ => true | .cam _ => true | .qdsp _ => true
  | .qstat _ => true | .srv _ => true | .qque _ => true
  | .tile _ .que => false
  | .tile _ _ => true

/-- PG_CAPS.LOCKABLE (R531). -/
def lockable : Block → Bool
  | .gwp _ => true | .cam _ => true | .srv _ => true
  | .tile _ .sqc => true | .tile _ .vec => true | .tile _ .ftb => true | .tile _ .mnt => true
  | .tile _ .dmv => true
  | _ => false

/-- PG_CAPS.STAGED: the block holds RWS registers (R48). -/
def hasStaged : Block → Bool
  | .dev => true | .pwr => true | .hbm _ => true | .gwp _ => true | .cam _ => true | .srv _ => true
  | .tile _ .tl => true | .tile _ .sqc => true | .tile _ .vec => true | .tile _ .ftb => true
  | .tile _ .mnt => true | .tile _ .dmv => true | .tile _ .scrb => true
  | _ => false

def allTiles : List TileId := List.finRange 64
def allQuads : List QuadId := List.finRange 4
def allPorts : List PortId := List.finRange 24
def allStacks : List StackId := List.finRange 8
def allHosts : List HostId := List.finRange 2

/-- Every block, in the order of its id. -/
def allBlocks : List Block :=
  [.dev, .own, .rot, .flt, .pwr, .mtr] ++ allStacks.map .hbm ++ allPorts.map .gwp ++ allHosts.map .cam ++
  allQuads.flatMap (fun q => [.qdsp q, .qstat q, .srv q, .qque q]) ++
  allTiles.flatMap (fun t => tileUnits.map (Block.tile t))

/-- The ten blocks of a tile, in id order. -/
def tileUnitOf (n : Nat) : Option TileUnit := tileUnits[n]?

/-- The block that an id names, if any. -/
def blockOfId (n : Nat) : Option Block :=
  if n = 0x001 then some .dev else if n = 0x002 then some .own else if n = 0x010 then some .rot
  else if n = 0x020 then some .flt else if n = 0x030 then some .pwr else if n = 0x040 then some .mtr
  else if h : 0x080 ≤ n ∧ n < 0x088 then some (.hbm ⟨n - 0x080, by omega⟩)
  else if h : 0x090 ≤ n ∧ n < 0x0A8 then some (.gwp ⟨n - 0x090, by omega⟩)
  else if h : 0x0F0 ≤ n ∧ n < 0x0F2 then some (.cam ⟨n - 0x0F0, by omega⟩)
  else if h : 0x100 ≤ n ∧ n < 0x140 then
    let q : QuadId := ⟨(n - 0x100) / 16, by omega⟩
    match (n - 0x100) % 16 with
    | 0 => some (.qdsp q) | 1 => some (.qstat q) | 2 => some (.srv q) | 3 => some (.qque q) | _ => none
  else if h : 0x400 ≤ n ∧ n < 0x800 then
    (tileUnitOf ((n - 0x400) % 16)).map (Block.tile ⟨(n - 0x400) / 16, by omega⟩)
  else none

/-! ## Tiles and quadrants (R12, R14, R15) -/

/-- The quadrant of a tile (R12). -/
def quadOf (t : TileId) : QuadId := ⟨2 * (t.val / 8 / 4) + t.val % 8 / 4, by omega⟩

/-- The head tile of a quadrant (R12): its north-west tile. -/
def headTile (q : QuadId) : TileId := ⟨32 * (q.val / 2) + 4 * (q.val % 2), by omega⟩

/-- A quadrant's tiles in row-major order: its k-th tile (R308). -/
def quadTile (q : QuadId) (k : Fin 16) : TileId :=
  ⟨32 * (q.val / 2) + 4 * (q.val % 2) + 8 * (k.val / 4) + k.val % 4, by omega⟩

/-- The position of a tile in its quadrant. -/
def quadPos (t : TileId) : Fin 16 := ⟨4 * (t.val / 8 % 4) + t.val % 4, by omega⟩

def quadTiles (q : QuadId) : List TileId := (List.finRange 16).map (quadTile q)

/-- Stack s belongs to quadrant s / 2; port p to quadrant p / 6 (R15). -/
def quadOfStack (s : StackId) : QuadId := ⟨s.val / 2, by omega⟩
def quadOfPort (p : PortId) : QuadId := ⟨p.val / 6, by omega⟩

/-! ## Pages -/

/-- The kinds of control page: each has one register list. -/
inductive PageKind where
  | dev | own | rot | rotSlot | flt | fltQue | pwr | mtr | mtrWin
  | hbm | phy | gwp | fab | cam | camSess | qdsp | qstat | srv | subQue | compQue
  | tl | sqc | vec | vec2 | ftb | mnt | tmem | dmv | scrb | tstat | tileQue | hdrOnly
  deriving DecidableEq, Repr

/-- A page: its block, its index within the block, and its kind. -/
structure PageRef where
  block : Block
  index : Nat
  kind : PageKind
  deriving DecidableEq, Repr

/-- The page at a control-space page number (address / 4096), if the map lists one (R49). -/
def pageAt (n : Nat) : Option PageRef :=
  if n = 0 then some ⟨.dev, 0, .dev⟩
  else if n = 1 then some ⟨.own, 0, .own⟩
  else if 0x10 ≤ n ∧ n < 0x20 then
    some ⟨.rot, n - 0x10, if n = 0x10 then .rot else if n ≤ 0x13 then .rotSlot else .hdrOnly⟩
  else if n = 0x20 then some ⟨.flt, 0, .flt⟩
  else if n = 0x21 then some ⟨.flt, 1, .fltQue⟩
  else if n = 0x30 then some ⟨.pwr, 0, .pwr⟩
  else if n = 0x40 then some ⟨.mtr, 0, .mtr⟩
  else if 0x41 ≤ n ∧ n < 0x45 then some ⟨.mtr, n - 0x40, .mtrWin⟩
  else if h : 0x80 ≤ n ∧ n < 0x90 then
    some ⟨.hbm ⟨(n - 0x80) / 2, by omega⟩, n % 2, if n % 2 = 0 then .hbm else .phy⟩
  else if h : 0x90 ≤ n ∧ n < 0xF0 then
    let p : PortId := ⟨(n - 0x90) / 4, by omega⟩
    match n % 4 with
    | 0 => some ⟨.gwp p, 0, .gwp⟩ | 2 => some ⟨.gwp p, 2, .fab⟩ | _ => none
  else if h : 0xF0 ≤ n ∧ n < 0xF8 then
    let p : HostId := ⟨(n - 0xF0) / 4, by omega⟩
    match n % 4 with
    | 0 => some ⟨.cam p, 0, .cam⟩ | 1 => some ⟨.cam p, 1, .camSess⟩ | _ => none
  else if h : 0x100 ≤ n ∧ n < 0x200 then
    let q : QuadId := ⟨(n - 0x100) / 0x40, by omega⟩
    let k := n % 0x40
    if k = 0 then some ⟨.qdsp q, 0, .qdsp⟩
    else if k = 1 then some ⟨.qstat q, 0, .qstat⟩
    else if k = 2 then some ⟨.srv q, 0, .srv⟩
    else if 0x08 ≤ k ∧ k < 0x18 then some ⟨.qque q, k - 0x08, .subQue⟩
    else if 0x18 ≤ k ∧ k < 0x28 then some ⟨.qque q, k - 0x08, .compQue⟩
    else none
  else if h : 0x1000 ≤ n ∧ n < 0x2000 then
    let t : TileId := ⟨(n - 0x1000) / 0x40, by omega⟩
    match n % 0x40 with
    | 0 => some ⟨.tile t .tl, 0, .tl⟩ | 1 => some ⟨.tile t .sqc, 0, .sqc⟩
    | 2 => some ⟨.tile t .vec, 0, .vec⟩ | 3 => some ⟨.tile t .vec, 1, .vec2⟩
    | 4 => some ⟨.tile t .ftb, 0, .ftb⟩ | 5 => some ⟨.tile t .mnt, 0, .mnt⟩
    | 6 => some ⟨.tile t .tmem, 0, .tmem⟩ | 7 => some ⟨.tile t .dmv, 0, .dmv⟩
    | 8 => some ⟨.tile t .scrb, 0, .scrb⟩ | 9 => some ⟨.tile t .stat, 0, .tstat⟩
    | 10 => some ⟨.tile t .que, 0, .tileQue⟩ | 11 => some ⟨.tile t .que, 1, .tileQue⟩
    | _ => none
  else none

/-- A secure page (R50): mailbox pages 1 to 15. -/
def PageRef.secure (p : PageRef) : Bool := p.block == .rot && decide (0 < p.index)

/-- The byte address of a block's page (R14, R49). -/
def pageBase (b : Block) (index : Nat) : Nat :=
  0x1000 * match b with
  | .dev => 0 | .own => 1 | .rot => 0x10 + index | .flt => 0x20 + index | .pwr => 0x30 | .mtr => 0x40 + index
  | .hbm s => 0x80 + 2 * s.val + index | .gwp p => 0x90 + 4 * p.val + index | .cam h => 0xF0 + 4 * h.val + index
  | .qdsp q => 0x100 + 0x40 * q.val | .qstat q => 0x101 + 0x40 * q.val | .srv q => 0x102 + 0x40 * q.val
  | .qque q => 0x108 + 0x40 * q.val + index
  | .tile t u => 0x1000 + 0x40 * t.val +
      match u with
      | .tl => 0 | .sqc => 1 | .vec => 2 + index | .ftb => 4 | .mnt => 5 | .tmem => 6 | .dmv => 7 | .scrb => 8
      | .stat => 9 | .que => 10 + index

/-- The pages of a block. -/
def pagesOf (b : Block) : List Nat :=
  match b with
  | .rot => List.range 16 | .flt => [0, 1] | .mtr => [0, 1, 2, 3, 4] | .hbm _ => [0, 1] | .gwp _ => [0, 2]
  | .cam _ => [0, 1] | .qque _ => List.range 32 | .tile _ .vec => [0, 1] | .tile _ .que => [0, 1]
  | _ => [0]

/-! ## Registers -/

/-- Access types (R45); `mixed` registers give their fields different types. -/
inductive Acc where
  | ro | rw | rws | w1c | w1s | wo | pop | mixed
  deriving DecidableEq, Repr

/-- A row of a register table: `count` registers from `off`, `stride` bytes apart; 64-bit or 32-bit; reset; bits that
an RW or RWS write sets. -/
structure RegRow where
  off : Nat
  count : Nat
  stride : Nat
  wide : Bool
  acc : Acc
  reset : Nat
  mask : Nat
  deriving DecidableEq, Repr

/-! ### Offsets -/

def Off.devGenCommit : Nat := 0x80
def Off.devGenStat : Nat := 0x84
def Off.devBootStat : Nat := 0xA0
def Off.devSelftest : Nat := 0xA4
def Off.devSelftestStat : Nat := 0xA8
def Off.devPtRoot : Nat := 0xC0
def Off.devPtInval : Nat := 0xE0
def Off.devClaim : Nat := 0x80
def Off.devOwner : Nat := 0x84
def Off.devHandover : Nat := 0x88
def Off.devDeniedCnt : Nat := 0x8C
def Off.devReset : Nat := 0x90
def Off.devResetStat : Nat := 0x94
def Off.rotStat : Nat := 0x80
def Off.rotLc : Nat := 0x84
def Off.rotPart : Nat := 0x88
def Off.rotChallenge : Nat := 0x90
def Off.rotAuditIdx : Nat := 0xA0
def Off.rotRsp : Nat := 0xC0
def Off.rotRspData : Nat := 0x200
def Off.rotSubmit : Nat := 0x780
def Off.fltStat : Nat := 0x80
def Off.fltLogPop : Nat := 0x84
def Off.fltLog1 : Nat := 0x88
def Off.fltLog2 : Nat := 0x8C
def Off.fltLog3 : Nat := 0x90
def Off.fltIrqMask : Nat := 0x94
def Off.fltWedged : Nat := 0x98
def Off.fltUnrevoked : Nat := 0x9C
def Off.fltInject : Nat := 0xA0
def Off.fltInjectAddr : Nat := 0xA8
def Off.fltFatalRec : Nat := 0xB0
def Off.fltCntClr : Nat := 0xC0
def Off.fltKind : Nat := 0x100
def Off.fltClass : Nat := 0x380
def Off.fltLogDrop : Nat := 0x3A0
def Off.fltLost : Nat := 0x3A8
def Off.pwrLimit : Nat := 0x80
def Off.pwrWindow : Nat := 0x84
def Off.pwrGain : Nat := 0x88
def Off.pwrPolicy : Nat := 0x8C
def Off.pwrShare : Nat := 0x90
def Off.pwrSpeed : Nat := 0xA0
def Off.pwrTwarn : Nat := 0xB0
def Off.pwrLimitMax : Nat := 0xB4
def Off.pwrStat : Nat := 0xB8
def Off.pwrCntClr : Nat := 0xC0
def Off.pwrQstat : Nat := 0xD0
def Off.pwrVolt : Nat := 0xE0
def Off.pwrTemp : Nat := 0xF0
def Off.pwrEst : Nat := 0x100
def Off.pwrEstSys : Nat := 0x120
def Off.pwrUnattr : Nat := 0x128
def Off.pwrBub : Nat := 0x130
def Off.pwrTrim : Nat := 0x200
def Off.mtrStat : Nat := 0x80
def Off.mtrEvent : Nat := 0x84
def Off.mtrSwVersion : Nat := 0x88
def Off.mtrMarkDrop : Nat := 0x8C
def Off.mtrRseqLast : Nat := 0x90
def Off.mtrSwDigest : Nat := 0xA0
def Off.mtrSwName : Nat := 0xC0
def Off.mtrPubkey : Nat := 0x100
def Off.hbmAge : Nat := 0x80
def Off.hbmChanCtrl : Nat := 0x84
def Off.hbmChanStat : Nat := 0x88
def Off.hbmRetired : Nat := 0x8C
def Off.hbmSubFree : Nat := 0x90
def Off.hbmCntClr : Nat := 0xC0
def Off.hbmCycles : Nat := 0x100
def Off.hbmCorr : Nat := 0x108
def Off.hbmUncorr : Nat := 0x110
def Off.hbmOdecc : Nat := 0x118
def Off.hbmHit : Nat := 0x120
def Off.hbmMiss : Nat := 0x128
def Off.hbmWb : Nat := 0x130
def Off.hbmStall : Nat := 0x180
def Off.hbmScrubRate : Nat := 0x80
def Off.hbmScrubPos : Nat := 0x84
def Off.hbmTrainStat : Nat := 0x88
def Off.gwpCfg : Nat := 0x80
def Off.gwpStat : Nat := 0x84
def Off.gwpCntClr : Nat := 0xC0
def Off.gwpFlitTx : Nat := 0x100
def Off.gwpFlitRx : Nat := 0x108
def Off.gwpFecCorr : Nat := 0x110
def Off.gwpFecUncorr : Nat := 0x118
def Off.gwpRetry : Nat := 0x120
def Off.gwpStomp : Nat := 0x128
def Off.gwpNoroute : Nat := 0x130
def Off.gwpRspDrop : Nat := 0x138
def Off.gwpStall : Nat := 0x180
def Off.gwpChipId : Nat := 0x80
def Off.gwpRouteSel : Nat := 0x84
def Off.gwpRouteData : Nat := 0x88
def Off.gwpAbandon : Nat := 0x8C
def Off.gwpRdwBase : Nat := 0x100
def Off.gwpRdwSize : Nat := 0x108
def Off.camCfg : Nat := 0x80
def Off.camStat : Nat := 0x84
def Off.camLastErr : Nat := 0x88
def Off.camAbandon : Nat := 0x8C
def Off.camOutst : Nat := 0x90
def Off.camCntClr : Nat := 0xC0
def Off.camFlitTx : Nat := 0x100
def Off.camFlitRx : Nat := 0x108
def Off.camRetry : Nat := 0x110
def Off.camInRefused : Nat := 0x118
def Off.camOutRefused : Nat := 0x120
def Off.camIrqDrop : Nat := 0x128
def Off.camConfFail : Nat := 0x130
def Off.camRdlatMax : Nat := 0x138
def Off.camStall : Nat := 0x180
def Off.camDwinBase : Nat := 0x200
def Off.camDwinSize : Nat := 0x208
def Off.camHwinBase : Nat := 0x300
def Off.camHwinSize : Nat := 0x308
def Off.camSess : Nat := 0x80
def Off.camSessClose : Nat := 0x90
def Off.qdspJobs : Nat := 0x80
def Off.qdspInflight : Nat := 0x88
def Off.qdspDropCnt : Nat := 0x8C
def Off.statMapSel : Nat := 0x80
def Off.statMapData : Nat := 0x84
def Off.statRdSel : Nat := 0x88
def Off.statRdStep : Nat := 0x8C
def Off.statRdG : Nat := 0x90
def Off.statRdW : Nat := 0x98
def Off.statRdU : Nat := 0xA0
def Off.statRdCast : Nat := 0x100
def Off.statRdClip : Nat := 0x108
def Off.statRdUnder : Nat := 0x110
def Off.statRdPromo : Nat := 0x118
def Off.statRdOver : Nat := 0x120
def Off.statRdSat : Nat := 0x128
def Off.srvJob : Nat := 0x80
def Off.srvPeriod : Nat := 0x84
def Off.srvThresh : Nat := 0x88
def Off.srvBw : Nat := 0x8C
def Off.srvVerify : Nat := 0x90
def Off.srvTol : Nat := 0x94
def Off.srvRecBase : Nat := 0x98
def Off.srvStep : Nat := 0xA0
def Off.srvCommit : Nat := 0xA4
def Off.srvRestore : Nat := 0xA8
def Off.srvCmd : Nat := 0xAC
def Off.srvStat : Nat := 0xB0
def Off.srvPointTaken : Nat := 0xB4
def Off.srvPointCommitted : Nat := 0xB8
def Off.srvLoss : Nat := 0xBC
def Off.srvCntClr : Nat := 0xC0
def Off.srvBytesFabric : Nat := 0x100
def Off.srvBytesLocal : Nat := 0x108
def Off.srvCbwWait : Nat := 0x110
def Off.srvPoints : Nat := 0x118
def Off.srvLate : Nat := 0x120
def Off.srvStreamSteps : Nat := 0x128
def Off.queCtrl : Nat := 0x80
def Off.queStat : Nat := 0x84
def Off.quePktCnt : Nat := 0x88
def Off.queWords : Nat := 0x8C
def Off.queSpillBase : Nat := 0x90
def Off.queSpillSize : Nat := 0x98
def Off.queRewindCnt : Nat := 0xA0
def Off.quePoisonCnt : Nat := 0xA4
def Off.queFlushDropCnt : Nat := 0xA8
def Off.queRingBase : Nat := 0x100
def Off.queRingCfg : Nat := 0x108
def Off.queSqHead : Nat := 0x110
def Off.queSqDb : Nat := 0x114
def Off.queCqTail : Nat := 0x118
def Off.queCqHead : Nat := 0x11C
def Off.tlLoc : Nat := 0x80
def Off.tlDuty : Nat := 0x84
def Off.tlHsLimit : Nat := 0x88
def Off.tlHsStallCnt : Nat := 0x8C
def Off.tlCmdDropCnt : Nat := 0x90
def Off.sqcProgBase : Nat := 0x80
def Off.sqcState : Nat := 0x84
def Off.sqcPc : Nat := 0x88
def Off.sqcTokens : Nat := 0x8C
def Off.sqcLastErr : Nat := 0x90
def Off.sqcCntClr : Nat := 0xC0
def Off.sqcBeats : Nat := 0x100
def Off.sqcInstr : Nat := 0x108
def Off.sqcItems : Nat := 0x110
def Off.sqcStall : Nat := 0x180
def Off.sqcEc : Nat := 0x200
def Off.vecState : Nat := 0x80
def Off.vecProgValid : Nat := 0x84
def Off.vecLastErr : Nat := 0x88
def Off.vecCntClr : Nat := 0xC0
def Off.vecBeats : Nat := 0x100
def Off.vecInstr : Nat := 0x108
def Off.vecStall : Nat := 0x180
def Off.vecScCtrl : Nat := 0x400
def Off.vecScSrc : Nat := 0x404
def Off.vecScDst : Nat := 0x408
def Off.vecScLen : Nat := 0x40C
def Off.vecScScale : Nat := 0x410
def Off.vecScAdd : Nat := 0x414
def Off.vecScLo : Nat := 0x418
def Off.vecScHi : Nat := 0x41C
def Off.vecScFill : Nat := 0x420
def Off.vecScStat : Nat := 0x424
def Off.vecScDone : Nat := 0x428
def Off.vecScMismatch : Nat := 0x42C
def Off.vecScFirst : Nat := 0x430
def Off.vecJobSel : Nat := 0x80
def Off.vecJobParam : Nat := 0x84
def Off.vecJobQerr : Nat := 0x88
def Off.vecJobSeed : Nat := 0x90
def Off.vecPrune : Nat := 0x100
def Off.vecPruneThr : Nat := 0x104
def Off.vecSlotSel : Nat := 0x200
def Off.vecSlotInfo : Nat := 0x204
def Off.ftbLoad : Nat := 0x80
def Off.ftbSlotStat : Nat := 0x84
def Off.ftbLoadStat : Nat := 0x88
def Off.ftbRefs : Nat := 0x8C
def Off.ftbGenSwap : Nat := 0x90
def Off.ftbSel : Nat := 0x94
def Off.ftbWin : Nat := 0x100
def Off.mntGang : Nat := 0x80
def Off.mntWidth : Nat := 0x84
def Off.mntWidthCol : Nat := 0x88
def Off.mntBypass : Nat := 0x8C
def Off.mntBypassCol0 : Nat := 0x90
def Off.mntBypassCol1 : Nat := 0x94
def Off.mntRamp : Nat := 0x98
def Off.mntState : Nat := 0x9C
def Off.mntDrainRel : Nat := 0xA0
def Off.mntDrainCnt : Nat := 0xA4
def Off.mntDrainReld : Nat := 0xA8
def Off.mntRtag : Nat := 0xB0
def Off.mntCntClr : Nat := 0xC0
def Off.mntBeats : Nat := 0x100
def Off.mntSteps : Nat := 0x108
def Off.mntKbRun : Nat := 0x110
def Off.mntKbPromo : Nat := 0x118
def Off.mntKbSkip : Nat := 0x120
def Off.mntStall : Nat := 0x180
def Off.tmemRepair : Nat := 0x80
def Off.tmemLastErr : Nat := 0x84
def Off.tmemCntClr : Nat := 0xC0
def Off.tmemWCorr : Nat := 0x100
def Off.tmemWUncorr : Nat := 0x108
def Off.tmemAPar : Nat := 0x110
def Off.tmemPPar : Nat := 0x118
def Off.tmemMark : Nat := 0x120
def Off.tmemAcc : Nat := 0x128
def Off.tmemWide : Nat := 0x130
def Off.tmemDpB : Nat := 0x138
def Off.dmvState : Nat := 0x80
def Off.dmvLastErr : Nat := 0x84
def Off.dmvAge : Nat := 0x88
def Off.dmvStrmSel : Nat := 0x90
def Off.dmvStrmInfo : Nat := 0x94
def Off.dmvCntClr : Nat := 0xC0
def Off.dmvBeats : Nat := 0x100
def Off.dmvDesc : Nat := 0x108
def Off.dmvBytesRd : Nat := 0x110
def Off.dmvBytesWr : Nat := 0x118
def Off.dmvHemMasked : Nat := 0x120
def Off.dmvPfLines : Nat := 0x128
def Off.dmvPfHit : Nat := 0x130
def Off.dmvPfStop : Nat := 0x138
def Off.dmvStall : Nat := 0x180
def Off.dmvPredCtrl : Nat := 0x400
def Off.dmvPredClr : Nat := 0x404
def Off.dmvPredRgFetch : Nat := 0x410
def Off.dmvPredRgFull : Nat := 0x418
def Off.dmvPredGuarded : Nat := 0x420
def Off.scrbRate : Nat := 0x80
def Off.scrbPosW : Nat := 0x84
def Off.scrbPosA : Nat := 0x88
def Off.scrbPosP : Nat := 0x8C
def Off.scrbRestart : Nat := 0x90
def Off.scrbCntClr : Nat := 0xC0
def Off.scrbLines : Nat := 0x100
def Off.scrbFixed : Nat := 0x108
def Off.scrbDropped : Nat := 0x110

/-! ### The register lists -/

/-- R345, R512, R64 -/
def devRows : List RegRow :=
  [⟨Off.devGenCommit, 1, 4, false, .wo, 0x0, 0x0⟩,
   ⟨Off.devGenStat, 1, 4, false, .ro, 0xfff00000, 0x0⟩,
   ⟨Off.devBootStat, 1, 4, false, .ro, 0x0, 0x0⟩,
   ⟨Off.devSelftest, 1, 4, false, .wo, 0x0, 0x0⟩,
   ⟨Off.devSelftestStat, 1, 4, false, .ro, 0x0, 0x0⟩,
   ⟨Off.devPtRoot, 4, 8, true, .rws, 0x0, 0x7fffe00001⟩,
   ⟨Off.devPtInval, 1, 4, false, .mixed, 0x0, 0x0⟩]

/-- R57, R68 -/
def ownRows : List RegRow :=
  [⟨Off.devClaim, 1, 4, false, .wo, 0x0, 0x0⟩,
   ⟨Off.devOwner, 1, 4, false, .ro, 0x3, 0x0⟩,
   ⟨Off.devHandover, 1, 4, false, .rw, 0x3, 0x3⟩,
   ⟨Off.devDeniedCnt, 1, 4, false, .ro, 0x0, 0x0⟩,
   ⟨Off.devReset, 1, 4, false, .wo, 0x0, 0x0⟩,
   ⟨Off.devResetStat, 1, 4, false, .ro, 0x0, 0x0⟩]

/-- R494 -/
def rotRows : List RegRow :=
  [⟨Off.rotStat, 1, 4, false, .ro, 0x0, 0x0⟩,
   ⟨Off.rotLc, 1, 4, false, .ro, 0x0, 0x0⟩,
   ⟨Off.rotPart, 1, 4, false, .ro, 0x0, 0x0⟩,
   ⟨Off.rotChallenge, 4, 4, false, .ro, 0x0, 0x0⟩,
   ⟨Off.rotAuditIdx, 1, 4, false, .ro, 0x0, 0x0⟩,
   ⟨Off.rotRsp, 3, 4, false, .ro, 0x0, 0x0⟩,
   ⟨Off.rotRspData, 384, 4, false, .ro, 0x0, 0x0⟩]

/-- R494 -/
def rotSlotRows : List RegRow :=
  [⟨Off.rotSubmit, 1, 4, false, .wo, 0x0, 0x0⟩]

/-- R441 -/
def fltRows : List RegRow :=
  [⟨Off.fltStat, 1, 4, false, .ro, 0x0, 0x0⟩,
   ⟨Off.fltLogPop, 1, 4, false, .pop, 0x0, 0x0⟩,
   ⟨Off.fltLog1, 1, 4, false, .ro, 0x0, 0x0⟩,
   ⟨Off.fltLog2, 1, 4, false, .ro, 0x0, 0x0⟩,
   ⟨Off.fltLog3, 1, 4, false, .ro, 0x0, 0x0⟩,
   ⟨Off.fltIrqMask, 1, 4, false, .rw, 0xe, 0xf⟩,
   ⟨Off.fltWedged, 1, 4, false, .ro, 0xfff, 0x0⟩,
   ⟨Off.fltUnrevoked, 1, 4, false, .ro, 0xfff, 0x0⟩,
   ⟨Off.fltInject, 1, 4, false, .wo, 0x0, 0x0⟩,
   ⟨Off.fltInjectAddr, 1, 8, true, .rw, 0x0, 0xffffffffffff⟩,
   ⟨Off.fltFatalRec, 4, 4, false, .ro, 0x0, 0x0⟩,
   ⟨Off.fltCntClr, 1, 4, false, .w1s, 0x0, 0x0⟩,
   ⟨Off.fltKind, 73, 8, true, .ro, 0x0, 0x0⟩,
   ⟨Off.fltClass, 4, 8, true, .ro, 0x0, 0x0⟩,
   ⟨Off.fltLogDrop, 1, 8, true, .ro, 0x0, 0x0⟩,
   ⟨Off.fltLost, 1, 8, true, .ro, 0x0, 0x0⟩]

/-- R419 -/
def pwrRows : List RegRow :=
  [⟨Off.pwrLimit, 1, 4, false, .rws, 0x3b6, 0x7ff⟩,
   ⟨Off.pwrWindow, 1, 4, false, .rws, 0x2, 0xf⟩,
   ⟨Off.pwrGain, 1, 4, false, .rws, 0x20, 0xff⟩,
   ⟨Off.pwrPolicy, 1, 4, false, .rws, 0x0, 0x1⟩,
   ⟨Off.pwrShare, 4, 4, false, .rws, 0x40, 0x1ff⟩,
   ⟨Off.pwrSpeed, 4, 4, false, .rws, 0x3, 0x7⟩,
   ⟨Off.pwrTwarn, 1, 4, false, .rws, 0x1a4, 0x3ff⟩,
   ⟨Off.pwrLimitMax, 1, 4, false, .ro, 0x0, 0x0⟩,
   ⟨Off.pwrStat, 1, 4, false, .ro, 0x1, 0x0⟩,
   ⟨Off.pwrCntClr, 1, 4, false, .w1s, 0x0, 0x0⟩,
   ⟨Off.pwrQstat, 4, 4, false, .ro, 0x3000, 0x0⟩,
   ⟨Off.pwrVolt, 4, 4, false, .ro, 0x0, 0x0⟩,
   ⟨Off.pwrTemp, 4, 4, false, .ro, 0x0, 0x0⟩,
   ⟨Off.pwrEst, 4, 8, true, .ro, 0x0, 0x0⟩,
   ⟨Off.pwrEstSys, 1, 8, true, .ro, 0x0, 0x0⟩,
   ⟨Off.pwrUnattr, 1, 8, true, .ro, 0x0, 0x0⟩,
   ⟨Off.pwrBub, 4, 8, true, .ro, 0x0, 0x0⟩,
   ⟨Off.pwrTrim, 4, 4, false, .ro, 0x3f800000, 0x0⟩]

/-- R420 -/
def mtrRows : List RegRow :=
  [⟨Off.mtrStat, 1, 4, false, .ro, 0x0, 0x0⟩,
   ⟨Off.mtrEvent, 1, 4, false, .ro, 0x0, 0x0⟩,
   ⟨Off.mtrSwVersion, 1, 4, false, .ro, 0x0, 0x0⟩,
   ⟨Off.mtrMarkDrop, 1, 4, false, .ro, 0x0, 0x0⟩,
   ⟨Off.mtrRseqLast, 1, 8, true, .ro, 0x0, 0x0⟩,
   ⟨Off.mtrSwDigest, 8, 4, false, .ro, 0x0, 0x0⟩,
   ⟨Off.mtrSwName, 3, 4, false, .ro, 0x0, 0x0⟩,
   ⟨Off.mtrPubkey, 15, 4, false, .ro, 0x0, 0x0⟩]

/-- R346 -/
def hbmRows : List RegRow :=
  [⟨Off.hbmAge, 1, 4, false, .rws, 0x800, 0xffff⟩,
   ⟨Off.hbmChanCtrl, 1, 4, false, .wo, 0x0, 0x0⟩,
   ⟨Off.hbmChanStat, 1, 4, false, .ro, 0x0, 0x0⟩,
   ⟨Off.hbmRetired, 1, 4, false, .ro, 0x0, 0x0⟩,
   ⟨Off.hbmSubFree, 1, 4, false, .mixed, 0x0, 0x0⟩,
   ⟨Off.hbmCntClr, 1, 4, false, .w1s, 0x0, 0x0⟩,
   ⟨Off.hbmCycles, 1, 8, true, .ro, 0x0, 0x0⟩,
   ⟨Off.hbmCorr, 1, 8, true, .ro, 0x0, 0x0⟩,
   ⟨Off.hbmUncorr, 1, 8, true, .ro, 0x0, 0x0⟩,
   ⟨Off.hbmOdecc, 1, 8, true, .ro, 0x0, 0x0⟩,
   ⟨Off.hbmHit, 1, 8, true, .ro, 0x0, 0x0⟩,
   ⟨Off.hbmMiss, 1, 8, true, .ro, 0x0, 0x0⟩,
   ⟨Off.hbmWb, 1, 8, true, .ro, 0x0, 0x0⟩,
   ⟨Off.hbmStall, 16, 8, true, .ro, 0x0, 0x0⟩]

/-- R347 -/
def phyRows : List RegRow :=
  [⟨Off.hbmScrubRate, 1, 4, false, .rws, 0x40, 0xffff⟩,
   ⟨Off.hbmScrubPos, 1, 4, false, .ro, 0x0, 0x0⟩,
   ⟨Off.hbmTrainStat, 1, 4, false, .ro, 0x0, 0x0⟩]

/-- R374 -/
def gwpRows : List RegRow :=
  [⟨Off.gwpCfg, 1, 4, false, .rws, 0x0, 0x7⟩,
   ⟨Off.gwpStat, 1, 4, false, .ro, 0x3, 0x0⟩,
   ⟨Off.gwpCntClr, 1, 4, false, .w1s, 0x0, 0x0⟩,
   ⟨Off.gwpFlitTx, 1, 8, true, .ro, 0x0, 0x0⟩,
   ⟨Off.gwpFlitRx, 1, 8, true, .ro, 0x0, 0x0⟩,
   ⟨Off.gwpFecCorr, 1, 8, true, .ro, 0x0, 0x0⟩,
   ⟨Off.gwpFecUncorr, 1, 8, true, .ro, 0x0, 0x0⟩,
   ⟨Off.gwpRetry, 1, 8, true, .ro, 0x0, 0x0⟩,
   ⟨Off.gwpStomp, 1, 8, true, .ro, 0x0, 0x0⟩,
   ⟨Off.gwpNoroute, 1, 8, true, .ro, 0x0, 0x0⟩,
   ⟨Off.gwpRspDrop, 1, 8, true, .ro, 0x0, 0x0⟩,
   ⟨Off.gwpStall, 16, 8, true, .ro, 0x0, 0x0⟩]

/-- R375 -/
def fabRows : List RegRow :=
  [⟨Off.gwpChipId, 1, 4, false, .ro, 0x0, 0x0⟩,
   ⟨Off.gwpRouteSel, 1, 4, false, .rw, 0x0, 0x1ffff⟩,
   ⟨Off.gwpRouteData, 1, 4, false, .ro, 0x0, 0x0⟩,
   ⟨Off.gwpAbandon, 1, 4, false, .wo, 0x0, 0x0⟩,
   ⟨Off.gwpRdwBase, 16, 16, true, .rws, 0x0, 0x1fffffffffffff⟩,
   ⟨Off.gwpRdwSize, 16, 16, false, .rws, 0x0, 0xffffffff⟩]

/-- R398 -/
def camRows : List RegRow :=
  [⟨Off.camCfg, 1, 4, false, .rws, 0x1, 0x1⟩,
   ⟨Off.camStat, 1, 4, false, .ro, 0x0, 0x0⟩,
   ⟨Off.camLastErr, 1, 4, false, .ro, 0x0, 0x0⟩,
   ⟨Off.camAbandon, 1, 4, false, .wo, 0x0, 0x0⟩,
   ⟨Off.camOutst, 1, 4, false, .ro, 0x0, 0x0⟩,
   ⟨Off.camCntClr, 1, 4, false, .w1s, 0x0, 0x0⟩,
   ⟨Off.camFlitTx, 1, 8, true, .ro, 0x0, 0x0⟩,
   ⟨Off.camFlitRx, 1, 8, true, .ro, 0x0, 0x0⟩,
   ⟨Off.camRetry, 1, 8, true, .ro, 0x0, 0x0⟩,
   ⟨Off.camInRefused, 1, 8, true, .ro, 0x0, 0x0⟩,
   ⟨Off.camOutRefused, 1, 8, true, .ro, 0x0, 0x0⟩,
   ⟨Off.camIrqDrop, 1, 8, true, .ro, 0x0, 0x0⟩,
   ⟨Off.camConfFail, 1, 8, true, .ro, 0x0, 0x0⟩,
   ⟨Off.camRdlatMax, 1, 8, true, .ro, 0x0, 0x0⟩,
   ⟨Off.camStall, 16, 8, true, .ro, 0x0, 0x0⟩,
   ⟨Off.camDwinBase, 8, 16, true, .rws, 0x0, 0x3fffffffffffff⟩,
   ⟨Off.camDwinSize, 8, 16, false, .rws, 0x0, 0xfffffff⟩,
   ⟨Off.camHwinBase, 8, 16, true, .rws, 0x0, 0xfffffffffffff01f⟩,
   ⟨Off.camHwinSize, 8, 16, false, .rws, 0x0, 0xfffffff⟩]

/-- R399 -/
def camSessRows : List RegRow :=
  [⟨Off.camSess, 4, 4, false, .ro, 0x0, 0x0⟩,
   ⟨Off.camSessClose, 1, 4, false, .wo, 0x0, 0x0⟩]

/-- R328 -/
def qdspRows : List RegRow :=
  [⟨Off.qdspJobs, 1, 8, true, .ro, 0x1, 0x0⟩,
   ⟨Off.qdspInflight, 1, 4, false, .ro, 0x0, 0x0⟩,
   ⟨Off.qdspDropCnt, 1, 4, false, .ro, 0x0, 0x0⟩]

/-- R450 -/
def qstatRows : List RegRow :=
  [⟨Off.statMapSel, 1, 4, false, .rw, 0x0, 0xfff⟩,
   ⟨Off.statMapData, 1, 4, false, .rw, 0x0, 0xffffffff⟩,
   ⟨Off.statRdSel, 1, 4, false, .rw, 0x0, 0x1fff⟩,
   ⟨Off.statRdStep, 1, 4, false, .ro, 0x0, 0x0⟩,
   ⟨Off.statRdG, 1, 8, true, .ro, 0x1000000000000, 0x0⟩,
   ⟨Off.statRdW, 1, 8, true, .ro, 0x1000000000000, 0x0⟩,
   ⟨Off.statRdU, 1, 8, true, .ro, 0x1000000000000, 0x0⟩,
   ⟨Off.statRdCast, 1, 8, true, .ro, 0x0, 0x0⟩,
   ⟨Off.statRdClip, 1, 8, true, .ro, 0x0, 0x0⟩,
   ⟨Off.statRdUnder, 1, 8, true, .ro, 0x0, 0x0⟩,
   ⟨Off.statRdPromo, 1, 8, true, .ro, 0x0, 0x0⟩,
   ⟨Off.statRdOver, 1, 8, true, .ro, 0x0, 0x0⟩,
   ⟨Off.statRdSat, 1, 8, true, .ro, 0x0, 0x0⟩]

/-- R466 -/
def srvRows : List RegRow :=
  [⟨Off.srvJob, 1, 4, false, .rws, 0x0, 0x7f⟩,
   ⟨Off.srvPeriod, 1, 4, false, .rws, 0x0, 0xffff⟩,
   ⟨Off.srvThresh, 1, 4, false, .rws, 0x400100, 0x1ffffff⟩,
   ⟨Off.srvBw, 1, 4, false, .rws, 0xf0, 0xffff⟩,
   ⟨Off.srvVerify, 1, 4, false, .rws, 0x0, 0x3⟩,
   ⟨Off.srvTol, 1, 4, false, .rws, 0x3a800000, 0xffffffff⟩,
   ⟨Off.srvRecBase, 1, 8, true, .rws, 0x0, 0xffffffffffff⟩,
   ⟨Off.srvStep, 1, 4, false, .wo, 0x0, 0x0⟩,
   ⟨Off.srvCommit, 1, 4, false, .wo, 0x0, 0x0⟩,
   ⟨Off.srvRestore, 1, 4, false, .wo, 0x0, 0x0⟩,
   ⟨Off.srvCmd, 1, 4, false, .wo, 0x0, 0x0⟩,
   ⟨Off.srvStat, 1, 4, false, .ro, 0x8, 0x0⟩,
   ⟨Off.srvPointTaken, 1, 4, false, .ro, 0xffffffff, 0x0⟩,
   ⟨Off.srvPointCommitted, 1, 4, false, .ro, 0xffffffff, 0x0⟩,
   ⟨Off.srvLoss, 1, 4, false, .ro, 0xffffffff, 0x0⟩,
   ⟨Off.srvCntClr, 1, 4, false, .w1s, 0x0, 0x0⟩,
   ⟨Off.srvBytesFabric, 1, 8, true, .ro, 0x0, 0x0⟩,
   ⟨Off.srvBytesLocal, 1, 8, true, .ro, 0x0, 0x0⟩,
   ⟨Off.srvCbwWait, 1, 8, true, .ro, 0x0, 0x0⟩,
   ⟨Off.srvPoints, 1, 8, true, .ro, 0x0, 0x0⟩,
   ⟨Off.srvLate, 1, 8, true, .ro, 0x0, 0x0⟩,
   ⟨Off.srvStreamSteps, 1, 8, true, .ro, 0x0, 0x0⟩]

/-- R329 -/
def queRows : List RegRow :=
  [⟨Off.queCtrl, 1, 4, false, .mixed, 0x0, 0x1⟩,
   ⟨Off.queStat, 1, 4, false, .ro, 0x0, 0x0⟩,
   ⟨Off.quePktCnt, 1, 4, false, .ro, 0x0, 0x0⟩,
   ⟨Off.queWords, 1, 4, false, .ro, 0x0, 0x0⟩,
   ⟨Off.queSpillBase, 1, 8, true, .rw, 0x0, 0xffffffffffff⟩,
   ⟨Off.queSpillSize, 1, 4, false, .rw, 0x10, 0x1f⟩,
   ⟨Off.queRewindCnt, 1, 4, false, .ro, 0x0, 0x0⟩,
   ⟨Off.quePoisonCnt, 1, 4, false, .ro, 0x0, 0x0⟩,
   ⟨Off.queFlushDropCnt, 1, 4, false, .ro, 0x0, 0x0⟩,
   ⟨Off.queRingBase, 1, 8, true, .rw, 0x0, 0xffffffffffff⟩,
   ⟨Off.queRingCfg, 1, 4, false, .rw, 0xc06, 0xff003f7f⟩,
   ⟨Off.queSqHead, 1, 4, false, .ro, 0x0, 0x0⟩,
   ⟨Off.queSqDb, 1, 4, false, .wo, 0x0, 0x0⟩,
   ⟨Off.queCqTail, 1, 4, false, .ro, 0x10000, 0x0⟩,
   ⟨Off.queCqHead, 1, 4, false, .rw, 0x0, 0xffff⟩]

/-- R41 -/
def tlRows : List RegRow :=
  [⟨Off.tlLoc, 1, 4, false, .ro, 0x0, 0x0⟩,
   ⟨Off.tlDuty, 1, 4, false, .ro, 0x7, 0x0⟩,
   ⟨Off.tlHsLimit, 1, 4, false, .rws, 0x100000, 0xffffff⟩,
   ⟨Off.tlHsStallCnt, 1, 4, false, .ro, 0x0, 0x0⟩,
   ⟨Off.tlCmdDropCnt, 1, 4, false, .ro, 0x0, 0x0⟩]

/-- R327 -/
def sqcRows : List RegRow :=
  [⟨Off.sqcProgBase, 1, 4, false, .rws, 0x0, 0x3f⟩,
   ⟨Off.sqcState, 1, 4, false, .ro, 0x0, 0x0⟩,
   ⟨Off.sqcPc, 1, 4, false, .ro, 0x0, 0x0⟩,
   ⟨Off.sqcTokens, 1, 4, false, .ro, 0x0, 0x0⟩,
   ⟨Off.sqcLastErr, 1, 4, false, .ro, 0x0, 0x0⟩,
   ⟨Off.sqcCntClr, 1, 4, false, .w1s, 0x0, 0x0⟩,
   ⟨Off.sqcBeats, 1, 8, true, .ro, 0x0, 0x0⟩,
   ⟨Off.sqcInstr, 1, 8, true, .ro, 0x0, 0x0⟩,
   ⟨Off.sqcItems, 1, 8, true, .ro, 0x0, 0x0⟩,
   ⟨Off.sqcStall, 16, 8, true, .ro, 0x0, 0x0⟩,
   ⟨Off.sqcEc, 16, 4, false, .ro, 0x0, 0x0⟩]

/-- R203 -/
def vecRows : List RegRow :=
  [⟨Off.vecState, 1, 4, false, .ro, 0x0, 0x0⟩,
   ⟨Off.vecProgValid, 1, 4, false, .ro, 0x0, 0x0⟩,
   ⟨Off.vecLastErr, 1, 4, false, .ro, 0x0, 0x0⟩,
   ⟨Off.vecCntClr, 1, 4, false, .w1s, 0x0, 0x0⟩,
   ⟨Off.vecBeats, 1, 8, true, .ro, 0x0, 0x0⟩,
   ⟨Off.vecInstr, 1, 8, true, .ro, 0x0, 0x0⟩,
   ⟨Off.vecStall, 16, 8, true, .ro, 0x0, 0x0⟩,
   ⟨Off.vecScCtrl, 1, 4, false, .mixed, 0x0, 0xfffffc⟩,
   ⟨Off.vecScSrc, 1, 4, false, .rw, 0x0, 0x3fffff⟩,
   ⟨Off.vecScDst, 1, 4, false, .rw, 0x0, 0x3fffff⟩,
   ⟨Off.vecScLen, 1, 4, false, .rw, 0x0, 0x1ffff⟩,
   ⟨Off.vecScScale, 1, 4, false, .rw, 0x3f800000, 0xffffffff⟩,
   ⟨Off.vecScAdd, 1, 4, false, .rw, 0x0, 0xffffffff⟩,
   ⟨Off.vecScLo, 1, 4, false, .rw, 0xff800000, 0xffffffff⟩,
   ⟨Off.vecScHi, 1, 4, false, .rw, 0x7f800000, 0xffffffff⟩,
   ⟨Off.vecScFill, 1, 4, false, .rw, 0x0, 0xffffffff⟩,
   ⟨Off.vecScStat, 1, 4, false, .ro, 0x0, 0x0⟩,
   ⟨Off.vecScDone, 1, 4, false, .ro, 0x0, 0x0⟩,
   ⟨Off.vecScMismatch, 1, 4, false, .ro, 0x0, 0x0⟩,
   ⟨Off.vecScFirst, 1, 4, false, .ro, 0x0, 0x0⟩]

/-- R155, R204, R88 -/
def vec2Rows : List RegRow :=
  [⟨Off.vecJobSel, 1, 4, false, .rw, 0x0, 0x3f⟩,
   ⟨Off.vecJobParam, 1, 4, false, .ro, 0x10, 0x0⟩,
   ⟨Off.vecJobQerr, 1, 4, false, .ro, 0x3e000000, 0x0⟩,
   ⟨Off.vecJobSeed, 1, 8, true, .ro, 0x0, 0x0⟩,
   ⟨Off.vecPrune, 4, 8, false, .rws, 0x2, 0xf⟩,
   ⟨Off.vecPruneThr, 4, 8, false, .rws, 0x0, 0xffffffff⟩,
   ⟨Off.vecSlotSel, 1, 4, false, .rw, 0x0, 0x3f⟩,
   ⟨Off.vecSlotInfo, 1, 4, false, .ro, 0x0, 0x0⟩]

/-- R235 -/
def ftbRows : List RegRow :=
  [⟨Off.ftbLoad, 1, 4, false, .wo, 0x0, 0x0⟩,
   ⟨Off.ftbSlotStat, 1, 4, false, .ro, 0x0, 0x0⟩,
   ⟨Off.ftbLoadStat, 1, 4, false, .ro, 0x0, 0x0⟩,
   ⟨Off.ftbRefs, 1, 4, false, .ro, 0x0, 0x0⟩,
   ⟨Off.ftbGenSwap, 1, 4, false, .rws, 0x0, 0xff⟩,
   ⟨Off.ftbSel, 1, 4, false, .rw, 0x0, 0xf⟩,
   ⟨Off.ftbWin, 352, 4, false, .ro, 0x0, 0x0⟩]

/-- R135 -/
def mntRows : List RegRow :=
  [⟨Off.mntGang, 1, 4, false, .rws, 0x0, 0x3f⟩,
   ⟨Off.mntWidth, 1, 4, false, .ro, 0x1000100, 0x0⟩,
   ⟨Off.mntWidthCol, 1, 4, false, .ro, 0x0, 0x0⟩,
   ⟨Off.mntBypass, 1, 4, false, .ro, 0x0, 0x0⟩,
   ⟨Off.mntBypassCol0, 1, 4, false, .ro, 0x0, 0x0⟩,
   ⟨Off.mntBypassCol1, 1, 4, false, .ro, 0x0, 0x0⟩,
   ⟨Off.mntRamp, 1, 4, false, .rws, 0x20, 0x7f⟩,
   ⟨Off.mntState, 1, 4, false, .ro, 0x1, 0x0⟩,
   ⟨Off.mntDrainRel, 1, 4, false, .wo, 0x0, 0x0⟩,
   ⟨Off.mntDrainCnt, 1, 4, false, .ro, 0x0, 0x0⟩,
   ⟨Off.mntDrainReld, 1, 4, false, .ro, 0x0, 0x0⟩,
   ⟨Off.mntRtag, 4, 4, false, .ro, 0x0, 0x0⟩,
   ⟨Off.mntCntClr, 1, 4, false, .w1s, 0x0, 0x0⟩,
   ⟨Off.mntBeats, 1, 8, true, .ro, 0x0, 0x0⟩,
   ⟨Off.mntSteps, 1, 8, true, .ro, 0x0, 0x0⟩,
   ⟨Off.mntKbRun, 1, 8, true, .ro, 0x0, 0x0⟩,
   ⟨Off.mntKbPromo, 1, 8, true, .ro, 0x0, 0x0⟩,
   ⟨Off.mntKbSkip, 1, 8, true, .ro, 0x0, 0x0⟩,
   ⟨Off.mntStall, 16, 8, true, .ro, 0x0, 0x0⟩]

/-- R261 -/
def tmemRows : List RegRow :=
  [⟨Off.tmemRepair, 1, 4, false, .ro, 0x0, 0x0⟩,
   ⟨Off.tmemLastErr, 1, 4, false, .ro, 0x0, 0x0⟩,
   ⟨Off.tmemCntClr, 1, 4, false, .w1s, 0x0, 0x0⟩,
   ⟨Off.tmemWCorr, 1, 8, true, .ro, 0x0, 0x0⟩,
   ⟨Off.tmemWUncorr, 1, 8, true, .ro, 0x0, 0x0⟩,
   ⟨Off.tmemAPar, 1, 8, true, .ro, 0x0, 0x0⟩,
   ⟨Off.tmemPPar, 1, 8, true, .ro, 0x0, 0x0⟩,
   ⟨Off.tmemMark, 1, 8, true, .ro, 0x0, 0x0⟩,
   ⟨Off.tmemAcc, 1, 8, true, .ro, 0x0, 0x0⟩,
   ⟨Off.tmemWide, 1, 8, true, .ro, 0x0, 0x0⟩,
   ⟨Off.tmemDpB, 1, 8, true, .ro, 0x0, 0x0⟩]

/-- R160, R295 -/
def dmvRows : List RegRow :=
  [⟨Off.dmvState, 1, 4, false, .ro, 0x0, 0x0⟩,
   ⟨Off.dmvLastErr, 1, 4, false, .ro, 0x0, 0x0⟩,
   ⟨Off.dmvAge, 1, 4, false, .rws, 0x20, 0xff⟩,
   ⟨Off.dmvStrmSel, 1, 4, false, .rw, 0x0, 0xff⟩,
   ⟨Off.dmvStrmInfo, 1, 4, false, .ro, 0x0, 0x0⟩,
   ⟨Off.dmvCntClr, 1, 4, false, .w1s, 0x0, 0x0⟩,
   ⟨Off.dmvBeats, 1, 8, true, .ro, 0x0, 0x0⟩,
   ⟨Off.dmvDesc, 1, 8, true, .ro, 0x0, 0x0⟩,
   ⟨Off.dmvBytesRd, 1, 8, true, .ro, 0x0, 0x0⟩,
   ⟨Off.dmvBytesWr, 1, 8, true, .ro, 0x0, 0x0⟩,
   ⟨Off.dmvHemMasked, 1, 8, true, .ro, 0x0, 0x0⟩,
   ⟨Off.dmvPfLines, 1, 8, true, .ro, 0x0, 0x0⟩,
   ⟨Off.dmvPfHit, 1, 8, true, .ro, 0x0, 0x0⟩,
   ⟨Off.dmvPfStop, 1, 8, true, .ro, 0x0, 0x0⟩,
   ⟨Off.dmvStall, 16, 8, true, .ro, 0x0, 0x0⟩,
   ⟨Off.dmvPredCtrl, 1, 4, false, .rws, 0x1, 0xff01⟩,
   ⟨Off.dmvPredClr, 1, 4, false, .w1s, 0x0, 0x0⟩,
   ⟨Off.dmvPredRgFetch, 1, 8, true, .ro, 0x0, 0x0⟩,
   ⟨Off.dmvPredRgFull, 1, 8, true, .ro, 0x0, 0x0⟩,
   ⟨Off.dmvPredGuarded, 1, 8, true, .ro, 0x0, 0x0⟩]

/-- R262 -/
def scrbRows : List RegRow :=
  [⟨Off.scrbRate, 1, 4, false, .rws, 0x20208, 0xffffff⟩,
   ⟨Off.scrbPosW, 1, 4, false, .ro, 0x0, 0x0⟩,
   ⟨Off.scrbPosA, 1, 4, false, .ro, 0x0, 0x0⟩,
   ⟨Off.scrbPosP, 1, 4, false, .ro, 0x0, 0x0⟩,
   ⟨Off.scrbRestart, 1, 4, false, .w1s, 0x0, 0x0⟩,
   ⟨Off.scrbCntClr, 1, 4, false, .w1s, 0x0, 0x0⟩,
   ⟨Off.scrbLines, 1, 8, true, .ro, 0x0, 0x0⟩,
   ⟨Off.scrbFixed, 1, 8, true, .ro, 0x0, 0x0⟩,
   ⟨Off.scrbDropped, 1, 8, true, .ro, 0x0, 0x0⟩]

/-- R329, R310: the queue registers of a submission page, without those reserved there; of a completion page; of a
page without a ring (R324, R441). -/
def subQueRows : List RegRow :=
  queRows.filter (fun r => r.off != Off.queCqTail && r.off != Off.queCqHead)
def compQueRows : List RegRow :=
  queRows.filter (fun r => r.off != Off.queSqHead && r.off != Off.queSqDb)
def plainQueRows : List RegRow := queRows.filter (fun r => decide (r.off < 0x0B0))

/-- The registers of a kind of page. -/
def pageRows : PageKind → List RegRow
  | .dev => devRows | .own => ownRows | .rot => rotRows | .rotSlot => rotSlotRows | .flt => fltRows
  | .fltQue => plainQueRows | .pwr => pwrRows | .mtr => mtrRows | .mtrWin => [] | .hbm => hbmRows | .phy => phyRows
  | .gwp => gwpRows | .fab => fabRows | .cam => camRows | .camSess => camSessRows | .qdsp => qdspRows
  | .qstat => qstatRows | .srv => srvRows | .subQue => subQueRows | .compQue => compQueRows | .tl => tlRows
  | .sqc => sqcRows | .vec => vecRows | .vec2 => vec2Rows | .ftb => ftbRows | .mnt => mntRows | .tmem => tmemRows
  | .dmv => dmvRows | .scrb => scrbRows | .tstat => [] | .tileQue => plainQueRows | .hdrOnly => []

/-- Whether offset `o` lies in a row, in the low or the high word of one of its registers. -/
def RegRow.covers (r : RegRow) (o : Nat) : Bool :=
  decide (r.off ≤ o) && decide ((o - r.off) / r.stride < r.count) &&
    decide ((o - r.off) % r.stride < (if r.wide then 8 else 4)) && decide (o % 4 = 0)

/-- The row of offset `o`, and the offset of the register it lies in. -/
def findRow (k : PageKind) (o : Nat) : Option (RegRow × Nat) :=
  ((pageRows k).find? (fun r => r.covers o)).map (fun r => (r, r.off + (o - r.off) / r.stride * r.stride))

/-- The reset value of the register at a byte address of the control space; reserved addresses read 0 (R10).
GWP_CFG.QUAD starts as the port's own quadrant (R374); the registers whose reset the spec leaves to
chip data read what Machine/State.lean and the assumption log say. -/
def regReset (addr : Nat) : Nat :=
  match pageAt (addr / 4096) with
  | none => 0
  | some p =>
    let o := addr % 4096
    let o' := if o < 0x800 then o else o - 0x800
    match findRow p.kind o' with
    | none => 0
    | some (r, _) => if o < 0x800 ∨ r.acc = .rws then
        match p.kind, p.block with
        | .gwp, .gwp g => if o' = Off.gwpCfg then 2 * (g.val / 6) else r.reset
        | _, _ => r.reset
      else 0

end Sys2Proof.Machine
end

