-- ==== Sys2Proof/Machine/State.lean ====
section
/-! DEFINITION. The state of the device: every register, memory, queue, counter, mode and pin that the
spec gives it, the queue of commands that wait, and `State.reset`, the device as power comes up (R495).

Registers of the control space stand in `regs`, each under its own control-space address (R49); every other
field is state that the registers show or that the spec's rules keep beside them. -/

namespace Sys2Proof.Machine
open Sys2Proof

/-- Why a run stops. No command of this device stops the model: the spec answers every command with an
effect, a status or no effect, so nothing raises this reason. Kept closed and named for the host's interface;
safe, since it is never answered. -/
inductive Fault where
  | unreachable
  deriving DecidableEq, Repr

/-- Why a command has no meaning. -/
inductive Refusal where
  /-- Raised by an arm of Machine/Dispatch.lean whose command has no meaning yet; safe, the model stops. -/
  | notModelled (mnemonic : String)
  deriving DecidableEq, Repr

/-! ## Blocks -/

/-- What PG_STAT derives from (R47, R530): a block that is on reads IDLE or BUSY by the items in it. -/
inductive Mode where
  | off | on | draining | drained | fenced | updating
  deriving DecidableEq, Repr

/-- The common header of a block and what the generation switch keeps at it (R47, R62, R434). -/
structure Hdr where
  /-- PG_CTRL.EN as last accepted -/
  en : Bool
  mode : Mode
  /-- PG_CTRL.DRAIN reads 1 -/
  drainReq : Bool
  /-- PG_CTRL.REARM reads 1 -/
  rearmReq : Bool
  /-- a write of 1 to EN awaits the probe's acknowledge -/
  enPend : Bool
  /-- a drain probe has been raised and not acknowledged (R434, R501, R530) -/
  probe : Bool
  /-- PG_FAULT [3:0]: CORRECTED, POISONED, FENCED, FATAL -/
  faultBits : BitVec 4
  /-- PG_FAULT.KIND -/
  faultKind : Byte
  genLive : Byte
  genStaged : Byte
  genPend : Bool
  /-- the marker from this tile's sequencer, or from each tile (R62 steps 5 and 8) -/
  markers : BitVec 64
  /-- packets numbered so far since the full reset; PG_SEQ is this modulo 65,536 (R36) -/
  sent : Nat
  /-- packets waiting for the switch (R33, GEN_WAIT) -/
  held : List DWord
  /-- packets processed, newest last (R33) -/
  rx : List DWord
  /-- the number among its source's packets, plus 1, of the last one that arrived from a source in a class, under 4 × source +
  class (R37) -/
  last : FMap Nat
  deriving DecidableEq, Repr

/-- A block before it is enabled, with the reset values of R47. -/
def hdrReset : Hdr := ⟨false, .off, false, false, false, false, 0, 0, 0, 0, false, 0, 0, [], [], []⟩

/-! ## Work items -/

/-- An item's name: ITEM values are assigned per partition (R32). -/
structure ItemKey where
  part : Fin 4
  item : BitVec 16
  deriving DecidableEq, Repr

/-- The states of an item on its tile (R296). An `ended` item is FINISHING with its status formed and its record
on its way to the dispatcher; COMPLETE items have left the list. -/
inductive ItemState where
  | queued | running | finishing | ended
  deriving DecidableEq, Repr

/-- A work item in flight (R296 to R298, R306, R311, R316). -/
structure Item where
  key : ItemKey
  job : BitVec 6
  gen : Byte
  det : Bool
  layer : BitVec 12
  tile : TileId
  rank : Nat
  entry : BitVec 16
  args : List Word
  sq : Nat
  cq : Nat
  wd : Nat
  cookie : BitVec 16
  state : ItemState
  /-- status codes of 0x10 or above raised so far, with the block that raised each -/
  errs : List (Nat × Nat)
  remote : Nat
  fenced : Bool
  cancelled : Bool
  poisoned : Bool
  /-- FLAGS of the completion record, bit 0 PROMOTED to bit 7 ALL_MASKED -/
  flags : Byte
  /-- the s[RA] of SIGNAL END -/
  detail : Word
  listEnded : Bool
  usedArray : Bool
  usedVector : Bool
  beatsArray : Nat
  beatsVector : Nat
  beatsMover : Nat
  /-- ΣR_b and ΣD_b of R151, for an item with SPARSE_A or SPARSE_B -/
  sparse : Bool
  sumRb : Nat
  sumDb : Nat
  /-- estimated energy in pJ (R411) -/
  energyPj : Nat
  /-- tap packets sent and not yet accepted (R447) -/
  taps : Nat
  deriving DecidableEq, Repr

/-! ## Spill queues (R321) -/

/-- A fault message (R421); CLASS is the collector's to assign. -/
structure FMsg where
  source : BitVec 12
  kind : Byte
  addr : BitVec 48
  item : BitVec 16
  seq : BitVec 16
  detail : BitVec 25
  deriving DecidableEq, Repr

/-- What a packet of a queue carries. -/
inductive QBody where
  /-- words written to the queue as such -/
  | raw (words : List DWord)
  /-- a completion record's eight words (R316) -/
  | record (words : List Word)
  /-- an item of a work stream -/
  | item (key : ItemKey)
  /-- a generation marker (R308) -/
  | marker (gen : Byte)
  /-- an entry that the ring reader has read: why it cannot be read, or its sixteen words; and its ring index (R312, R324) -/
  | desc (code : Nat) (words : List Word) (wd : Nat)
  deriving DecidableEq, Repr

/-- A committed packet: what it carries, and its queue words. -/
structure QPkt where
  body : QBody
  words : Nat
  deriving DecidableEq, Repr

/-- A spill queue: committed packets in order, the words of a packet whose EOP has not come, and whether
the producer's words are dropped up to its next SOP after a flush (R321, R322, R325). -/
structure SpillQ where
  pkts : List QPkt
  partWords : List DWord
  partBad : Bool
  inPacket : Bool
  dropping : Bool
  /-- lines of eight words that lie in the spill region, and lines written to it so far: the middle of the queue, between `hd` words
  in the head cuff and the rest in the tail cuff (R321). With no line in the region, hd is 0 and the head cuff holds the first 16 -/
  lines : Nat
  wr : Nat
  hd : Nat
  /-- places from the head of words that failed as they were read back (R321) -/
  bad : List Nat
  deriving DecidableEq, Repr

def spillEmpty : SpillQ := ⟨[], [], false, false, false, 0, 0, 0, []⟩

/-- A word of a data queue: its bits, SOP, EOP, and whether it fails its check (R321, R323). -/
structure DataWord where
  bits : DWord
  sop : Bool
  eop : Bool
  bad : Bool
  deriving DecidableEq, Repr

/-- A data-class or telemetry-class queue (R323): its words, whether its producer is inside a packet, whether that packet's words are
dropped up to the next SOP after a flush (R325), and the words delivered of the packet that its consumer is inside, each with the
POISON of its packet's tag. -/
structure DataQ where
  words : List DataWord
  inPacket : Bool
  dropping : Bool
  taken : List (DWord × Bool)
  deriving DecidableEq, Repr

def dataEmpty : DataQ := ⟨[], false, false, []⟩

/-! ## The tile -/

/-- A tile memory: its bytes, and its code faults. For A-mem and P-mem a key of `err` is a byte whose parity
bit is inverted; for W-mem a line with that many stored bits inverted, or 256 for the marker (R245 to R247). -/
structure TMem where
  bytes : List Host.Cell
  err : FMap Nat
  deriving DecidableEq, Repr

/-- A cast context and the list cursor that pruning stores keep in it (R178, R182). -/
structure CastCtx where
  tensor : BitVec 16
  layer : BitVec 12
  step : Word
  indexBase : BitVec 48
  rowPitch : Word
  tscale : Word
  kb : Nat
  p : Nat
  rowBytes : Nat
  listStart : Nat
  rowGroups : Nat
  cursor : Nat
  started : Bool
  lastG : Nat
  lastK : Nat
  /-- blocks promoted so far in each block row of the row group (R91, R154) -/
  promos : List Nat
  deriving DecidableEq, Repr

def castCtxZero : CastCtx := ⟨0, 0, 0, 0, 0, 0, 0, 0, 0, 0, 0, 0, false, 0, 0, []⟩

/-- A sequence slot (R193 to R196): its owner, operator, direction, and 64 carry pairs as words 2e (a) and 2e + 1 (b). -/
structure SeqSlot where
  owner : Option (Fin 4 × BitVec 6)
  op : Nat
  dir : Bool
  poison : Bool
  carry : FMap Word
  deriving DecidableEq, Repr

def seqSlotFree : SeqSlot := ⟨none, 0, false, false, []⟩

/-- A job's parameters as every tile of its partition holds them (R87, R88). -/
structure JobParam where
  seed : Option DWord
  qerr : Word
  promoMax : Nat
  det : Bool
  deriving DecidableEq, Repr

/-- R88: the defaults: no seed, QERR 2⁻³, PROMO_MAX 16. -/
def jobParamDefault : JobParam := ⟨none, 0x3E000000#32, 16, false⟩

/-- A SMAX_STEP that has started and waits for its tag: its record as read, the slot and bank that a FOLD took (R218), and a FOLD's
rows, each with the factor that its O awaits, if any, and that factor's poison (R229). -/
structure FoldHold where
  record : List Word
  bank : Option (Nat × Bool)
  rows : List (Nat × Option Word × Bool)
  deriving DecidableEq, Repr

/-- An entry of the vector issue queue: the word, the scalar values that travel with it, its item (R165, R167). -/
structure VecEntry where
  word : DWord
  scalars : List Word
  scalarPoison : BitVec 16
  key : ItemKey
  /-- a SMAX_STEP that waits for its tag -/
  folded : Option FoldHold
  deriving DecidableEq, Repr

/-- The stage chain (R198, R203): whether it runs, who started it, the table bank and the settings taken at GO
(VEC_SC_CTRL to VEC_SC_FILL in order of offset). -/
structure StageChain where
  running : Bool
  byRot : Bool
  bank : Bool
  cfg : List Nat
  deriving DecidableEq, Repr

/-- The vector engine. `regs` holds lane i of register r under 1024 r + i, `poison` line j under 64 r + j; above the registers,
from 2,560 on, the lines of the program slots, four each. -/
structure VecSt where
  regs : FMap Word
  poison : FMap Bool
  /-- lines whose parity fails (R163): 64 r + j of a register, 2,048 + 8 k + j of slot memory, 2,560 + 4 p + j of a program slot -/
  badLines : FMap Bool
  ctx : Vector CastCtx 8
  /-- program slot p: the 64 words of its checked image (R185, R188) -/
  progs : Vector (Option (List Word)) 8
  slots : Vector SeqSlot 64
  queue : List VecEntry
  jobs : FMap JobParam
  sc : StageChain
  deriving DecidableEq, Repr

/-- The states of an inactive table bank (R218). -/
inductive BankState where
  | empty | loading | ready | rejected
  deriving DecidableEq, Repr

/-- A function-table bank (R210): the words loaded, or the built-in table it holds (R224); lines whose parity fails. -/
structure FtBank where
  live : Bool
  builtin : Option (Fin 11)
  words : FMap Word
  badLines : FMap Bool
  /-- failing lines that a lookup has met and reported (R427) -/
  reported : FMap Bool
  /-- stage chains that run on it (R218) -/
  inflight : Nat
  deriving DecidableEq, Repr

def ftBankEmpty : FtBank := ⟨false, none, [], [], [], 0⟩

/-- A function slot: its two banks, which is active, the inactive bank's state, and a load in progress. -/
structure FtSlot where
  bank0 : FtBank
  bank1 : FtBank
  active : Bool
  inactive : BankState
  /-- the FTB_LOAD word, and whether the tile's sequencer wrote it -/
  load : Option (Word × Bool)
  deriving DecidableEq, Repr

def ftSlotEmpty : FtSlot := ⟨ftBankEmpty, ftBankEmpty, false, .empty, none⟩

/-- An array descriptor placed in a gang (R132), with what the issuing sequencer supplies. -/
structure ArrDesc where
  words : List Word
  key : ItemKey
  gen : Byte
  issuer : TileId
  token : Nat
  cnt : Option Nat
  serial : Nat
  /-- the next step to be formed -/
  nextStep : Nat
  /-- steps whose last row has been written, in every column -/
  stepsDrained : Nat
  /-- steps the descriptor will run: STEPS, or fewer after R534 -/
  stepsTotal : Nat
  /-- it opens a new STORE ring, and the gang tile-columns in which that ring is open (R116) -/
  newRing : Bool
  opened : List Bool
  deriving DecidableEq, Repr

/-- A K-block of a step as it runs (R94, R145 to R147): its index, whether at the promoted rate, and its n:m. -/
structure KRun where
  k : Nat
  promoted : Bool
  beats : Nat
  nm : Nat
  deriving DecidableEq, Repr

/-- A gang step being fed: its run K-blocks, its beats R_b, D_b and C (R148), the beats of C spent, and the beat before
which R119 holds its first slot. -/
structure StepPlan where
  serial : Nat
  idx : Nat
  runs : List KRun
  rb : Nat
  db : Nat
  c : Nat
  pos : Nat
  holdUntil : Nat
  deriving DecidableEq, Repr

/-- A tap accumulator (R446) in units of 2⁻²⁹⁸: whether a value was tapped, whether a square fell outside the units, an
infinity or NaN, a poisoned value. -/
structure TapAcc where
  any : Bool
  sum : Nat
  lost : Bool
  nonfinite : Bool
  poison : Bool
  deriving DecidableEq, Repr

def tapZero : TapAcc := ⟨false, 0, false, false, false⟩

/-- A tap point's accumulator in use (R446): its item, its layer id and its quantity. -/
structure TapOpen where
  key : ItemKey
  layer : BitVec 12
  quantity : Nat
  acc : TapAcc
  deriving DecidableEq, Repr

/-- A step whose slots are all fed and that drains: the wavefront's place and the beat of its last slot, the rows of the
ring stream before it (R116) and whether it opens a ring, rows read in each gang column with the beat of the last read
(R114), and for each gang tile-column whether its region tag has matched (R118) and its tap accumulator. -/
structure DrainStep where
  serial : Nat
  idx : Nat
  runs : List KRun
  last : Nat
  endBeat : Nat
  ringBase : Nat
  newRing : Bool
  cols : List (Nat × Nat)
  go : List Bool
  taps : List TapAcc
  deriving DecidableEq, Repr

/-- The ramp of R125 and R126: 0 none, 1 start, 2 stop, 3 climb back; the beat within it, and the fraction
accumulated in eighths. -/
structure Ramp where
  kind : Nat
  pos : Nat
  acc : Nat
  deriving DecidableEq, Repr

/-- A gang, kept by its leader (R113, R123, R126). -/
structure GangSt where
  /-- placed by ISSUE, not yet accepted -/
  input : List ArrDesc
  /-- accepted, at most four -/
  descs : List ArrDesc
  plan : Option StepPlan
  drains : List DrainStep
  runOpen : Bool
  ramp : Ramp
  /-- beats since the gang was last idle -/
  beat : Nat
  /-- the wavefront's place: how far cell (0, 0) has come, and where the far lanes' last slot ends (R111, R120) -/
  adm : Nat
  tend : Nat
  tailKey : Option ItemKey
  /-- consecutive beats of one halting stall (R126) -/
  haltRun : Nat
  /-- the beat position of R410's spreading pattern -/
  pos64 : Nat
  /-- the previous STORE descriptor's DRAIN_BASE and RING_TILES, and the steps fed to its ring (R116) -/
  ringKey : Option (Nat × Nat)
  ringSteps : Nat
  deriving DecidableEq, Repr

def gangIdle : GangSt := ⟨[], [], none, [], false, ⟨0, 0, 0⟩, 0, 0, 0, none, 0, 0, none, 0⟩

/-- A tile's STORE ring (R116): base, records T × N, rows written and released, and the tile whose sequencer opened it (R135). -/
structure Ring where
  opened : Bool
  base : Nat
  records : Nat
  tiles : Nat
  drained : Nat
  released : Nat
  opener : TileId
  deriving DecidableEq, Repr

/-- A range of tile memory that a step of an accepted array descriptor feeds from (R150). -/
structure Watch where
  mem : MemSel
  lo : Nat
  hi : Nat
  leader : TileId
  serial : Nat
  idx : Nat
  deriving DecidableEq, Repr

/-- The array segment of a tile: bypasses, region tags, ring, the gang it leads (R118, R127, R128). -/
structure MntSt where
  fused : List Byte
  field : List Byte
  /-- field bypasses added that take effect at the block's re-arm (R129) -/
  fresh : List Byte
  rtag : Vector Byte 16
  ring : Ring
  gang : GangSt
  /-- feed images in use, and the steps (leader, descriptor, step) whose image software has written since (R150) -/
  watches : List Watch
  disturbed : List (TileId × Nat × Nat)
  deriving DecidableEq, Repr

/-- The engine an issued entry went to (R301). -/
inductive Engine where
  | mover | array | vector
  deriving DecidableEq, Repr

/-- What holds a token (R301). -/
structure TokenHold where
  eng : Engine
  serial : Nat
  key : ItemKey
  deriving DecidableEq, Repr

/-- What a sequencer waits for (R303, R304, R305). -/
inductive WaitCond where
  /-- the token holders named at the WAIT -/
  | tokens (serials : List (Engine × Nat))
  | counter (k : Fin 16) (target : Word)
  | fence (mover array vector : Bool)
  | post (tile : TileId) (k : Fin 16)
  /-- an ISSUE with entries still to place -/
  | issue
  deriving DecidableEq, Repr

/-- The tile sequencer (R296 to R303). -/
structure SeqSt where
  running : Option ItemKey
  /-- wide enough for any jump target: a fetch beyond the program region fails -/
  pc : Word
  sreg : Vector Word 16
  spoison : BitVec 16
  tokens : Vector (Option TokenHold) 32
  waiting : Option WaitCond
  /-- entries an ISSUE in progress has placed, and the mask of tokens it has taken -/
  issued : Nat
  issueMask : Word
  deriving DecidableEq, Repr

/-- A fabric request still to be made for a descriptor or a survival block: a read of sectors, or a write. -/
structure FabWork where
  isRead : Bool
  chip : BitVec 16
  part : Fin 4
  addr : BitVec 48
  sectors : Nat
  payload : List Byte
  poison : Bool
  deriving DecidableEq, Repr

/-- A move descriptor (R263, R265). -/
structure MvDesc where
  words : List Word
  key : ItemKey
  gen : Byte
  token : Nat
  cnt : Option Nat
  serial : Nat
  /-- it has passed the checks of R291, which are not made again -/
  checked : Bool
  /-- its data have moved; remote writes may await acknowledgement -/
  moved : Bool
  /-- it failed during the move and issues nothing more (R292) -/
  failed : Bool
  /-- fabric requests to make, and those outstanding -/
  todo : List FabWork
  outstanding : Nat
  /-- remote bytes received, by chip × 2⁴⁸ + fabric address: the data, those poisoned, and the sectors received -/
  buffer : List Host.Cell
  badBytes : FMap Bool
  got : FMap Bool
  /-- owner-table entries read, of the source and of the destination, by number, with the addresses at which they were read and
  whether one was poisoned (R283) -/
  srcOwn : FMap DWord
  dstOwn : FMap DWord
  owned : List Nat
  ownBad : Bool
  deriving DecidableEq, Repr

/-- A descriptor as ISSUE places it. -/
def mvNew (words : List Word) (key : ItemKey) (gen : Byte) (token : Nat) (cnt : Option Nat) (serial : Nat) : MvDesc :=
  ⟨words, key, gen, token, cnt, serial, false, false, false, [], 0, [], [], [], [], [], [], false⟩

/-- The data mover: descriptors waiting and in progress (R263). -/
structure MovSt where
  queue : List MvDesc
  active : List MvDesc
  serial : Nat
  deriving DecidableEq, Repr

/-- The scrubber's credits (R258) and the restarts waiting for the current line (R262). -/
structure ScrubSt where
  creditW : Nat
  creditA : Nat
  creditP : Nat
  deriving DecidableEq, Repr

/-- An entry of a translation cache (R339). -/
structure TlbEntry where
  part : Fin 4
  /-- 1 GiB page, else 2 MiB -/
  large : Bool
  vpage : Nat
  pa : Nat
  read : Bool
  write : Bool
  nra : Bool
  /-- PA of the leaf's DIRTY field or of the dirty map -/
  dirtyAt : Nat
  /-- blocks whose dirty bit the cache holds set -/
  dirty : List Nat
  deriving DecidableEq, Repr

/-- What an agent translates with (R339, R340): the root that each partition's walks start at, adopted at the agent's
generation switch, and its cached entries, newest first. -/
structure XlateSt where
  root : Vector DWord 4
  tlb : List TlbEntry
  deriving DecidableEq, Repr

def xlateReset : XlateSt := ⟨Vector.replicate 4 0, []⟩

/-- A tile. -/
structure TileSt where
  retired : Bool
  amem : TMem
  pmem : TMem
  wmem : TMem
  vec : VecSt
  ftb : Vector FtSlot 8
  mnt : MntSt
  seq : SeqSt
  mov : MovSt
  scrub : ScrubSt
  work : SpillQ
  comp : SpillQ
  /-- the tile's translation cache (R339) -/
  xlate : XlateSt
  /-- requests promoted by aging, and the wide row reserved (R240, R243) -/
  promoted : List (Requester × MemSel × BitVec 6)
  wideReserved : Option (MemSel × BitVec 11)
  /-- the neighbours whose stall this router has reported, each with its beats counted so far (R24) -/
  stalls : List (Block × Nat)
  /-- memories wiped since PART_SET's acceptance: A-mem, P-mem, W-mem (R485) -/
  wiped : BitVec 3
  /-- the tap accumulators in use, of the drain, of VST, and of the two output streams of VPRGM (R444, R446) -/
  taps : Vector (Option TapOpen) 4
  /-- the 48 activity counters (R13, R405) -/
  activity : Vector Nat 48
  deriving DecidableEq, Repr

def tmemZero : TMem := ⟨[], []⟩

def vecReset : VecSt :=
  ⟨[], [], [], Vector.replicate 8 castCtxZero, Vector.replicate 8 none, Vector.replicate 64 seqSlotFree, [], [],
    ⟨false, false, false, []⟩⟩

def mntReset : MntSt :=
  ⟨[], [], [], Vector.replicate 16 0, ⟨false, 0, 0, 0, 0, 0, 0⟩, gangIdle, [], []⟩

def seqReset : SeqSt :=
  ⟨none, 0, Vector.replicate 16 0, 0, Vector.replicate 32 none, none, 0, 0⟩

def tileReset : TileSt :=
  { retired := false, amem := tmemZero, pmem := tmemZero, wmem := tmemZero, vec := vecReset,
    ftb := Vector.replicate 8 ftSlotEmpty, mnt := mntReset, seq := seqReset, mov := ⟨[], [], 0⟩,
    scrub := ⟨0, 0, 0⟩, work := spillEmpty, comp := spillEmpty, xlate := xlateReset,
    promoted := [], wideReserved := none, stalls := [], wiped := 0
    taps := Vector.replicate 4 none
    activity := Vector.replicate 48 0 }

/-! ## The quadrant -/

/-- A submission queue beside its registers (R310, R312): the tail of the last doorbell, the entry fetched from
a host ring with its status, and the ring pass of R395. -/
structure SqSt where
  q : SpillQ
  tail : Nat
  fetched : Option (Nat × List Word)
  fetching : Bool
  pass : Nat
  deriving DecidableEq, Repr

/-- A completion queue beside its registers (R318 to R320). -/
structure CqSt where
  q : SpillQ
  /-- the first part of this record is written; its PHASE word waits -/
  half : Option (List Word)
  sinceIrq : Nat
  pass : Nat
  /-- the next record has been refused at its host window, and reported (R389) -/
  refused : Bool
  deriving DecidableEq, Repr

/-- A stream slot (R287, R288): its owner, the tile that opened it, its pattern lines, the pointer and the next
line to prefetch as positions in that list. -/
structure StreamSt where
  part : Fin 4
  job : BitVec 6
  tile : TileId
  lines : List Nat
  pointer : Nat
  next : Nat
  stopped : Bool
  done : Bool
  deriving DecidableEq, Repr

/-- A tap telemetry packet on its way to the quadrant's unit (R446): sum of squares in units of 2⁻²⁹⁸. -/
structure TapPkt where
  key : ItemKey
  job : BitVec 6
  gen : Byte
  det : Bool
  layer : BitVec 12
  quantity : Nat
  sum : Nat
  nonfinite : Bool
  poison : Bool
  /-- it came since the unit drains, and waits for its re-arm (R501) -/
  late : Bool
  deriving DecidableEq, Repr

/-- A bank of the statistics unit (R448): under 4 layer + quantity the sum and flags (bit 0 tapped, 1 nonfinite,
2 poison), under 8 layer + c the six counts of R89. -/
structure StatBank where
  sums : FMap Nat
  flags : FMap Nat
  counts : FMap Nat
  deriving DecidableEq, Repr

/-- The statistics unit (R445 to R449). -/
structure StatSt where
  map : FMap Word
  opened : StatBank
  closed : StatBank
  closedStep : Word
  /-- step marks since SRV_JOB.EN was set -/
  marks : Nat
  taps : List TapPkt
  deriving DecidableEq, Repr

/-- States of SRV_STAT.STATE (R466). -/
inductive SrvState where
  | idle | streaming | complete | restoring | restored | failed
  deriving DecidableEq, Repr

/-- A block of 64 KiB still to be streamed (R456): its tensor, its block, whether by mirror, and whether the
tensor is entering or leaving parity (R459). -/
structure PendBlock where
  tensor : Nat
  block : Nat
  va : Nat
  mirror : Bool
  /-- 0 in parity before and after, 1 entering, 2 leaving -/
  change : Nat
  deriving DecidableEq, Repr

/-- Where data that a survival engine reads go to: an address of the partition, the slot records of a restore, or a tensor's copy that
is read for its digest (R462, R465). -/
inductive SrvDest where
  | va (a : Nat)
  | slots (off : Nat)
  | check (tensor off : Nat)
  deriving DecidableEq, Repr

/-- The survival engine of a quadrant; the lead's acts for its partition (R442, R456 to R465). -/
structure SrvSt where
  step : Option Word
  state : SrvState
  noPoint : Bool
  verdict : Nat
  taken : Word
  committed : Word
  /-- S of the last committed point, for R461 -/
  commitLag : Option Nat
  role : Bool
  /-- the point that SRV_RESTORE named -/
  restoring : Word
  pending : List PendBlock
  /-- blocks copied to staging: (VA of the block, staging slot) -/
  staged : List (Nat × Nat)
  /-- parity blocks streamed, whose staging the commit copies: (staging slot, block of the shadow) -/
  toShadow : List (Nat × Nat)
  /-- VAs of parity blocks changed since the last committed point -/
  changed : List Nat
  /-- deltas folded for the current point: (source position, parity block) -/
  folded : List (Nat × Nat)
  /-- as a holder, the ring slots consumed of each source, as CONSUMED counts them (R453, R459) -/
  consumed : FMap Nat
  /-- by tensor-table index, the method of the committed point and of the point being taken -/
  methods : FMap Nat
  chosen : FMap Nat
  /-- which of the two mirror and parity buffers holds the committed point, and which takes the next -/
  buf : Nat
  newBuf : Nat
  /-- the served job's sequence slots as the point being taken SAVEs them, and the records that a restore reads back, with their poison
  (R454) -/
  newSlots : List (TileId × Nat × SeqSlot)
  slotMem : FMap Byte
  slotBad : FMap Bool
  /-- the mirror buffer that the last mark's replay log went to (R454, R464) -/
  logBuf : Option Nat
  /-- the tensors whose secured copy is being read for their digests, and what has come of it, at 2⁴⁸ × tensor + offset (R465) -/
  checking : List Nat
  checkMem : FMap Byte
  /-- remote requests still to be made, each with the VA that read data go to and whether they are added by XOR -/
  todo : List (FabWork × SrvDest × Bool)
  bytesFabric : Nat
  bytesLocal : Nat
  /-- deltas written to each holder's ring, by its position -/
  sent : FMap Nat
  /-- chips given up by GWP_ABANDON since the last commit (R462 step 7) -/
  lostChips : List (BitVec 16)
  /-- a remote request of the point or the restore was refused -/
  broken : Bool
  /-- the status with which the last restore of a spare FAILED (R463); no register shows it -/
  failCode : Nat
  deriving DecidableEq, Repr

def srvIdle : SrvSt :=
  { step := none, state := .idle, noPoint := true, verdict := 0, taken := 0xFFFFFFFF#32, committed := 0xFFFFFFFF#32,
    commitLag := none, role := false, restoring := 0, pending := [], staged := [], toShadow := [], changed := [],
    folded := [], consumed := [], methods := [], chosen := [], buf := 0, newBuf := 0, newSlots := [], slotMem := [], slotBad := [], logBuf := none, checking := [], checkMem := [], todo := [],
    bytesFabric := 0, bytesLocal := 0, sent := [], lostChips := [], broken := false, failCode := 0 }

/-- A quadrant's periphery. -/
structure QuadSt where
  sqs : Vector SqSt 16
  cqs : Vector CqSt 16
  /-- the submission queue served last, for the round robin of R314 -/
  lastSq : Nat
  /-- the partition's job table, at its lowest quadrant (R313): granted and ending jobs -/
  granted : BitVec 64
  ending : BitVec 64
  /-- a JOB_END or JOB_ABORT whose record waits for the job's last item: job, submission queue, completion queue, ring index, cookie,
  and the live generation when it was taken (R316) -/
  jobEnds : List (BitVec 6 × Nat × Nat × Nat × BitVec 16 × Byte)
  nextItem : BitVec 16
  streams : FMap (Option StreamSt)
  stat : StatSt
  srv : SrvSt
  /-- commit notice received and not yet carried out (R62 steps 3 and 4) -/
  notice : Bool
  /-- markers placed for the pending commit -/
  placed : Bool
  /-- tiles of the quadrant whose marker GENMARK has placed -/
  marked : BitVec 16
  /-- the generation stamped on items dispatched (R58, R62 step 4) -/
  stampGen : Byte
  deriving DecidableEq, Repr

def quadReset : QuadSt :=
  { sqs := Vector.replicate 16 ⟨spillEmpty, 0, none, false, 0⟩, cqs := Vector.replicate 16 ⟨spillEmpty, none, 0, 0, false⟩,
    lastSq := 15, granted := 1, ending := 0, jobEnds := [], nextItem := 0, streams := [],
    stat := ⟨[], ⟨[], [], []⟩, ⟨[], [], []⟩, 0, 0, []⟩, srv := srvIdle, notice := false, placed := false,
    marked := 0, stampGen := 0 }

/-! ## Main memory -/

/-- A line of a cache slice (R335): its number PA / 128, and per sector valid, dirty, and filled by a prefetch. -/
structure CacheLine where
  line : Nat
  valid : BitVec 2
  dirty : BitVec 2
  prefetched : BitVec 2
  deriving DecidableEq, Repr

/-- An HBM stack with its controller beside its registers (R330 to R344). -/
structure HbmSt where
  /-- the slice's lines, the most recently used last (R286, R335) -/
  cache : List CacheLine
  trained : Bool
  filled : Bool
  /-- promoted requests: channel, pseudo-channel, bank, and whether the scrubber's (R334, R336) -/
  promoted : List (BitVec 5 × Bool × BitVec 6 × Bool)
  /-- the bank refreshed last, and refreshes issued (R331) -/
  refreshed : Option (BitVec 5 × Bool × BitVec 6)
  refreshes : Nat
  retired : Word
  /-- channels whose data a reset with retain lost: they read as markers until written (R497) -/
  lostChans : Word
  /-- code words that the stack's on-die ECC reports uncorrectable at the next read from the stack (R333) -/
  onDie : List Nat
  /-- code words that hold the marker in the stack while the slice still holds their sector (R333, R335) -/
  marked : List Nat
  /-- in self-refresh, from a full reset with retain until its training (R67, R331) -/
  selfRefresh : Bool
  /-- the controller's activity counters (R405) -/
  activity : FMap Nat
  deriving DecidableEq, Repr

/-- A channel evacuation of a quadrant (R342): stack bit, channel, retire, phase (of a retraining whose channel is drained, 2 to 4 as
last shown); regions in use with their channel (stack bit, channel, kept by a retirement). -/
structure EvacSt where
  phase : Nat
  stackBit : Bool
  chan : BitVec 5
  retire : Bool
  progress : Nat
  code : Nat
  confirmed : Bool
  regions : List (Bool × BitVec 5 × Bool)
  deriving DecidableEq, Repr

/-! ## The Gwetre fabric -/

/-- A fabric request of this chip outstanding (R263, R352): the mover's descriptor, or none for the survival engine;
for the latter's reads, the virtual address that the data go to. -/
structure FabReq where
  tile : TileId
  slot : BitVec 6
  epoch : BitVec 4
  chip : BitVec 16
  key : ItemKey
  moveSerial : Option Nat
  isRead : Bool
  addr : BitVec 48
  sectors : Nat
  dest : SrvDest
  /-- read data are added into their destination by XOR (R462 step 6) -/
  xor : Bool
  deriving DecidableEq, Repr

/-- A packet that a port sends: its header and payload, whether its CRC is inverted, and every byte on the link after the header:
payload and zero fill, encrypted on a keyed link, and the trailer (R351, R354, R355). -/
structure GwTx where
  header : List Word
  payload : List Byte
  stomp : Bool
  wire : List Byte
  deriving DecidableEq, Repr

/-- A packet of the retry buffer, and how often in a row it has failed (R355). -/
structure GwHeld where
  tx : GwTx
  fails : Nat
  deriving DecidableEq, Repr

/-- A packet that waits to be sent; one in transit stands in its receiver's buffer: the port, the channel and the flits (R356). -/
structure GwWait where
  header : List Word
  payload : List Byte
  buf : Option (PortId × Nat × Nat)
  /-- a request that came since the port drains: it waits for the re-arm (R501) -/
  late : Bool
  deriving DecidableEq, Repr

/-- A packet that a port has accepted and that waits to be served at its destination (R356, R361), or a request of this chip to itself
(R358): whether its buffer's credit goes back over the port's link, and whether it came since the port drains (R501). -/
structure GwHold where
  pk : GwPacket
  credit : Bool
  late : Bool
  deriving DecidableEq, Repr

/-- Link states of GWP_STAT.LINK and CAM_STAT.LINK. -/
inductive Link where
  | down | training | up | disabled
  deriving DecidableEq, Repr

/-- A Gwetre port beside its registers (R354 to R360, R366). -/
structure GwpSt where
  link : Link
  lanes : BitVec 4
  /-- the direction keys in place, sending and receiving, and each direction's nonce counter (R354) -/
  keys : Option (List Byte × List Byte)
  txNonce : BitVec 96
  rxNonce : BitVec 96
  keying : Bool
  peer : BitVec 16
  txSeq : BitVec 12
  rxSeq : BitVec 12
  /-- waiting for the replay of rxSeq, and how often in a row that packet has failed -/
  nakSent : Bool
  rxFails : Nat
  retry : List GwHeld
  waiting : List GwWait
  held : List GwHold
  credits : Vector Nat 3
  routes : FMap Byte
  rdw : FMap DWord
  /-- the port's activity counters (R405) -/
  activity : FMap Nat
  /-- this chip's nonce of the training under way (R480) -/
  nonce : BitVec 256
  deriving DecidableEq, Repr

def gwpReset : GwpSt :=
  ⟨.disabled, 0, none, 0, 0, false, 0, 0, 0, false, 0, [], [], [], Vector.replicate 3 256, [], [], [], 0⟩

/-- GWP_STAT.KEYED. -/
def GwpSt.keyed (g : GwpSt) : Bool := g.keys.isSome

/-! ## The Cammos host link -/

/-- A transaction (R382): the four header words, its payload, and the sealed tag when CONF is set. -/
structure CamTx where
  header : List Word
  payload : List Byte
  tag : List Byte
  deriving DecidableEq, Repr

/-- A data flit of the retry buffer: its FSEQ, its 120 stream bytes, and how often in a row it has failed (R378, R379). -/
structure CamHeld where
  fseq : BitVec 12
  stream : List Byte
  fails : Nat
  deriving DecidableEq, Repr

/-- An outbound read in its TAGID slot (R393): the submission queue that it fetches for, none once that queue has been
flushed or disabled, and the words asked for. -/
structure CamRead where
  slot : Byte
  epoch : BitVec 2
  target : Option (QuadId × Fin 16)
  words : Nat
  deriving DecidableEq, Repr

/-- Session states of CAM_SESSp (R399). -/
inductive SessState where
  | none | active | failed
  deriving DecidableEq, Repr

/-- A confidential session (R394, R481). -/
structure Session where
  state : SessState
  id : BitVec 16
  inCtr : DWord
  outCtr : DWord
  opSlot : Nat
  /-- the keys of its two directions, guest to device and device to guest; none where no session stands (R478) -/
  keyIn : List Byte
  keyOut : List Byte
  deriving DecidableEq, Repr

/-- A Cammos port beside its registers (R378 to R397). -/
structure CamSt where
  link : Link
  /-- the port's activity counters (R405) -/
  activity : FMap Nat
  lanes : Byte
  rxSeq : BitVec 12
  txSeq : BitVec 12
  /-- waiting for the replay of rxSeq, and how often in a row that flit has failed -/
  nakSent : Bool
  rxFails : Nat
  /-- data flits sent and not yet acknowledged -/
  flits : List CamHeld
  /-- stream bytes of a transaction not yet whole, and transactions received and not yet executed, oldest first -/
  partBytes : List Byte
  rx : List CamTx
  /-- memory accesses and doorbells received since the port drains: they wait for its re-arm (R501; entry 18) -/
  later : List CamTx
  /-- transactions sent whose last flit is not acknowledged, with that flit's FSEQ -/
  retry : List (BitVec 12 × CamTx)
  waiting : List CamTx
  creditsP : Nat
  creditsNP : Nat
  creditsCpl : Nat
  reads : List CamRead
  epochs : FMap Nat
  irqPending : BitVec 256
  sess : Vector Session 4
  keying : Bool
  deriving DecidableEq, Repr

def sessNone : Session := ⟨.none, 0, 0, 0, 0, [], []⟩

def camReset : CamSt :=
  { link := .down, activity := [], lanes := 0, rxSeq := 0, txSeq := 0, nakSent := false, rxFails := 0, flits := [],
    partBytes := [], rx := [], later := [], retry := [], waiting := [], creditsP := 0, creditsNP := 0,
    creditsCpl := 0, reads := [], epochs := [], irqPending := 0, sess := Vector.replicate 4 sessNone,
    keying := false }

/-! ## Power and the meter -/

/-- A quadrant's power state (R402 to R411). Energies in pJ, voltages in mV, temperatures in 0.25 °C. -/
structure PwrQuad where
  /-- window energies, newest first, at most 4,000; none for a window missed while the controller was updated (R406,
  R407, R507) -/
  hist : List (Option Nat)
  /-- Σ of untrimmed estimates since the last meter reading (R408) -/
  untrimmed : Nat
  vdd : Nat
  vddm : Nat
  /-- a voltage step in progress: the value written to the rail -/
  vddGoal : Nat
  vddmGoal : Nat
  vddBusy : Bool
  vddmBusy : Bool
  vddFailed : Bool
  vddmFailed : Bool
  vddBoot : Bool
  vddmBoot : Bool
  vcap : Bool
  hot : Nat
  point : Nat
  fa : Nat
  fv : Nat
  /-- voltage tables and estimator weights in use, by the images that brought them, and the images applied (R490, R506) -/
  tables : Nat
  weights : Nat
  tablesTo : Nat
  weightsTo : Nat
  /-- a new table whose voltages are not yet confirmed (R506) -/
  tableNew : Bool
  deriving DecidableEq, Repr

/-- The power controller beside its registers. -/
structure PwrSt where
  quads : Vector PwrQuad 4
  histSys : List (Option Nat)
  temps : List (BitVec 10)
  twarn : Bool
  meterLost : Bool
  /-- remainders below 1 mJ of the PWR_EST counters, in pJ: four quadrants, EST_SYS, UNATTR -/
  frac : FMap Nat
  /-- values that the controller takes from the start of its next window (R62 step 9): address and value -/
  next : List (Nat × Nat)
  /-- items that ran on a tile and ended in the window in progress (R411) -/
  ran : List (TileId × ItemKey)
  deriving DecidableEq, Repr

/-- A mark on its way to the meter (R414). -/
structure Mark where
  kind : Nat
  part : Fin 4
  job : BitVec 6
  qmask : BitVec 4
  mseq : BitVec 16
  deriving DecidableEq, Repr

/-- An open job of the meter: partition, job, E_PART at its start, and whether another job overlapped (R415). -/
structure MeterJob where
  part : Fin 4
  job : BitVec 6
  start : Nat
  overlap : Bool
  deriving DecidableEq, Repr

/-- The registers the meter commits to non-volatile memory (R415, R417). -/
structure MeterNv where
  total : Nat
  parts : Vector Nat 4
  event : Word
  rseq : Nat
  mtime : Nat
  deriving DecidableEq, Repr

/-- The Virhorn meter and its mailbox (R412 to R418, R420). -/
structure MtrSt where
  marks : List Mark
  /-- marks whose senders wait for room in the mailbox: kind, partition, job, quadrants (R414) -/
  waitMarks : List (Nat × Fin 4 × BitVec 6 × BitVec 4)
  mseq : BitVec 16
  link : Bool
  updating : Bool
  running : Bool
  now : MeterNv
  nv : MeterNv
  jobs : List MeterJob
  quads : Vector (BitVec 4) 4
  lastMseq : Option (BitVec 16)
  gap : BitVec 4
  restarted : BitVec 4
  unmetered : BitVec 4
  unmet : Vector Nat 4
  swVersion : Word
  /-- the record window: record n's 256 bytes under n mod 64 (R420) -/
  window : FMap (List Byte)
  deriving DecidableEq, Repr

/-! ## The fault collector -/

/-- The fault collector beside its registers (R424 to R441). -/
structure FltSt where
  /-- reports on their way, oldest first -/
  inflight : List FMsg
  /-- the log, with the class given to each message -/
  log : List (FMsg × Nat)
  /-- FLT_LOG1 to FLT_LOG3's message, per master -/
  hold : Vector (Option (FMsg × Nat)) 3
  /-- a partial packet in the queue's tail cuff (R325) -/
  q : SpillQ
  safe : Bool
  resetNeeded : Bool
  wedged : List (BitVec 12)
  unrevoked : Option (BitVec 12 × Bool)
  unrevokedCnt : Nat
  fatalRec : Option (FMsg × Nat)
  /-- code corruption armed by FLT_INJECT MODE 2: block id, address, bits -/
  armed : List (BitVec 12 × BitVec 48 × Nat)
  /-- the safe state was entered by TAMPER -/
  byTamper : Bool
  deriving DecidableEq, Repr

/-! ## The root of trust -/

/-- A response slot (R494). -/
structure RotRsp where
  status : Nat
  opc : Nat
  valid : Bool
  data : List Byte
  deriving DecidableEq, Repr

/-- An audit entry's 48 bytes (R488). -/
structure AuditEntry where
  index : Nat
  event : Byte
  who : Byte
  status : Byte
  kslot : Word
  digest : List Byte
  deriving DecidableEq, Repr

/-- An installed component (R490, R493): its version, digest, live slot, target instance. -/
structure Component where
  id : BitVec 16
  target : Nat
  slot : Bool
  version : Word
  digest : List Byte
  deriving DecidableEq, Repr

/-- The root of trust beside its registers (R467 to R494). -/
structure RotSt where
  /-- words 0x080 to 0x77C of each command slot -/
  slots : Vector (FMap Word) 3
  waiting : BitVec 3
  rsp : Vector RotRsp 3
  challenge : BitVec 128
  lc : Nat
  factory : Bool
  /-- installer slots fused so far, each with its 57-byte key; all but the active one are retired -/
  instKeys : List (List Byte)
  instActive : Nat
  /-- operator keys under 4 partition + slot -/
  opKeys : FMap (Option (List Byte))
  epochs : Vector Word 4
  map : Byte
  mapStaged : Byte
  enc : BitVec 4
  encStaged : BitVec 4
  mapPending : Bool
  /-- a PART_SET has been accepted since the reset: wipes are reported to ROT_PART.WIPED (R485) -/
  partSet : Bool
  /-- quadrants affected by the staged map -/
  affected : BitVec 4
  zeroing : BitVec 4
  audit : List AuditEntry
  auditNext : Nat
  auditHead : List Byte
  /-- the newest signed batch: its INDEX and chain head -/
  signedAt : Nat
  signedHead : List Byte
  comps : List Component
  floors : FMap Nat
  /-- images being applied: component, target, version, digest -/
  applying : List (BitVec 16 × Nat × Word × List Byte)
  /-- staged route bank and chip id (R358) -/
  routesStaged : FMap Byte
  routesSet : Bool
  chipId : BitVec 16
  /-- a route image has been applied, and the chip id that it stages (R358) -/
  imageStaged : Bool
  chipStaged : BitVec 16
  /-- field-repair record: bypasses, retired tiles, retired channels -/
  repairCols : List (TileId × Byte)
  repairTiles : List TileId
  repairChans : List (StackId × BitVec 5)
  sessIds : Vector (BitVec 16) 2
  lostClks : List RefClk
  /-- firmware slots A and B whose image has failed verification (R497, R508) -/
  badSlots : BitVec 2
  deriving DecidableEq, Repr

/-! ## The device page -/

/-- The device page and the ownership page (R51 to R71, R495, R512). -/
structure DevSt where
  owner : Option Master
  forced : Bool
  handover : Option Master
  genLive : Byte
  genTarget : Byte
  genPend : Bool
  genQueued : Bool
  genRefused : Bool
  /-- the refusing block of the last refused commit -/
  genBlock : BitVec 12
  routerSent : BitVec 64
  phase : Nat
  ready : Bool
  halt : Bool
  slotB : Bool
  code : Nat
  qfail : BitVec 4
  cause : Nat
  retained : Bool
  lost : Byte
  fromSafe : Bool
  tamper : Bool
  /-- RESET_N is asserted (the ball is low) -/
  resetLow : Bool
  /-- the retain value in force for the reset in progress -/
  retain : Bool
  /-- rails are up -/
  powered : Bool
  ptBusy : BitVec 4
  selftest : Nat
  selftestTile : TileId
  selftestAdded : Nat
  selftestRetired : Bool
  deriving DecidableEq, Repr

/-- A master's port into the control space: the held high word of a wide register (R43), and its last answer. -/
structure MasterSt where
  holdAddr : Option Nat
  holdHigh : Word
  status : Nat
  value : Word
  deriving DecidableEq, Repr

/-- What the device has sent out of the package, oldest first. -/
inductive OutEvent where
  /-- the 128 bytes of a flit of a host port (R378) -/
  | cam (h : HostId) (flit : List Byte)
  | gw (p : PortId) (tx : GwTx)
  /-- what a port presents as its link trains: the identity and link certificates and the nonce (R480) -/
  | gwCerts (p : PortId) (identity link : List Byte) (nonce : BitVec 256)
  /-- an AVSBus voltage write: interface, rail select, millivolts (R401) -/
  | avs (iface : Bool) (rail : BitVec 2) (mv : Nat)
  deriving DecidableEq, Repr

/-! ## The whole device -/

/-- The state of the device. -/
structure State where
  /-- the commands that wait, first in, first out -/
  pending : List Instr
  /-- control-space registers by byte address; an unlisted one holds its reset value -/
  regs : FMap DWord
  /-- block headers by block id -/
  hdrs : FMap Hdr
  masters : Vector MasterSt 3
  out : List OutEvent
  items : List Item
  tiles : Vector TileSt 64
  quads : Vector QuadSt 4
  /-- what the stacks hold by physical address, as stored (R341), its code-word faults by PA / 32 (bits inverted, or 256 for the marker) -/
  hbm : List Host.Cell
  hbmErr : FMap Nat
  hbmStacks : Vector HbmSt 8
  evac : Vector EvacSt 4
  /-- the translation caches of the Gwetre ports, the Cammos ports and the quadrants' prefetch walkers (R339, R340) -/
  portXlate : Vector XlateSt 24
  camXlate : Vector XlateSt 2
  walkXlate : Vector XlateSt 4
  ports : Vector GwpSt 24
  /-- the data queues of the Gwetre ports and the telemetry queues of the statistics units (R323) -/
  fabQs : Vector DataQ 24
  teleQs : Vector DataQ 4
  fabReqs : List FabReq
  fabEpochs : FMap Nat
  cams : Vector CamSt 2
  pwr : PwrSt
  mtr : MtrSt
  flt : FltSt
  rot : RotSt
  dev : DevSt
  /-- engines that have had work since their counters were last cleared, whose counters of waiting may have moved (R202, R293):
  by block id, and a Cammos port's outbound reads by 4,096 + block id -/
  waited : FMap Bool
  /-- the MODEL's own: an access of the present step came to a bank that is reserved for a wide access (R243) -/
  heldBack : Bool
  /-- the model's own: physical addresses that the step under way has read from their bank past a promoted request (R336) -/
  passed : List Nat
  /-- the MODEL's own: how many free values have been taken (Config.free) -/
  nfree : Nat
  deriving DecidableEq, Repr

def pwrQuadReset : PwrQuad :=
  ⟨[], 0, 700, 750, 700, 750, false, false, false, false, false, false, false, 0, 3, 0, 0, 0, 0, 0, 0, false⟩

def meterNvReset : MeterNv := ⟨0, Vector.replicate 4 0, 0, 0, 0⟩

/-- The device with its rails up and RESET_N still low (R495 step 1): every register at its reset value, every
memory and queue empty, start-up at PHASE 0. Fused data and the field-repair record hold the values that the
assumption log names. -/
def State.reset : State :=
  { pending := [], regs := [], hdrs := [],
    masters := Vector.replicate 3 ⟨none, 0, 0, 0⟩, out := [], items := [],
    tiles := Vector.replicate 64 tileReset, quads := Vector.replicate 4 quadReset,
    hbm := [], hbmErr := [],
    hbmStacks := Vector.replicate 8 ⟨[], false, false, [], none, 0, 0, 0, [], [], false, []⟩,
    evac := Vector.replicate 4 ⟨0, false, 0, false, 0, 0, false, []⟩,
    portXlate := Vector.replicate 24 xlateReset, camXlate := Vector.replicate 2 xlateReset,
    walkXlate := Vector.replicate 4 xlateReset,
    ports := Vector.replicate 24 gwpReset, fabQs := Vector.replicate 24 dataEmpty
    teleQs := Vector.replicate 4 dataEmpty, fabReqs := [], fabEpochs := [],
    cams := Vector.replicate 2 camReset,
    pwr := { quads := Vector.replicate 4 pwrQuadReset, histSys := [], temps := List.replicate 72 0, twarn := false,
             meterLost := false, frac := [], next := [], ran := [] },
    mtr := { marks := [], waitMarks := [], mseq := 0, link := false, updating := false, running := true, now := meterNvReset,
             nv := meterNvReset, jobs := [], quads := #v[0xF, 0, 0, 0], lastMseq := none, gap := 0,
             restarted := 0xF, unmetered := 0, unmet := Vector.replicate 4 0, swVersion := 0, window := [] },
    flt := { inflight := [], log := [], hold := Vector.replicate 3 none, q := spillEmpty, safe := false,
             resetNeeded := false, wedged := [], unrevoked := none, unrevokedCnt := 0, fatalRec := none,
             armed := [], byTamper := false },
    rot := { slots := Vector.replicate 3 [], waiting := 0, rsp := Vector.replicate 3 ⟨0, 0, false, []⟩,
             challenge := 0, lc := 2, factory := false, instKeys := [List.replicate 57 0], instActive := 0, opKeys := [],
             epochs := Vector.replicate 4 0, map := 0, mapStaged := 0, enc := 0, encStaged := 0,
             mapPending := false, partSet := false, affected := 0, zeroing := 0, audit := [], auditNext := 0,
             auditHead := List.replicate 32 0, signedAt := 0,
             signedHead := List.replicate 32 0, comps := [], floors := [], applying := [],
             routesStaged := [], routesSet := false, chipId := 0, imageStaged := false, chipStaged := 0, repairCols := [], repairTiles := [],
             repairChans := [], sessIds := Vector.replicate 2 0, lostClks := [], badSlots := 0 },
    dev := { owner := none, forced := false, handover := none, genLive := 0, genTarget := 0, genPend := false,
             genQueued := false, genRefused := false, genBlock := 0xFFF, routerSent := 0, phase := 0, ready := false,
             halt := false, slotB := false, code := 0, qfail := 0, cause := 0, retained := false, lost := 0,
             fromSafe := false, tamper := false, resetLow := true, retain := false, powered := true, ptBusy := 0,
             selftest := 0, selftestTile := 0, selftestAdded := 0, selftestRetired := false },
    waited := [], heldBack := false, passed := [], nfree := 0 }

end Sys2Proof.Machine
end

