-- ==== Sys2Proof/Machine/Ops.lean ====
section
/-! DEFINITION. The operations that the commands share: sparse maps, bit fields, registers and counters, block
headers, fault reports, interrupt requests, items, and tile-memory accesses with their checks, poison and repair. -/

namespace Sys2Proof.Machine
open Sys2Proof

/-- A meaning's answer: every command of the device has a next state. -/
abbrev Res := Host.Outcome State Fault Refusal

/-! ## Sparse maps -/

/-- The value under key k; `d k` where the map lists none. -/
def fget {α : Type} (d : Nat → α) (m : FMap α) (k : Nat) : α :=
  match m.find? (fun e => e.1 == k) with
  | some e => e.2
  | none => d k

/-- Entries for a run of values from key k, leaving out those equal to what an unlisted key reads as. -/
def fentries {α : Type} [DecidableEq α] (d : Nat → α) (k : Nat) : List α → FMap α
  | [] => []
  | v :: vs => if v = d k then fentries d (k + 1) vs else (k, v) :: fentries d (k + 1) vs

/-- The map with the values written under consecutive keys from `start`. -/
def fwrite {α : Type} [DecidableEq α] (d : Nat → α) (m : FMap α) (start : Nat) (vals : List α) : FMap α :=
  m.filter (fun e => decide (e.1 < start)) ++ fentries d start vals ++
    m.filter (fun e => decide (start + vals.length ≤ e.1))

/-- One key written. -/
def fset {α : Type} [DecidableEq α] (d : Nat → α) (m : FMap α) (k : Nat) (v : α) : FMap α := fwrite d m k [v]

/-- A run of keys back to what unlisted keys read as. -/
def fclear {α : Type} (m : FMap α) (start len : Nat) : FMap α :=
  m.filter (fun e => decide (e.1 < start) || decide (start + len ≤ e.1))

/-- The part of a map in a range of keys. -/
def frange {α : Type} (m : FMap α) (start len : Nat) : FMap α :=
  m.filter (fun e => decide (start ≤ e.1) && decide (e.1 < start + len))

/-- `len` values from key `start`. -/
def fread {α : Type} (d : Nat → α) (m : FMap α) (start len : Nat) : List α :=
  let w := frange m start len
  (List.range len).map (fun i => fget d w (start + i))

/-- The canonical form: keys strictly rising, no entry equal to what an unlisted key reads as. -/
def fwf {α : Type} [DecidableEq α] (d : Nat → α) (m : FMap α) : Bool :=
  decide (m.Pairwise (fun a b => a.1 < b.1)) && m.all (fun e => decide (e.2 ≠ d e.1))

/-- The canonical form of a byte memory whose unlisted bytes read zero. -/
def Memory.wf (m : List Host.Cell) : Bool := fwf (fun _ => (0 : Byte)) m

/-! ## Bit fields -/

/-- Bits [hi:lo] of a number. -/
def fld (n hi lo : Nat) : Nat := n / 2 ^ lo % 2 ^ (hi + 1 - lo)

/-- Bit i of a number. -/
def bitOf (n i : Nat) : Bool := decide (n / 2 ^ i % 2 = 1)

/-- A number as 0 or 1. -/
def b2n (b : Bool) : Nat := if b then 1 else 0

/-- Bit i of a 64-bit mask set. -/
def maskSet (w : BitVec n) (i : Nat) : BitVec n := w ||| BitVec.ofNat n (2 ^ i)
def maskClear (w : BitVec n) (i : Nat) : BitVec n := w &&& ~~~ BitVec.ofNat n (2 ^ i)
def maskHas (w : BitVec n) (i : Nat) : Bool := w.getLsbD i

/-- The number of ones among the low n bits. -/
def popCount (w : BitVec n) : Nat := ((List.range n).filter (fun i => w.getLsbD i)).length

/-- A signed field of w bits as an integer. -/
def sext (n w : Nat) : Int := if n % 2 ^ w < 2 ^ (w - 1) then (n % 2 ^ w : Nat) else (n % 2 ^ w : Nat) - (2 ^ w : Nat)

/-! ## Updates of parts of the state -/

def modTile (t : TileId) (f : TileSt → TileSt) (s : State) : State := { s with tiles := s.tiles.set t (f s.tiles[t]) }
def modQuad (q : QuadId) (f : QuadSt → QuadSt) (s : State) : State := { s with quads := s.quads.set q (f s.quads[q]) }
def modStack (k : StackId) (f : HbmSt → HbmSt) (s : State) : State := { s with hbmStacks := s.hbmStacks.set k (f s.hbmStacks[k]) }
def modPort (p : PortId) (f : GwpSt → GwpSt) (s : State) : State := { s with ports := s.ports.set p (f s.ports[p]) }
def modCam (h : HostId) (f : CamSt → CamSt) (s : State) : State := { s with cams := s.cams.set h (f s.cams[h]) }
def modVec (t : TileId) (f : VecSt → VecSt) (s : State) : State := modTile t (fun x => { x with vec := f x.vec }) s
def modMnt (t : TileId) (f : MntSt → MntSt) (s : State) : State := modTile t (fun x => { x with mnt := f x.mnt }) s
def modSeq (t : TileId) (f : SeqSt → SeqSt) (s : State) : State := modTile t (fun x => { x with seq := f x.seq }) s
def modMov (t : TileId) (f : MovSt → MovSt) (s : State) : State := modTile t (fun x => { x with mov := f x.mov }) s
def modFlt (f : FltSt → FltSt) (s : State) : State := { s with flt := f s.flt }
def modRot (f : RotSt → RotSt) (s : State) : State := { s with rot := f s.rot }
def modDev (f : DevSt → DevSt) (s : State) : State := { s with dev := f s.dev }
def modPwr (f : PwrSt → PwrSt) (s : State) : State := { s with pwr := f s.pwr }
def modMtr (f : MtrSt → MtrSt) (s : State) : State := { s with mtr := f s.mtr }
def modMaster (m : Fin 3) (f : MasterSt → MasterSt) (s : State) : State :=
  { s with masters := s.masters.set m (f s.masters[m]) }

/-- A label's ASCII bytes (R478). -/
def asciiBytes (t : String) : List Byte := t.toList.map (fun c => BitVec.ofNat 8 c.toNat)

/-- An element of a vector by number, or the default beyond its end. -/
def vat {α : Type} {n : Nat} (v : Vector α n) (i : Nat) (d : α) : α := v[i]?.getD d

/-- A vector with one element changed; unchanged beyond its end. -/
def vput {α : Type} {n : Nat} (v : Vector α n) (i : Nat) (a : α) : Vector α n := v.setIfInBounds i a

/-- A free value (entry 4): a number nothing constrains, and the state with the counter advanced. -/
def takeFree (s : State) : Nat × State := (Config.free s.nfree, { s with nfree := s.nfree + 1 })

/-! ## Registers (R42, R45) -/

/-- The number in the register at a byte address of the control space. -/
def regAt (s : State) (a : Nat) : Nat := (fget (fun k => BitVec.ofNat 64 (regReset k)) s.regs a).toNat

/-- The register at a byte address set. -/
def setRegAt (a v : Nat) (s : State) : State :=
  { s with regs := fset (fun k => BitVec.ofNat 64 (regReset k)) s.regs a (BitVec.ofNat 64 v) }

/-- A block's register on its first page, and its staged copy (R42). -/
def reg (s : State) (b : Block) (off : Nat) : Nat := regAt s (pageBase b 0 + off)
def stagedReg (s : State) (b : Block) (off : Nat) : Nat := regAt s (pageBase b 0 + off + 0x800)
def setReg (b : Block) (off v : Nat) (s : State) : State := setRegAt (pageBase b 0 + off) v s

/-- A 48-bit counter gains n and saturates (R135, R261 and every counter table). -/
def bumpAt (a n : Nat) (s : State) : State := setRegAt a (min (regAt s a + n) (2 ^ 48 - 1)) s
def bump (b : Block) (off n : Nat) (s : State) : State := bumpAt (pageBase b 0 + off) n s

/-- A 32-bit counter gains 1 and saturates. -/
def bump32 (b : Block) (off : Nat) (s : State) : State := setReg b off (min (reg s b off + 1) (2 ^ 32 - 1)) s

/-- Registers of a range of offsets of a page back to reset, as a counter clear does. -/
def clearRegs (base lo hi : Nat) (s : State) : State := { s with regs := fclear s.regs (base + lo) (hi - lo) }

/-! ## Headers (R47) -/

def hdr (s : State) (b : Block) : Hdr := fget (fun _ => hdrReset) s.hdrs (blockId b)
def modHdr (b : Block) (f : Hdr → Hdr) (s : State) : State :=
  { s with hdrs := fset (fun _ => hdrReset) s.hdrs (blockId b) (f (hdr s b)) }

/-- A block takes new items: it is enabled and neither draining, drained, fenced nor updating. -/
def acceptsItems (s : State) (b : Block) : Bool := decide ((hdr s b).mode = .on)

/-- PG_SEQ: the SEQ of the last packet emitted, which wraps (R36, R47). -/
def Hdr.seq (h : Hdr) : BitVec 16 := BitVec.ofNat 16 h.sent

/-- A block emits n packets whose SEQ nothing else names (R36, R47). -/
def emitN (b : Block) (n : Nat) (s : State) : State := modHdr b (fun h => { h with sent := h.sent + n }) s

/-- A block emits a packet: its SEQ, one more than that of the packet before (R36). -/
def emit (b : Block) (s : State) : Nat × State := (((hdr s b).sent + 1) % 65536, emitN b 1 s)

/-- A block emits the packets of a transfer, one or more; the spec does not say how many a transfer takes, so their number
is free (entry 37). -/
def emitSome (b : Block) (s : State) : State :=
  let (n, s) := takeFree s
  emitN b (1 + n % 0x7FFF) s

/-! ## Bytes on a link (R351, R354, R378) -/

/-- Words as bytes, little-endian. -/
def bytesOfWords (ws : List Word) : List Byte := ws.flatMap (fun w => bytesOfNat 4 w.toNat)
/-- The first n bytes of a run, with zeros beyond its end. -/
def fitBytes (n : Nat) (bs : List Byte) : List Byte := (bs ++ List.replicate (n - bs.length) 0).take n

/-- One bit of the CRC with the polynomial 0x04C1_1DB7, least significant bit first. -/
def crcBit (c : Word) : Word := if c.getLsbD 0 then (c >>> 1) ^^^ 0xEDB88320#32 else c >>> 1
def crcByte (c : Word) (b : Byte) : Word := (List.range 8).foldl (fun c _ => crcBit c) (c ^^^ b.zeroExtend 32)
/-- The CRC-32 of IEEE 802.3 over a run of bytes: from all ones, complemented at the end (PRESUMED from that standard; entry 42). -/
def crc32 (bs : List Byte) : Word := ~~~(bs.foldl crcByte (BitVec.allOnes 32))

/-! ## Order of packets (R36) -/

/-- SEQ a precedes SEQ b (R36). -/
def seqBefore (a b : Nat) : Bool :=
  let d := (b + 65536 - a % 65536) % 65536
  decide (1 ≤ d) && decide (d ≤ 32767)

/-- An engine has had work in which it may have waited: its counters of waiting have moved by an amount that is free (entry 7). -/
def noteWork (k : Nat) (s : State) : State := { s with waited := fset (fun _ => false) s.waited k true }

/-! ## Statuses (R317) -/

def stDone : Nat := 0x00
def stPoisoned : Nat := 0x01
def stFenced : Nat := 0x02
def stCancelled : Nat := 0x03
def eAlign : Nat := 0x10
def eExtent : Nat := 0x11
def eHemOverlap : Nat := 0x12
def eCopyOverlap : Nat := 0x13
def eOwnerTable : Nat := 0x14
def ePage : Nat := 0x20
def ePerm : Nat := 0x21
def ePartition : Nat := 0x22
def eFormat : Nat := 0x30
def eScale : Nat := 0x31
def eShape : Nat := 0x32
def eNoseed : Nat := 0x33
def eSparseOverfull : Nat := 0x40
def eSparseIndex : Nat := 0x41
def eSparseHeader : Nat := 0x42
def eTableReject : Nat := 0x50
def eTableEmpty : Nat := 0x51
def eProgram : Nat := 0x52
def eSlot : Nat := 0x53
def eRemote : Nat := 0x60
def eLinkDown : Nat := 0x61
def eBounce : Nat := 0x62
def eDenied : Nat := 0x70
def eInternal : Nat := 0x7F

/-! ## Faults (R421) -/

/-- The source reports a fault: the message leaves as a packet of the source (R36, R421) and waits for the
collector. -/
def raiseFault (src : Block) (kind addr item detail : Nat) (s : State) : State :=
  let (n, s) := emit src s
  modFlt (fun f => { f with inflight := f.inflight ++
    [⟨BitVec.ofNat 12 (blockId src), BitVec.ofNat 8 kind, BitVec.ofNat 48 addr, BitVec.ofNat 16 item,
      BitVec.ofNat 16 n, BitVec.ofNat 25 detail⟩] }) s

/-- The reports that a tile's fault port holds: not yet taken by the network (R429). -/
def portCount (s : State) (t : TileId) : Nat :=
  (s.flt.inflight.filter (fun m => tileUnits.any (fun u => decide (m.source.toNat = blockId (.tile t u))))).length

/-- The tile's fault port holds eight reports: it takes no more (R429). -/
def portFull (s : State) (t : TileId) : Bool := decide (8 ≤ portCount s t)

/-! ## Partitions (R484) -/

/-- The partition of a quadrant under the live map. -/
def partOf (s : State) (q : QuadId) : Fin 4 := ⟨fld s.rot.map.toNat (2 * q.val + 1) (2 * q.val) % 4, by omega⟩
def partOfTile (s : State) (t : TileId) : Fin 4 := partOf s (quadOf t)
/-- The quadrants of a partition. -/
def quadsOf (s : State) (p : Fin 4) : List QuadId := allQuads.filter (fun q => partOf s q == p)
/-- The lowest-numbered quadrant of a partition keeps its job table (R313). -/
def leadQuad (s : State) (p : Fin 4) : QuadId := (quadsOf s p).head?.getD 0
/-- A quadrant in DEV_BOOT_STAT.QFAIL (R497). -/
def quadFailed (s : State) (q : QuadId) : Bool := maskHas s.dev.qfail q.val

/-- The JOB byte of R27. -/
def jobByte (p : Fin 4) (job : BitVec 6) : Nat := p.val * 64 + job.toNat

/-! ## Items (R296) -/

def findItem (s : State) (k : ItemKey) : Option Item := s.items.find? (fun i => decide (i.key = k))
def modItem (k : ItemKey) (f : Item → Item) (s : State) : State :=
  { s with items := s.items.map (fun i => if i.key = k then f i else i) }

/-- A block raises a status of 0x10 or above against an item (R306). -/
def itemErr (k : ItemKey) (code : Nat) (b : Block) (s : State) : State :=
  modItem k (fun i => { i with errs := i.errs ++ [(code, blockId b)] }) s

/-- An item consumed or produced poisoned data (R428). -/
def itemPoison (k : ItemKey) (s : State) : State := modItem k (fun i => { i with poisoned := true }) s

/-- FLAGS bits raised by an engine (R316). -/
def itemFlags (k : ItemKey) (bits : Nat) (s : State) : State :=
  modItem k (fun i => { i with flags := i.flags ||| BitVec.ofNat 8 bits }) s

/-- Items that a tile holds: QUEUED, RUNNING or FINISHING. -/
def tileItems (s : State) (t : TileId) : List Item := s.items.filter (fun i => decide (i.tile = t))

/-- The parameters of a job on a tile (R87, R88). -/
def jobParam (s : State) (t : TileId) (job : Nat) : JobParam :=
  fget (fun _ => jobParamDefault) s.tiles[t].vec.jobs job

/-! ## Tile memories (R236 to R250) -/

def memBytes : MemSel → Nat
  | .amem => 0x300000 | .pmem => 0x200000 | .wmem => 0x200000
def memBanks : MemSel → Nat
  | .amem => 64 | _ => 32
def memIndex : MemSel → Nat
  | .amem => 0 | .pmem => 1 | .wmem => 2
def memOfIndex (n : Nat) : Option MemSel :=
  if n = 0 then some .amem else if n = 1 then some .pmem else if n = 2 then some .wmem else none

def tmem (s : State) (t : TileId) : MemSel → TMem
  | .amem => s.tiles[t].amem | .pmem => s.tiles[t].pmem | .wmem => s.tiles[t].wmem
def setTmem (t : TileId) (m : MemSel) (v : TMem) (s : State) : State :=
  modTile t (fun x => match m with
    | .amem => { x with amem := v } | .pmem => { x with pmem := v } | .wmem => { x with wmem := v }) s

/-- What an unlisted byte of a tile memory and an unlisted code fault read as. -/
def zeroByte : Nat → Byte := fun _ => 0
def noErr : Nat → Nat := fun _ => 0

/-- The code of a W-mem line that holds the marker (R246). -/
def markerCode : Nat := 256

/-- A request to a tile memory: who asks, for which item, by which kind of access. -/
structure MemReq where
  tile : TileId
  mem : MemSel
  by_ : Block
  item : Nat
  /-- the requester uses port B of the true-dual-port region (R251) -/
  portB : Bool
  /-- request-port accesses that this transfer makes (R238); 0 for the feed and drain paths -/
  accesses : Nat
  deriving DecidableEq, Repr

/-- The lines that a range of bytes touches. -/
def linesOf (lo len : Nat) : List Nat :=
  if len = 0 then [] else (List.range ((lo + len - 1) / 64 + 1 - lo / 64)).map (fun i => lo / 64 + i)

/-- The number of line accesses for a contiguous range (R238). -/
def lineCount (lo len : Nat) : Nat := (linesOf lo len).length

/-- A word of A-mem or P-mem, by its address, with a failing byte. An access delivers whole words, and every byte of them is
checked (R238, R247). -/
def wordFails (m : TMem) (w : Nat) : Bool := m.err.any (fun e => e.1 / 4 == w / 4)

/-- Such a word that is reported: a failing byte holds a value other than 0xFF (R247). -/
def wordReports (m : TMem) (w : Nat) : Bool :=
  m.err.any (fun e => e.1 / 4 == w / 4 && fget zeroByte m.bytes e.1 != 0xFF)

/-- The words of a line that the range delivers. -/
def wordsIn (line lo len : Nat) : List Nat :=
  ((List.range 16).map (fun i => 64 * line + 4 * i)).filter (fun w => decide (w < lo + len) && decide (lo < w + 4))

/-- The marker over one word of A-mem or P-mem (R247). -/
def markWord (w : Nat) (m : TMem) : TMem :=
  ⟨fwrite zeroByte m.bytes w [0xFF, 0xFF, 0xFF, 0xFF], fwrite noErr m.err w [1, 1, 1, 1]⟩

/-- The marker over one line of W-mem (R246). -/
def markLine (line : Nat) (m : TMem) : TMem :=
  ⟨fwrite zeroByte m.bytes (64 * line) (List.replicate 64 0xFF), fset noErr m.err line markerCode⟩

/-- What reading the part of a line in [lo, lo + len) finds: the kind reported (0 for none), the first failing word,
the bits corrected, the number of words reported, whether marker data are delivered, and the memory after the repair
in place (R245, R247, R249). -/
def readLine (mem : MemSel) (m : TMem) (line lo len : Nat) : Nat × Nat × Nat × Nat × Bool × TMem :=
  match mem with
  | .wmem =>
    let e := fget noErr m.err line
    if e = 0 then (0, 0, 0, 0, false, m)
    else if e ≤ 2 then (0x02, 0, e, 1, false, { m with err := fset noErr m.err line 0 })
    else if e = markerCode then (0, 0, 0, 0, true, m)
    else (0x03, 0, 0, 1, false, markLine line m)
  | _ =>
    let ws := wordsIn line lo len
    let rep := ws.filter (wordReports m)
    let mk := ws.any (fun w => wordFails m w && !wordReports m w)
    match rep with
    | [] => (0, 0, 0, 0, mk, m)
    | w :: _ => (0x01, w / 4 % 16, 0, rep.length, mk, rep.foldl (fun a w => markWord w a) m)

/-- A report of a tile-memory read (R250): the counters, TMEM_LAST_ERR and the fault message. -/
def tmemReport (t : TileId) (mem : MemSel) (scrub portB : Bool) (item line kind word bits words : Nat)
    (s : State) : State :=
  let b := Block.tile t .tmem
  let cnt := if kind = 0x02 then Off.tmemWCorr else if kind = 0x03 then Off.tmemWUncorr
    else if mem = .amem then Off.tmemAPar else Off.tmemPPar
  let last := memIndex mem + 4 * (line % memBanks mem) + 2 ^ 8 * (line / memBanks mem) + 2 ^ 18 * word +
    2 ^ 22 * b2n scrub + 2 ^ 24 * kind
  let det := memIndex mem + 4 * word + 64 * bits + 256 * b2n scrub + 512 * b2n portB
  s |> bump b cnt words |> setReg b Off.tmemLastErr last
    |> raiseFault (if scrub then .tile t .scrb else b) kind (64 * line) (if scrub then 0 else item) det

/-- The true-dual-port region (R251). -/
def inDualPort (mem : MemSel) (a : Nat) : Bool := mem == .pmem && decide (0x1F0000 ≤ a)

/-- One line of a read: its report, its repair and TMEM_MARK. -/
def touchLine (r : MemReq) (lo len : Nat) (s : State) (line : Nat) : State :=
  let (kind, word, bits, words, mk, m') := readLine r.mem (tmem s r.tile r.mem) line lo len
  let s := if kind = 0 then s
    else setTmem r.tile r.mem m' s |>
      tmemReport r.tile r.mem false (r.portB && inDualPort r.mem (64 * line)) r.item line kind word bits words
  if mk then bump (.tile r.tile .tmem) Off.tmemMark 1 s else s

/-- The lines of a range that hold a code fault. -/
def faultyLines (mem : MemSel) (m : TMem) (lo len : Nat) : List Nat :=
  (linesOf lo len).filter (fun l => m.err.any (fun e => (if mem = .wmem then e.1 else e.1 / 64) == l))

/-- The requesters of R290 that a block's accesses come from. -/
def requestersOf : Block → List Requester
  | .tile _ .sqc => [.sequencer] | .tile _ .vec => [.vector] | .tile _ .mnt => [.feeder, .drain]
  | .tile _ .dmv => [.mover] | .tile _ .scrb => [.scrubber] | _ => [.router]

/-- Accesses granted to the lines of [lo, lo + len): the requester's request to each of their banks is promoted no longer (R240,
R290). -/
def servePromoted (r : MemReq) (lo len : Nat) (s : State) : State :=
  if s.tiles[r.tile].promoted.isEmpty then s
  else modTile r.tile (fun x => { x with promoted := x.promoted.filter (fun p =>
    !((requestersOf r.by_).contains p.1 && p.2.1 == r.mem &&
      (linesOf lo len).any (fun l => p.2.2.toNat == l % memBanks r.mem))) }) s

/-- Of a transfer's accesses to [lo, lo + len), those on port B of the true-dual-port region: line by line where each line is
one access. -/
def portBAccesses (r : MemReq) (lo len : Nat) : Nat :=
  if !r.portB then 0
  else if r.accesses = lineCount lo len then ((linesOf lo len).filter (fun l => inDualPort r.mem (64 * l))).length
  else if inDualPort r.mem lo then r.accesses else 0

/-- A tile's router answers each access that it makes for a requester outside the tile in one packet (R36; entry 37). -/
def answerAccess (r : MemReq) (s : State) : State :=
  match r.by_ with
  | .tile t .tl => emitN (.tile t .tl) r.accesses s
  | _ => s

/-- Accesses granted: TMEM_ACC, and TMEM_DP_B for port B of the true-dual-port region (R261). -/
def countAccess (r : MemReq) (lo len : Nat) (s : State) : State :=
  if r.accesses = 0 then s
  else
    let s := bump (.tile r.tile .tmem) Off.tmemAcc r.accesses (answerAccess r s)
    let n := portBAccesses r lo len
    if n = 0 then s else bump (.tile r.tile .tmem) Off.tmemDpB n s

/-- A descriptor in the wide view (R243). -/
def MvDesc.wide (d : MvDesc) : Bool := bitOf (d.words.getD 0 0).toNat 16

/-- A wide access may be waiting: a mover has a descriptor in the wide view whose data have not moved. -/
def wideWaits (s : State) : Bool :=
  s.tiles.any (fun x => (x.mov.queue ++ x.mov.active).any (fun d => d.wide && !d.moved && !d.failed))

/-- An access comes to one of the 32 banks that are reserved for the wide access of a row (R243). -/
def bankReserved (s : State) (t : TileId) (mem : MemSel) (lo len : Nat) : Bool :=
  match s.tiles[t].wideReserved with
  | none => false
  | some (m, row) => m == mem && wideWaits s &&
      (linesOf lo len).any (fun l => decide (l / 32 * 32 % memBanks mem = 32 * row.toNat % memBanks mem))

/-- With no wide access waiting, no row is reserved for one. -/
def clearReserve (s : State) : State :=
  if s.tiles.any (·.wideReserved.isSome) && !wideWaits s then
    { s with tiles := s.tiles.map (fun x => { x with wideReserved := none }) }
  else s

/-- An access reaches its banks: counted, its promotion ended, and noted where its bank is reserved for a wide access (R240, R243,
R261). -/
def grantAccess (r : MemReq) (lo len : Nat) (s : State) : State :=
  let u := servePromoted r lo len (countAccess r lo len s)
  if bankReserved s r.tile r.mem lo len then { u with heldBack := true } else u

/-- The bytes of a range as stored. -/
def memGet (s : State) (t : TileId) (mem : MemSel) (lo len : Nat) : List Byte :=
  fread zeroByte (tmem s t mem).bytes lo len

/-- Whether a byte that a read delivers is poisoned: its word has a failing byte (R247), or its W-mem line is uncorrectable or
marked. -/
def bytePoison (mem : MemSel) (m : TMem) (a : Nat) : Bool :=
  match mem with
  | .wmem => decide (3 ≤ fget noErr m.err (a / 64))
  | _ => wordFails m a

/-- The poison of each byte of a range. -/
def memPoison (s : State) (t : TileId) (mem : MemSel) (lo len : Nat) : List Bool :=
  let m := tmem s t mem
  if m.err.isEmpty then List.replicate len false
  else (List.range len).map (fun i => bytePoison mem m (lo + i))

/-- A read of [lo, lo + len): checked, reported and repaired line by line, then delivered. -/
def tmRead (r : MemReq) (lo len : Nat) (s : State) : (List Byte × List Bool) × State :=
  let s := grantAccess r lo len s
  let s := (faultyLines r.mem (tmem s r.tile r.mem) lo len).foldl (touchLine r lo len) s
  ((memGet s r.tile r.mem lo len, memPoison s r.tile r.mem lo len), s)

/-- The first 32-bit word a read delivers, little-endian. -/
def wordOf (bs : List Byte) : Nat := natOfBytes (bs.take 4)

/-- A feed image in use is written: its drained values are undefined (R150). -/
def noteDisturb (t : TileId) (mem : MemSel) (lo len : Nat) (s : State) : State :=
  let hits := s.tiles[t].mnt.watches.filter (fun w => w.mem == mem && decide (w.lo < lo + len) && decide (lo < w.hi))
  if hits.isEmpty then s
  else modMnt t (fun m => { m with disturbed := m.disturbed ++ hits.map (fun w => (w.leader, w.serial, w.idx)) }) s

/-- The address of a tile-memory byte in the TMEM_ block's own space, as EA of R299 names it: the memory in [23:22]
(entry 17). -/
def tmemAddr (m : MemSel) (a : Nat) : Nat := memIndex m * 2 ^ 22 + a

/-- What FLT_INJECT MODE 2 armed for a block, whose address a predicate takes (R440). -/
def armedAt (s : State) (b : Block) (p : Nat → Bool) : Option (BitVec 12 × BitVec 48 × Nat) :=
  s.flt.armed.find? (fun a => a.1.toNat == blockId b && p a.2.1.toNat)

def disarm (a : BitVec 12 × BitVec 48 × Nat) (s : State) : State :=
  modFlt (fun f => { f with armed := f.armed.filter (fun x => decide (x ≠ a)) }) s

/-- Code bits inverted in what has just been written to a tile memory, where FLT_INJECT MODE 2 armed it (R440): a W-mem line
within two bits of the marker still reads as the marker (R246), and an inverted parity bit of a failing byte is good again. -/
def applyInject (t : TileId) (mem : MemSel) (lo len : Nat) (s : State) : State :=
  match armedAt s (.tile t .tmem) (fun x => decide (tmemAddr mem lo ≤ x) && decide (x < tmemAddr mem lo + len)) with
  | none => s
  | some a =>
    let m := tmem s t mem
    let ad := a.2.1.toNat - memIndex mem * 2 ^ 22
    let flips := (List.range (min a.2.2 (lo + len - ad))).map (fun k => if fget noErr m.err (ad + k) = 0 then 1 else 0)
    let m' : TMem := match mem with
      | .wmem => if fget noErr m.err (ad / 64) = markerCode ∧ a.2.2 ≤ 2 then m else { m with err := fset noErr m.err (ad / 64) a.2.2 }
      | _ => { m with err := fwrite noErr m.err ad flips }
    disarm a (setTmem t mem m' s)

/-- A write of bytes from lo, each with its poison. Poisoned data write the marker in place of every word, or every
W-mem line, that they touch (R248). -/
def tmWriteRaw (t : TileId) (mem : MemSel) (lo : Nat) (bs : List Byte) (ps : List Bool) (s : State) : State :=
  let m := tmem s t mem
  match mem with
  | .wmem =>
    let m1 : TMem := ⟨fwrite zeroByte m.bytes lo bs, fclear m.err (lo / 64) ((bs.length + 63) / 64)⟩
    let bad := (linesOf lo bs.length).filter
      (fun l => ((ps.drop (64 * l - lo)).take 64).any (fun b => b))
    setTmem t mem (bad.foldl (fun a l => markLine l a) m1) s
  | _ =>
    let m1 : TMem := ⟨fwrite zeroByte m.bytes lo bs, fclear m.err lo bs.length⟩
    let bad := if ps.any (fun b => b) then
        ((List.range ps.length).filter (fun i => ps.getD i false)).map (fun i => (lo + i) / 4 * 4)
      else []
    setTmem t mem (bad.eraseReps.foldl (fun a w => markWord w a) m1) s

/-- A write by a requester: counted, written, noted against feed images in use, and corrupted where armed. -/
def tmWrite (r : MemReq) (lo : Nat) (bs : List Byte) (ps : List Bool) (s : State) : State :=
  grantAccess r lo bs.length s |> tmWriteRaw r.tile r.mem lo bs ps |> noteDisturb r.tile r.mem lo bs.length
    |> applyInject r.tile r.mem lo bs.length

/-! ## Counts of casts (R89, R448) -/

/-- The six per-layer counts of a quadrant's statistics unit: blocks cast, clipped, underflowed, promoted, over the
ceiling, scale-saturated. -/
structure CastCounts where
  blocks : Nat
  clips : Nat
  unders : Nat
  promos : Nat
  ovf : Nat
  sat : Nat
  deriving DecidableEq, Repr

def noCasts : CastCounts := ⟨0, 0, 0, 0, 0, 0⟩
def CastCounts.add (a b : CastCounts) : CastCounts :=
  ⟨a.blocks + b.blocks, a.clips + b.clips, a.unders + b.unders, a.promos + b.promos, a.ovf + b.ovf, a.sat + b.sat⟩

/-- Counts of a cast reach the quadrant's open bank under a layer; each saturates at 48 bits. -/
def statCounts (q : QuadId) (layer : Nat) (c : CastCounts) (s : State) : State :=
  let add (m : FMap Nat) (k n : Nat) : FMap Nat :=
    if n = 0 then m else fset (fun _ => 0) m k (min (fget (fun _ => 0) m k + n) (2 ^ 48 - 1))
  modQuad q (fun x =>
    let m := x.stat.opened.counts
    let m := add (add (add m (8 * layer) c.blocks) (8 * layer + 1) c.clips) (8 * layer + 2) c.unders
    let m := add (add (add m (8 * layer + 3) c.promos) (8 * layer + 4) c.ovf) (8 * layer + 5) c.sat
    { x with stat := { x.stat with opened := { x.stat.opened with counts := m } } }) s

/-- The flags that the counts raise: PROMOTED, PROMO_LIMIT, CLIPPED, UNDERFLOW (R89, R91, R93). -/
def castFlags (c : CastCounts) : Nat :=
  b2n (decide (0 < c.promos)) + 2 * b2n (decide (0 < c.ovf)) + 4 * b2n (decide (0 < c.clips + c.sat)) +
    8 * b2n (decide (0 < c.unders))

/-- The job that the statistics units and survival engines of a partition serve (R442). -/
def served (s : State) (p : Fin 4) (job : Nat) : Bool :=
  let v := reg s (.srv (leadQuad s p)) Off.srvJob
  bitOf v 6 && decide (fld v 5 0 = job)

/-- An item's work reaches its quadrant's statistics unit: its job is served. -/
def servedItem (s : State) (k : ItemKey) : Bool :=
  match findItem s k with
  | some i => served s k.part i.job.toNat
  | none => false

/-- Counts of an item of the served job reach the layer (R442, R448). -/
def countLayer (t : TileId) (k : ItemKey) (layer : Nat) (c : CastCounts) (s : State) : State :=
  if servedItem s k then statCounts (quadOf t) layer c s else s

/-- A cast's counts recorded for an item: its flags, and the layer's counts. -/
def recordCasts (t : TileId) (k : ItemKey) (layer : Nat) (c : CastCounts) (s : State) : State :=
  countLayer t k layer c (itemFlags k (castFlags c) s)

/-- The first failing check of a list. -/
def firstFail : List (Bool × Nat) → Option Nat
  | [] => none
  | (b, c) :: cs => if b then some c else firstFail cs

/-- Every byte of a write clean. -/
def clean (n : Nat) : List Bool := List.replicate n false

end Sys2Proof.Machine
end

