-- ==== Sys2Proof/Machine/Blocks.lean ====
section
/-! DEFINITION. Gangs of tiles (R17 to R20, R131), what is in progress in a block, the locks that PG_LOCKS shows, what
PG_STAT reads, and fencing with its revocations (R430, R432, R433). -/

namespace Sys2Proof.Machine
open Sys2Proof

/-! ## Gangs (R17, R131) -/

/-- A gang as MNT_GANG names it: MODE and ID. -/
structure GangCfg where
  mode : Nat
  id : Nat
  deriving DecidableEq, Repr

def gangCfgOf (v : Nat) : GangCfg := ⟨fld v 1 0, fld v 5 2⟩

/-- The gang side in tiles: 1, 2 or 4; 0 for a parked tile. -/
def gangSide (m : Nat) : Nat := if m = 0 then 1 else if m = 1 then 2 else if m = 2 then 4 else 0

/-- The north-west tile of Cape C(id) (R17). -/
def capeTile (id : Nat) : TileId :=
  quadTile ⟨id / 4 % 4, by omega⟩ ⟨8 * (id % 4 / 2) + 2 * (id % 2), by omega⟩

/-- The tile at gang-relative row i and column j from a north-west tile. -/
def gangTile (nw : TileId) (i j : Nat) : TileId := ⟨(nw.val + 8 * i + j) % 64, by omega⟩

/-- The leader of the gang that a configuration gives a tile: the tile at position (0, 0) (R113). -/
def leaderOf (c : GangCfg) (t : TileId) : TileId :=
  if c.mode = 1 then capeTile c.id else if c.mode = 2 then headTile (quadOf t) else t

/-- The tiles of a gang, in row-major order; none for a parked tile. -/
def gangMembers (c : GangCfg) (t : TileId) : List TileId :=
  let n := gangSide c.mode
  let nw := leaderOf c t
  (List.range n).flatMap (fun i => (List.range n).map (fun j => gangTile nw i j))

/-- The live gang of a tile. -/
def liveGang (s : State) (t : TileId) : GangCfg := gangCfgOf (reg s (.tile t .mnt) Off.mntGang)
def stagedGang (s : State) (t : TileId) : GangCfg := gangCfgOf (stagedReg s (.tile t .mnt) Off.mntGang)
def liveMembers (s : State) (t : TileId) : List TileId := gangMembers (liveGang s t) t
def liveLeader (s : State) (t : TileId) : TileId := leaderOf (liveGang s t) t

/-- The gang is unusable: a retired tile lies in it (R130). -/
def gangUnusable (s : State) (t : TileId) : Bool := (liveMembers s t).any (fun m => s.tiles[m].retired)

/-- The bypassed physical columns of a segment, fused first (R128), and those that MNT_BYPASS also lists before they take
effect (R129). -/
def bypassCols (s : State) (t : TileId) : List Byte := s.tiles[t].mnt.fused ++ s.tiles[t].mnt.field
def shownCols (s : State) (t : TileId) : List Byte := bypassCols s t ++ s.tiles[t].mnt.fresh

/-- The bypasses added to a segment take effect (R129). -/
def adoptBypasses (t : TileId) (s : State) : State :=
  modMnt t (fun m => { m with field := m.field ++ m.fresh, fresh := [] }) s

/-- BYP_b of a gang tile-column: distinct physical columns bypassed in any segment of it (R127). -/
def bypassOf (s : State) (nw : TileId) (n b : Nat) : Nat :=
  (((List.range n).flatMap (fun i => bypassCols s (gangTile nw i b))).eraseDups).length

/-- The width W_b of gang tile-column b (R127). -/
def colWidth (s : State) (nw : TileId) (n b : Nat) : Nat := 256 - bypassOf s nw n b

/-- The gang's logical width W. -/
def gangWidth (s : State) (nw : TileId) (n : Nat) : Nat :=
  ((List.range n).map (fun b => colWidth s nw n b)).sum

/-- The south-edge tile of gang tile-column b. -/
def southTile (nw : TileId) (n b : Nat) : TileId := gangTile nw (n - 1) b

/-- PWR_STAT.HOLD: no item is dispatched, and waiting items stay QUEUED, while the meter is lost (R418). -/
def meterHold (s : State) : Bool := s.pwr.meterLost && bitOf (reg s .pwr Off.pwrPolicy) 0

/-! ## What is in progress in a block -/

/-- The items whose descriptors a gang's leader holds. -/
def gangItems (g : GangSt) : List ItemKey := (g.input ++ g.descs).map (·.key)

/-- The items in progress in a block. -/
def itemsIn (s : State) : Block → List ItemKey
  | .tile t .sqc => ((tileItems s t).filter (fun i => decide (i.state = .running) || decide (i.state = .finishing))).map (·.key)
  | .tile t .vec => s.tiles[t].vec.queue.map (·.key)
  | .tile t .mnt => gangItems s.tiles[liveLeader s t].mnt.gang
  | .tile t .dmv => (s.tiles[t].mov.queue ++ s.tiles[t].mov.active).map (·.key)
  | _ => []

/-- The quadrant whose head tile this is, if any. -/
def headOf (t : TileId) : Option QuadId := allQuads.find? (fun q => decide (headTile q = t))

/-- A block that drains, has drained or is updated takes no new item (R501). -/
def blockStops (s : State) (b : Block) : Bool :=
  let m := (hdr s b).mode
  decide (m = .draining) || decide (m = .drained) || decide (m = .updating)

/-- The router of a tile originates no packet for its tile: its TL_ block is drained (R503; entry 18). -/
def routerStops (s : State) (t : TileId) : Bool := blockStops s (.tile t .tl)

/-- Survival work in progress: streaming or restoring (R503). -/
def srvActive (s : State) (q : QuadId) : Bool :=
  decide (s.quads[q].srv.state = .streaming) || decide (s.quads[q].srv.state = .restoring)

/-- Work in progress in a block, as PG_STAT and a drain see it. -/
def busy (s : State) (b : Block) : Bool :=
  match b with
  | .tile t .sqc => !(itemsIn s b).isEmpty || (match headOf t with | some q => srvActive s q | none => false)
  | .tile t .vec => !(itemsIn s b).isEmpty || s.tiles[t].vec.sc.running
  | .tile t .ftb => s.tiles[t].ftb.toList.any (fun f => f.load.isSome)
  | .tile _ _ => !(itemsIn s b).isEmpty
  | .rot => decide (s.rot.waiting ≠ 0)
  | .gwp p => s.ports[p].waiting.any (fun x => !x.late) || s.ports[p].held.any (fun x => !x.late) || !s.ports[p].retry.isEmpty
  | .cam h => !s.cams[h].rx.isEmpty || !s.cams[h].reads.isEmpty ||
      (decide (s.cams[h].link = .up) && (!s.cams[h].retry.isEmpty || !s.cams[h].waiting.isEmpty))
  | .qdsp q => !s.quads[q].jobEnds.isEmpty
  | .qstat q => s.quads[q].stat.taps.any (fun x => !x.late)
  | .srv q => srvActive s q
  | .qque q => s.quads[q].sqs.toList.any (fun x => !x.q.pkts.isEmpty) ||
      s.quads[q].cqs.toList.any (fun x => !x.q.pkts.isEmpty || x.half.isSome)
  | _ => false

/-- PG_STAT.STATE (R47). -/
def pgState (s : State) (b : Block) : Nat :=
  match (hdr s b).mode with
  | .off => 0
  | .on => if busy s b then 2 else 1
  | .draining => 3
  | .drained => 4
  | .fenced => 5
  | .updating => 6

/-- A tile block, or a peripheral, serves an item: it takes new items, or drains one that it already holds. -/
def servesItem (s : State) (b : Block) (k : ItemKey) : Bool :=
  decide ((hdr s b).mode = .on) || (decide ((hdr s b).mode = .draining) && (itemsIn s b).contains k)

/-! ## Locks (R432, R135, R203, R235, R295, R327, R374, R398) -/

/-- No block. -/
def noBlock : Nat := 0xFFF

/-- A tile's STORE ring holds unreleased rows. -/
def ringUnreleased (r : Ring) : Bool := r.opened && decide (r.released < r.drained)

/-- The tiles of a quadrant whose STORE rings were opened by a tile's sequencer and hold unreleased rows (R135). -/
def ringsOf (s : State) (t : TileId) : List TileId :=
  (quadTiles (quadOf t)).filter (fun x => ringUnreleased s.tiles[x].mnt.ring && decide (s.tiles[x].mnt.ring.opener = t))

/-- The south-edge tiles of a tile's live gang. -/
def southEdge (s : State) (t : TileId) : List TileId :=
  let c := liveGang s t
  let n := gangSide c.mode
  (List.range n).map (fun b => southTile (leaderOf c t) n b)

/-- The root of trust runs stage chains in a tile: its self-test (R199, R203, R498). -/
def rotChain (t : TileId) (s : State) : State :=
  let b := Block.tile t .vec
  s |> modVec t (fun v => { v with sc := ⟨true, true, false, []⟩ }) |> setReg b Off.vecScStat 1
    |> setReg b Off.vecScDone 0 |> setReg b Off.vecScMismatch 0 |> setReg b Off.vecScFirst 0

/-- The host port whose write of a staged register of a block's page is under way: it waits among the commands (R466; entry 29). -/
def stagedWriter (s : State) (b : Block) : Option Nat :=
  s.pending.findSome? (fun c => match c with
    | .registerWrite m _ a _ =>
      if pageBase b 0 + 0x800 ≤ a.toNat ∧ a.toNat < pageBase b 0 + 0x1000 then
        (match m with | .hp0 => some 0 | .hp1 => some 1 | .mgmt => none)
      else none
    | _ => none)

/-- HOLDER0 and HOLDER1 of a block. A sequencer's items are held by its dispatcher until the dispatcher's fence revokes that (R432). -/
def locksOf (s : State) (b : Block) : Nat × Nat :=
  match b with
  | .tile t .mnt =>
    let l := liveLeader s t
    (if s.tiles[l].mnt.gang.descs.isEmpty then noBlock else blockId (.tile l .sqc),
     match (southEdge s t).find? (fun x => ringUnreleased s.tiles[x].mnt.ring) with
     | some x => blockId (.tile s.tiles[x].mnt.ring.opener .sqc)
     | none => noBlock)
  | .tile t .vec =>
    (if s.tiles[t].vec.queue.isEmpty then noBlock else blockId (.tile t .sqc),
     if s.tiles[t].vec.sc.running then (if s.tiles[t].vec.sc.byRot then 0x010 else 0x001) else noBlock)
  | .tile t .ftb =>
    (match s.tiles[t].ftb.toList.find? (fun f => f.load.isSome) with
     | some f => (match f.load with | some (_, true) => blockId (.tile t .sqc) | _ => 0x001)
     | none => noBlock, noBlock)
  | .tile t .dmv => (if s.tiles[t].mov.active.isEmpty then noBlock else blockId (.tile t .sqc), noBlock)
  | .tile t .sqc =>
    let d := blockId (.qdsp (quadOf t))
    (if (tileItems s t).all (fun i => i.errs.contains (stFenced, d)) then noBlock else d, noBlock)
  | .gwp p => (if s.ports[p].keying then 0x010 else noBlock, noBlock)
  | .cam h => (if s.cams[h].keying then 0x010 else noBlock, noBlock)
  | .srv _ => (match stagedWriter s b with | some h => 0x0F0 + h | none => noBlock, noBlock)
  | _ => (noBlock, noBlock)

/-! ## Fencing (R430, R432, R433) -/

/-- A tile retired (R499). -/
def tileRetired (s : State) : Block → Bool
  | .tile t _ => s.tiles[t].retired
  | _ => false

def isWedged (s : State) (b : Block) : Bool := s.flt.wedged.contains (BitVec.ofNat 12 (blockId b))

/-- An item ends FENCED, whatever else it raised (R430); the block that fenced raised the status. -/
def fenceItem (b : Block) (k : ItemKey) (s : State) : State :=
  modItem k (fun i => { i with fenced := true, errs := i.errs ++ [(stFenced, blockId b)] }) s
def fenceItems (b : Block) (ks : List ItemKey) (s : State) : State := ks.foldl (fun a k => fenceItem b k a) s

/-- The tokens that a predicate names become free. -/
def freeTokens (t : TileId) (p : TokenHold → Bool) (s : State) : State :=
  modSeq t (fun q => { q with tokens := q.tokens.map (fun h => match h with
    | some x => if p x then none else some x
    | none => none) }) s

/-- The feed images of a leader's descriptors are no longer in use (R150). -/
def dropWatches (l : TileId) (s : State) : State :=
  (liveMembers s l).foldl (fun s x => modMnt x (fun m => { m with
    watches := m.watches.filter (fun w => decide (w.leader ≠ l))
    disturbed := m.disturbed.filter (fun d => decide (d.1 ≠ l)) }) s) s

def sqc (t : TileId) : Block := .tile t .sqc

/-- A tile counter (R302). -/
def counterOf (s : State) (t : TileId) (k : Nat) : Word := BitVec.ofNat 32 (reg s (sqc t) (Off.sqcEc + 4 * k))
def setCounter (t : TileId) (k : Nat) (v : Word) (s : State) : State := setReg (sqc t) (Off.sqcEc + 4 * k) v.toNat s
/-- A counter gains 1. -/
def addCounter (t : TileId) (k : Nat) (s : State) : State := setCounter t k (counterOf s t k + 1) s

/-- An accepted descriptor completes (R134): its token is free, its counter gains 1, its images may be written. -/
def completeArray (l : TileId) (d : ArrDesc) (s : State) : State :=
  let g := s.tiles[l].mnt.gang
  let descs := g.descs.filter (fun x => decide (x.serial ≠ d.serial))
  let g := if descs.isEmpty ∧ g.plan.isNone ∧ g.drains.isEmpty
    then { g with runOpen := false, ramp := ⟨0, 0, 0⟩, beat := 0, adm := 0, tend := 0, tailKey := none, haltRun := 0 } else g
  let s := modMnt l (fun m => { m with gang := { g with descs := descs } }) s
  let s := (liveMembers s l).foldl (fun s x => modMnt x (fun m => { m with
    watches := m.watches.filter (fun w => decide (w.leader ≠ l) || decide (w.serial ≠ d.serial))
    disturbed := m.disturbed.filter (fun w => decide (w.1 ≠ l) || decide (w.2.1 ≠ d.serial)) }) s) s
  let s := freeTokens d.issuer (fun h => h.eng == .array && h.serial == d.serial) s
  match d.cnt with
  | some k => addCounter d.issuer k s
  | none => s

/-- The last row of a descriptor has been written (R134). -/
def arrayDrained (d : ArrDesc) : Bool := decide (d.stepsDrained = d.stepsTotal) && decide (d.nextStep = d.stepsTotal)

/-- The descriptors of a gang whose last row has been written complete, before anything stops the gang (R134). -/
def completeDrained (l : TileId) (s : State) : State :=
  (s.tiles[l].mnt.gang.descs.filter arrayDrained).foldl (fun s d => completeArray l d s) s

/-- HOLDER0 of MNT_ revoked: the gang's descriptors are discarded and its items end FENCED; one whose last row is written has completed
(R432, R134). What the ring or region positions of unfinished steps hold then is undefined (R134), and whether the next STORE
descriptor with the same DRAIN_BASE and RING_TILES opens a new ring the spec does not say: DESIGN CHOICE (entry 39), each position
keeps what was last written to it, and that descriptor opens a new ring. -/
def revokeGang (l : TileId) (s : State) : State :=
  let s := completeDrained l s
  let g := s.tiles[l].mnt.gang
  let toks := (g.input ++ g.descs).map (·.serial)
  let s := fenceItems (.tile l .sqc) (gangItems g) s
  let s := (g.input ++ g.descs).foldl (fun a d => freeTokens d.issuer
    (fun x => x.eng == .array && toks.contains x.serial) a) s
  modMnt l (fun m => { m with
    gang := { gangIdle with pos64 := m.gang.pos64 } }) (dropWatches l s)

/-- HOLDER1 of MNT_ revoked: RELEASED becomes DRAINED and the ring closes (R432). -/
def revokeRing (t : TileId) (s : State) : State :=
  modMnt t (fun m => { m with ring := { m.ring with released := m.ring.drained, opened := false } }) s

/-- HOLDER0 of VEC_ revoked: the queue is emptied and its items end FENCED. -/
def revokeVec (t : TileId) (s : State) : State :=
  let ks := s.tiles[t].vec.queue.map (·.key)
  modVec t (fun v => { v with queue := [] }) (fenceItems (.tile t .sqc) ks s)

/-- HOLDER0 of FTB_ revoked: loads by the sequencer are abandoned and the inactive bank becomes EMPTY. -/
def abandonLoads (t : TileId) (bySeq : Bool) (s : State) : State :=
  modTile t (fun x => { x with ftb := x.ftb.map (fun f => match f.load with
    | some (_, b) => if b = bySeq then
        { f with load := none, inactive := .empty,
                 bank0 := if f.active then ftBankEmpty else f.bank0, bank1 := if f.active then f.bank1 else ftBankEmpty }
      else f
    | none => f) }) s

/-- HOLDER0 of DMV_ revoked: descriptors stop; later responses find no request; their items end FENCED. -/
def revokeMov (t : TileId) (s : State) : State :=
  let ds := s.tiles[t].mov.active
  let sers := ds.map (fun d => some d.serial)
  let s := fenceItems (.tile t .sqc) (ds.map (·.key)) s
  let s := freeTokens t (fun x => x.eng == .mover && sers.contains (some x.serial)) s
  let s := { s with fabReqs := s.fabReqs.filter (fun r => !(decide (r.tile = t) && sers.contains r.moveSerial)) }
  modMov t (fun m => { m with active := [] }) s

/-- A lock of a wedged resource block cannot be revoked (R433): RESET_NEEDED and FLT_UNREVOKED. -/
def noteUnrevoked (b : Block) (second : Bool) (s : State) : State :=
  modFlt (fun f => { f with
    resetNeeded := true,
    unrevoked := (match f.unrevoked with | some u => some u | none => some (BitVec.ofNat 12 (blockId b), second)),
    unrevokedCnt := min (f.unrevokedCnt + 1) 0xFFF }) s

/-- One lock revoked, unless its resource block is wedged or the lock is free. -/
def revoke (b : Block) (second : Bool) (held : Bool) (f : State → State) (s : State) : State :=
  if !held then s else if isWedged s b then noteUnrevoked b second s else f s

/-- HOLDER1 of MNT_, which the leader's page shows, revoked for the STORE rings of a fenced sequencer: a leader, or a ring's tile, whose
MNT_ is wedged cannot be revoked (R432, R433). -/
def revokeRings (xs : List TileId) (s : State) : State :=
  let stuck (x : TileId) : Bool := isWedged s (.tile (liveLeader s x) .mnt)
  let s := (((xs.filter stuck).map (liveLeader s)).eraseDups).foldl (fun s l => noteUnrevoked (.tile l .mnt) true s) s
  (xs.filter (fun x => !stuck x)).foldl (fun s x => revoke (.tile x .mnt) true true (revokeRing x) s) s

/-- Every lock that a fenced sequencer holds is revoked (R432). -/
def revokeSqcLocks (t : TileId) (s : State) : State :=
  let id := blockId (.tile t .sqc)
  let mnt := Block.tile t .mnt
  let s := revoke mnt false ((locksOf s mnt).1 = id) (revokeGang t) s
  let s := revokeRings (ringsOf s t) s
  let s := revoke (.tile t .vec) false ((locksOf s (.tile t .vec)).1 = id) (revokeVec t) s
  let s := revoke (.tile t .ftb) false ((locksOf s (.tile t .ftb)).1 = id) (abandonLoads t true) s
  revoke (.tile t .dmv) false ((locksOf s (.tile t .dmv)).1 = id) (revokeMov t) s

end Sys2Proof.Machine
end

