-- ==== Sys2Proof/Machine/Bank.lean ====
section
/-! DEFINITION. Where a physical address lies (R332), the scrubber's walk (R334, R342), which requests wait for which at the banks and
controllers of main memory (R336, R501, R504), and the steps that wait (R243, R429). -/

namespace Sys2Proof.Machine
open Sys2Proof

/-! ## Physical addresses (R332) -/

def quadOfPa (pa : Nat) : QuadId := ⟨pa / 2 ^ 37 % 4, by omega⟩
/-- The pseudo-channel index of R332. -/
def pcOfPa (pa : Nat) : Nat := fld pa 14 8 ^^^ fld pa 21 15 ^^^ fld pa 28 22
def stackOfPa (pa : Nat) : StackId := ⟨2 * (pa / 2 ^ 37 % 4) + pcOfPa pa / 64 % 2, by omega⟩
def chanOfPa (pa : Nat) : Nat := pcOfPa pa / 2 % 32

/-- The physical address of sector n of a stack's walk: the stack's addresses in ascending order (entry 12). -/
def stackSectorPa (k : StackId) (n : Nat) : Nat :=
  let o := 64 * n
  let hi := o / 2 ^ 14
  let x := b2n (bitOf hi 6) + b2n (bitOf hi 13) + k.val % 2
  (k.val / 2) * 2 ^ 37 + hi * 2 ^ 15 + x % 2 * 2 ^ 14 + o % 2 ^ 14

/-- The bank of a physical address under the fixed map of R332. -/
def bankOfPa (pa : Nat) : Nat := Config.hbmBank pa % 64

/-! ## The scrubber's walk (R334, R342) -/

/-- A register of a stack's PHY and scrubber page (R347). -/
def phyReg (s : State) (k : StackId) (off : Nat) : Nat := regAt s (pageBase (.hbm k) 1 + off)
def setPhyReg (k : StackId) (off v : Nat) (s : State) : State := setRegAt (pageBase (.hbm k) 1 + off) v s

/-- The physical address of sector i of a channel of a quadrant: R332 solved for the addresses of that channel, in ascending
order. -/
def channelSectorPa (q : QuadId) (b : Bool) (c i : Nat) : Nat :=
  let hi := i / 8 % 2 ^ 22
  let pc := 64 * b2n b + 2 * c + i / 4 % 2
  q.val * 2 ^ 37 + hi * 2 ^ 15 + (pc ^^^ fld hi 6 0 ^^^ fld hi 13 7) * 2 ^ 8 + 64 * (i % 4)

/-- The channel of a physical address has its data in a substitute region, or is being moved there (R342). -/
def movedChannel (s : State) (pa : Nat) : Bool :=
  s.evac[quadOfPa pa].regions.any (fun r => decide ((stackOfPa pa).val % 2 = b2n r.1) && chanOfPa pa == r.2.1.toNat)

/-- What the scrubber reads at an address of its walk (R334, R342): in a region in use, the sector of the moved channel that stands
there; nothing where the sector's channel has moved. -/
def walkedPa (s : State) (pa : Nat) : Option Nat :=
  let off := pa % 2 ^ 37
  match s.evac[quadOfPa pa].regions[(2 ^ 37 - 1 - off) / 2 ^ 31]? with
  | some r => some (channelSectorPa (quadOfPa pa) r.1 r.2.1.toNat (Config.regionSector off % 2 ^ 25))
  | none => if movedChannel s pa then none else some pa

/-- The scrubber runs: its rate is not 0, and its controller is on. -/
def scrubs (s : State) (k : StackId) : Bool :=
  !s.flt.safe && decide ((hdr s (.hbm k)).mode = .on) && decide (fld (phyReg s k Off.hbmScrubRate) 15 0 ≠ 0)

/-- What the scrubber of a stack reads next. -/
def scrubNext (s : State) (k : StackId) : Option Nat :=
  if scrubs s k then walkedPa s (stackSectorPa k (phyReg s k Off.hbmScrubPos)) else none

/-! ## Service (R331, R336, R504) -/

/-- A promoted request is for the pseudo-channel, and for the bank, of an address. -/
def samePc (pa : Nat) (p : BitVec 5 × Bool × BitVec 6 × Bool) : Bool :=
  p.1.toNat == chanOfPa pa && p.2.1 == bitOf (pcOfPa pa) 0
def sameBank (pa : Nat) (p : BitVec 5 × Bool × BitVec 6 × Bool) : Bool := samePc pa p && p.2.2.1.toNat == bankOfPa pa

/-- The promoted requests of a stack that wait: the scrubber's is none where its walk does not read at that bank. -/
def promotions (s : State) (k : StackId) : List (BitVec 5 × Bool × BitVec 6 × Bool) :=
  s.hbmStacks[k].promoted.filter (fun p => !p.2.2.2 || (match scrubNext s k with | some pa => sameBank pa p | none => false))

/-- A promoted request goes before one for this address that is not promoted itself: the scrubber's, or another (R334, R336). -/
def outranked (s : State) (scrub : Bool) (pa : Nat) : Bool :=
  let ps := promotions s (stackOfPa pa)
  ps.any (samePc pa) && !ps.any (fun p => sameBank pa p && p.2.2.2 == scrub)

/-- A request is served at its bank; a promoted one is one no longer (R336). -/
def serveHbm (scrub : Bool) (pa : Nat) (s : State) : State :=
  let k := stackOfPa pa
  if s.hbmStacks[k].promoted.isEmpty then s
  else modStack k (fun x => { x with promoted := x.promoted.filter (fun p => !(sameBank pa p && p.2.2.2 == scrub)) }) s

/-- A controller that drains, has drained or is updated takes no request: they wait (R501, R504). -/
def stackHeld (s : State) (k : StackId) : Bool := blockStops s (.hbm k)

/-- A request for an address reaches its controller: the step that makes it waits while the controller takes none. -/
def atStack (pa : Nat) (s : State) : State := if stackHeld s (stackOfPa pa) then { s with heldBack := true } else s

/-- A demand or prefetch reaches its bank; what it passed must be served in the same step, or the step waits (R336). -/
def atBank (pa : Nat) (s : State) : State :=
  serveHbm false pa (if outranked s false pa then { s with passed := pa :: s.passed } else s)

/-- A packet that a tile originates leaves it: the step waits while its router originates none (R503). -/
def leaves (t : TileId) (s : State) : State := if routerStops s t then { s with heldBack := true } else s

/-- A step that makes requests waits while a tile's router stops (R503), while a bank of a tile memory is reserved (R243), a controller takes no request (R504), or a
promoted request that it passed still waits (R336). -/
def unlessHeld (f : State → State) (s : State) : State :=
  let u := f { s with heldBack := false, passed := [] }
  if u.heldBack || u.passed.any (outranked u false) then s else { u with passed := [] }

/-- A step of an engine of tile t: one that a reserved bank holds back waits, and while the tile's fault port is full, so does one
that would report a fault, POISON_HOLD (R243, R429). A step with several reports waits until the port has room for all of them, or is
empty (entry 44). -/
def viaPort (t : TileId) (f : State → State) (s : State) : State :=
  let u := unlessHeld f s
  if decide (portCount s t < portCount u t) && decide (8 < portCount u t) && decide (portCount s t ≠ 0) then s else u

end Sys2Proof.Machine
end

