-- ==== Sys2Proof/Machine/Items.lean ====
section
/-! DEFINITION. Items: how one fails, ends, is cancelled or fenced; the completion record (R306, R316); spill queues
(R321, R322); and the fence of a block with the flush of a sequencer's work stream (R430, R432). -/

namespace Sys2Proof.Machine
open Sys2Proof

/-! ## Spill queues (R321, R322) -/

/-- The words that a queue holds: both cuffs and the spill region. -/
def spillWords (q : SpillQ) : Nat := (q.pkts.map (·.words)).sum + q.partWords.length

/-- The words in the head cuff and in the tail cuff (R321). -/
def headWords (q : SpillQ) : Nat := if q.lines = 0 then min 16 (spillWords q) else q.hd
def tailWords (q : SpillQ) : Nat := spillWords q - headWords q - 8 * q.lines

/-- The lines of eight words that a spill region of 2 ^ log2 bytes holds (entry 8). -/
def spillLines (log2 : Nat) : Nat := 2 ^ log2 / 64

/-- The words that a data queue may hold: two cuffs of 16, and its spill region. -/
def dataRoom (log2 : Nat) : Nat := 32 + 8 * spillLines log2

/-- The lines that leave a tail cuff of more than 16 words for the spill region (R321). -/
def excessLines (q : SpillQ) : Nat := (tailWords q - 16 + 7) / 8

/-- The packet at a queue's head removed. -/
def dropHead (q : SpillQ) : SpillQ :=
  let n := (q.pkts.head?.map (·.words)).getD 0
  { q with pkts := q.pkts.drop 1, hd := if q.lines = 0 then 0 else q.hd - n, bad := (q.bad.filter (fun x => decide (n ≤ x))).map (· - n) }

/-- Packets removed from a queue wherever they stand; lines of the region that no word needs any more are free. -/
def keepPkts (keep : QPkt → Bool) (q : SpillQ) : SpillQ :=
  let pkts := q.pkts.filter keep
  let n := (pkts.map (·.words)).sum + q.partWords.length
  let l := min q.lines ((n - q.hd) / 8)
  { q with pkts := pkts, lines := l, wr := q.wr - (q.lines - l), hd := if l = 0 then 0 else q.hd, bad := q.bad.filter (fun x => decide (x < n)) }

/-- A data-class or telemetry-class queue, which delivers word by word (R323). -/
def dataQueue : QueueId → Bool
  | .fab _ | .tele _ => true
  | _ => false

/-- The block of a queue and its QUE_ page's index in it (R310, R318, R324, R441). The data queues have no page in the map. -/
def quePage : QueueId → Block × Nat
  | .sq q k => (.qque q, k.val)
  | .cq q k => (.qque q, 16 + k.val)
  | .work t => (.tile t .que, 0)
  | .comp t => (.tile t .que, 1)
  | .fault => (.flt, 1)
  | .fab p => (.gwp p, 0)
  | .tele q => (.qstat q, 0)

/-- A register of a queue's page; a data queue's stand above the control space, where no access reaches them (entry 8). -/
def queAddr (id : QueueId) (off : Nat) : Nat :=
  match id with
  | .fab p => 2 ^ 25 + 4096 * p.val + off
  | .tele q => 2 ^ 25 + 4096 * (24 + q.val) + off
  | id => pageBase (quePage id).1 (quePage id).2 + off
def queReg (s : State) (id : QueueId) (off : Nat) : Nat := regAt s (queAddr id off)
def setQueReg (id : QueueId) (off v : Nat) (s : State) : State := setRegAt (queAddr id off) v s
def bumpQue32 (id : QueueId) (off n : Nat) (s : State) : State :=
  setQueReg id off (min (queReg s id off + n) (2 ^ 32 - 1)) s
/-- QUE_CTRL.EN; the fault queue always runs (R441), and so do the data queues. -/
def queEn (s : State) (id : QueueId) : Bool := id == .fault || dataQueue id || bitOf (queReg s id Off.queCtrl) 0

/-- The contents of a queue that commits per packet. -/
def queOf (s : State) : QueueId → SpillQ
  | .sq q k => s.quads[q].sqs[k].q
  | .cq q k => s.quads[q].cqs[k].q
  | .work t => s.tiles[t].work
  | .comp t => s.tiles[t].comp
  | .fault => s.flt.q
  | .fab _ | .tele _ => spillEmpty

def setQue (id : QueueId) (v : SpillQ) (s : State) : State :=
  match id with
  | .sq q k => modQuad q (fun x => { x with sqs := x.sqs.set k { x.sqs[k] with q := v } }) s
  | .cq q k => modQuad q (fun x => { x with cqs := x.cqs.set k { x.cqs[k] with q := v } }) s
  | .work t => modTile t (fun x => { x with work := v }) s
  | .comp t => modTile t (fun x => { x with comp := v }) s
  | .fault => modFlt (fun f => { f with q := v }) s
  | .fab _ | .tele _ => s

/-- QUE_SPILL_SIZE in bytes. -/
def spillSize (s : State) (id : QueueId) : Nat := 2 ^ queReg s id Off.queSpillSize

/-- A queue has room for n more words: the producer waits while the spill region and both cuffs are full (R321). -/
def queRoom (s : State) (id : QueueId) (n : Nat) : Bool :=
  let q := queOf s id
  decide (spillWords q + n ≤ (if q.lines = 0 then 16 else q.hd) + 8 * spillLines (queReg s id Off.queSpillSize) + 16)

/-- The byte of a queue's memory at which line n of its spill region lies. -/
def spillAt (s : State) (id : QueueId) (n : Nat) : Nat :=
  queReg s id Off.queSpillBase + 64 * (n % spillLines (queReg s id Off.queSpillSize))

/-- A line of words as the spill region holds it, with parity, SOP and EOP; its layout is not stated (entry 8). -/
def spillBytes (s : State) : List Byte × State :=
  let (n, s) := takeFree s
  (bytesOfNat 64 n, s)

/-- What the tail cuff cannot hold is written to the spill region, in whole lines (R321). -/
def spillOut (write : Nat → State → State) (id : QueueId) (s : State) : State :=
  let q := queOf s id
  let n := excessLines q
  if n = 0 then s
  else (List.range n).foldl (fun s j => write (q.wr + j) s)
    (setQue id { q with hd := headWords q, lines := q.lines + n, wr := q.wr + n } s)

/-- The oldest line of the spill region read back into the head cuff; the words of one that fails fail (R321). -/
def fetchLine (read : Nat → State → Bool × State) (id : QueueId) (s : State) : State :=
  let q := queOf s id
  if q.lines = 0 then s
  else
    let (bad, s) := read (q.wr - q.lines) s
    setQue id { q with
      lines := q.lines - 1, hd := if q.lines = 1 then 0 else q.hd + 8
      bad := if bad then q.bad ++ (List.range 8).map (q.hd + ·) else q.bad } s

def fetchLines (read : Nat → State → Bool × State) (id : QueueId) : Nat → State → State
  | 0, s => s
  | n + 1, s => fetchLines read id n (fetchLine read id s)

/-- The packet at a queue's head comes into the head cuff, and whether a word of it fails (R321, R322). -/
def headBad (read : Nat → State → Bool × State) (id : QueueId) (s : State) : Bool × State :=
  let q := queOf s id
  let n := (q.pkts.head?.map (·.words)).getD 0
  let s := fetchLines read id (if q.lines = 0 then 0 else (n - q.hd + 7) / 8) s
  ((queOf s id).bad.any (fun x => decide (x < n)), s)

/-- The packet at a queue's head leaves it, and lines for which the head cuff has room are read back. -/
def takeHead (read : Nat → State → Bool × State) (id : QueueId) (s : State) : State :=
  let q := dropHead (queOf s id)
  fetchLines read id (if q.lines = 0 then 0 else (16 - q.hd) / 8) (setQue id q s)

/-- The access of a tile-local queue to its spill region in A-mem. -/
def queReq (t : TileId) (lo len : Nat) : MemReq := ⟨t, .amem, .tile t .que, 0, false, lineCount lo len⟩

/-- Lines of a tile-local queue's spill region, where A-mem has them. -/
def tileSpill (t : TileId) (id : QueueId) (n : Nat) (s : State) : State :=
  let lo := spillAt s id n
  if memBytes .amem < lo + 64 then s
  else
    let (bs, s) := spillBytes s
    tmWrite (queReq t lo 64) lo bs (clean 64) s
def tileFetch (t : TileId) (id : QueueId) (n : Nat) (s : State) : Bool × State :=
  let lo := spillAt s id n
  if memBytes .amem < lo + 64 then (true, s)
  else
    let (d, s) := tmRead (queReq t lo 64) lo 64 s
    (d.2.any (fun b => b), s)

/-- A packet enters a tile-local queue (R321). -/
def pushTile (t : TileId) (id : QueueId) (p : QPkt) (s : State) : State :=
  spillOut (tileSpill t id) id (setQue id { queOf s id with pkts := (queOf s id).pkts ++ [p] } s)

/-- Whether the packet at the head of a tile-local queue fails, and that packet taken (R321, R322). -/
def tileHeadBad (t : TileId) (id : QueueId) (s : State) : Bool × State := headBad (tileFetch t id) id s
def takeTileHead (t : TileId) (id : QueueId) (s : State) : State := takeHead (tileFetch t id) id s

/-- QUE_STAT.KIND and CLASS (R28, R324, R441). -/
def queKind : QueueId → Nat
  | .sq _ _ => 0 | .cq _ _ => 1 | .work _ => 2 | .comp _ => 3 | .fault => 4 | .fab _ => 5 | .tele _ => 6
def queClass : QueueId → Nat
  | .fault => 3 | .fab _ => 1 | .tele _ => 2 | _ => 0

/-- The block that a queue belongs to. -/
def queBlock (id : QueueId) : Block := (quePage id).1

/-- ITEM of a report about a packet of a queue that cannot be read: 0xFFFF where its packets carry an item, 0 where they carry none, as
submission descriptors do (R421). -/
def lostItem (id : QueueId) : Nat := if queKind id = 0 then 0 else 0xFFFF

/-- A packet rewound: counted and reported, but in the collector's own queue, where it is counted only (R322, R424). -/
def rewound (id : QueueId) (s : State) : State :=
  let s := bumpQue32 id Off.queRewindCnt 1 s
  match id with
  | .fault => bump .flt Off.fltLost 1 s
  | _ => raiseFault (queBlock id) 0x08 0 (lostItem id) (queKind id + 2 ^ 8) s

/-- An entry of a submission queue that has vanished: its dispatcher posts a record in its turn (R314). -/
def vanished (wd : Nat) : QPkt := ⟨.desc eInternal [] wd, 0⟩

/-- The ring index of a packet of a submission queue: an entry's own; else the head's. -/
def wdOf (s : State) (id : QueueId) (p : QPkt) : Nat :=
  match p.body with
  | .desc _ _ wd => wd
  | _ => queReg s id Off.queSqHead

/-- The packet at a queue's head has a word that fails its check: it vanishes (R322). The collector's queue is its log (R424). -/
def rewindHead (id : QueueId) (s : State) : State :=
  match id with
  | .fault => (match s.flt.log with
    | [] => s
    | _ :: rest => rewound id (modFlt (fun f => { f with log := rest }) s))
  | _ => (match (queOf s id).pkts with
    | [] => s
    | p :: _ =>
      let q := dropHead (queOf s id)
      rewound id (setQue id { q with pkts := if queKind id = 0 then vanished (wdOf s id p) :: q.pkts else q.pkts } s))

/-- The completion queue and the submission queue that a number 0 to 63 names. -/
def cqOfNat (n : Nat) : QuadId × Fin 16 := (⟨n / 16 % 4, by omega⟩, ⟨n % 16, by omega⟩)

/-! ## The completion record (R306, R316) -/

/-- The numerically lowest code of 0x10 or above, with the block that raised it. -/
def lowestErr (errs : List (Nat × Nat)) : Option (Nat × Nat) :=
  errs.foldl (fun a e => if e.1 < 0x10 then a else
    match a with | some b => if e.1 < b.1 then some e else a | none => some e) none

/-- STATUS of an item (R306). -/
def itemStatus (i : Item) : Nat :=
  if i.cancelled then stCancelled else if i.fenced then stFenced
  else match lowestErr i.errs with
    | some e => e.1
    | none => if i.poisoned then stPoisoned else stDone

/-- SKIP of R151: ⌊65,536 × (1 − ΣR_b / ΣD_b)⌋, at most 0xFFFF; 0 without a sparse operand. -/
def itemSkip (i : Item) : Nat :=
  if i.sparse && decide (0 < i.sumDb) then min ((i.sumDb - i.sumRb) * 65536 / i.sumDb) 0xFFFF else 0

/-- DETAIL (R306). -/
def itemDetail (i : Item) : Nat :=
  let st := itemStatus i
  if st = stFenced then (match i.errs.find? (fun e => e.1 == stFenced) with | some e => e.2 | none => 0)
  else if 0x10 ≤ st then
    (match lowestErr i.errs with | some e => e.2 | none => 0) + (if st = eRemote then 2 ^ 16 * (i.remote % 256) else 0)
  else if i.usedArray then itemSkip i
  else i.detail.toNat

/-- BENG and BEATS (R316): the array gang's, else the vector engine's, else the mover's. -/
def itemBeats (i : Item) : Nat × Nat :=
  if i.usedArray then (0, i.beatsArray) else if i.usedVector then (1, i.beatsVector) else (2, i.beatsMover)

/-- A record's eight words without SEQ and PHASE, which its writing adds. -/
def recordWords (item status flags gen job sq tile beng beats wd nj detail cookie : Nat) : List Word :=
  let b := min beats (2 ^ 40 - 1)
  [BitVec.ofNat 32 (item + 2 ^ 16 * status + 2 ^ 24 * flags),
   BitVec.ofNat 32 (gen + 2 ^ 8 * job + 2 ^ 16 * sq + 2 ^ 22 * tile + 2 ^ 28 * beng),
   BitVec.ofNat 32 b, BitVec.ofNat 32 (b / 2 ^ 32 + 2 ^ 8 * wd), BitVec.ofNat 32 (min nj (2 ^ 32 - 1)),
   BitVec.ofNat 32 detail, BitVec.ofNat 32 (2 ^ 16 * cookie), 0#32]

/-- The record of an item that has ended; ENERGY in nJ, rounded down (R411). -/
def itemRecord (i : Item) : List Word :=
  let (beng, beats) := itemBeats i
  recordWords i.key.item.toNat (itemStatus i) i.flags.toNat i.gen.toNat (jobByte i.key.part i.job) i.sq i.tile.val
    beng (if i.cancelled then 0 else beats) i.wd (if i.cancelled then 0 else i.energyPj / 1000) (itemDetail i)
    i.cookie.toNat

/-- The record of a job command or a refused descriptor: ITEM 0xFFFF and BENG 3 (R313, R314, R316). -/
def commandRecord (status gen job sq wd detail cookie : Nat) : List Word :=
  recordWords 0xFFFF status 0 gen job sq 0 3 0 wd 0 detail cookie

def hword (ws : List Word) (i : Nat) : Nat := (ws.getD i 0).toNat

/-- The item of a record. -/
def recordKey (ws : List Word) : ItemKey :=
  ⟨⟨fld (hword ws 1) 15 14 % 4, by omega⟩, BitVec.ofNat 16 (hword ws 0)⟩

/-- A record as a packet of four queue words. -/
def recordPkt (ws : List Word) : QPkt := ⟨.record ws, 4⟩

/-! ## Ending and failing (R306) -/

/-- The item's status is formed and its record, a packet of the sequencer, enters the tile's completion stream. -/
def endItem (i : Item) (s : State) : State :=
  let i' := { i with state := .ended }
  let s := if i.state = .queued then s else modPwr (fun p => { p with ran := p.ran ++ [(i.tile, i.key)] }) s
  s |> modItem i.key (fun _ => i') |> pushTile i.tile (.comp i.tile) (recordPkt (itemRecord i'))
    |> emitN (.tile i.tile .sqc) 1 |> bump (.tile i.tile .sqc) Off.sqcItems 1

/-- An item removed before it started ends CANCELLED (R306). -/
def cancelItem (k : ItemKey) (s : State) : State :=
  match findItem s k with
  | none => s
  | some i =>
    let w := queOf s (.work i.tile)
    let s := setQue (.work i.tile) (keepPkts (fun p => decide (p.body ≠ .item k)) w) s
    endItem { i with cancelled := true } s

/-- The sequencer leaves its item: the list has ended or was stopped. -/
def stopList (t : TileId) (s : State) : State :=
  modSeq t (fun q => { q with running := none, waiting := none, issued := 0, issueMask := 0 }) s

/-- The item's entries that have not started are discarded: queued vector instructions, waiting move descriptors, and
array descriptors not yet accepted (R306, R168, R264). -/
def discardEntries (k : ItemKey) (t : TileId) (s : State) : State :=
  let mv := (s.tiles[t].mov.queue.filter (fun d => decide (d.key = k))).map (·.serial)
  let l := liveLeader s t
  let ar := (s.tiles[l].mnt.gang.input.filter (fun d => decide (d.key = k))).map (·.serial)
  s |> modVec t (fun v => { v with queue := v.queue.filter (fun e => decide (e.key ≠ k)) })
    |> modMov t (fun m => { m with queue := m.queue.filter (fun d => decide (d.key ≠ k)) })
    |> modMnt l (fun m => { m with gang := { m.gang with input := m.gang.input.filter (fun d => decide (d.key ≠ k)) } })
    |> freeTokens t (fun x => (x.eng == .mover && mv.contains x.serial) || (x.eng == .array && ar.contains x.serial))

/-- The list of a running item stops: the item becomes FINISHING and its unstarted entries are discarded. -/
def stopItem (k : ItemKey) (t : TileId) (s : State) : State :=
  let s := discardEntries k t s
  let s := modItem k (fun i => if i.state = .running then { i with state := .finishing, listEnded := true } else i) s
  if s.tiles[t].seq.running = some k then stopList t s else s

/-- An engine's or a sequencer's failure against an item (R306). -/
def failItem (k : ItemKey) (t : TileId) (code : Nat) (b : Block) (s : State) : State :=
  stopItem k t (itemErr k code b s)

/-- Work of an item outstanding on its tile's engines: nothing of it may remain when it ends (R306, R447). -/
def outstanding (s : State) (i : Item) : Bool :=
  s.tiles[i.tile].seq.tokens.toList.any (fun h => match h with | some x => decide (x.key = i.key) | none => false) ||
  s.tiles[i.tile].vec.queue.any (fun e => decide (e.key = i.key)) ||
  (s.tiles[i.tile].mov.queue ++ s.tiles[i.tile].mov.active).any (fun d => decide (d.key = i.key)) ||
  (gangItems s.tiles[liveLeader s i.tile].mnt.gang).contains i.key ||
  decide (0 < i.taps)

/-! ## Fencing -/

/-- The work stream of a tile flushed: its items end CANCELLED, its markers stay (R325). -/
def flushWork (t : TileId) (s : State) : State :=
  let ks := s.tiles[t].work.pkts.filterMap (fun p => match p.body with | .item k => some k | _ => none)
  let s := ks.foldl (fun a k => cancelItem k a) s
  modTile t (fun x =>
    let w : SpillQ := { x.work with partWords := [], partBad := false, dropping := x.work.dropping || x.work.inPacket }
    { x with work := keepPkts (fun p => match p.body with | .marker _ => true | _ => false) w }) s

/-- The items that a fenced sequencer has not started leave its stream and end FENCED (R430). -/
def fenceQueued (b : Block) (t : TileId) (s : State) : State :=
  let ks := ((tileItems s t).filter (fun i => decide (i.state = .queued))).map (·.key)
  let s := setQue (.work t) (keepPkts (fun p => match p.body with | .item k => !ks.contains k | _ => true) (queOf s (.work t))) s
  ks.foldl (fun s k => match findItem (fenceItem b k s) k with
    | some i => endItem i s
    | none => s) s

/-- HOLDER0 of SQC_ revoked when a dispatcher is fenced (R432): QUEUED items end CANCELLED, the others FENCED. -/
def revokeItems (b : Block) (t : TileId) (s : State) : State :=
  let ks := ((tileItems s t).filter (fun i => decide (i.state = .running) || decide (i.state = .finishing))).map (·.key)
  fenceItems b ks (flushWork t s)

/-- A fenced gang member: admission stops and the drain stops after its current record (R134). -/
def stopGang (t : TileId) (s : State) : State := revokeGang (liveLeader s t) s

/-- The engine-specific stopping rules of a block that fences (R430, R134). -/
def stopBlock (b : Block) (s : State) : State :=
  match b with
  | .tile t .mnt => stopGang t s
  | _ => s

/-- A block enters FENCED (R430, R432, R433, R438): nothing happens to a retired tile's block. -/
def fenceBlock (b : Block) (s : State) : State :=
  if tileRetired s b then s
  else
    let s := match b with | .tile t .mnt => completeDrained (liveLeader s t) s | _ => s
    let s := fenceItems b (itemsIn s b) s
    let s := stopBlock b s
    let s := modHdr b (fun h => { h with
      mode := .fenced, rearmReq := false, enPend := false, faultBits := h.faultBits ||| 4#4 }) s
    match b with
    | .tile t .sqc => revokeSqcLocks t (fenceQueued b t s)
    | .qdsp q => (quadTiles q).foldl
        (fun a t => revoke (.tile t .sqc) false ((locksOf a (.tile t .sqc)).1 = blockId b) (revokeItems b t) a) s
    | .gwp p => modPort p (fun x => { x with keying := false }) s
    | .cam h => modCam h (fun x => { x with keying := false }) s
    | _ => s

end Sys2Proof.Machine
end

