-- ==== Sys2Proof/Machine/Hbm.lean ====
section
/-! DEFINITION. Main memory (chapter 11): physical addresses, the cache slices, the code of R333 with its repairs and
reports, device virtual addresses with their dirty bits, and the copy that a secure point takes before a write
(R457). -/

namespace Sys2Proof.Machine
open Sys2Proof

/-! ## What the stacks hold (R341, R497) -/

/-- What a stored byte is that nothing has written since its quadrant's fill: 0, or the marker's ones in a channel whose data are
lost. -/
def hbmDefault (s : State) (a : Nat) : Byte := if maskHas s.hbmStacks[stackOfPa a].lostChans (chanOfPa a) then 0xFF else 0

/-- Bytes as the stacks hold them. -/
def hbmStored (s : State) (pa len : Nat) : List Byte := fread (hbmDefault s) s.hbm pa len
def storeHbm (pa : Nat) (bs : List Byte) (s : State) : State := { s with hbm := fwrite (hbmDefault s) s.hbm pa bs }

/-- The 512 bits of a partition's memory keys at a key epoch: data key, then tweak key (R478). -/
def memKeyBytes (p : Fin 4) (epoch : Word) : List Byte :=
  fitBytes 64 (Config.shake256 (Config.memRoot ++ asciiBytes "JZ4M-MEM" ++ [BitVec.ofNat 8 p.val] ++ bytesOfNat 4 epoch.toNat) 64)

/-- The partition and key epoch whose keys encipher a quadrant's sectors, where its partition has encryption enabled. -/
def memKey (s : State) (q : QuadId) : Option (Fin 4 × Word) :=
  let p := partOf s q
  if maskHas s.rot.enc p.val then some (p, s.rot.epochs[p]) else none

/-- The permutation of 16-byte block n, PA / 16. -/
def cipher (k : Fin 4 × Word) (n : Nat) : Equiv.Perm (BitVec 128) :=
  Config.xts ((memKeyBytes k.1 k.2).take 32) ((memKeyBytes k.1 k.2).drop 32) (n / 4) (n % 4)

def permBytes (e : Equiv.Perm (BitVec 128)) (bs : List Byte) : List Byte :=
  bytesOfNat 16 (e (BitVec.ofNat 128 (natOfBytes bs))).toNat

/-- The bytes of a range in the clear. -/
def hbmGet (s : State) (pa len : Nat) : List Byte :=
  match memKey s (quadOfPa pa) with
  | none => hbmStored s pa len
  | some k =>
    let lo := pa / 16
    (((List.range ((pa + len + 15) / 16 - lo)).flatMap (fun i =>
      permBytes (cipher k (lo + i)).symm (hbmStored s (16 * (lo + i)) 16))).drop (pa % 16)).take len

/-- Bytes in the clear stored, enciphered with the rest of their blocks where encryption is enabled. -/
def hbmPut (pa : Nat) (bs : List Byte) (s : State) : State :=
  match memKey s (quadOfPa pa) with
  | none => storeHbm pa bs s
  | some k =>
    let lo := pa / 16
    let n := (pa + bs.length + 15) / 16 - lo
    let old := hbmGet s (16 * lo) (16 * n)
    let new := old.take (pa % 16) ++ bs ++ old.drop (pa % 16 + bs.length)
    storeHbm (16 * lo) ((List.range n).flatMap (fun i => permBytes (cipher k (lo + i)) ((new.drop (16 * i)).take 16))) s

/-! ## Lookups in the cache slices (R286, R335) -/

/-- The line that holds a sector. -/
def cacheLineOf (s : State) (sec : Nat) : Option CacheLine :=
  s.hbmStacks[stackOfPa (64 * sec)].cache.find? (fun l => l.line == sec / 2)

def sectorCached (s : State) (sec : Nat) : Bool :=
  match cacheLineOf s sec with
  | some l => maskHas l.valid (sec % 2)
  | none => false

def sectorPrefetched (s : State) (sec : Nat) : Bool :=
  match cacheLineOf s sec with
  | some l => maskHas l.valid (sec % 2) && maskHas l.prefetched (sec % 2)
  | none => false

/-! ## Code words (R333) -/

/-- A request to a controller: the item that makes it (0 for the scrubber), who counts prefetch hits, and whether the
scrubber makes it. -/
structure HbmReq where
  item : Nat
  job : Nat
  tile : Option TileId
  scrub : Bool
  deriving DecidableEq, Repr

def hbmReqOf (item : Nat) : HbmReq := ⟨item, 0, none, false⟩

/-- The fault bits of a code word that nothing has written: the marker in a channel whose data are lost. -/
def cwDefault (s : State) (cw : Nat) : Nat :=
  if maskHas s.hbmStacks[stackOfPa (32 * cw)].lostChans (chanOfPa (32 * cw)) then 256 else 0

/-- The fault bits of a code word, by its number PA / 32. -/
def cwErr (s : State) (cw : Nat) : Nat := fget (cwDefault s) s.hbmErr cw
def setCwErr (cw n : Nat) (s : State) : State := { s with hbmErr := fset (cwDefault s) s.hbmErr cw n }

/-- The marker over a code word. -/
def markCw (s : State) (cw : Nat) : State :=
  setCwErr cw markerCode (storeHbm (32 * cw) (List.replicate 32 0xFF) s)

/-- A code word is poisoned as it stands. -/
def cwBad (s : State) (cw : Nat) : Bool := decide (3 ≤ cwErr s cw)

def hbmReport (r : HbmReq) (cw kind : Nat) (onDie : Bool) (s : State) : State :=
  let pa := 32 * cw
  raiseFault (.hbm (stackOfPa pa)) kind pa (if r.scrub then 0 else r.item)
    (chanOfPa pa + 32 * (pcOfPa pa % 2) + 64 * b2n r.scrub + 128 * b2n onDie) s

/-- The stack's on-die ECC has the code word to report, and no more. -/
def onDieBad (s : State) (cw : Nat) : Bool := s.hbmStacks[stackOfPa (32 * cw)].onDie.contains cw
def onDieTold (cw : Nat) (s : State) : State :=
  modStack (stackOfPa (32 * cw)) (fun x => { x with onDie := x.onDie.filter (fun y => decide (y ≠ cw)) }) s

/-- The marker written back over a code word that the stack has lost. While the slice holds its sector, the newer value stays
there (R333). -/
def loseCw (cw : Nat) (s : State) : State :=
  if sectorCached s (cw / 2) then modStack (stackOfPa (32 * cw)) (fun x => { x with marked := x.marked ++ [cw] }) s
  else markCw s cw

/-- A code word read from its stack: corrected, or marked, or as it stands (R333). -/
def checkCw (r : HbmReq) (s : State) (cw : Nat) : State :=
  let k := stackOfPa (32 * cw)
  let e := cwErr s cw
  if onDieBad s cw then
    let s := bump (.hbm k) Off.hbmOdecc 1 (onDieTold cw s)
    if e = markerCode then s else hbmReport r cw 0x05 true (loseCw cw s) |> bump (.hbm k) Off.hbmUncorr 1
  else if e = 0 ∨ e = markerCode then s
  else if e = 1 then hbmReport r cw 0x04 false (setCwErr cw 0 s) |> bump (.hbm k) Off.hbmCorr 1
  else hbmReport r cw 0x05 false (markCw s cw) |> bump (.hbm k) Off.hbmUncorr 1

/-- Both code words of a sector, by its number PA / 64, read. -/
def checkSector (r : HbmReq) (sec : Nat) (s : State) : State := checkCw r (checkCw r s (2 * sec)) (2 * sec + 1)

/-- The sector's poison flag (R335). -/
def sectorBad (s : State) (sec : Nat) : Bool := cwBad s (2 * sec) || cwBad s (2 * sec + 1)

/-! ## The cache slices (R286, R335) -/

/-- The code bits that FLT_INJECT MODE 2 armed reach the stack with a write-back (R440). -/
def injectHbm (k : StackId) (sec : Nat) (s : State) : State :=
  match armedAt s (.hbm k) (fun x => x / 64 == sec) with
  | none => s
  | some a => disarm a (setCwErr (a.2.1.toNat / 32) a.2.2 s)

/-- A sector of the stack is written anew: its on-die fault and its marker are gone. -/
def freshSector (sec : Nat) (s : State) : State :=
  let old (y : Nat) : Bool := decide (y / 2 = sec)
  modStack (stackOfPa (64 * sec)) (fun x => { x with onDie := x.onDie.filter (fun y => !old y), marked := x.marked.filter (fun y => !old y) }) s

/-- A clean sector leaves the slice: what the stack holds counts again. -/
def leaveSector (sec : Nat) (s : State) : State :=
  let k := stackOfPa (64 * sec)
  ([2 * sec, 2 * sec + 1].filter (fun cw => s.hbmStacks[k].marked.contains cw)).foldl (fun a cw =>
    modStack k (fun x => { x with marked := x.marked.filter (fun y => decide (y ≠ cw)) }) (markCw a cw)) s

/-- A line leaves the slice: dirty sectors are written back. -/
def writeBackLine (k : StackId) (l : CacheLine) (s : State) : State :=
  [0, 1].foldl (fun a i =>
    if maskHas l.dirty i then injectHbm k (2 * l.line + i) (freshSector (2 * l.line + i) (bump (.hbm k) Off.hbmWb 1 a))
    else leaveSector (2 * l.line + i) a) s

/-- Room for a line in its set: a full set of 16 gives up one of its lines, not the one used last; which is free (pseudo-LRU;
entry 12). -/
def makeRoom (k : StackId) (line : Nat) (s : State) : State :=
  let set (l : Nat) : Nat := Config.cacheSet l % 8192
  let same := s.hbmStacks[k].cache.filter (fun l => set l.line == set line)
  if same.length < 16 then s
  else
    let (n, s) := takeFree s
    match same[n % 15]? with
    | none => s
    | some v => modStack k (fun x => { x with cache := x.cache.filter (fun l => decide (l.line ≠ v.line)) })
        (writeBackLine k v s)

/-- The line of a sector changed, allocated first where it is absent; it is then the one used last. -/
def touchLineOf (sec : Nat) (f : CacheLine → CacheLine) (s : State) : State :=
  let k := stackOfPa (64 * sec)
  match cacheLineOf s sec with
  | some l => modStack k (fun x => { x with cache := x.cache.filter (fun y => decide (y.line ≠ sec / 2)) ++ [f l] }) s
  | none => modStack k (fun x => { x with cache := x.cache ++ [f ⟨sec / 2, 0, 0, 0⟩] }) (makeRoom k (sec / 2) s)

/-- A demand lookup of a sector: a hit, or a miss that fills it from the stack where `fill` says so. The controller answers with one
packet, the data or an acknowledgement (R36; entry 37). -/
def demandSector (r : HbmReq) (fill : Bool) (sec : Nat) (s : State) : State :=
  let k := stackOfPa (64 * sec)
  let s := atStack (64 * sec) (emitN (.hbm k) 1 (noteWork (blockId (.hbm k)) s))
  if sectorCached s sec then
    let s := bump (.hbm k) Off.hbmHit 1 s
    let s := match r.tile with
      | some t => if sectorPrefetched s sec then bump (.tile t .dmv) Off.dmvPfHit 1 s else s
      | none => s
    touchLineOf sec id s
  else
    let s := bump (.hbm k) Off.hbmMiss 1 s
    let s := if fill then checkSector r sec (atBank (64 * sec) s) else s
    touchLineOf sec (fun l => { l with valid := maskSet l.valid (sec % 2) }) s

/-- A prefetch fills both sectors of a line (R335), most recently used. -/
def prefetchLine (r : HbmReq) (line : Nat) (s : State) : State :=
  let s := atStack (128 * line) (noteWork (blockId (.hbm (stackOfPa (128 * line)))) s)
  [2 * line, 2 * line + 1].foldl (fun a sec => if sectorCached a sec then a
    else touchLineOf sec (fun l => ⟨l.line, maskSet l.valid (sec % 2), l.dirty, maskSet l.prefetched (sec % 2)⟩)
      (checkSector r sec (atBank (64 * sec) a))) s

/-- The pieces of a range at a power of two. -/
def piecesOf (unit lo len : Nat) : List (Nat × Nat) :=
  if len = 0 then [] else
    (List.range ((lo + len - 1) / unit + 1 - lo / unit)).map (fun i =>
      let b := lo / unit + i
      (max lo (unit * b), min (lo + len) (unit * b + unit) - max lo (unit * b)))

/-- A demand read of [pa, pa + len): the bytes, each poisoned where its sector is. -/
def hbmRead (r : HbmReq) (pa len : Nat) (s : State) : (List Byte × List Bool) × State :=
  let ps := piecesOf 64 pa len
  let s := ps.foldl (fun a p => demandSector r true (p.1 / 64) a) s
  ((hbmGet s pa len, ps.flatMap (fun p => List.replicate p.2 (sectorBad s (p.1 / 64)))), s)

/-- A write within one sector, which counts no prefetch hit (R295). A write of part of a poisoned sector leaves it poisoned; poisoned data leave the
marker in each code word concerned (R333, R335). -/
def writeSector (r : HbmReq) (pa : Nat) (bs : List Byte) (ps : List Bool) (s : State) : State :=
  let sec := pa / 64
  let whole := decide (bs.length = 64)
  let s := demandSector { r with tile := none } (!whole) sec s
  let was := !whole && sectorBad s sec
  let s := hbmPut pa bs s
  let s := [2 * sec, 2 * sec + 1].foldl (fun a cw =>
    let bad := was || ((ps.drop (32 * cw - pa)).take (32 * cw + 32 - max pa (32 * cw))).any (fun b => b)
    if bad then markCw a cw else if whole then setCwErr cw 0 a else a) s
  touchLineOf sec (fun l => { l with dirty := maskSet l.dirty (sec % 2), valid := maskSet l.valid (sec % 2) }) s

/-- A write of bytes with their poison from pa. -/
def hbmWrite (r : HbmReq) (pa : Nat) (bs : List Byte) (ps : List Bool) (s : State) : State :=
  (piecesOf 64 pa bs.length).foldl (fun a p =>
    writeSector r p.1 ((bs.drop (p.1 - pa)).take p.2) ((ps.drop (p.1 - pa)).take p.2) a) s

/-! ## Translation (R337 to R340) -/

/-- Who translates: a tile, a Gwetre port, a Cammos port, a quadrant's prefetch walker. -/
inductive XAgent where
  | tile (t : TileId) | port (p : PortId) | cam (h : HostId) | walker (q : QuadId)
  deriving DecidableEq, Repr

def xlateOf (s : State) : XAgent → XlateSt
  | .tile t => s.tiles[t].xlate | .port p => s.portXlate[p] | .cam h => s.camXlate[h] | .walker q => s.walkXlate[q]

def modXlate (a : XAgent) (f : XlateSt → XlateSt) (s : State) : State :=
  match a with
  | .tile t => modTile t (fun x => { x with xlate := f x.xlate }) s
  | .port p => { s with portXlate := s.portXlate.set p (f s.portXlate[p]) }
  | .cam h => { s with camXlate := s.camXlate.set h (f s.camXlate[h]) }
  | .walker q => { s with walkXlate := s.walkXlate.set q (f s.walkXlate[q]) }

def allXAgents : List XAgent :=
  allTiles.map .tile ++ allPorts.map .port ++ allHosts.map .cam ++ allQuads.map .walker

/-- Every entry of a partition dropped from an agent's cache. -/
def dropEntries (p : Fin 4) (a : XAgent) (s : State) : State :=
  if (xlateOf s a).tlb.isEmpty then s
  else modXlate a (fun x => { x with tlb := x.tlb.filter (fun e => decide (e.part ≠ p)) }) s

/-- The root of a partition for the generation being switched to: the staged copy until the device page has switched, and
the live register from then on. -/
def rootReg (s : State) (p : Fin 4) : Nat :=
  let a := pageBase .dev 0 + Off.devPtRoot + 8 * p.val
  if (hdr s .dev).genPend then regAt s (a + 0x800) else regAt s a

/-- An agent adopts the roots at its switch, and drops the entries of a partition whose root changes (R340). -/
def adoptRoots (a : XAgent) (s : State) : State :=
  (List.finRange 4).foldl (fun s p =>
    let r := BitVec.ofNat 64 (rootReg s p)
    if vat (xlateOf s a).root p.val 0 = r then s
    else modXlate a (fun x => { x with root := vput x.root p.val r }) (dropEntries p a s)) s

/-- The status that a waiting access stands for inside the model: a write held while the staging area is full
(R457). It is no status of R317, and the command that meets it changes nothing. -/
def waitCode : Nat := 0x100

/-- An access to device virtual addresses: who translates, whose partition, which item and job, and the block that asks. -/
structure VaReq where
  agent : XAgent
  part : Fin 4
  item : Nat
  job : Nat
  by_ : Block
  deriving DecidableEq, Repr

def VaReq.hbm (r : VaReq) : HbmReq :=
  ⟨r.item, r.job, match r.agent with | .tile t => some t | _ => none, false⟩

def inPartition (s : State) (p : Fin 4) (pa : Nat) : Bool := partOf s (quadOfPa pa) == p

/-- A block asks for sectors, each in one packet (R36, R333; entry 37). -/
def askSectors (r : VaReq) (pa len : Nat) (s : State) : State :=
  emitN r.by_ (lineCount pa len) (match r.by_ with | .tile t _ => leaves t s | _ => s)

/-- An 8-byte table entry read through the slice; a poisoned one has no valid bit (entry 21). -/
def readEntry (r : VaReq) (pa : Nat) (s : State) : Nat × State :=
  let (d, s) := hbmRead r.hbm pa 8 (askSectors r pa 8 s)
  (if d.2.any (fun b => b) then 0 else natOfBytes d.1, s)

/-- The leaf's permissions against the access, then its page's and dirty map's quadrants (R338). -/
def leafCheck (s : State) (e : TlbEntry) (wr : Bool) : Option Nat :=
  firstFail [(!(if wr then e.write else e.read), ePerm),
    (!inPartition s e.part e.pa || !inPartition s e.part e.dirtyAt, ePartition)]

/-- The walk of R337 and R338. -/
def walk (r : VaReq) (va : Nat) (wr : Bool) (s : State) : Except Nat TlbEntry × State :=
  let root := (vat (xlateOf s r.agent).root r.part.val 0).toNat
  if !bitOf root 0 ∨ 2 ^ 48 ≤ va then (.error ePage, s)
  else
    let base := fld root 38 21 * 2 ^ 21
    if !inPartition s r.part base then (.error ePartition, s)
    else
      let (e, s) := readEntry r (base + 8 * fld va 47 30) s
      if !bitOf e 0 then (.error ePage, s)
      else if bitOf e 1 then
        if fld e 8 5 ≠ 0 ∨ fld e 35 18 ≠ 0 then (.error ePage, s)
        else
          let l : TlbEntry := ⟨r.part, true, va / 2 ^ 30, fld e 17 9 * 2 ^ 30, bitOf e 2, bitOf e 3, bitOf e 4,
            fld e 63 36 * 2 ^ 11, []⟩
          (match leafCheck s l wr with | some c => .error c | none => .ok l, s)
      else if fld e 8 2 ≠ 0 ∨ fld e 63 36 ≠ 0 then (.error ePage, s)
      else
        let tb := fld e 35 9 * 2 ^ 12
        if !inPartition s r.part tb then (.error ePartition, s)
        else
          let at2 := tb + 8 * fld va 29 21
          let (e, s) := readEntry r at2 s
          if !bitOf e 0 ∨ !bitOf e 1 ∨ fld e 8 5 ≠ 0 ∨ fld e 31 27 ≠ 0 then (.error ePage, s)
          else
            let l : TlbEntry := ⟨r.part, false, va / 2 ^ 21, fld e 26 9 * 2 ^ 21, bitOf e 2, bitOf e 3, bitOf e 4,
              at2 + 4, (List.range 32).filter (fun b => bitOf (fld e 63 32) b)⟩
            (match leafCheck s l wr with | some c => .error c | none => .ok l, s)

def entryHits (p : Fin 4) (va : Nat) (e : TlbEntry) : Bool :=
  decide (e.part = p) && decide (e.vpage = va / (if e.large then 2 ^ 30 else 2 ^ 21))

/-- An entry kept; a tile's cache holds 64 small and 16 large ones and gives up a free choice (R339, entry 12). -/
def keepEntry (a : XAgent) (e : TlbEntry) (s : State) : State :=
  let same := (xlateOf s a).tlb.filter (fun x => x.large == e.large)
  let cap := if e.large then 16 else 64
  match a with
  | .tile _ =>
    if same.length < cap then modXlate a (fun x => { x with tlb := e :: x.tlb }) s
    else
      let (n, s) := takeFree s
      match same[n % cap]? with
      | none => s
      | some v => modXlate a (fun x => { x with tlb := e :: x.tlb.filter (fun y => decide (y ≠ v)) }) s
  | _ => modXlate a (fun x => { x with tlb := e :: x.tlb }) s

/-- A demand translation: the cached entry, or the walk's (R338, R339). -/
def translate (r : VaReq) (va : Nat) (wr : Bool) (s : State) : Except Nat TlbEntry × State :=
  match (xlateOf s r.agent).tlb.find? (entryHits r.part va) with
  | some e => (match leafCheck s e wr with | some c => .error c | none => .ok e, s)
  | none =>
    match walk r va wr s with
    | (.error c, s) => (.error c, s)
    | (.ok e, s) => (.ok e, keepEntry r.agent e s)

def entryPa (e : TlbEntry) (va : Nat) : Nat := e.pa + va % (if e.large then 2 ^ 30 else 2 ^ 21)
/-- The 64 KiB block of an address within its page. -/
def entryBlock (e : TlbEntry) (va : Nat) : Nat := va % (if e.large then 2 ^ 30 else 2 ^ 21) / 2 ^ 16

/-- A read of virtual addresses, page by page; it stops at the first piece that does not translate. -/
def vaRead (r : VaReq) (va len : Nat) (s : State) : Except Nat (List Byte × List Bool) × State :=
  (piecesOf (2 ^ 21) va len).foldl (fun a p =>
    match a with
    | (.error c, s) => (.error c, s)
    | (.ok d, s) =>
      match translate r p.1 false s with
      | (.error c, s) => (.error c, s)
      | (.ok e, s) =>
        let (x, s) := hbmRead r.hbm (entryPa e p.1) p.2 (askSectors r (entryPa e p.1) p.2 s)
        (.ok (d.1 ++ x.1, d.2 ++ x.2), s)) (.ok ([], []), s)

/-- The first write to a block sets its dirty bit by an atomic OR at the slice (R339). -/
def setDirty (r : VaReq) (e : TlbEntry) (va : Nat) (s : State) : State :=
  let b := entryBlock e va
  if e.dirty.contains b then s
  else
    let a := e.dirtyAt + b / 8
    let (d, s) := hbmRead r.hbm a 1 (askSectors r a 1 s)
    let s := hbmWrite r.hbm a [maskSet (d.1.headD 0) (b % 8)] d.2 s
    modXlate r.agent (fun x => { x with tlb := x.tlb.map (fun y => if entryHits e.part va y
      then { y with dirty := y.dirty ++ [b] } else y) }) s

/-- A write of one 64 KiB block's part, without the copy of R457. -/
def vaWriteBlock (r : VaReq) (va : Nat) (bs : List Byte) (ps : List Bool) (s : State) : Except Nat Unit × State :=
  match translate r va true s with
  | (.error c, s) => (.error c, s)
  | (.ok e, s) =>
    (.ok (), hbmWrite r.hbm (entryPa e va) bs ps (askSectors r (entryPa e va) bs.length (setDirty r e va s)))

def vaWriteRaw (r : VaReq) (va : Nat) (bs : List Byte) (ps : List Bool) (s : State) : Except Nat Unit × State :=
  (piecesOf (2 ^ 16) va bs.length).foldl (fun a p =>
    match a with
    | (.error c, s) => (.error c, s)
    | (.ok (), s) => vaWriteBlock r p.1 ((bs.drop (p.1 - va)).take p.2) ((ps.drop (p.1 - va)).take p.2) s) (.ok (), s)

/-! ## Copy before write (R453, R457) -/

/-- The survival engine of a partition runs at its lowest quadrant (R442), with that head tile's translations. -/
def srvReq (s : State) (p : Fin 4) : VaReq := ⟨.tile (headTile (leadQuad s p)), p, 0, 0, .srv (leadQuad s p)⟩

/-- A word of the survival record (R453); 0 where the record does not translate. -/
def recWord (p : Fin 4) (n : Nat) (s : State) : Nat × State :=
  let base := reg s (.srv (leadQuad s p)) Off.srvRecBase
  match vaRead (srvReq s p) (base + 4 * n) 4 s with
  | (.ok d, s) => (natOfBytes d.1, s)
  | (.error _, s) => (0, s)

/-- A 48-bit address in words n and n + 1 of the record. -/
def recAddr (p : Fin 4) (n : Nat) (s : State) : Nat × State :=
  let (lo, s) := recWord p n s
  let (hi, s) := recWord p (n + 1) s
  (lo + hi % 65536 * 2 ^ 32, s)

def kib64 : Nat := 65536

/-- The lowest staging slot that holds nothing. -/
def freeStage (staged : List (Nat × Nat)) (n : Nat) : Option Nat :=
  (List.range (min n (staged.length + 1))).find? (fun k => staged.all (fun e => decide (e.2 ≠ k)))

/-- A block's point content copied to the lowest free staging slot (R457, R459): the slot, or whether
the block is not readable (else staging is full). -/
def stageCopy (p : Fin 4) (blk : Nat) (s : State) : Except Bool Nat × State :=
  let q := leadQuad s p
  let (base, s) := recAddr p 12 s
  let (size, s) := recWord p 14 s
  match freeStage s.quads[q].srv.staged size with
  | none => (.error false, s)
  | some k =>
    match vaRead (srvReq s p) blk kib64 s with
    | (.error _, s) => (.error true, s)
    | (.ok d, s) =>
      let (_, s) := vaWriteRaw (srvReq s p) (base + kib64 * k) d.1 d.2 s
      (.ok k, modQuad q (fun x => { x with srv := { x.srv with
          staged := x.srv.staged ++ [(blk, k)], bytesLocal := x.srv.bytesLocal + 2 * kib64 } }) s)

/-- A block of a pending secure point copied to staging before a write: true when the write may go on (R457). -/
def stageBlock (p : Fin 4) (blk : Nat) (s : State) : Bool × State :=
  match stageCopy p blk s with
  | (.ok _, s) => (true, bump (.srv (leadQuad s p)) Off.srvCbwWait 1 s)
  | (.error unreadable, s) => (unreadable, s)

/-- A block whose content the current point still has to stream, and that is not in staging. Of a tensor that only leaves parity the shadow
is streamed. -/
def pendingUnstaged (s : State) (p : Fin 4) (blk : Nat) : Bool :=
  let v := s.quads[leadQuad s p].srv
  decide (v.state = .streaming) && v.pending.any (fun b => decide (b.va = blk) && (b.mirror || decide (b.change ≠ 2))) &&
    !v.staged.any (fun e => decide (e.1 = blk))

/-- Protection concerns the packets of the served job (R442). -/
def copyBeforeWrite (p : Fin 4) (job va : Nat) (s : State) : Bool × State :=
  let blk := va / kib64 * kib64
  if served s p job && pendingUnstaged s p blk then stageBlock p blk s else (true, s)

/-- A write of virtual addresses, block by block: translation, the secure point's copy, the dirty bit, the data. -/
def vaWrite (r : VaReq) (va : Nat) (bs : List Byte) (ps : List Bool) (s : State) : Except Nat Unit × State :=
  (piecesOf (2 ^ 16) va bs.length).foldl (fun a p =>
    match a with
    | (.error c, s) => (.error c, s)
    | (.ok (), s) =>
      match translate r p.1 true s with
      | (.error c, s) => (.error c, s)
      | (.ok _, s) =>
        match copyBeforeWrite r.part r.job p.1 s with
        | (false, s) => (.error waitCode, s)
        | (true, s) => vaWriteBlock r p.1 ((bs.drop (p.1 - va)).take p.2) ((ps.drop (p.1 - va)).take p.2) s) (.ok (), s)

/-! ## The commands -/

/-- The virtual address under which some translation cache maps a physical address for writing, with that entry. -/
def mappedAt (s : State) (pa : Nat) : Option (XAgent × TlbEntry × Nat) :=
  allXAgents.findSome? (fun a => (xlateOf s a).tlb.findSome? (fun e =>
    let size := if e.large then 2 ^ 30 else 2 ^ 21
    if e.write ∧ e.pa ≤ pa ∧ pa < e.pa + size then some (a, e, e.vpage * size + (pa - e.pa)) else none))

/-- A write request at the controller: the copy of R457 and the dirty bit of R339 first, where the address is mapped. -/
def hbmStore (r : HbmReq) (pa : Nat) (bs : List Byte) (ps : List Bool) (s : State) : State :=
  match mappedAt s pa with
  | none => hbmWrite r pa bs ps s
  | some (a, e, va) =>
    match copyBeforeWrite e.part r.job va s with
    | (false, _) => s
    | (true, s) => hbmWrite r pa bs ps (setDirty ⟨a, e.part, r.item, r.job, .hbm (stackOfPa pa)⟩ e va s)

/-- The job of an item of the quadrant's partition; the system job where it is not in flight (R30). -/
def jobOfItem (s : State) (q : QuadId) (item : BitVec 16) : Nat :=
  match findItem s ⟨partOf s q, item⟩ with
  | some i => i.job.toNat
  | none => 0

/-- An item of the quadrant's partition that a request poisons. -/
def poisonItemNo (q : QuadId) (item : BitVec 16) (bad : Bool) (s : State) : State :=
  if bad then itemPoison ⟨partOf s q, item⟩ s else s

/-- A request reads its stack. -/
def needsStack (s : State) (kind : HbmKind) (a len : Nat) : Bool :=
  match kind with
  | .demandRead => !sectorCached s (a / 64)
  | .prefetch => !sectorCached s (2 * (a / 128)) || !sectorCached s (2 * (a / 128) + 1)
  | .write => !sectorCached s (a / 64) && decide (len ≠ 64)

/-- The stack's on-die ECC finds both code words of a sector uncorrectable. -/
def spoilSector (sec : Nat) (s : State) : State :=
  modStack (stackOfPa (64 * sec)) (fun x => { x with onDie := (x.onDie ++ [2 * sec, 2 * sec + 1]).eraseDups }) s

/-- A command of the queue is a request to the pseudo-channel of an address. -/
def asksPc (s : State) (pa : Nat) (demand : Bool) : Instr → Bool
  | .hbmAccess k kind a data _ _ _ => decide (k = stackOfPa pa) && decide (pcOfPa a.toNat = pcOfPa pa) &&
      !(demand && decide (kind = .prefetch)) && needsStack s kind a.toNat (data.take (64 - a.toNat % 64)).length
  | _ => false

/-- A prefetch waits while a demand request waits for its pseudo-channel, and the scrubber while any does: the requests that wait are
those in the queue of commands (R334, R336; entry 12). -/
def yields (s : State) (scrub : Bool) (pa : Nat) : Bool := s.pending.any (asksPc s pa (!scrub))

/-- HBM_ACCESS (R333, R335, R336): the controller of the address's stack serves a request through its slice, after a promoted
one of the pseudo-channel; `onDie` says that the stack's on-die ECC finds the sector uncorrectable (entry 12). -/
def execHbmAccess (k : StackId) (kind : HbmKind) (pa : BitVec 39) (data : List Byte) (item : BitVec 16)
    (poison onDie : Bool) (s : State) : Res :=
  let a := pa.toNat
  let r := { hbmReqOf item.toNat with job := jobOfItem s (quadOfPa a) item }
  let bs := data.take (64 - a % 64)
  .next (if decide (stackOfPa a ≠ k) || stackHeld s k ||
      (needsStack s kind a bs.length && (outranked s false a || (decide (kind = .prefetch) && yields s false a))) then s
    else
      let s := if onDie then spoilSector (a / 64) s else s
      match kind with
      | .demandRead =>
        let (d, s) := hbmRead r (a / 64 * 64) 64 s
        poisonItemNo (quadOfPa a) item (d.2.any (fun b => b)) s
      | .prefetch => prefetchLine r (a / 128) s
      | .write => poisonItemNo (quadOfPa a) item poison (hbmStore r a bs (List.replicate bs.length poison) s))

/-- HBM_AGING_PROMOTE (R334, R336): a request that has waited HBM_AGE cycles is promoted. Where the scrubber reads next at that bank, whether
the request is the scrubber's is free (entry 12). -/
def execHbmAgingPromote (k : StackId) (channel : BitVec 5) (pc : Bool) (bank : BitVec 6) (waited : Nat) (s : State) :
    Res :=
  .next (if decide (waited < fld (reg s (.hbm k) Off.hbmAge) 15 0) ||
      s.hbmStacks[k].promoted.any (fun p => decide (p.1 = channel ∧ p.2.1 = pc ∧ p.2.2.1 = bank)) then s
    else
      let byScrub := match scrubNext s k with | some pa => sameBank pa (channel, pc, bank, true) | none => false
      let (n, s) := if byScrub then takeFree s else (0, s)
      modStack k (fun x => { x with promoted := x.promoted ++ [(channel, pc, bank, byScrub && decide (n % 2 = 1))] }) s)

/-- HBM_SCRUB_SECTOR (R334): the next sector of the walk is read and repaired. Its priority is the lowest: it waits while another request
of the pseudo-channel does, until it is promoted itself. -/
def execHbmScrubSector (k : StackId) (s : State) : Res :=
  .next (if !scrubs s k then s
    else
      let n := phyReg s k Off.hbmScrubPos
      let next (s : State) : State := setPhyReg k Off.hbmScrubPos ((n + 1) % 2 ^ 30) s
      match walkedPa s (stackSectorPa k n) with
      | none => next s
      | some pa =>
        let own := (promotions s k).any (fun p => sameBank pa p && p.2.2.2)
        if outranked s true pa || (!own && yields s true pa) then s
        else next (checkSector ⟨0, 0, none, true⟩ (pa / 64) (serveHbm true pa (noteWork (blockId (.hbm k)) s))))

/-- HBM_REFRESH (R331): one bank is refreshed; a stack in self-refresh refreshes itself, and without its reference clock none is (R525). -/
def execHbmRefresh (k : StackId) (channel : BitVec 5) (pc : Bool) (bank : BitVec 6) (s : State) : Res :=
  .next (if s.hbmStacks[k].selfRefresh || s.rot.lostClks.contains .hbm then s
    else modStack k (fun x => { x with refreshed := some (channel, pc, bank), refreshes := x.refreshes + 1 }) s)

/-- PT_INVAL_COMPLETE (R340): every access that a dropped entry translated is acknowledged. -/
def execPtInvalComplete (part : Fin 4) (s : State) : Res :=
  .next (modDev (fun d => { d with ptBusy := maskClear d.ptBusy part.val }) s)

/-- A write of DEV_PT_INVAL (R340). -/
def invalidate (mask : Nat) (s : State) : State :=
  (List.finRange 4).foldl (fun s p => if bitOf mask p.val then
      modDev (fun d => { d with ptBusy := maskSet d.ptBusy p.val }) (allXAgents.foldl (fun a x => dropEntries p x a) s)
    else s) s

/-! ## Channel actions (R342) -/

/-- The stack of a quadrant by STACK. -/
def quadStack (q : QuadId) (b : Bool) : StackId := ⟨2 * q.val + b2n b, by cases b <;> simp [b2n] <;> omega⟩

def channelsRetired (s : State) (q : QuadId) : Nat :=
  popCount s.hbmStacks[quadStack q false].retired + popCount s.hbmStacks[quadStack q true].retired

/-- HBM_CHAN_CTRL refused with E_DENIED (R342). -/
def chanRefused (s : State) (q : QuadId) (b : Bool) (c : Nat) : Bool :=
  decide (s.evac[q].phase ≠ 0) || !s.evac[q].confirmed || decide (4 ≤ channelsRetired s q) ||
    maskHas s.hbmStacks[quadStack q b].retired c

def modEvac (q : QuadId) (f : EvacSt → EvacSt) (s : State) : State := { s with evac := s.evac.set q (f s.evac[q]) }

/-- An accepted action: the next region is taken and PHASE is 1. -/
def startChan (q : QuadId) (b : Bool) (c : Nat) (retire : Bool) (s : State) : State :=
  modEvac q (fun e => { e with
    phase := 1, stackBit := b, chan := BitVec.ofNat 5 c, retire := retire, progress := 0, code := 0,
    confirmed := false, regions := e.regions ++ [(b, BitVec.ofNat 5 c, retire)] }) s

/-- A channel is retired: its bit in HBM_RETIRED, its region kept, and the field-repair record (R342). -/
def retireChan (q : QuadId) (b : Bool) (c : BitVec 5) (s : State) : State :=
  s |> modStack (quadStack q b) (fun x => { x with retired := maskSet x.retired c.toNat })
    |> modEvac q (fun e => { e with
        regions := e.regions.map (fun r => if r.1 = b ∧ r.2.1 = c then (b, c, true) else r) })
    |> modRot (fun r => if r.repairChans.contains (quadStack q b, c) then r
        else { r with repairChans := r.repairChans ++ [(quadStack q b, c)] })

/-- The sectors of a channel with a code word that its stack does not hold as it was written. -/
def faultySectors (s : State) (q : QuadId) (b : Bool) (c : BitVec 5) : List Nat :=
  let k := quadStack q b
  let ws := s.hbmErr.map (·.1) ++ s.hbmStacks[k].onDie
  ((ws.filter (fun cw => decide (stackOfPa (32 * cw) = k) && decide (chanOfPa (32 * cw) = c.toNat))).map (· / 2)).eraseDups

/-- A channel's sectors are read as they are copied or restored: corrected, or the marker in their place (R333, R342). -/
def readChannel (q : QuadId) (s : State) : State :=
  let e := s.evac[q]
  (faultySectors s q e.stackBit e.chan).foldl (fun s sec => checkSector (hbmReqOf 0) sec s) s

/-- HBM_EVACUATION_COMPLETE (R342 steps 2, 3 and, for a RETIRE, 5): every unit of the channel has been read and copied. -/
def execHbmEvacuationComplete (q : QuadId) (s : State) : Res :=
  .next (let e := s.evac[q]
    let s := if e.phase = 1 then readChannel q s else s
    if e.phase ≠ 1 then s
    else if e.retire then modEvac q (fun x => { x with phase := 0, progress := 255 }) (retireChan q e.stackBit e.chan s)
    else modEvac q (fun x => { x with phase := 2, progress := 255 }) s)

/-- HBM_CHAN_STAT as it is read while an action runs (R342): how far the copy, the retraining and the restore have come is free, and
never goes back (entry 12). -/
def noteChan (q : QuadId) (s : State) : State :=
  let e := s.evac[q]
  if e.phase = 0 then s
  else
    let (n, s) := takeFree s
    let ph := if e.phase = 1 then 1 else max e.phase (2 + n % 3)
    let was := if ph = e.phase then e.progress else 0
    modEvac q (fun x => { x with phase := ph, progress := if ph = 2 ∨ ph = 3 then 255 else max was (n / 4 % 256) }) s

/-- HBM_RETRAIN_COMPLETE (R342 steps 4 and 5): the channel is trained and its data restored, and the region is freed; or the
training fails, which ends as a RETIRE with CODE E_INTERNAL. A channel seen restoring has passed its training. -/
def execHbmRetrainComplete (q : QuadId) (ok : Bool) (s : State) : Res :=
  .next (let e := s.evac[q]
    let k := quadStack q e.stackBit
    let tr := phyReg s k Off.hbmTrainStat
    let bit := 2 ^ e.chan.toNat
    if e.phase < 2 ∨ (e.phase = 4 ∧ !ok) then s
    else if ok then
      readChannel q s |> setPhyReg k Off.hbmTrainStat (tr ||| bit)
        |> modEvac q (fun x => { x with
            phase := 0, progress := 255, code := stDone,
            regions := x.regions.filter (fun r => !(r.1 == e.stackBit && decide (r.2.1 = e.chan))) })
    else
      s |> setPhyReg k Off.hbmTrainStat (tr &&& (2 ^ 32 - 1 - bit)) |> retireChan q e.stackBit e.chan
        |> modEvac q (fun x => { x with phase := 0, code := eInternal }))

end Sys2Proof.Machine
end

