-- ==== Sys2Proof/Machine/GwLink.lean ====
section
/-! DEFINITION. The Gwetre link layer and the requests of this chip (R351 to R359, R363 to R365, R368): packets, routes,
credits, the retry buffer, and what a response does to the request it answers. -/

namespace Sys2Proof.Machine
open Sys2Proof

/-! ## Packets (R351 to R353) -/

def gwWrite : Nat := 0x01
def gwRead : Nat := 0x02
def gwWriteAck : Nat := 0x03
def gwReadData : Nat := 0x04
def gwError : Nat := 0x05
def gwLinkCtrl : Nat := 0x3F

def gwIsRequest (opc : Nat) : Bool := opc == gwWrite || opc == gwRead
def gwIsResponse (opc : Nat) : Bool := opc == gwWriteAck || opc == gwReadData || opc == gwError

/-- The flits of a packet with n payload sectors (R351). -/
def flitsOf (n : Nat) : Nat := (64 + 64 * n + 255) / 256

/-- The header as numbers. -/
structure GwHdr where
  opc : Nat
  vc : Nat
  flits : Nat
  lseq : Nat
  dchip : Nat
  schip : Nat
  dpart : Nat
  sectors : Nat
  rqid : Nat
  status : Nat
  ack : Nat
  ackV : Bool
  tag : Nat
  addr : Nat
  deriving DecidableEq, Repr

def gwHdrOf (ws : List Word) : GwHdr :=
  ⟨fld (hword ws 0) 5 0, fld (hword ws 0) 7 6, fld (hword ws 0) 11 8 + 1, fld (hword ws 0) 23 12, fld (hword ws 1) 15 0,
    fld (hword ws 1) 31 16, fld (hword ws 2) 1 0, fld (hword ws 2) 7 2, fld (hword ws 2) 23 8, fld (hword ws 2) 31 24,
    fld (hword ws 3) 11 0, bitOf (hword ws 3) 12, hword ws 4 + 2 ^ 32 * hword ws 5,
    hword ws 6 + 2 ^ 32 * fld (hword ws 7) 15 0⟩

def gwWords (h : GwHdr) : List Word :=
  [BitVec.ofNat 32 (h.opc + 2 ^ 6 * h.vc + 2 ^ 8 * (h.flits - 1) + 2 ^ 12 * h.lseq),
   BitVec.ofNat 32 (h.dchip + 2 ^ 16 * h.schip),
   BitVec.ofNat 32 (h.dpart + 4 * h.sectors + 2 ^ 8 * h.rqid + 2 ^ 24 * h.status),
   BitVec.ofNat 32 (h.ack + 2 ^ 12 * b2n h.ackV),
   BitVec.ofNat 32 h.tag, BitVec.ofNat 32 (h.tag / 2 ^ 32), BitVec.ofNat 32 h.addr, BitVec.ofNat 32 (h.addr / 2 ^ 32)]

/-- Payload sectors that an opcode carries: none but in WRITE and READ_DATA. -/
def carriesData (opc : Nat) : Bool := opc == gwWrite || opc == gwReadData

/-- An RSVD bit of words 0 or 3 or of the trailer set, or FLITS that disagree with the payload of n sectors (R351 to R353). -/
def gwFrameBad (pk : GwPacket) (n : Nat) : Bool :=
  decide (fld (hword pk.header 0) 31 24 ≠ 0) || decide (fld (hword pk.header 3) 31 13 ≠ 0) ||
    pk.rsvd.any (fun b => decide (b ≠ 0)) || decide ((gwHdrOf pk.header).flits ≠ flitsOf n) ||
    decide (pk.payload.length ≠ 64 * n)

/-- A reserved opcode, an RSVD bit set, a count out of range, or FLITS that disagree with SECTORS (R353): SECTORS is the payload of
every packet but a READ, which asks for them and has none. -/
def gwMalformed (pk : GwPacket) : Bool :=
  let h := gwHdrOf pk.header
  gwFrameBad pk (if h.opc = gwRead then 0 else h.sectors) || !(gwIsRequest h.opc || gwIsResponse h.opc) ||
    decide (fld (hword pk.header 7) 31 16 ≠ 0) || decide (h.addr % 64 ≠ 0) ||
    ((gwIsRequest h.opc || h.opc == gwReadData) && decide (h.sectors = 0))

/-- The same for a LINK_CTRL packet, whose words 6 and 7 have a layout of their own. -/
def ctrlMalformed (pk : GwPacket) : Bool :=
  gwFrameBad pk (gwHdrOf pk.header).sectors || decide (fld (hword pk.header 6) 31 30 ≠ 0) ||
    decide (fld (hword pk.header 7) 31 13 ≠ 0)

/-- The tag of R27. -/
def tagOf (part job gen layer item cls : Nat) (poison det : Bool) (seq : Nat) : Nat :=
  part * 2 ^ 62 + job * 2 ^ 56 + gen * 2 ^ 48 + layer * 2 ^ 36 + item * 2 ^ 20 + cls * 2 ^ 18 + b2n poison * 2 ^ 17 +
    b2n det * 2 ^ 16 + seq

def tagPart (t : Nat) : Nat := fld t 63 62
def tagPartOf (t : Nat) : Fin 4 := ⟨tagPart t % 4, by omega⟩
def tagJob (t : Nat) : Nat := fld t 61 56
def tagGen (t : Nat) : Nat := fld t 55 48
def tagLayer (t : Nat) : Nat := fld t 47 36
def tagItem (t : Nat) : Nat := fld t 35 20
def tagSeq (t : Nat) : Nat := fld t 15 0
def tagClass (t : Nat) : Nat := fld t 19 18
def tagPoison (t : Nat) : Bool := bitOf t 17
def tagDet (t : Nat) : Bool := bitOf t 16

/-- The life-cycle states in which links are keyed, and those in which they run without keys (R480). -/
def lcKeyed (s : State) : Bool := decide (s.rot.lc = 1) || decide (s.rot.lc = 2)
def lcUnkeyed (s : State) : Bool := decide (s.rot.lc = 0) || decide (s.rot.lc = 3)

/-- This chip's id (R358). -/
def ownChip (s : State) : Nat := s.rot.chipId.toNat

/-! ## Certificates (R478) -/

/-- The device identity key, as Config.sign numbers the keys. -/
def roleIdentity : Nat := 0
def serialBytes : List Byte := bytesOfNat 16 Config.deviceSerial

/-- A scalar clamped as X448 requires (entry 3). -/
def clamp448 (bs : List Byte) : List Byte :=
  match bs with
  | [] => []
  | b :: rest => (b &&& 0xFC) :: (rest.dropLast ++ rest.getLast?.toList.map (fun x => x ||| 0x80))

/-- X448 of a scalar and a u-coordinate, in 56 bytes; the public key of a scalar (base point 5; entry 3). -/
def x448Of (k u : List Byte) : List Byte := fitBytes 56 (Config.x448 k (fitBytes 56 u))
def x448Public (k : List Byte) : List Byte := x448Of k [5]

/-- The link static key (R478). -/
def linkStatic : List Byte := clamp448 (fitBytes 56 (Config.shake256 (Config.linkRoot ++ asciiBytes "JZ4M-LINK") 56))

/-- The public key of a KIND: identity, link with one zero byte, meter. -/
def certPubkey (kind : Nat) : List Byte :=
  if kind = 3 then fitBytes 57 (bytesOfWords ((List.range 15).map Config.meterPubkey))
  else if kind = 2 then x448Public linkStatic ++ [0] else fitBytes 57 Config.identityKey

/-- Bytes 0 to 127 of a certificate; stepping B0. -/
def certBody (kind : Nat) : List Byte :=
  bytesOfNat 4 kind ++ serialBytes ++ [0xB0, 0, 0, 0] ++ certPubkey kind ++ List.replicate 47 0

def certificate (kind : Nat) : List Byte :=
  certBody kind ++ fitBytes 114 (if kind = 2 then Config.sign roleIdentity (certBody kind) else Config.makerSign (certBody kind))

/-! ## Sending (R355, R356) -/

def gwp (p : PortId) : Block := .gwp p

def portUp (s : State) (p : PortId) : Bool := decide (s.ports[p].link = .up)

def txFlits (x : GwTx) : Nat := (gwHdrOf x.header).flits
def retryFlits (g : GwpSt) : Nat := (g.retry.map (fun x => txFlits x.tx)).sum

/-- The bytes of a packet after its header (R351, R354): payload and zero fill, under the sending key and nonce where the link is
keyed, the tag (zero on a link without keys, R480), RSVD, and the CRC-32 of every byte before it, inverted in a stomp. -/
def gwWire (g : GwpSt) (ws : List Word) (payload : List Byte) (stomp : Bool) : List Byte :=
  let n := 256 * (gwHdrOf ws).flits - 64
  let plain := fitBytes n payload
  let head := bytesOfWords ws
  let sealed := match g.keys with
    | some k => fitBytes (n + 16) (Config.gcmSeal k.1 g.txNonce.toNat head plain)
    | none => plain ++ List.replicate 16 0
  let body := sealed ++ List.replicate 12 0
  let crc := crc32 (head ++ body)
  body ++ bytesOfNat 4 (if stomp then ~~~crc else crc).toNat

/-- A port puts a new packet on its link: the next nonce, the flits counted. -/
def gwPut (p : PortId) (ws : List Word) (payload : List Byte) (stomp : Bool) (s : State) : State :=
  let x : GwTx := ⟨ws, payload, stomp, gwWire s.ports[p] ws payload stomp⟩
  bump (gwp p) Off.gwpFlitTx (txFlits x)
    (modPort p (fun g => { g with txNonce := g.txNonce + 1 }) { s with out := s.out ++ [.gw p x] })

/-- A LINK_CTRL packet: acknowledgement, credits, or a NAK (R352, R355). It takes no LSEQ and no credit. -/
def sendCtrl (p : PortId) (ack : Nat) (ackV : Bool) (cred : Nat × Nat) (nak : Option Nat) (s : State) : State :=
  gwPut p [BitVec.ofNat 32 (gwLinkCtrl + 2 ^ 6 * 3), 0#32, 0#32, BitVec.ofNat 32 (ack + 2 ^ 12 * b2n ackV), 0#32, 0#32,
    BitVec.ofNat 32 (cred.2 * 2 ^ (10 * cred.1)),
    BitVec.ofNat 32 (match nak with | some n => n + 2 ^ 12 | none => 0)] [] false s

/-- A packet has left its receiver's buffer: its flits' credit goes back over the link that it came by (R356). -/
def freeBuf (b : Option (PortId × Nat × Nat)) (s : State) : State :=
  match b with
  | some (p, vc, n) => if portUp s p && decide (vc < 3) then sendCtrl p 0 false (vc, n) none s else s
  | none => s

/-- Credit for a packet on its virtual channel, and room in the 512-flit retry buffer. -/
def canSend (g : GwpSt) (h : GwHdr) : Bool :=
  decide (g.link = .up) && decide (h.flits ≤ vat g.credits h.vc 0) && decide (retryFlits g + h.flits ≤ 512)

/-- A packet's header on the next link: that link's LSEQ, and no acknowledgement of the link it came by (R352). -/
def linkHdr (g : GwpSt) (h : GwHdr) : GwHdr := { h with lseq := g.txSeq.toNat, ack := 0, ackV := false }

/-- A packet leaves: it takes the next LSEQ and its flits' credit, stays in the retry buffer, and frees the buffer that it stood
in. -/
def sendNow (p : PortId) (x : GwWait) (s : State) : State :=
  let g := s.ports[p]
  let h := linkHdr g (gwHdrOf x.header)
  let y : GwTx := ⟨gwWords h, x.payload, false, gwWire g (gwWords h) x.payload false⟩
  let c := vput g.credits h.vc (vat g.credits h.vc 0 - h.flits)
  freeBuf x.buf (modPort p (fun g => { g with txSeq := g.txSeq + 1, retry := g.retry ++ [⟨y, 0⟩], credits := c })
    (gwPut p (gwWords h) x.payload false s))

/-- Waiting packets leave in order within each virtual channel. -/
def flushPort (p : PortId) (s : State) : State :=
  let ws := s.ports[p].waiting
  let s := modPort p (fun g => { g with waiting := [] }) s
  (ws.foldl (fun a x =>
    let vc := (gwHdrOf x.header).vc
    if a.1.contains vc || (x.late && blockStops a.2 (gwp p)) || !canSend a.2.ports[p] (gwHdrOf x.header) then
      (vc :: a.1, modPort p (fun g => { g with waiting := g.waiting ++ [x] }) a.2)
    else (a.1, sendNow p x a.2)) (([] : List Nat), s)).2

/-- A packet handed to a port; a new request to a port that drains waits for its re-arm (R501). -/
def sendOn (p : PortId) (x : GwWait) (s : State) : State :=
  let x := { x with late := blockStops s (gwp p) && gwIsRequest (gwHdrOf x.header).opc }
  flushPort p (modPort p (fun g => { g with waiting := g.waiting ++ [x] }) (noteWork (blockId (gwp p)) s))

/-! ## What a response does (R363, R365) -/

inductive FabRsp where
  | ack
  | data (bytes : List Byte) (poison : Bool)
  | err (status : Nat)
  deriving DecidableEq, Repr

def fabReqAt (s : State) (rqid : Nat) : Option FabReq :=
  s.fabReqs.find? (fun r => r.tile.val == fld rqid 5 0 && r.slot.toNat == fld rqid 11 6 && r.epoch.toNat == fld rqid 15 12)

/-- A descriptor in progress, by its serial. -/
def modDesc (t : TileId) (serial : Nat) (f : MvDesc → MvDesc) (s : State) : State :=
  modMov t (fun m => { m with active := m.active.map (fun d => if d.serial = serial then f d else d) }) s

/-- The buffer key of a remote byte. -/
def remoteKey (chip addr : Nat) : Nat := chip * 2 ^ 48 + addr

/-- The status of an item whose remote request failed (R363). -/
def remoteErr (k : ItemKey) (b : Block) (status : Nat) (s : State) : State :=
  if status = eLinkDown then itemErr k eLinkDown b s
  else modItem k (fun i => { i with remote := status }) (itemErr k eRemote b s)

/-- DMV_LAST_ERR of a failed descriptor, from its word 0 (R264, R295). -/
def moveLastErr (t : TileId) (k : ItemKey) (code w0 : Nat) (s : State) : State :=
  setReg (.tile t .dmv) Off.dmvLastErr (code + 2 ^ 8 * fld w0 3 0 + 2 ^ 12 * fld w0 7 4 + 2 ^ 16 * k.item.toNat) s

/-- A response reaches a descriptor's request. -/
def moveResponse (r : FabReq) (serial : Nat) (x : FabRsp) (s : State) : State :=
  let s := modDesc r.tile serial (fun d => { d with outstanding := d.outstanding - 1 }) s
  match x with
  | .ack => s
  | .data bs bad =>
    let key := remoteKey r.chip.toNat r.addr.toNat
    let n := bs.length
    modDesc r.tile serial (fun d => { d with
      buffer := fwrite zeroByte d.buffer key bs
      badBytes := fwrite (fun _ => false) d.badBytes key (List.replicate n bad)
      got := fwrite (fun _ => false) d.got key (List.replicate n true) }) s
  | .err c =>
    let w0 := match s.tiles[r.tile].mov.active.find? (fun d => d.serial == serial) with
      | some d => hword d.words 0
      | none => 0
    s |> modDesc r.tile serial (fun d => { d with failed := true, todo := [] })
      |> remoteErr r.key (.tile r.tile .dmv) c
      |> moveLastErr r.tile r.key (if c = eLinkDown then eLinkDown else eRemote) w0

/-- Two runs of bytes added bit by bit. -/
def xorBytes (x y : List Byte) : List Byte := (x.zip y).map (fun p => p.1 ^^^ p.2)

/-- A survival engine's request was refused. -/
def srvBroken (q : QuadId) (s : State) : State := modQuad q (fun y => { y with srv := { y.srv with broken := true } }) s

def isCheck : SrvDest → Bool
  | .check _ _ => true
  | _ => false

/-- A digest check whose copy cannot be read ends without a verdict (entry 29). -/
def dropCheck (q : QuadId) (s : State) : State :=
  modQuad q (fun y => { y with srv := { y.srv with
    checking := [], checkMem := [], todo := y.srv.todo.filter (fun w => !isCheck w.2.1) } }) s

/-- A response reaches a request of the survival engine: read data go to their place, or are added into it; a refusal
breaks the point or the restore, or ends the check. -/
def srvResponse (r : FabReq) (x : FabRsp) (s : State) : State :=
  let q := leadQuad s r.key.part
  match x with
  | .ack => s
  | .err _ => if isCheck r.dest then dropCheck q s else srvBroken q s
  | .data bs bad =>
    let v := srvReq s r.key.part
    match r.dest with
    | .va a =>
      (match (if r.xor then vaRead v a bs.length s else (.ok (List.replicate bs.length 0, clean bs.length), s)) with
       | (.error _, s) => srvBroken q s
       | (.ok old, s) =>
         match vaWriteRaw v a (xorBytes bs old.1) (old.2.map (fun b => b || bad)) s with
         | (.ok (), s) => s
         | (.error _, s) => srvBroken q s)
    | .slots o => modQuad q (fun y => { y with srv := { y.srv with
        slotMem := fwrite (fun _ => (0 : Byte)) y.srv.slotMem o bs
        slotBad := fwrite (fun _ => false) y.srv.slotBad o (List.replicate bs.length bad) } }) s
    | .check i o => modQuad q (fun y => { y with srv := { y.srv with
        checkMem := fwrite (fun _ => (0 : Byte)) y.srv.checkMem (2 ^ 48 * i + o) bs } }) s

/-- A request completes: its slot is free again. -/
def finishFab (r : FabReq) (x : FabRsp) (s : State) : State :=
  let s := { s with fabReqs := s.fabReqs.filter (fun y => decide (y ≠ r)) }
  match r.moveSerial with
  | some n => moveResponse r n x s
  | none => srvResponse r x s

/-! ## Routing (R358, R359) -/

/-- A route entry: the port, and whether requests cross a dateline. -/
def routeOf (bank : FMap Byte) (chip : Nat) : Option (PortId × Bool) :=
  let e := (fget (fun _ => (0 : Byte)) bank chip).toNat
  if h : bitOf e 5 = true ∧ e % 32 < 24 then some (⟨e % 32, h.2⟩, bitOf e 6) else none

/-- The route bank that packets originating in a quadrant use: its first port's (entry 22). -/
def localBank (s : State) (q : QuadId) : FMap Byte := s.ports[(⟨6 * q.val, by omega⟩ : PortId)].routes
def localPort (q : QuadId) : PortId := ⟨6 * q.val, by omega⟩

/-- The header with which a packet leaves over a route: a request that crosses a dateline moves from VC0 to VC2 (R358). -/
def routedHdr (dl : Bool) (h : GwHdr) : GwHdr := { h with vc := if dl && gwIsRequest h.opc && h.vc == 0 then 2 else h.vc }

/-- A response that goes nowhere is counted at the port that its route names, where there is one that is not UP (R357, R359). -/
def dropRsp (at_ : PortId) (bank : FMap Byte) (chip : Nat) (s : State) : State :=
  match routeOf bank chip with
  | some (o, _) => bump (gwp (if portUp s o then at_ else o)) Off.gwpRspDrop 1 s
  | none => bump (gwp at_) Off.gwpRspDrop 1 s

/-- A response to a request: to this chip, or onto its route; without one it is dropped and counted. -/
def postResponse (at_ : PortId) (bank : FMap Byte) (h : GwHdr) (payload : List Byte) (s : State) : State :=
  if h.dchip = ownChip s then
    match fabReqAt s h.rqid with
    | some r => finishFab r (if h.opc = gwReadData then .data payload (tagPoison h.tag) else if h.opc = gwError
        then .err h.status else .ack) s
    | none => bump (gwp at_) Off.gwpRspDrop 1 s
  else match routeOf bank h.dchip with
    | some (p, _) => if portUp s p then sendOn p ⟨gwWords h, payload, none, false⟩ s else dropRsp at_ bank h.dchip s
    | none => dropRsp at_ bank h.dchip s

/-- The header of a response to a request, tagged by the answering port (R364, R365). -/
def responseHdr (s : State) (rq : GwHdr) (opc sectors status seq gen : Nat) (poison : Bool) : GwHdr :=
  ⟨opc, 1, flitsOf (if carriesData opc then sectors else 0), 0, rq.schip, ownChip s, tagPart rq.tag, sectors, rq.rqid,
    status, 0, false, tagOf (tagPart rq.tag) 0 gen (tagLayer rq.tag) 0xFFFF 1 poison (tagDet rq.tag) seq, 0⟩

/-- A request answered by a port. -/
def answer (at_ : PortId) (bank : FMap Byte) (rq : GwHdr) (opc status : Nat) (payload : List Byte) (poison : Bool)
    (s : State) : State :=
  let (n, s) := emit (gwp at_) s
  postResponse at_ bank (responseHdr s rq opc (payload.length / 64) status n (hdr s (gwp at_)).genLive.toNat poison)
    payload s
def answerErr (at_ : PortId) (bank : FMap Byte) (rq : GwHdr) (status : Nat) (s : State) : State :=
  answer at_ bank rq gwError status [] false s

/-- A request onto its route; without a valid entry or an UP port it is answered E_LINK_DOWN (R359). One to this chip itself is
delivered locally, at the port whose routes it would take (R358; entry 22). -/
def postRequest (at_ : PortId) (bank : FMap Byte) (h : GwHdr) (payload : List Byte) (s : State) : State :=
  if h.dchip = ownChip s then
    modPort at_ (fun g => { g with held := g.held ++ [⟨⟨gwWords h, payload, [], .good, true⟩, false, false⟩] }) s
  else match routeOf bank h.dchip with
  | some (p, dl) =>
    if portUp s p then sendOn p ⟨gwWords (routedHdr dl h), payload, none, false⟩ s
    else answerErr at_ bank h eLinkDown (bump (gwp at_) Off.gwpNoroute 1 s)
  | none => answerErr at_ bank h eLinkDown (bump (gwp at_) Off.gwpNoroute 1 s)

/-! ## Requests of this chip (R263, R352) -/

/-- A tile's free request slot. -/
def freeSlot (s : State) (t : TileId) : Option Nat :=
  (List.range 64).find? (fun k => !s.fabReqs.any (fun r => decide (r.tile = t) && r.slot.toNat == k))

/-- One request made: its slot, its packet, its route. -/
def sendFab (t : TileId) (src : Block) (slot : Nat) (k : ItemKey) (job gen layer : Nat) (det : Bool)
    (serial : Option Nat) (dest : SrvDest) (xor : Bool) (w : FabWork) (s : State) : State :=
  let ep := fget (fun _ => 0) s.fabEpochs (64 * t.val + slot)
  let (n, s) := emit src s
  let r : FabReq := ⟨t, BitVec.ofNat 6 slot, BitVec.ofNat 4 ep, w.chip, k, serial, w.isRead, w.addr, w.sectors, dest,
    xor⟩
  let h : GwHdr := ⟨if w.isRead then gwRead else gwWrite, 0, flitsOf (if w.isRead then 0 else w.sectors), 0,
    w.chip.toNat, ownChip s, w.part.val, w.sectors, t.val + 2 ^ 6 * slot + 2 ^ 12 * ep, 0, 0, false,
    tagOf k.part.val job gen layer k.item.toNat 1 w.poison det n, w.addr.toNat⟩
  postRequest (localPort (quadOf t)) (localBank s (quadOf t)) h w.payload { s with fabReqs := s.fabReqs ++ [r] }

/-- A descriptor's requests, as far as the tile's 64 slots reach. -/
def issueFab (t : TileId) (serial : Nat) : Nat → State → State
  | 0, s => s
  | n + 1, s =>
    match s.tiles[t].mov.active.find? (fun d => d.serial == serial), freeSlot s t with
    | some d, some k =>
      (match d.todo with
       | [] => s
       | w :: ws =>
         if routerStops s t then s else
         let i := findItem s d.key
         let s := modDesc t serial (fun x => { x with todo := ws, outstanding := x.outstanding + 1 }) s
         issueFab t serial n (sendFab t (.tile t .dmv) k d.key (match i with | some i => i.job.toNat | none => 0)
           d.gen.toNat (fld (hword d.words 1) 21 10) (match i with | some i => i.det | none => false) (some serial) (.va 0) false w s))
    | _, _ => s

/-- A survival engine's requests, as far as its head tile's 64 slots reach, and while its router originates packets (R503); they carry
job 0 (R30). -/
def pumpSrv (q : QuadId) : Nat → State → State
  | 0, s => s
  | n + 1, s =>
    let t := headTile q
    if routerStops s t then s else
    match s.quads[q].srv.todo, freeSlot s t with
    | w :: ws, some k =>
      let s := modQuad q (fun x => { x with srv := { x.srv with todo := ws } }) s
      pumpSrv q n (sendFab t (.srv q) k ⟨partOf s q, 0xFFFF⟩ 0 (hdr s (.srv q)).genLive.toNat 0 false none w.2.1 w.2.2 w.1 s)
    | _, _ => s

/-- A survival engine's request is outstanding in a partition. -/
def srvWaits (s : State) (p : Fin 4) : Bool := s.fabReqs.any (fun r => r.moveSerial.isNone && decide (r.key.part = p))

/-- Requests to one chip completed with E_LINK_DOWN, each slot's epoch advanced (R368). -/
def abandonChip (chip : Nat) (s : State) : State :=
  let rs := s.fabReqs.filter (fun r => r.chip.toNat == chip)
  rs.foldl (fun s r =>
    let key := 64 * r.tile.val + r.slot.toNat
    let s := { s with fabEpochs := fset (fun _ => 0) s.fabEpochs key ((fget (fun _ => 0) s.fabEpochs key + 1) % 16) }
    finishFab r (.err eLinkDown) s) s

/-! ## A link goes DOWN (R357) -/

/-- The requests a port still holds are answered E_LINK_DOWN; its responses are dropped and counted. -/
def dropHeld (p : PortId) (s : State) : State :=
  let xs := s.ports[p].retry.map (fun x => (x.tx.header, none)) ++ s.ports[p].waiting.map (fun x => (x.header, x.buf))
  let bank := s.ports[p].routes
  let s := modPort p (fun g => { g with retry := [], waiting := [] }) s
  xs.foldl (fun s x =>
    let h := gwHdrOf x.1
    freeBuf x.2 (if gwIsRequest h.opc then answerErr p bank h eLinkDown s else bump (gwp p) Off.gwpRspDrop 1 s)) s

/-- The buffers of a port whose link is gone hold nothing that a credit goes back for. -/
def forgetBufs (p : PortId) (s : State) : State :=
  let s := { s with ports := s.ports.map (fun g => { g with waiting := g.waiting.map (fun x =>
    if x.buf.any (fun b => decide (b.1 = p)) then { x with buf := none } else x) }) }
  modPort p (fun g => { g with held := g.held.map (fun x => { x with credit := false }) }) s

def linkDown (p : PortId) (report : Option Bool) (s : State) : State :=
  let s := match report with
    | some lost => raiseFault (gwp p) 0x21 0 0 (b2n lost) s
    | none => s
  let s := modPort p (fun g => { g with link := .down, lanes := 0, keys := none, keying := false, nakSent := false, rxFails := 0 }) s
  dropHeld p (forgetBufs p s)

end Sys2Proof.Machine
end

