-- ==== Sys2Proof/Machine/Taps.lean ====
section
/-! DEFINITION. Norm taps (R444 to R447): tap accumulators, the tap map, and the telemetry packets on their way to a
quadrant's statistics unit. -/

namespace Sys2Proof.Machine
open Sys2Proof

/-- The tap points, by their place in a tap-map entry (R445): the drain, VST, and the two output streams of VPRGM. -/
inductive TapPoint where
  | drain | vst | out0 | out1
  deriving DecidableEq, Repr

def TapPoint.index : TapPoint → Fin 4
  | .drain => 0 | .vst => 1 | .out0 => 2 | .out1 => 3

/-- The accumulator's unit weighs 2⁻²⁹⁸ (R446): a square in units, and whether bits fall below one. -/
def squareUnits (m : Nat) (e : Int) : Nat × Bool :=
  if 0 ≤ 2 * e + 298 then (m * m * 2 ^ (2 * e + 298).toNat, false)
  else
    let d := 2 ^ (-(2 * e + 298)).toNat
    (m * m / d, decide (m * m % d ≠ 0))

/-- A value added to a tap accumulator (R446). -/
def tapAdd (a : TapAcc) (v : FVal × Bool) : TapAcc :=
  if v.2 then { a with any := true, poison := true }
  else match v.1 with
    | .fin _ m e =>
      let (u, l) := squareUnits m e
      { a with any := true, sum := a.sum + u, lost := a.lost || l }
    | _ => { a with any := true, nonfinite := true }

/-- The tap-map entry of a layer on a quadrant, and the quantity it gives a tap point; 0 when not tapped (R445). -/
def tapEntry (s : State) (q : QuadId) (layer : Nat) : Nat := (fget (fun _ => (0 : Word)) s.quads[q].stat.map layer).toNat
def tapQuantity (s : State) (q : QuadId) (layer : Nat) (p : TapPoint) : Nat :=
  let e := tapEntry s q layer
  if bitOf e 0 then fld e (2 + 2 * p.index.val) (1 + 2 * p.index.val) else 0

/-- The block and the place of a tap point's accumulator. -/
def tapBlock (t : TileId) : TapPoint → Block
  | .drain => .tile t .mnt
  | _ => .tile t .vec
def tapOpen (s : State) (t : TileId) (p : TapPoint) : Option TapOpen := s.tiles[t].taps[p.index]
def setTap (t : TileId) (p : TapPoint) (o : Option TapOpen) (s : State) : State :=
  modTile t (fun x => { x with taps := x.taps.set p.index o }) s

/-- Two sums of one layer and quantity. -/
def tapJoin (a b : TapAcc) : TapAcc :=
  ⟨a.any || b.any, a.sum + b.sum, a.lost || b.lost, a.nonfinite || b.nonfinite, a.poison || b.poison⟩

/-- An accumulator sent as a telemetry packet to the tile's quadrant, which the item waits for (R446, R447). A sum that
an infinity, a NaN, a poisoned value or bits below the unit left out of is free (entry 16). -/
def sendTap (t : TileId) (p : TapPoint) (s : State) : State :=
  match tapOpen s t p with
  | none => s
  | some o =>
    let s := setTap t p none s
    match findItem s o.key with
    | none => s
    | some i =>
      let (_, s) := emit (tapBlock t p) s
      let (x, s) := if o.acc.lost || o.acc.nonfinite || o.acc.poison then takeFree s else (o.acc.sum, s)
      let pk : TapPkt := ⟨o.key, i.job, i.gen, i.det, o.layer, o.quantity, x, o.acc.nonfinite, o.acc.poison,
        blockStops s (.qstat (quadOf t))⟩
      s |> modQuad (quadOf t) (fun y => { y with stat := { y.stat with taps := y.stat.taps ++ [pk] } })
        |> modItem o.key (fun y => { y with taps := y.taps + 1 })

/-- Tapped values join the accumulator of their tap point, which is sent first where the layer id or the quantity changes
(R446). Only values of the served job are tapped (R442). -/
def tapInto (t : TileId) (k : ItemKey) (layer : Nat) (p : TapPoint) (a : TapAcc) (s : State) : State :=
  let n := tapQuantity s (quadOf t) layer p
  let same (o : TapOpen) : Bool := decide (o.key = k ∧ o.layer = BitVec.ofNat 12 layer ∧ o.quantity = n)
  match findItem s k with
  | none => s
  | some i =>
    if !a.any || n = 0 || !served s k.part i.job.toNat then s
    else match tapOpen s t p with
      | some o => if same o then setTap t p (some { o with acc := tapJoin o.acc a }) s
          else setTap t p (some ⟨k, BitVec.ofNat 12 layer, n, a⟩) (sendTap t p (if p = .drain then s else leaves t s))
      | none => setTap t p (some ⟨k, BitVec.ofNat 12 layer, n, a⟩) s

/-- Values that pass a tap point in one piece of work. -/
def tapValues (t : TileId) (k : ItemKey) (layer : Nat) (p : TapPoint) (vs : List (FVal × Bool)) (s : State) : State :=
  if tapQuantity s (quadOf t) layer p = 0 then s else tapInto t k layer p (vs.foldl tapAdd tapZero) s

/-- The tap points whose accumulators hold values of an item. -/
def tapsOf (s : State) (k : ItemKey) : List (TileId × TapPoint) :=
  allTiles.flatMap (fun t => ([TapPoint.drain, .vst, .out0, .out1].filter (fun p => match tapOpen s t p with
    | some o => decide (o.key = k)
    | none => false)).map (fun p => (t, p)))

/-- At the end of an item its accumulators are sent (R446). -/
def flushTaps (k : ItemKey) (s : State) : State := (tapsOf s k).foldl (fun s x => sendTap x.1 x.2 s) s

/-- The exact values of a cast block row: element × block scale × tensor scale (R444). -/
def castValues (f : Fmt) (t : Word) (p : PromoCast) : List FVal :=
  let sc := s8Value p.cast.scale
  p.cast.codes.map (fun c => fvMul (fvMul (decodeElem (if p.promoted then .e4m3 else f) c) (.fin false sc.1 sc.2)) (f32v t))

end Sys2Proof.Machine
end

