-- ==== Sys2Proof/Machine/Seq.lean ====
section
/-! DEFINITION. The tile sequencer (chapter 10): starting and ending items, its 27 instructions, the waits and their
release. A sequencer command executes the instruction at the program counter when that instruction is the command's;
an instruction that cannot be fetched or has a reserved opcode fails the item under any of them (entry 1). -/

namespace Sys2Proof.Machine
open Sys2Proof

/-! ## Registers and flow -/

/-- s[i] and its poison bit (R297). -/
def sreg (s : State) (t : TileId) (i : Nat) : Word := vat s.tiles[t].seq.sreg i 0
def spoisoned (s : State) (t : TileId) (i : Nat) : Bool := maskHas s.tiles[t].seq.spoison i

/-- s[i] written with its poison. -/
def setSreg (t : TileId) (i : Nat) (v : Word) (p : Bool) (s : State) : State :=
  modSeq t (fun q => { q with
    sreg := vput q.sreg i v
    spoison := if p then maskSet q.spoison i else maskClear q.spoison i }) s

/-- An instruction completes: SQC_BEATS and SQC_INSTR count it, and pc moves. -/
def seqGoto (t : TileId) (pc : Word) (s : State) : State :=
  s |> modSeq t (fun q => { q with pc := pc, waiting := none, issued := 0, issueMask := 0 })
    |> bump (sqc t) Off.sqcBeats 1 |> bump (sqc t) Off.sqcInstr 1
def seqNext (t : TileId) (s : State) : State := seqGoto t (s.tiles[t].seq.pc + 4) s

/-- The running item of a sequencer that may act: nothing is fenced away by the safe state, and the sequencer runs the
item's generation (R33, R296, R309, R439). -/
def seqItem (s : State) (t : TileId) : Option Item :=
  if s.flt.safe then none
  else match s.tiles[t].seq.running with
    | none => none
    | some k =>
      match findItem s k with
      | none => none
      | some i => if i.gen = (hdr s (sqc t)).genLive then some i else none

/-- SQC_LAST_ERR (R327). -/
def seqLastErr (t : TileId) (i : Item) (code op : Nat) (s : State) : State :=
  setReg (sqc t) Off.sqcLastErr (code + 2 ^ 8 * op + 2 ^ 16 * i.key.item.toNat) s

/-- A check of R307 failed: the item ends with the status. -/
def seqFail (t : TileId) (i : Item) (op code : Nat) (s : State) : State :=
  failItem i.key t code (sqc t) (seqLastErr t i code op s)

/-- A poisoned scalar used as address, condition, mask, count or ISSUE operand ends the item DONE_POISONED (R307). -/
def seqPoison (t : TileId) (i : Item) (s : State) : State := stopItem i.key t (itemPoison i.key s)

/-- A request of the sequencer to a tile memory (R239, R251). -/
def seqReq (t : TileId) (m : MemSel) (i : Item) (n : Nat) : MemReq := ⟨t, m, sqc t, i.key.item.toNat, true, n⟩

/-- What a fetch gives: a word, poisoned data, or a failing status. -/
inductive Fetch where
  | word (w : Nat)
  | poison
  | err (code : Nat)
  deriving DecidableEq, Repr

/-- The instruction at pc in the tile's program region (R297, R307), read by a line access. -/
def seqFetch (t : TileId) (i : Item) (s : State) : Fetch × State :=
  let pc := s.tiles[t].seq.pc.toNat
  if pc % 4 ≠ 0 then (.err eAlign, s)
  else if 65536 ≤ pc then (.err eExtent, s)
  else
    let (d, s) := tmRead (seqReq t .amem i 1) (reg s (sqc t) Off.sqcProgBase * 65536 + pc) 4 s
    if d.2.any (fun b => b) then (.poison, s) else (.word (wordOf d.1), s)

/-- The opcodes of R300. -/
def seqOps : List Nat :=
  [0x00, 0x01, 0x02, 0x03, 0x04, 0x05, 0x06, 0x07, 0x08, 0x09, 0x0A, 0x10, 0x11, 0x18, 0x19, 0x1A, 0x1B, 0x1C, 0x1D,
   0x1E, 0x20, 0x21, 0x22, 0x23, 0x24, 0x25, 0x26]

/-- One instruction of the running item: fetched, checked for a reserved opcode, and carried out by `body` when its
opcode is `op`, unless it must wait for the fault port (R429). -/
def seqRow (op : Nat) (body : TileId → Item → Nat → State → State) (t : TileId) (s : State) : State :=
  match seqItem s t with
  | none => s
  | some i =>
    if s.tiles[t].seq.waiting.isSome then s
    else viaPort t (fun s => match seqFetch t i s with
      | (.err c, s1) => seqFail t i 0 c s1
      | (.poison, s1) => seqPoison t i s1
      | (.word w, s1) =>
        if !seqOps.contains (fld w 31 26) then seqFail t i (fld w 31 26) eProgram s1
        else if fld w 31 26 = op then body t i w s1 else s) s

/-! ## Fields (R299) -/

def fRd (w : Nat) : Nat := fld w 25 22
def fRa (w : Nat) : Nat := fld w 21 18
def fRb (w : Nat) : Nat := fld w 17 14
def fFn (w : Nat) : Nat := fld w 13 0
/-- A signed field as a word. -/
def sextWord (n w : Nat) : Word := BitVec.ofInt 32 (sext n w)
def fImm (w : Nat) : Word := sextWord (fld w 17 0) 18

/-! ## Arithmetic, moves and jumps -/

/-- Form R: rd = f ra rb; poison passes from the sources (R307). -/
def seqAlu (op : Nat) (f : Word → Word → Word) (t : TileId) (i : Item) (w : Nat) (s : State) : State :=
  if fFn w ≠ 0 then seqFail t i op eProgram s
  else seqNext t (setSreg t (fRd w) (f (sreg s t (fRa w)) (sreg s t (fRb w)))
    (spoisoned s t (fRa w) || spoisoned s t (fRb w)) s)

def seqNopBody (t : TileId) (i : Item) (w : Nat) (s : State) : State :=
  if fld w 25 0 ≠ 0 then seqFail t i 0x00 eProgram s else seqNext t s

def seqAddiBody (t : TileId) (_i : Item) (w : Nat) (s : State) : State :=
  seqNext t (setSreg t (fRd w) (sreg s t (fRa w) + fImm w) (spoisoned s t (fRa w)) s)

def seqLuiBody (t : TileId) (_i : Item) (w : Nat) (s : State) : State :=
  seqNext t (setSreg t (fRd w) (BitVec.ofNat 32 (fld w 21 0 * 2 ^ 10)) false s)

/-- A conditional branch, form B: pc + 4 × OFF when the condition holds (R300). -/
def seqBranch (c : Word → Word → Bool) (t : TileId) (i : Item) (w : Nat) (s : State) : State :=
  let ra := fld w 25 22
  let rb := fld w 21 18
  if spoisoned s t ra || spoisoned s t rb then seqPoison t i s
  else if c (sreg s t ra) (sreg s t rb) then seqGoto t (s.tiles[t].seq.pc + 4 * fImm w) s else seqNext t s

def seqLoopBody (t : TileId) (i : Item) (w : Nat) (s : State) : State :=
  let ra := fld w 25 22
  if fld w 21 18 ≠ 0 then seqFail t i 0x1C eProgram s
  else if spoisoned s t ra then seqPoison t i s
  else
    let v := sreg s t ra - 1
    let s := setSreg t ra v false s
    if v ≠ 0 then seqGoto t (s.tiles[t].seq.pc + 4 * fImm w) s else seqNext t s

def seqJalBody (t : TileId) (_i : Item) (w : Nat) (s : State) : State :=
  let pc := s.tiles[t].seq.pc
  seqGoto t (pc + 4 * sextWord (fld w 21 0) 22) (setSreg t (fRd w) (pc + 4) false s)

def seqJrBody (t : TileId) (i : Item) (w : Nat) (s : State) : State :=
  if fRd w ≠ 0 ∨ fRb w ≠ 0 ∨ fFn w ≠ 0 then seqFail t i 0x1E eProgram s
  else if spoisoned s t (fRa w) then seqPoison t i s
  else seqGoto t (sreg s t (fRa w)) s

/-! ## Loads and stores (R299) -/

/-- The effective address checked: the memory and the byte address, or the failing status. -/
def seqEa (ea : Nat) (store : Bool) : Except Nat (MemSel × Nat) :=
  if fld ea 21 0 % 4 ≠ 0 then .error eAlign
  else if fld ea 31 24 ≠ 0 then .error eExtent
  else match memOfIndex (fld ea 23 22) with
    | none => .error eExtent
    | some m =>
      if memBytes m < fld ea 21 0 + 4 then .error eExtent
      else if store && m == .wmem then .error eExtent
      else .ok (m, fld ea 21 0)

/-- LD: poisoned data poison the scalar, not yet the item (R307; entry 34). -/
def seqLdBody (t : TileId) (i : Item) (w : Nat) (s : State) : State :=
  if spoisoned s t (fRa w) then seqPoison t i s
  else match seqEa (sreg s t (fRa w) + fImm w).toNat false with
    | .error c => seqFail t i 0x10 c s
    | .ok (m, a) =>
      let (d, s) := tmRead (seqReq t m i 1) a 4 s
      seqNext t (setSreg t (fRd w) (BitVec.ofNat 32 (wordOf d.1)) (d.2.any (fun b => b)) s)

def seqStBody (t : TileId) (i : Item) (w : Nat) (s : State) : State :=
  if spoisoned s t (fRa w) then seqPoison t i s
  else match seqEa (sreg s t (fRa w) + fImm w).toNat true with
    | .error c => seqFail t i 0x11 c s
    | .ok (m, a) =>
      let p := spoisoned s t (fRd w)
      let s := tmWrite (seqReq t m i 1) a (bytesOfNat 4 (sreg s t (fRd w)).toNat) (List.replicate 4 p) s
      seqNext t (if p then itemPoison i.key s else s)

/-! ## ISSUE (R301, R307) -/

/-- The lowest free token. -/
def freeToken (s : State) (t : TileId) : Option Nat :=
  (List.range 32).find? (fun k => (vat s.tiles[t].seq.tokens k none).isNone)

def setToken (t : TileId) (k : Nat) (h : Option TokenHold) (s : State) : State :=
  modSeq t (fun q => { q with tokens := vput q.tokens k h }) s

/-- Words of n bytes × 4 from a byte list, little-endian. -/
def wordsOfBytes : Nat → List Byte → List Word
  | 0, _ => []
  | n + 1, bs => BitVec.ofNat 32 (wordOf bs) :: wordsOfBytes n (bs.drop 4)

/-- The fields of ISSUE. -/
structure IssueArgs where
  eng : Nat
  cnt : Option Nat
  count : Nat
  base : Nat
  deriving DecidableEq, Repr

def issueArgs (s : State) (t : TileId) (w : Nat) : IssueArgs :=
  let fn := fFn w
  ⟨fld fn 13 12, if bitOf fn 11 then some (fld fn 10 7) else none, fld fn 6 0 + 1, (sreg s t (fRa w)).toNat⟩

/-- The checks of R301 and R307. -/
def issueCheck (w : Nat) (a : IssueArgs) : Option Nat :=
  let size := if a.eng = 2 then 8 else 64
  if fRb w ≠ 0 ∨ a.eng = 3 ∨ (a.eng = 2 ∧ (a.cnt.isSome ∨ fRd w ≠ 0)) ∨ (a.eng ≠ 2 ∧ 32 < a.count) ∨
      (a.cnt.isNone ∧ fld (fFn w) 10 7 ≠ 0) then some eProgram
  else if a.base % size ≠ 0 then some eAlign
  else if memBytes .amem < a.base + size * a.count then some eExtent
  else none

/-- The engine block that an ISSUE addresses. -/
def issueBlock (t : TileId) (eng : Nat) : Block := if eng = 0 then .tile t .dmv else if eng = 1 then .tile t .mnt else .tile t .vec

/-- Whether the next entry can be placed: the block takes the item, a token is free, and the gang or the queue has
room. The array takes entries whatever its state, since acceptance refuses them (R133). -/
def issueRoom (s : State) (t : TileId) (i : Item) (eng : Nat) : Bool :=
  if eng = 2 then servesItem s (.tile t .vec) i.key && decide (s.tiles[t].vec.queue.length < 32)
  else if eng = 1 then
    let g := s.tiles[liveLeader s t].mnt.gang
    (freeToken s t).isSome && decide (g.input.length + g.descs.length < 4) &&
      decide ((hdr s (.tile t .mnt)).mode ≠ .off)
  else servesItem s (.tile t .dmv) i.key && (freeToken s t).isSome

/-- n words read by the sequencer with a narrow access each (R239). -/
def seqWords (t : TileId) (i : Item) (a n : Nat) (s : State) : (List Byte × List Bool) × State :=
  (List.range n).foldl (fun x k =>
    let (d, s) := tmRead (seqReq t .amem i 1) (a + 4 * k) 4 x.2
    ((x.1.1 ++ d.1, x.1.2 ++ d.2), s)) (([], []), s)

/-- One entry placed in its engine, with its token. -/
def placeEntry (t : TileId) (i : Item) (a : IssueArgs) (s : State) : State :=
  let k := s.tiles[t].seq.issued
  let size := if a.eng = 2 then 8 else 64
  let (d, s) := seqWords t i (a.base + size * k) (size / 4) s
  if d.2.any (fun b => b) then seqPoison t i s
  else if a.eng = 2 then
    let e : VecEntry := ⟨BitVec.ofNat 64 (natOfBytes d.1), s.tiles[t].seq.sreg.toList, s.tiles[t].seq.spoison, i.key, none⟩
    s |> noteWork (blockId (.tile t .vec)) |> modVec t (fun v => { v with queue := v.queue ++ [e] }) |> modItem i.key (fun x => { x with usedVector := true })
      |> modSeq t (fun q => { q with issued := q.issued + 1 })
  else
    let tok := (freeToken s t).getD 0
    let ws := wordsOfBytes 16 d.1
    let ser := s.tiles[t].mov.serial
    let s := modMov t (fun m => { m with serial := m.serial + 1 }) s
    let s := setToken t tok (some ⟨if a.eng = 0 then .mover else .array, ser, i.key⟩) s
    let s := modSeq t (fun q => { q with issued := q.issued + 1, issueMask := maskSet q.issueMask tok }) s
    if a.eng = 0 then
      noteWork (blockId (.tile t .dmv)) <| modMov t (fun m => { m with queue := m.queue ++ [mvNew ws i.key i.gen tok a.cnt ser] }) s
    else
      let l := liveLeader s t
      s |> modItem i.key (fun x => { x with usedArray := true })
        |> modMnt l (fun m => { m with gang := { m.gang with
            input := m.gang.input ++ [⟨ws, i.key, i.gen, t, tok, a.cnt, ser, 0, 0, 0, false, []⟩] } })

/-- Entries are placed while there is room; the rest wait (DRAIN_FULL). -/
def placeEntries (t : TileId) (i : Item) (a : IssueArgs) : Nat → State → State
  | 0, s => s
  | n + 1, s =>
    if s.tiles[t].seq.running ≠ some i.key then s
    else if a.count ≤ s.tiles[t].seq.issued then s
    else if (hdr s (issueBlock t a.eng)).mode = .fenced then
      seqPoison t i (fenceItem (issueBlock t a.eng) i.key s)
    else if issueRoom s t i a.eng then placeEntries t i a n (placeEntry t i a s) else s

/-- ISSUE from where it stands: it completes when every entry has been placed, and RD receives the tokens' mask. -/
def issueFrom (t : TileId) (i : Item) (w : Nat) (s : State) : State :=
  let a := issueArgs s t w
  let s := placeEntries t i a a.count s
  if s.tiles[t].seq.running ≠ some i.key then s
  else if a.count ≤ s.tiles[t].seq.issued then
    seqNext t (if a.eng = 2 then s else setSreg t (fRd w) s.tiles[t].seq.issueMask false s)
  else modSeq t (fun q => { q with waiting := some .issue }) s

def seqIssueBody (t : TileId) (i : Item) (w : Nat) (s : State) : State :=
  match issueCheck w (issueArgs s t w) with
  | some c => if c ≠ eProgram ∧ spoisoned s t (fRa w) then seqPoison t i s else seqFail t i 0x20 c s
  | none =>
    if spoisoned s t (fRa w) then seqPoison t i s else issueFrom t i w (modSeq t (fun q => { q with issued := 0, issueMask := 0 }) s)

/-! ## WAIT, FENCE, SIGNAL (R302 to R305) -/

/-- Counter a has reached b (R302). -/
def reached (a b : Word) : Bool := decide ((a - b).toNat < 2 ^ 31)

/-- The holders of the tokens that a mask names. -/
def heldTokens (s : State) (t : TileId) (mask : Word) : List (Engine × Nat) :=
  (List.range 32).filterMap (fun k => if maskHas mask k then
    (vat s.tiles[t].seq.tokens k none).map (fun h => (h.eng, h.serial)) else none)

/-- A token holder is still held. -/
def stillHeld (s : State) (t : TileId) (h : Engine × Nat) : Bool :=
  s.tiles[t].seq.tokens.toList.any (fun x => match x with | some y => decide ((y.eng, y.serial) = h) | none => false)

/-- Descriptors and instructions of an item outstanding in an engine (R304). -/
def engineHolds (s : State) (t : TileId) (k : ItemKey) (e : Engine) : Bool :=
  match e with
  | .vector => s.tiles[t].vec.queue.any (fun x => decide (x.key = k))
  | _ => s.tiles[t].seq.tokens.toList.any (fun x => match x with
      | some y => decide (y.eng = e) && decide (y.key = k) | none => false)

/-- Every write that an item has issued so far is acknowledged (R305). -/
def writesAcked (s : State) (t : TileId) (k : ItemKey) : Bool :=
  s.tiles[t].mov.active.all (fun d => decide (d.key ≠ k) || decide (d.outstanding = 0))

/-- Whether a wait is over. A SIGNAL POST to another tile is a packet, which waits while the router is drained (R503). -/
def waitOver (s : State) (t : TileId) (k : ItemKey) : WaitCond → Bool
  | .tokens hs => hs.all (fun h => !stillHeld s t h)
  | .counter c b => reached (counterOf s t c.val) b
  | .fence m a v => !(m && engineHolds s t k .mover) && !(a && engineHolds s t k .array) &&
      !(v && engineHolds s t k .vector)
  | .post d _ => writesAcked s t k && (decide (d = t) || !routerStops s t)
  | .issue => false

/-- A wait ends: a SIGNAL POST adds 1 to the counter it names, by a packet where another tile holds it, and the instruction
completes. -/
def waitDone (t : TileId) (c : WaitCond) (s : State) : State :=
  match c with
  | .post d k => seqNext t (addCounter d k.val (if d = t then s else emitN (sqc t) 1 s))
  | _ => seqNext t s

/-- A wait begins, or ends at once. -/
def beginWait (t : TileId) (i : Item) (c : WaitCond) (s : State) : State :=
  if waitOver s t i.key c then waitDone t c s else modSeq t (fun q => { q with waiting := some c }) s

def seqWaitBody (t : TileId) (i : Item) (w : Nat) (s : State) : State :=
  let fn := fFn w
  if fRd w ≠ 0 ∨ fRb w ≠ 0 ∨ fld fn 13 5 ≠ 0 ∨ (fld fn 0 0 = 0 ∧ fld fn 4 1 ≠ 0) then seqFail t i 0x21 eProgram s
  else if spoisoned s t (fRa w) then seqPoison t i s
  else
    let v := sreg s t (fRa w)
    beginWait t i (if fld fn 0 0 = 0 then .tokens (heldTokens s t v)
      else .counter ⟨fld fn 4 1 % 16, by omega⟩ v) s

def seqFenceBody (t : TileId) (i : Item) (w : Nat) (s : State) : State :=
  let fn := fFn w
  if fRd w ≠ 0 ∨ fRa w ≠ 0 ∨ fRb w ≠ 0 ∨ fld fn 13 3 ≠ 0 then seqFail t i 0x22 eProgram s
  else
    let all := decide (fn = 0)
    beginWait t i (.fence (all || bitOf fn 0) (all || bitOf fn 1) (all || bitOf fn 2)) s

/-- SIGNAL END (R305): the item becomes FINISHING with its DETAIL candidate; a poisoned one writes 0 (R307). -/
def signalEnd (t : TileId) (i : Item) (v : Word) (p : Bool) (s : State) : State :=
  s |> seqNext t
    |> modItem i.key (fun x => { x with
        state := .finishing, listEnded := true, detail := if p then 0 else v, poisoned := x.poisoned || p })
    |> stopList t

def seqSignalBody (t : TileId) (i : Item) (w : Nat) (s : State) : State :=
  let fn := fFn w
  let v := sreg s t (fRa w)
  if fRd w ≠ 0 ∨ fRb w ≠ 0 ∨ fld fn 13 5 ≠ 0 ∨ (fld fn 0 0 = 0 ∧ fld fn 4 1 ≠ 0) then seqFail t i 0x23 eProgram s
  else if fld fn 0 0 = 0 then signalEnd t i v (spoisoned s t (fRa w)) s
  else if spoisoned s t (fRa w) then seqPoison t i s
  else
    let d : TileId := ⟨fld v.toNat 5 0 % 64, by omega⟩
    if partOfTile s d ≠ i.key.part then seqFail t i 0x23 ePartition s
    else beginWait t i (.post d ⟨fld fn 4 1 % 16, by omega⟩) s

/-! ## GENMARK, GETS, PUTS (R300, R308) -/

/-- The working tiles of a quadrant as bits in row-major order. -/
def workingMask (s : State) (q : QuadId) : BitVec 16 :=
  (List.finRange 16).foldl (fun m k => if s.tiles[quadTile q k].retired then m else maskSet m k.val) 0

/-- A marker in a tile's work stream, behind every item already placed (R308): two queue words (entry 8), a
packet of the dispatcher. -/
def placeMarker (g : Byte) (t : TileId) (s : State) : State :=
  emitN (.qdsp (quadOf t)) 1 (pushTile t (.work t) ⟨.marker g, 2⟩ s)

/-- A block switches to the staged generation (R62): the staged copies become live. -/
def switchHdr (b : Block) (s : State) : State :=
  modHdr b (fun h => { h with genLive := h.genStaged, genPend := false, markers := 0 }) s

/-- Packets that waited for the switch are processed (R33). -/
def releaseHeld (b : Block) (s : State) : State := modHdr b (fun h => { h with rx := h.rx ++ h.held, held := [] }) s

/-- Every working tile of the quadrant has its marker: step 4 of R62 is complete in it; its QDSP_ and queue block
switch, and what waited there goes on. -/
def finishPlacement (q : QuadId) (s : State) : State :=
  if s.quads[q].marked &&& workingMask s q = workingMask s q ∧ s.quads[q].notice then
    s |> modQuad q (fun x => { x with placed := true, notice := false, stampGen := s.dev.genTarget })
      |> switchHdr (.qdsp q) |> releaseHeld (.qdsp q) |> switchHdr (.qque q) |> releaseHeld (.qque q)
  else s

def seqGenmarkBody (t : TileId) (i : Item) (w : Nat) (s : State) : State :=
  let q := quadOf t
  let g := sreg s t (fRa w)
  let m := sreg s t (fRb w)
  if fRd w ≠ 0 ∨ fFn w ≠ 0 then seqFail t i 0x24 eProgram s
  else if headTile q ≠ t ∨ i.job ≠ 0 ∨ !s.dev.genPend then seqFail t i 0x24 eProgram s
  else if spoisoned s t (fRa w) || spoisoned s t (fRb w) then seqPoison t i s
  else if fld g.toNat 7 0 ≠ s.dev.genTarget.toNat then seqFail t i 0x24 eProgram s
  else
    let ks := (List.finRange 16).filter (fun k => maskHas m k.val && !s.tiles[quadTile q k].retired)
    if !ks.all (fun k => queRoom s (.work (quadTile q k)) 2) then { s with heldBack := true } else
    let s := ks.foldl (fun a k => placeMarker s.dev.genTarget (quadTile q k) a) s
    let s := modQuad q (fun x => { x with marked := ks.foldl (fun a k => maskSet a k.val) x.marked }) s
    seqNext t (finishPlacement q s)

/-- The special registers (R300). -/
def specialReg (s : State) (t : TileId) (i : Item) (n : Nat) : Option Word :=
  if n < 0x10 then some (counterOf s t n)
  else if n = 0x10 then some (BitVec.ofNat 32 (i.key.item.toNat + 2 ^ 16 * jobByte i.key.part i.job))
  else if n = 0x11 then some (BitVec.ofNat 32 t.val)
  else if n = 0x12 then some (BitVec.ofNat 32 i.layer.toNat)
  else if n = 0x13 then some (BitVec.ofNat 32 i.gen.toNat)
  else if n = 0x14 then some (BitVec.ofNat 32 (((List.range 32).filter
    (fun k => (vat s.tiles[t].seq.tokens k none).isSome)).map
    (2 ^ ·)).sum)
  else if n = 0x15 then some (BitVec.ofNat 32 (reg s (sqc t) Off.sqcProgBase))
  else none

def seqGetsBody (t : TileId) (i : Item) (w : Nat) (s : State) : State :=
  if fRa w ≠ 0 ∨ fRb w ≠ 0 ∨ fld (fFn w) 13 6 ≠ 0 then seqFail t i 0x25 eProgram s
  else match specialReg s t i (fld (fFn w) 5 0) with
    | none => seqFail t i 0x25 eProgram s
    | some v => seqNext t (setSreg t (fRd w) v false s)

def seqPutsBody (t : TileId) (i : Item) (w : Nat) (s : State) : State :=
  if fRd w ≠ 0 ∨ fRb w ≠ 0 ∨ fld (fFn w) 13 6 ≠ 0 ∨ 0x10 ≤ fld (fFn w) 5 0 then seqFail t i 0x26 eProgram s
  else if spoisoned s t (fRa w) then seqPoison t i s
  else seqNext t (setCounter t (fld (fFn w) 5 0) (sreg s t (fRa w)) s)

/-! ## The commands -/

def execSqNop (t : TileId) (s : State) : Res := .next (seqRow 0x00 seqNopBody t s)
def execSqAdd (t : TileId) (s : State) : Res := .next (seqRow 0x01 (seqAlu 0x01 (· + ·)) t s)
def execSqSub (t : TileId) (s : State) : Res := .next (seqRow 0x02 (seqAlu 0x02 (· - ·)) t s)
def execSqMul (t : TileId) (s : State) : Res := .next (seqRow 0x03 (seqAlu 0x03 (· * ·)) t s)
def execSqAnd (t : TileId) (s : State) : Res := .next (seqRow 0x04 (seqAlu 0x04 (· &&& ·)) t s)
def execSqOr (t : TileId) (s : State) : Res := .next (seqRow 0x05 (seqAlu 0x05 (· ||| ·)) t s)
def execSqXor (t : TileId) (s : State) : Res := .next (seqRow 0x06 (seqAlu 0x06 (· ^^^ ·)) t s)
def execSqShl (t : TileId) (s : State) : Res :=
  .next (seqRow 0x07 (seqAlu 0x07 (fun a b => a <<< (b.toNat % 32))) t s)
def execSqShr (t : TileId) (s : State) : Res :=
  .next (seqRow 0x08 (seqAlu 0x08 (fun a b => a >>> (b.toNat % 32))) t s)
def execSqAddi (t : TileId) (s : State) : Res := .next (seqRow 0x09 seqAddiBody t s)
def execSqLui (t : TileId) (s : State) : Res := .next (seqRow 0x0A seqLuiBody t s)
def execSqLd (t : TileId) (s : State) : Res := .next (seqRow 0x10 seqLdBody t s)
def execSqSt (t : TileId) (s : State) : Res := .next (seqRow 0x11 seqStBody t s)
def execSqBeq (t : TileId) (s : State) : Res := .next (seqRow 0x18 (seqBranch (fun a b => a == b)) t s)
def execSqBne (t : TileId) (s : State) : Res := .next (seqRow 0x19 (seqBranch (fun a b => a != b)) t s)
def execSqBlt (t : TileId) (s : State) : Res := .next (seqRow 0x1A (seqBranch (fun a b => a.slt b)) t s)
def execSqBge (t : TileId) (s : State) : Res := .next (seqRow 0x1B (seqBranch (fun a b => !a.slt b)) t s)
def execSqLoop (t : TileId) (s : State) : Res := .next (seqRow 0x1C seqLoopBody t s)
def execSqJal (t : TileId) (s : State) : Res := .next (seqRow 0x1D seqJalBody t s)
def execSqJr (t : TileId) (s : State) : Res := .next (seqRow 0x1E seqJrBody t s)
def execSqIssue (t : TileId) (s : State) : Res := .next (seqRow 0x20 seqIssueBody t s)
def execSqWait (t : TileId) (s : State) : Res := .next (seqRow 0x21 seqWaitBody t s)
def execSqFence (t : TileId) (s : State) : Res := .next (seqRow 0x22 seqFenceBody t s)
def execSqSignal (t : TileId) (s : State) : Res := .next (seqRow 0x23 seqSignalBody t s)
def execSqGets (t : TileId) (s : State) : Res := .next (seqRow 0x25 seqGetsBody t s)
def execSqPuts (t : TileId) (s : State) : Res := .next (seqRow 0x26 seqPutsBody t s)

/-- SEQ_WAIT_RELEASE (R303): a held sequencer whose condition is met continues; a held ISSUE places what it can. -/
def execSeqWaitRelease (t : TileId) (s : State) : Res :=
  .next (match seqItem s t, s.tiles[t].seq.waiting with
    | some i, some .issue =>
      viaPort t (fun s => match seqFetch t i s with
       | (.word w, _) => issueFrom t i w (modSeq t (fun q => { q with waiting := none }) s)
       | _ => s) s
    | some i, some c => if waitOver s t i.key c then waitDone t c s else s
    | _, _ => s)

/-- ITEM_START (R297): the next item of the work stream starts. -/
def startItem (t : TileId) (i : Item) (s : State) : State :=
  let s0 := BitVec.ofNat 32 (i.key.item.toNat + 2 ^ 16 * jobByte i.key.part i.job)
  let rs : List Word := [s0, BitVec.ofNat 32 i.rank, 0, 0, 0, 0, 0, 0] ++ (i.args ++ List.replicate 8 0).take 8
  s |> noteWork (blockId (sqc t)) |> takeTileHead t (.work t)
    |> modItem i.key (fun x => { x with state := .running })
    |> modSeq t (fun q => { q with
        running := some i.key, pc := i.entry.setWidth 32, waiting := none, issued := 0, issueMask := 0,
        sreg := Vector.ofFn (fun k : Fin 16 => rs.getD k.val 0), spoison := 0 })

/-- The item at the head of the work stream is taken, or vanishes where it fails as it is read back (R321, R322). -/
def takeItem (t : TileId) (i : Item) (s : State) : State :=
  viaPort t (fun s =>
  match tileHeadBad t (.work t) s with
  | (true, s) => rewindHead (.work t) s
  | (false, s) => startItem t i s) s

def execItemStart (t : TileId) (s : State) : Res :=
  .next (if s.flt.safe || meterHold s || s.tiles[t].seq.running.isSome || decide ((hdr s (sqc t)).mode ≠ .on) then s
    else match s.tiles[t].work.pkts with
      | ⟨.item k, _⟩ :: _ =>
        (match findItem s k with
         | some i => if i.tile = t ∧ i.state = .queued then takeItem t i s else s
         | none => s)
      | _ => s)

/-- ITEM_END (R306, R446, R447): all the work of an item whose list has ended is complete; its tap accumulators are sent, and
once the statistics unit has taken them its status and record are formed. -/
def execItemEnd (t : TileId) (item : BitVec 16) (s : State) : Res :=
  .next (match s.items.find? (fun i => decide (i.tile = t) && decide (i.key.item = item) &&
      decide (i.state = .finishing)) with
    | some i => if outstanding s i then s
        else if !(tapsOf s i.key).isEmpty then (if (tapsOf s i.key).any (fun x => routerStops s x.1) then s else flushTaps i.key s)
        else if !queRoom s (.comp t) 4 then s else unlessHeld (endItem i) s
    | none => s)

end Sys2Proof.Machine
end

