-- ==== Sys2Proof/Machine/Vec.lean ====
section
/-! DEFINITION. The vector engine's registers, instruction word, issue and its arithmetic instructions (chapter 06). A
vector command executes the instruction at the head of the tile's issue queue when it is the command's; a reserved
opcode fails the item under any of them (entry 1). -/

namespace Sys2Proof.Machine
open Sys2Proof

def vecB (t : TileId) : Block := .tile t .vec

/-! ## Registers (R161 to R163) -/

def zeroWord : Nat → Word := fun _ => 0
def falseAt : Nat → Bool := fun _ => false

/-- A register as an instruction reads it: 1,024 lanes and the poison of its 64 lines. -/
structure VReg where
  lanes : List Word
  poison : List Bool
  deriving DecidableEq, Repr

/-- The lanes and poison of t[r] as stored. -/
def vregRaw (v : VecSt) (r : Nat) : VReg := ⟨fread zeroWord v.regs (1024 * r) 1024, fread falseAt v.poison (64 * r) 64⟩

/-- Lines of t[r] whose parity fails. -/
def badVecLines (v : VecSt) (r : Nat) : List Nat :=
  (frange v.badLines (64 * r) 64).map (fun e => e.1 - 64 * r)

/-- A failing line is reported as VEC_REGFILE and poisoned (R163). -/
def reportVecLine (t : TileId) (item r j : Nat) (s : State) : State :=
  s |> modVec t (fun v => { v with
      badLines := fset falseAt v.badLines (64 * r + j) false, poison := fset falseAt v.poison (64 * r + j) true })
    |> raiseFault (vecB t) 0x18 0 item (r + 32 * j)

/-- Registers checked before they are read. -/
def checkRegs (t : TileId) (item : Nat) (rs : List Nat) (s : State) : State :=
  if s.tiles[t].vec.badLines.isEmpty then s
  else rs.foldl (fun a r => (badVecLines a.tiles[t].vec r).foldl (fun b j => reportVecLine t item r j b) a) s

/-- Lines from key k on, n of them, have been written: their parity is good again, but where FLT_INJECT armed this block, whose
address space the registers, the slot memory and the program slots share, 64 bytes a line (R440; entry 17). -/
def goodLines (t : TileId) (k n : Nat) (s : State) : State :=
  let s := modVec t (fun x => { x with badLines := fclear x.badLines k n }) s
  match armedAt s (vecB t) (fun a => decide (k ≤ a / 64) && decide (a / 64 < k + n)) with
  | some a => disarm a (modVec t (fun x => { x with badLines := fset falseAt x.badLines (a.2.1.toNat / 64) true }) s)
  | none => s

/-- Lines of the slot memory or of a program slot checked before they are read: a failing one is reported, with a DETAIL that the
spec does not state for it (entry 41), and good again once `hit` has poisoned what it holds (R163). -/
def checkLines (t : TileId) (item k n : Nat) (hit : Nat → State → State) (s : State) : State :=
  (frange s.tiles[t].vec.badLines k n).foldl (fun a e =>
    let (x, a) := takeFree a
    a |> modVec t (fun v => { v with badLines := fset falseAt v.badLines e.1 false }) |> hit e.1
      |> raiseFault (vecB t) 0x18 0 item (x % 2 ^ 11)) s

/-- t[r] written: lanes and line poison; parity is good again, but where FLT_INJECT armed this block (R440). -/
def writeReg (t : TileId) (r : Nat) (v : VReg) (s : State) : State :=
  goodLines t (64 * r) 64 (modVec t (fun x => { x with
    regs := fwrite zeroWord x.regs (1024 * r) v.lanes, poison := fwrite falseAt x.poison (64 * r) v.poison }) s)

/-! ## The instruction word (R169, R171) -/

/-- An instruction at the head of the queue. -/
structure VIns where
  opc : Nat
  fmt : Nat
  vd : Nat
  va : Nat
  vb : Nat
  vc : Nat
  x : Nat
  scalars : List Word
  sp : BitVec 16
  deriving DecidableEq, Repr

def vinsOf (e : VecEntry) : VIns :=
  let w := e.word.toNat
  ⟨fld w 63 56, fld w 55 52, fld w 51 47, fld w 46 42, fld w 41 37, fld w 36 32, fld w 31 0, e.scalars, e.scalarPoison⟩

/-- A scalar that travels with the instruction, and its poison (R165). -/
def VIns.scalar (v : VIns) (n : Nat) : Word := v.scalars.getD n 0
def VIns.scalarPoisoned (v : VIns) (n : Nat) : Bool := maskHas v.sp n

/-! Class A fields. -/
def VIns.bs (v : VIns) : Bool := bitOf v.x 31
def VIns.sbA (v : VIns) : Nat := fld v.x 30 27
def VIns.cxA (v : VIns) : Nat := fld v.x 26 24
def VIns.roundA (v : VIns) : Bool := bitOf v.x 23
def VIns.sub (v : VIns) : Nat := fld v.x 22 20
def VIns.sfmt (v : VIns) : Nat := fld v.x 19 18

/-- The opcodes of R172. -/
def vecOpcs : List Nat :=
  [0x01, 0x02, 0x03, 0x04, 0x05, 0x06, 0x07, 0x08] ++ List.range' 0x10 17 ++ [0x28, 0x29, 0x30, 0x31, 0x32, 0x38, 0x39,
   0x40, 0x41, 0x48, 0x49, 0x50, 0x51, 0x58, 0x59]

/-! ## Starting and completing (R165 to R168, R202) -/

/-- The item of the instruction at the head of a queue that may start: no safe state, the block on or finishing what it
holds, and the block's generation the item's (R33, R439). -/
def vecHead (s : State) (t : TileId) : Option (VIns × Item) :=
  if s.flt.safe || decide ((hdr s (vecB t)).mode = .off) then none
  else match s.tiles[t].vec.queue with
    | [] => none
    | e :: _ =>
      match findItem s e.key with
      | none => none
      | some i => if i.gen = (hdr s (vecB t)).genLive then some (vinsOf e, i) else none

def popVec (t : TileId) (s : State) : State := modVec t (fun v => { v with queue := v.queue.drop 1 }) s

/-- A failed check (R168): VEC_LAST_ERR, and the item ends with the status; its queued instructions are discarded. -/
def vecFail (t : TileId) (i : Item) (v : VIns) (code : Nat) (s : State) : State :=
  s |> popVec t |> setReg (vecB t) Off.vecLastErr (code + 2 ^ 8 * v.opc + 2 ^ 16 * i.key.item.toNat)
    |> failItem i.key t code (vecB t)

/-- A poisoned scalar used as an address, a count or an index limit ends the item DONE_POISONED (R307). -/
def vecPoisonStop (t : TileId) (i : Item) (s : State) : State :=
  s |> popVec t |> itemPoison i.key |> stopItem i.key t

/-- How many of 64 positions a pattern withholds, and whether groups of eight differ by at most one (R410). -/
def patternOk (p : Nat → Bool) (n : Nat) : Bool :=
  let cnt (k : Nat) : Nat := ((List.range 8).filter (fun i => p (8 * k + i))).length
  let cs := (List.range 8).map cnt
  decide (cs.sum = n) && cs.all (fun c => decide (n / 8 ≤ c) && decide (c ≤ (n + 7) / 8))

/-- The array bubble of a position (R410): any pattern that withholds n of 64 positions evenly (entry 7). -/
def bubbleAt (n pos : Nat) : Bool :=
  if n = 0 then false
  else if patternOk (Config.bubblePattern n) n then Config.bubblePattern n (pos % 64)
  else decide ((pos % 64 + 1) * n / 64 ≠ pos % 64 * n / 64)

/-- The withheld positions that r positions which issue meet, from a position on. -/
def withheldFrom (n : Nat) : Nat → Nat → Nat → Nat
  | 0, _, _ => 0
  | f + 1, pos, r => if r = 0 then 0 else if bubbleAt n pos then 1 + withheldFrom n f (pos + 1) r else withheldFrom n f (pos + 1) (r - 1)

/-- The same for any number of beats: FV of every 64 positions. -/
def withheld (n pos beats : Nat) : Nat := beats / (64 - n) * n + withheldFrom n 128 pos (beats % (64 - n))

/-- Vector issue withholds FV of every 64 positions (R410): each that an instruction meets is counted as BUBBLE_POWER (R202), and its item
carries BUBBLED. At which position it begins, and how many beats it waits, is free (entry 7). -/
def vecBubbled (t : TileId) (k : ItemKey) (beats : Nat) (s : State) : State :=
  let fv := s.pwr.quads[quadOf t].fv
  if fv = 0 then s
  else
    let (x, s) := takeFree s
    let w := withheld fv (x % 64) (beats + x / 64)
    if w = 0 then s else bump (vecB t) (Off.vecStall + 8 * 7) w (itemFlags k 64 s)

/-- An instruction completes, occupying the arithmetic unit for the beats of R172. -/
def vecDone (t : TileId) (i : Item) (beats : Nat) (s : State) : State :=
  s |> vecBubbled t i.key beats |> popVec t |> bump (vecB t) Off.vecInstr 1 |> bump (vecB t) Off.vecBeats beats
    |> modItem i.key (fun x => { x with beatsVector := x.beatsVector + beats })

/-- An instruction that reaches memory completes: beside the arithmetic unit's beats it is credited with those in which only the
load/store unit was occupied, which depend on the crossbar's arbitration (R202), a free value (entry 7). -/
def vecDoneMem (t : TileId) (i : Item) (beats : Nat) (s : State) : State :=
  let (n, s) := takeFree s
  vecDone t i (beats + n) s

def vecDoneLsu (t : TileId) (i : Item) (s : State) : State := vecDoneMem t i 0 s

/-- One instruction of the engine: `body` carries it out when its opcode is `opc`, unless it must wait for the fault port. -/
def vecRow (opc : Nat) (body : TileId → Item → VIns → State → State) (t : TileId) (s : State) : State :=
  match vecHead s t with
  | none => s
  | some (v, i) =>
    if !vecOpcs.contains v.opc then vecFail t i v eProgram s
    else if v.opc = opc then viaPort t (body t i v) s else s

/-- The checks first, in the order of R174; the effect when all pass. -/
def vecChecked (t : TileId) (i : Item) (v : VIns) (cs : List (Bool × Nat)) (eff : State → State) (s : State) : State :=
  match firstFail cs with
  | some c => vecFail t i v c s
  | none => eff s

/-! ## Class A checks -/

/-- The source registers that a class A opcode uses. -/
structure AUse where
  va : Bool
  vb : Bool
  vc : Bool
  deriving DecidableEq, Repr

/-- R174: a register field that the opcode does not use, VB with BS set, or an RSVD bit of X, is not 0. -/
def aUnused (v : VIns) (u : AUse) : Bool :=
  (!u.va && decide (v.va ≠ 0)) || ((!u.vb || v.bs) && decide (v.vb ≠ 0)) || (!u.vc && decide (v.vc ≠ 0)) ||
  decide (fld v.x 17 0 ≠ 0)

/-- A range of registers beyond t31. -/
def beyond (r n : Nat) : Bool := decide (32 < r + n)
/-- A destination range that partly overlaps a source range (R174). -/
def clash (d nd a na : Nat) : Bool :=
  decide (d < a + na) && decide (a < d + nd) && !(decide (d = a) && decide (nd = na))

/-! ## Element-wise operations (R164, R172) -/

/-- The IEEE format of a floating register format. -/
def regSpec (f : Nat) : FSpec := if f = 1 then specBF16 else if f = 2 then specF16 else specF32

def loHalf (w : Word) : Nat := w.toNat % 65536
def hiHalf (w : Word) : Nat := w.toNat / 65536
def packLane (lo hi : Nat) : Word := BitVec.ofNat 32 (lo % 65536 + 65536 * (hi % 65536))

/-- A function of element bits applied to a lane: once for a 32-bit format, to both halves for a packed one. -/
def laneOp (fmt : Nat) (f : Nat → Nat → Nat → Nat) (a b c : Word) : Word :=
  if fmt = 1 ∨ fmt = 2 then packLane (f (loHalf a) (loHalf b) (loHalf c)) (f (hiHalf a) (hiHalf b) (hiHalf c))
  else BitVec.ofNat 32 (f a.toNat b.toNat c.toNat)

/-- A floating operation: formed exactly, rounded once to the register format. -/
def floatOp (f : FVal → FVal → FVal → FVal) (fmt a b c : Nat) : Nat :=
  let sp := regSpec fmt
  packIeee sp (f (decodeFloat sp a) (decodeFloat sp b) (decodeFloat sp c))

/-- Three lists of lanes combined. -/
def zip3 (f : Word → Word → Word → Word) : List Word → List Word → List Word → List Word
  | a :: as, b :: bs, c :: cs => f a b c :: zip3 f as bs cs
  | _, _, _ => []

def orLines : List Bool → List Bool → List Bool
  | a :: as, b :: bs => (a || b) :: orLines as bs
  | _, _ => []

/-- Operand b: register VB, or the scalar in every element. -/
def operandB (v : VIns) (s : State) (t : TileId) : VReg :=
  if v.bs then
    let w := v.scalar v.sbA
    let l := if v.fmt = 1 ∨ v.fmt = 2 then packLane (loHalf w) (loHalf w) else w
    ⟨List.replicate 1024 l, List.replicate 64 (v.scalarPoisoned v.sbA)⟩
  else vregRaw s.tiles[t].vec v.vb

/-- The item consumed poison when any line that it read carries it (R162). -/
def notePoison (k : ItemKey) (ps : List Bool) (s : State) : State := if ps.any (fun b => b) then itemPoison k s else s

/-- An element-wise instruction: d = f a b c in the format, a line poisoned where a source line is. -/
def elementwise (u : AUse) (fmts : List Nat) (f : Nat → Nat → Nat → Nat → Nat) (t : TileId) (i : Item) (v : VIns)
    (s : State) : State :=
  vecChecked t i v [(aUnused v u, eProgram), (!fmts.contains v.fmt, eFormat)] (fun s =>
    let s := checkRegs t i.key.item.toNat ((if u.va then [v.va] else []) ++ (if u.vb && !v.bs then [v.vb] else []) ++
      (if u.vc then [v.vc] else [])) s
    let zero : VReg := ⟨List.replicate 1024 0, List.replicate 64 false⟩
    let a := if u.va then vregRaw s.tiles[t].vec v.va else zero
    let b := operandB v s t
    let c := if u.vc then vregRaw s.tiles[t].vec v.vc else zero
    let ps := orLines (orLines a.poison b.poison) c.poison
    s |> writeReg t v.vd ⟨zip3 (laneOp v.fmt (f v.fmt)) a.lanes b.lanes c.lanes, ps⟩ |> notePoison i.key ps
      |> vecDone t i 1) s

def useAB : AUse := ⟨true, true, false⟩
def useABC : AUse := ⟨true, true, true⟩
def useA : AUse := ⟨true, false, false⟩

def floatFmts : List Nat := [0, 1, 2]
def intFmts : List Nat := [3]

def float2 (f : FVal → FVal → FVal) : Nat → Nat → Nat → Nat → Nat := floatOp (fun a b _ => f a b)
/-- An INT32 operation on words. -/
def int2 (f : Word → Word → Word) (_fmt a b _c : Nat) : Nat := (f (BitVec.ofNat 32 a) (BitVec.ofNat 32 b)).toNat

def execVadd (t : TileId) (s : State) : Res := .next (vecRow 0x10 (elementwise useAB floatFmts (float2 fvAdd)) t s)
def execVsub (t : TileId) (s : State) : Res :=
  .next (vecRow 0x11 (elementwise useAB floatFmts (float2 (fun a b => fvAdd a (fvNeg b)))) t s)
def execVmul (t : TileId) (s : State) : Res := .next (vecRow 0x12 (elementwise useAB floatFmts (float2 fvMul)) t s)
def execVfma (t : TileId) (s : State) : Res :=
  .next (vecRow 0x13 (elementwise useABC floatFmts (floatOp (fun a b c => fvAdd (fvMul a b) c))) t s)
def execVmin (t : TileId) (s : State) : Res := .next (vecRow 0x14 (elementwise useAB floatFmts (float2 fvMin)) t s)
def execVmax (t : TileId) (s : State) : Res := .next (vecRow 0x15 (elementwise useAB floatFmts (float2 fvMax)) t s)
def execVmov (t : TileId) (s : State) : Res :=
  .next (vecRow 0x16 (elementwise ⟨false, true, false⟩ [0, 1, 2, 3] (fun _ _ b _ => b)) t s)
def execViadd (t : TileId) (s : State) : Res := .next (vecRow 0x18 (elementwise useAB intFmts (int2 (· + ·))) t s)
def execVisub (t : TileId) (s : State) : Res := .next (vecRow 0x19 (elementwise useAB intFmts (int2 (· - ·))) t s)
def execVimul (t : TileId) (s : State) : Res := .next (vecRow 0x1A (elementwise useAB intFmts (int2 (· * ·))) t s)
def execVand (t : TileId) (s : State) : Res := .next (vecRow 0x1B (elementwise useAB intFmts (int2 (· &&& ·))) t s)
def execVor (t : TileId) (s : State) : Res := .next (vecRow 0x1C (elementwise useAB intFmts (int2 (· ||| ·))) t s)
def execVxor (t : TileId) (s : State) : Res := .next (vecRow 0x1D (elementwise useAB intFmts (int2 (· ^^^ ·))) t s)
def execVshl (t : TileId) (s : State) : Res :=
  .next (vecRow 0x1E (elementwise useAB intFmts (int2 (fun a b => a <<< (b.toNat % 32)))) t s)
def execVshr (t : TileId) (s : State) : Res :=
  .next (vecRow 0x1F (elementwise useAB intFmts (int2 (fun a b => a >>> (b.toNat % 32)))) t s)
def execVsar (t : TileId) (s : State) : Res :=
  .next (vecRow 0x20 (elementwise useAB intFmts (int2 (fun a b => a.sshiftRight (b.toNat % 32)))) t s)

/-! ## Compare and select -/

/-- The conditions of VCMP on floating values. -/
def condF (n : Nat) (a b : FVal) : Bool :=
  let un := fvIsNaN a || fvIsNaN b
  if n = 0 then !un && fvCmp a b == some .eq else if n = 1 then un || fvCmp a b != some .eq
  else if n = 2 then fvLt a b else if n = 3 then fvLe a b else if n = 4 then fvLt b a else if n = 5 then fvLe b a
  else un

/-- The conditions on signed INT32. -/
def condI (n : Nat) (a b : Word) : Bool :=
  if n = 0 then a == b else if n = 1 then a != b else if n = 2 then a.slt b else if n = 3 then a.sle b
  else if n = 4 then b.slt a else if n = 5 then b.sle a else false

/-- All ones of an element, or zero. -/
def onesIf (fmt : Nat) (b : Bool) : Nat := if b then (if fmt = 1 ∨ fmt = 2 then 0xFFFF else 0xFFFFFFFF) else 0

def cmpElem (n fmt a b : Nat) : Nat :=
  onesIf fmt (if fmt = 3 then condI n (BitVec.ofNat 32 a) (BitVec.ofNat 32 b)
    else condF n (decodeFloat (regSpec fmt) a) (decodeFloat (regSpec fmt) b))

def vcmpBody (t : TileId) (i : Item) (v : VIns) (s : State) : State :=
  if v.sub = 7 then vecFail t i v eProgram s
  else elementwise ⟨true, true, false⟩ [0, 1, 2, 3] (fun fmt a b _ => cmpElem v.sub fmt a b) t i v s

def execVcmp (t : TileId) (s : State) : Res := .next (vecRow 0x28 vcmpBody t s)
def execVsel (t : TileId) (s : State) : Res :=
  .next (vecRow 0x29 (elementwise useABC [0, 1, 2, 3] (fun _ a b c => if c ≠ 0 then a else b)) t s)

/-! ## Reductions (R183) -/

/-- The fixed pairwise tree in index order: n levels over 2 ^ n elements. -/
def pairTree {α : Type} (f : α → α → α) : List α → List α
  | a :: b :: r => f a b :: pairTree f r
  | r => r
def reduceTree {α : Type} (f : α → α → α) : Nat → List α → List α
  | 0, xs => xs
  | n + 1, xs => reduceTree f n (pairTree f xs)

/-- Whether b exceeds a, a NaN exceeding every number, −0 below +0 (R164, R172). -/
def argGt (a b : FVal) : Bool :=
  if fvIsNaN a then false else if fvIsNaN b then true
  else fvLt a b || (fvIsZero a && fvIsZero b && fvNegative a && !fvNegative b)
def argLt (a b : FVal) : Bool :=
  if fvIsNaN a then false else if fvIsNaN b then true
  else fvLt b a || (fvIsZero a && fvIsZero b && !fvNegative a && fvNegative b)

/-- A reduction of 2 ^ n elements by operator SUB. -/
def reduceList (op n : Nat) (xs : List Word) : Word :=
  let arg (p : FVal → FVal → Bool) : Word :=
    match reduceTree (fun a b => if p (f32v a.1) (f32v b.1) then b else a) n xs.zipIdx with
    | r :: _ => BitVec.ofNat 32 r.2
    | [] => 0
  let go (f : Word → Word → Word) (ys : List Word) : Word := (reduceTree f n ys).headD 0
  if op = 0 then go f32Add xs else if op = 1 then go f32Max xs else if op = 2 then go f32Min xs
  else if op = 3 then go f32Add (xs.map (fun x => f32Mul x x)) else if op = 4 then arg argGt else arg argLt

/-- The 64 lanes of row r, and the 16 of column c. -/
def rowOf (xs : List Word) (r : Nat) : List Word := (xs.drop (64 * r)).take 64
def colOf (xs : List Word) (c : Nat) : List Word := (List.range 16).map (fun r => xs.getD (64 * r + c) 0)

/-- Which lines contribute to line j of the result: its row, its columns, or all. -/
def rowLines (p : List Bool) (j : Nat) : Bool := (List.range 4).any (fun m => p.getD (j / 4 * 4 + m) false)
def colLines (p : List Bool) (j : Nat) : Bool := (List.range 16).any (fun r => p.getD (4 * r + j % 4) false)

def reduction (kind beats : Nat) (t : TileId) (i : Item) (v : VIns) (s : State) : State :=
  vecChecked t i v [(decide (6 ≤ v.sub) || aUnused v ⟨true, false, false⟩, eProgram),
    (decide (v.fmt ≠ 0), eFormat)] (fun s =>
    let s := checkRegs t i.key.item.toNat [v.va] s
    let a := vregRaw s.tiles[t].vec v.va
    let lanes :=
      if kind = 0 then (List.range 16).flatMap (fun r => List.replicate 64 (reduceList v.sub 6 (rowOf a.lanes r)))
      else if kind = 1 then
        let cs := (List.range 64).map (fun c => reduceList v.sub 4 (colOf a.lanes c))
        (List.range 16).flatMap (fun _ => cs)
      else List.replicate 1024 (reduceList v.sub 10 a.lanes)
    let ps := (List.range 64).map (fun j => if kind = 0 then rowLines a.poison j else if kind = 1 then colLines a.poison j
      else a.poison.any (fun b => b))
    s |> writeReg t v.vd ⟨lanes, ps⟩ |> notePoison i.key ps |> vecDone t i beats) s

def execVrrow (t : TileId) (s : State) : Res := .next (vecRow 0x30 (reduction 0 2) t s)
def execVrcol (t : TileId) (s : State) : Res := .next (vecRow 0x31 (reduction 1 2) t s)
def execVrall (t : TileId) (s : State) : Res := .next (vecRow 0x32 (reduction 2 3) t s)

/-! ## Transpose and permute -/

/-- VTR4: t[VD..VD+3] ← the transpose of the 64 × 64 matrix in t[VA..VA+3] (R172). -/
def vtr4Body (t : TileId) (i : Item) (v : VIns) (s : State) : State :=
  vecChecked t i v [(aUnused v useA, eProgram), (decide (v.fmt ≠ 0), eFormat),
    (beyond v.vd 4 || beyond v.va 4 || clash v.vd 4 v.va 4, eShape)] (fun s =>
    let rs := (List.range 4).map (v.va + ·)
    let s := checkRegs t i.key.item.toNat rs s
    let src := rs.map (fun r => vregRaw s.tiles[t].vec r)
    let at' (k : Nat) : VReg := src.getD k ⟨[], []⟩
    let out (k : Nat) : VReg :=
      ⟨(List.range 16).flatMap (fun r => (List.range 64).map (fun c =>
          (at' (c / 16)).lanes.getD (64 * (c % 16) + 16 * k + r) 0)),
        (List.range 64).map (fun j => (List.range 16).any (fun rr => (at' (j % 4)).poison.getD (4 * rr + k) false))⟩
    let ps := src.flatMap (·.poison)
    (List.range 4).foldl (fun a k => writeReg t (v.vd + k) (out k) a) s |> notePoison i.key ps |> vecDone t i 4) s

def execVtr4 (t : TileId) (s : State) : Res := .next (vecRow 0x38 vtr4Body t s)

/-- VPERM: lane i of d = lane (b lane i mod 1,024) of a. -/
def vpermBody (t : TileId) (i : Item) (v : VIns) (s : State) : State :=
  vecChecked t i v [(aUnused v useAB, eProgram), (decide (3 < v.fmt), eFormat)] (fun s =>
    let s := checkRegs t i.key.item.toNat ([v.va] ++ if v.bs then [] else [v.vb]) s
    let a := vregRaw s.tiles[t].vec v.va
    let b := if v.bs then ⟨List.replicate 1024 (v.scalar v.sbA), List.replicate 64 (v.scalarPoisoned v.sbA)⟩
      else vregRaw s.tiles[t].vec v.vb
    let idx := b.lanes.map (fun w => w.toNat % 1024)
    let ps := (List.range 64).map (fun j => b.poison.getD j false ||
      ((idx.drop (16 * j)).take 16).any (fun k => a.poison.getD (k / 16) false))
    s |> writeReg t v.vd ⟨idx.map (fun k => a.lanes.getD k 0), ps⟩ |> notePoison i.key ps |> vecDone t i 4) s

def execVperm (t : TileId) (s : State) : Res := .next (vecRow 0x39 vpermBody t s)

/-! ## VCVT (R173) -/

/-- The element index of a cast through a context (R179). -/
def elemIndex (c : CastCtx) (r col off : Nat) : Nat :=
  c.indexBase.toNat + r * c.rowPitch.toNat + col + off

/-- The rounding mode of element (r, col) of a cast through a context for a job. -/
def ctxRnd (stoch : Bool) (seed : Nat) (c : CastCtx) (n : Nat) : Rnd := drawRnd stoch seed c.tensor.toNat c.step.toNat n

/-- The job of an item on its tile, and its seed. -/
def itemJob (s : State) (i : Item) : JobParam := jobParam s i.tile i.job.toNat
def itemSeed (s : State) (i : Item) : Nat := match (itemJob s i).seed with | some w => w.toNat | none => 0

/-- The kinds of VCVT: widening, narrowing, FP32 to INT32, INT32 to FP32; none when the formats do not pair. -/
def cvtKind (sf df : Nat) : Option Nat :=
  if (sf = 1 ∨ sf = 2) ∧ df = 0 then some 0 else if sf = 0 ∧ (df = 1 ∨ df = 2) then some 1
  else if sf = 0 ∧ df = 3 then some 2 else if sf = 3 ∧ df = 0 then some 3 else none

def fmtOfReg (f : Nat) : Fmt := if f = 1 then .bf16 else if f = 2 then .fp16 else if f = 3 then .int32 else .fp32

/-- Half h of a widened register: columns 64h to 64h + 63 of the packed one as FP32. -/
def widenHalf (sf h : Nat) (a : VReg) : VReg :=
  let el (r c : Nat) : Nat := let w := a.lanes.getD (64 * r + c / 2) 0; if c % 2 = 0 then loHalf w else hiHalf w
  ⟨(List.range 16).flatMap (fun r => (List.range 64).map (fun c => f32 (decodeFloat (regSpec sf) (el r (64 * h + c))))),
    (List.range 64).map (fun j => a.poison.getD (4 * (j / 4) + 2 * h + j % 4 / 2) false)⟩

/-- The narrowed packed register of a pair, with the casts' results. -/
def narrowPair (df : Nat) (rnd : Nat → Rnd) (c : CastCtx) (lo hi : VReg) : VReg × List CastRes :=
  let src (r col : Nat) : Word := if col < 64 then lo.lanes.getD (64 * r + col) 0 else hi.lanes.getD (64 * r + col - 64) 0
  let rs := (List.range 16).flatMap (fun r => (List.range 128).map (fun col =>
    castElem (fmtOfReg df) (rnd (elemIndex c r col 0)) (f32v (src r col))))
  (⟨(List.range 1024).map (fun k => packLane ((rs.getD (2 * k) ⟨0, false, false, false⟩).bits)
      ((rs.getD (2 * k + 1) ⟨0, false, false, false⟩).bits)),
    (List.range 64).map (fun j =>
      let p (k : Nat) := if k < 4 then lo.poison.getD (4 * (j / 4) + k) false else hi.poison.getD (4 * (j / 4) + k - 4) false
      p (2 * (j % 4)) || p (2 * (j % 4) + 1))⟩, rs)

/-- The element counts of a list of casts. -/
def countCasts (rs : List CastRes) : CastCounts :=
  { noCasts with clips := countTrue (rs.map (·.clip)), unders := countTrue (rs.map (·.under)) }

def vcvtBody (t : TileId) (i : Item) (v : VIns) (s : State) : State :=
  let k := cvtKind v.sfmt v.fmt
  let nd := if k = some 0 then 2 else 1
  let ns := if k = some 1 then 2 else 1
  vecChecked t i v [(aUnused v ⟨true, false, false⟩, eProgram), (k.isNone || decide (3 < v.fmt), eFormat),
    (beyond v.vd nd || beyond v.va ns || clash v.vd nd v.va ns, eShape),
    (decide (k = some 1) && v.roundA && (itemJob s i).seed.isNone, eNoseed)] (fun s =>
    let s := checkRegs t i.key.item.toNat ((List.range ns).map (v.va + ·)) s
    let a := vregRaw s.tiles[t].vec v.va
    match k with
    | some 0 =>
      s |> writeReg t v.vd (widenHalf v.sfmt 0 a) |> writeReg t (v.vd + 1) (widenHalf v.sfmt 1 a)
        |> notePoison i.key a.poison |> vecDone t i 2
    | some 1 =>
      let b := vregRaw s.tiles[t].vec (v.va + 1)
      let c := vat s.tiles[t].vec.ctx v.cxA castCtxZero
      let seed := itemSeed s i
      let (d, rs) := narrowPair v.fmt (ctxRnd v.roundA seed c) c a b
      s |> writeReg t v.vd d |> recordCasts t i.key i.layer.toNat (countCasts rs)
        |> notePoison i.key (a.poison ++ b.poison) |> vecDone t i 1
    | some 2 => s |> writeReg t v.vd ⟨a.lanes.map f32ToInt32, a.poison⟩ |> notePoison i.key a.poison |> vecDone t i 1
    | _ => s |> writeReg t v.vd ⟨a.lanes.map int32ToF32, a.poison⟩ |> notePoison i.key a.poison |> vecDone t i 1) s

def execVcvt (t : TileId) (s : State) : Res := .next (vecRow 0x17 vcvtBody t s)

/-- VMARK (R172): adds 1 to a tile counter; every earlier instruction of the item has completed. -/
def vmarkBody (t : TileId) (i : Item) (v : VIns) (s : State) : State :=
  vecChecked t i v [(decide (v.vd ≠ 0 ∨ v.va ≠ 0 ∨ v.vb ≠ 0 ∨ v.vc ≠ 0 ∨ fld v.x 31 4 ≠ 0), eProgram)]
    (fun s => s |> addCounter t (fld v.x 3 0) |> vecDone t i 0) s

def execVmark (t : TileId) (s : State) : Res := .next (vecRow 0x08 vmarkBody t s)

end Sys2Proof.Machine
end

