-- ==== Sys2Proof/Machine/VecMem.lean ====
section
/-! DEFINITION. The vector engine's loads, stores, gathers, scatters and context loads (R176 to R182, R184), the
block-scaled row accesses, and the pruning unit (R154). -/

namespace Sys2Proof.Machine
open Sys2Proof

/-! ## Lists of elements -/

/-- A list cut into n runs of k. -/
def chunksOf {α : Type} (k : Nat) : Nat → List α → List (List α)
  | 0, _ => []
  | n + 1, l => l.take k :: chunksOf k n (l.drop k)

/-- An element's bits with its poison. -/
abbrev Elem := Nat × Bool

/-- A packed register format. -/
def packedFmt (rf : Nat) : Bool := rf == 1 || rf == 2

/-- The elements of a register in row-major order, as a register format shows them (R161, R162). -/
def elemsOfReg (rf : Nat) (v : VReg) : List Elem :=
  let lane (k : Nat) : List Elem :=
    let w := v.lanes.getD k 0
    let p := v.poison.getD (k / 16) false
    if packedFmt rf then [(loHalf w, p), (hiHalf w, p)] else [(w.toNat, p)]
  (List.range 1024).flatMap lane

/-- A register from its elements in row-major order: a line is poisoned where an element of it is. -/
def regOfElems (rf : Nat) (es : List Elem) : VReg :=
  let lanes : List Word := if packedFmt rf
    then (chunksOf 2 1024 es).map (fun p => packLane (p.getD 0 (0, false)).1 (p.getD 1 (0, false)).1)
    else (es.map (fun e => BitVec.ofNat 32 e.1)).take 1024
  let n := if packedFmt rf then 32 else 16
  ⟨lanes, (chunksOf n 64 es).map (fun l => l.any (·.2))⟩

/-- Columns of a register in a register format. -/
def regCols (rf : Nat) : Nat := if packedFmt rf then 128 else 64

/-! ## Accesses of the load/store unit (R177, R253) -/

/-- Where a byte of a pleated allocation lies: line L in bank (L + ⌊L / B⌋) mod B of bank row ⌊L / B⌋ (R253). -/
def pleatAddr (m : MemSel) (a : Nat) : Nat :=
  let b := memBanks m
  let l := a / 64
  (b * (l / b) + (l + l / b) % b) * 64 + a % 64

/-- A range of bytes cut at line boundaries. -/
def linePieces (lo len : Nat) : List (Nat × Nat) :=
  (linesOf lo len).map (fun l => (max lo (64 * l), min (lo + len) (64 * l + 64) - max lo (64 * l)))

/-- A requester's view of one tile memory: native or pleated. -/
structure MemView where
  tile : TileId
  mem : MemSel
  by_ : Block
  item : Nat
  portB : Bool
  pleated : Bool
  deriving DecidableEq, Repr

def MemView.req (v : MemView) (n : Nat) : MemReq := ⟨v.tile, v.mem, v.by_, v.item, v.portB, n⟩

/-- A read of [lo, lo + len) counted as n accesses. -/
def viewRead (v : MemView) (n lo len : Nat) (s : State) : (List Byte × List Bool) × State :=
  if v.pleated then
    (linePieces lo len).foldl (fun a p =>
      let (d, s) := tmRead (v.req 0) (pleatAddr v.mem p.1) p.2 a.2
      ((a.1.1 ++ d.1, a.1.2 ++ d.2), s)) (([], []), countAccess (v.req n) lo len s)
  else tmRead (v.req n) lo len s

/-- A write of bytes with their poison from lo, counted as n accesses. -/
def viewWrite (v : MemView) (n lo : Nat) (bs : List Byte) (ps : List Bool) (s : State) : State :=
  if v.pleated then
    (linePieces lo bs.length).foldl (fun a p =>
      tmWrite (v.req 0) (pleatAddr v.mem p.1) ((bs.drop (p.1 - lo)).take p.2) ((ps.drop (p.1 - lo)).take p.2) a)
      (countAccess (v.req n) lo bs.length s)
  else tmWrite (v.req n) lo bs ps s

/-- A contiguous read: one line access per line touched. -/
def lineRead (v : MemView) (lo len : Nat) (s : State) : (List Byte × List Bool) × State :=
  viewRead v (lineCount lo len) lo len s
def lineWrite (v : MemView) (lo : Nat) (bs : List Byte) (ps : List Bool) (s : State) : State :=
  viewWrite v (lineCount lo bs.length) lo bs ps s

/-- Bytes as elements of w bytes, each poisoned where a byte of it is. -/
def elemsOfBytes (w n : Nat) (d : List Byte × List Bool) : List Elem :=
  (chunksOf w n d.1).zip (chunksOf w n d.2) |>.map (fun p => (natOfBytes p.1, p.2.any (fun b => b)))

/-- n elements of w bytes from lo at an element stride; `whole` takes the row as one access (R177). -/
def rowRead (v : MemView) (whole : Bool) (w stride n lo : Nat) (s : State) : List Elem × State :=
  if stride = 1 then
    let (d, s) := if whole then viewRead v 1 lo (n * w) s else lineRead v lo (n * w) s
    (elemsOfBytes w n d, s)
  else (List.range n).foldl (fun a i =>
    let (d, s) := viewRead v 1 (lo + i * stride * w) w a.2
    (a.1 ++ elemsOfBytes w 1 d, s)) ([], s)

def rowWrite (v : MemView) (w stride lo : Nat) (es : List Elem) (s : State) : State :=
  if stride = 1 then
    lineWrite v lo (es.flatMap (fun e => bytesOfNat w e.1)) (es.flatMap (fun e => List.replicate w e.2)) s
  else es.zipIdx.foldl (fun a e =>
    viewWrite v 1 (lo + e.2 * stride * w) (bytesOfNat w e.1.1) (List.replicate w e.1.2) a) s

/-! ## Class M fields (R171) -/

structure MArgs where
  base : Nat
  es : Nat
  rs : Nat
  mem : Nat
  rf : Nat
  trn : Bool
  round : Bool
  cx : Nat
  prune : Nat
  sk : Nat
  plt : Bool
  mf : Nat
  deriving DecidableEq, Repr

def mArgs (v : VIns) : MArgs :=
  let ss := (v.scalar (fld v.x 27 24)).toNat
  ⟨(v.scalar (fld v.x 31 28)).toNat, fld ss 31 16, 4 * fld ss 15 0, fld v.x 23 22, fld v.x 21 20, bitOf v.x 19,
    bitOf v.x 18, fld v.x 17 15, fld v.x 14 12, (v.scalar (fld v.x 11 8)).toNat, bitOf v.x 7, v.fmt⟩

/-- The whole s[SS]. -/
def mSS (v : VIns) : Nat := (v.scalar (fld v.x 27 24)).toNat

/-- Scalars of a memory instruction that are poisoned: its address and strides, and s[SK] where it is used. -/
def mPoisoned (v : VIns) (sk : Bool) : Bool :=
  v.scalarPoisoned (fld v.x 31 28) || v.scalarPoisoned (fld v.x 27 24) || (sk && v.scalarPoisoned (fld v.x 11 8))

/-- Register fields and RSVD bits that a class M opcode does not use, a reserved MEM, TRN outside VLD (R174). -/
def mUnused (v : VIns) (vd va vb : Bool) (wOk trnOk : Bool) : Bool :=
  let m := mArgs v
  (!vd && decide (v.vd ≠ 0)) || (!va && decide (v.va ≠ 0)) || (!vb && decide (v.vb ≠ 0)) || decide (v.vc ≠ 0) ||
  decide (fld v.x 6 0 ≠ 0) || decide (m.mem = 3) || (!wOk && decide (m.mem = 2)) || (!trnOk && m.trn)

/-- A memory format that is reserved, or whose integer or floating kind differs from the register format's. -/
def mFormatBad (m : MArgs) : Bool := decide (10 < m.mf) || decide ((m.rf = 3) ≠ (m.mf = 10))

def mView (t : TileId) (i : Item) (m : MArgs) : MemView :=
  ⟨t, (memOfIndex m.mem).getD .amem, vecB t, i.key.item.toNat, true, m.plt⟩

/-- A region that ends beyond its memory. -/
def beyondMem (m : MArgs) (len : Nat) : Bool := decide (memBytes ((memOfIndex m.mem).getD .amem) < m.base + len)

def mfOf (m : MArgs) : Fmt := (fmtOfCode m.mf).getD .fp32
def mCtx (s : State) (t : TileId) (m : MArgs) : CastCtx := vat s.tiles[t].vec.ctx m.cx castCtxZero

/-! ## Conversion of elements (R173, R176) -/

/-- One element from a format into another: equal formats keep the bits; otherwise the value is rounded once. -/
def convElem (src dst : Fmt) (rnd : Rnd) (bits : Nat) : CastRes :=
  if src = dst then ⟨bits, false, false, false⟩ else castElem dst rnd (decodeElem src bits)

/-- A conversion that may round: it narrows, or changes between the two 16-bit formats. -/
def rounds (src dst : Fmt) : Bool :=
  decide (src ≠ dst) && decide (fmtWidth dst ≤ fmtWidth src) && decide (dst ≠ .int32)

/-- Elements converted in row-major order, with the counts of R89. -/
def convElems (src dst : Fmt) (rnd : Nat → Rnd) (cols : Nat) (c : CastCtx) (off : Nat) (es : List Elem) :
    List Elem × CastCounts :=
  let rs := es.zipIdx.map (fun e =>
    (convElem src dst (rnd (elemIndex c (e.2 / cols) (e.2 % cols) off)) e.1.1, e.1.2))
  (rs.map (fun r => (r.1.bits, r.2 || r.1.poison)), countCasts (rs.map (·.1)))

/-! ## Block rows (R78, R92, R180, R181) -/

/-- What a block row of a context needs: format, K_b, P, tensor scale. -/
structure RowFmt where
  f : Fmt
  kb : Nat
  p : Nat
  t : Word
  deriving DecidableEq, Repr

def rowFmtOf (m : MArgs) (c : CastCtx) : RowFmt := ⟨mfOf m, c.kb, c.p, c.tscale⟩

/-- One K-block read back: 32 elements in FP32 with the block's poison, and the status its data raise (R74, R76). -/
structure BlockRead where
  elems : List Elem
  err : Option Nat
  deriving DecidableEq, Repr

/-- The values of a block from its scale byte, its element codes and its poison: an invalid scale poisons them all (R76), a
reserved T2 code its own element (R74); of the two statuses the lower one counts (R106). -/
def blockValues (f : Fmt) (t : Word) (scale : Nat) (codes : List Nat) (bad : Bool) : BlockRead :=
  let badScale := !s8Valid scale
  let badT2 (c : Nat) : Bool := f == .t2 && c == 2
  ⟨codes.map (fun c => ((dequant f c (if badScale then 0 else scale) t).toNat, bad || badScale || badT2 c)),
    if codes.any badT2 then some eFormat else if badScale then some eScale else none⟩

/-- Element codes of one block, with its promoted extension joined (R92). -/
def blockCodes (f : Fmt) (slot : List Byte) (ext : Option (List Byte)) : Fmt × List Nat :=
  match ext with
  | some x => (.e4m3, (unpackBits 4 32 (natOfBytes slot)).zip (unpackBits 4 32 (natOfBytes x)) |>.map
      (fun p => 16 * p.1 + p.2))
  | none => (f, unpackBits (fmtWidth f) 32 (natOfBytes slot))

/-- K-blocks [k, k + n) of the block row at lo. -/
def blockRowRead (v : MemView) (r : RowFmt) (lo k n : Nat) (s : State) : List BlockRead × State :=
  let l := rowLayout r.f r.kb r.p
  let bb := blockBytes r.f
  let (hd, s) := if r.p = 0 then (([], []), s) else lineRead v lo ((k + n - 1) / 8 + 1) s
  let bits := natOfBytes hd.1
  let badH := hd.2.any (fun b => b)
  let (sc, s) := lineRead v (lo + l.scales + k) n s
  let (el, s) := lineRead v (lo + l.slots + k * bb) (n * bb) s
  (List.range n).foldl (fun a i =>
    let slot := (el.1.drop (i * bb)).take bb
    let bad := badH || sc.2.getD i false || ((el.2.drop (i * bb)).take bb).any (fun b => b)
    let scale := (sc.1.getD i 0).toNat
    if 0 < r.p ∧ r.f = .e2m1 ∧ bitOf bits (k + i) then
      let j := ((List.range (k + i)).filter (bitOf bits)).length
      let (x, s) := lineRead v (lo + l.ext + 16 * j) 16 a.2
      let (f, codes) := blockCodes r.f slot (some x.1)
      (a.1 ++ [blockValues f r.t scale codes (bad || x.2.any (fun b => b))], s)
    else
      let (f, codes) := blockCodes r.f slot none
      (a.1 ++ [blockValues f r.t scale codes bad], a.2)) ([], s)

/-- A cast into a block row: its source blocks in ascending K, their poison, and how it rounds. -/
structure RowCast where
  qerr : Word
  /-- blocks promoted before the first of these, and the capacity of R90 -/
  below : Nat
  cap : Nat
  deriving DecidableEq, Repr

/-- What a cast block counts (R89). -/
def PromoCast.counts (p : PromoCast) : CastCounts :=
  ⟨1, p.cast.clips, p.cast.unders, b2n p.promoted, b2n p.overCeiling, b2n p.cast.sat⟩

/-- Consecutive blocks of a row cast under R79 to R82 and R91, with the counts of R89. -/
def castRowBlocks (r : RowFmt) (rc : RowCast) (rnd : Nat → Rnd) : Nat → List (List Word) → List PromoCast × CastCounts
  | _, [] => ([], noCasts)
  | n, xs :: rest =>
    let rnds := (List.range 32).map (fun i => rnd (n + i))
    let p : PromoCast := if r.f = .e2m1 then castPromo rc.cap (decide (rc.below < rc.cap)) rc.qerr r.t rnds xs
      else ⟨castBlock r.f r.t rnds xs, false, false⟩
    let (ps, cs) := castRowBlocks r { rc with below := rc.below + b2n p.promoted } rnd (n + 32) rest
    (p :: ps, p.counts.add cs)

/-- A cast K-block written into the block row at lo: its scale byte, its slot, and for a promoted one its extension
slot and header bit. -/
def blockRowWrite (v : MemView) (r : RowFmt) (lo k : Nat) (cs : List (PromoCast × Bool)) (s : State) : State :=
  let l := rowLayout r.f r.kb r.p
  let bb := blockBytes r.f
  let n := cs.length
  let (hd, s) := if r.p = 0 then (([], []), s) else lineRead v lo ((r.kb + 7) / 8) s
  let bits := natOfBytes hd.1
  let badH := hd.2.any (fun b => b)
  let below := ((List.range k).filter (bitOf bits)).length
  let s := lineWrite v (lo + l.scales + k) (cs.map (fun c => BitVec.ofNat 8 c.1.cast.scale)) (clean n) s
  let slotOf (c : PromoCast) : List Byte :=
    bytesOfNat bb (if c.promoted then packBits 4 (promoSlot c.cast.codes) else packBits (fmtWidth r.f) c.cast.codes)
  let bad (c : PromoCast × Bool) : Bool := badH || c.2 || c.1.cast.poison
  let s := lineWrite v (lo + l.slots + k * bb) (cs.flatMap (fun c => slotOf c.1))
    (cs.flatMap (fun c => List.replicate bb (bad c))) s
  if r.p = 0 then s
  else
    let (_, s) := cs.foldl (fun a c =>
      if c.1.promoted then
        (a.1 + 1, lineWrite v (lo + l.ext + 16 * a.1) (bytesOfNat 16 (packBits 4 (promoExt c.1.cast.codes)))
          (List.replicate 16 (bad c)) a.2)
      else a) (below, s)
    let lo8 := k / 8
    let hi8 := (k + n - 1) / 8
    let byte (b : Nat) : Byte := BitVec.ofNat 8 (((List.range 8).map (fun j =>
      let x := 8 * b + j
      2 ^ j * b2n (if k ≤ x ∧ x < k + n then (cs.map (·.1.promoted)).getD (x - k) false else bitOf bits x))).sum)
    lineWrite v (lo + lo8) ((List.range (hi8 + 1 - lo8)).map (fun j => byte (lo8 + j))) (clean (hi8 + 1 - lo8)) s

/-! ## VLD -/

/-- How many of the K-blocks k and k + 1 a block-scaled access reaches. -/
def blocksAt (kb k : Nat) : Nat := if k + 1 < kb then 2 else 1

/-- The checks that a block-scaled region must pass (R174, R256). -/
def blockRegion (m : MArgs) (c : CastCtx) : List (Bool × Nat) :=
  [(decide (m.base % 64 ≠ 0) || decide (c.rowBytes % 64 ≠ 0), eAlign),
   (beyondMem m (15 * c.rowBytes + (rowLayout (mfOf m) c.kb c.p).size) || decide (c.kb ≤ m.sk), eExtent)]

/-- An access of elements, without blocks: rows, columns and the access width. -/
def plainRegion (m : MArgs) (rows cols w : Nat) : List (Bool × Nat) :=
  [(decide (m.base % w ≠ 0), eAlign), (beyondMem m ((rows - 1) * m.rs + (cols - 1) * m.es * w + w), eExtent)]

/-- A block-scaled load (R180). -/
def blockLoad (t : TileId) (i : Item) (v : VIns) (s : State) : State :=
  let m := mArgs v
  let c := mCtx s t m
  let n := blocksAt c.kb m.sk
  let (rows, s) := (List.range 16).foldl (fun a r =>
    let (bs, s) := blockRowRead (mView t i m) (rowFmtOf m c) (m.base + r * c.rowBytes) m.sk n a.2
    (a.1 ++ [bs], s)) (([] : List (List BlockRead)), s)
  let es := rows.flatMap (fun bs => (bs.flatMap (·.elems) ++ List.replicate 32 (0, false)).take 64)
  let errs := (rows.flatMap (fun bs => bs)).filterMap (·.err)
  let d := regOfElems 0 es
  let s := s |> writeReg t v.vd d |> notePoison i.key d.poison |> vecDoneLsu t i
  match errs with
  | [] => s
  | e :: es => failItem i.key t (es.foldl min e) (vecB t) s

/-- A plain load: rows of the region, or with TRN its memory rows as register columns (R176). OFF of a load that rounds
stochastically is s[SK], as a store's is: DESIGN CHOICE (entry 14), since R179 gives OFF for stores and VCVT only. -/
def plainLoad (t : TileId) (i : Item) (v : VIns) (s : State) : State :=
  let m := mArgs v
  let cols := regCols m.rf
  let w := fmtWidth (mfOf m) / 8
  let nr := if m.trn then cols else 16
  let ne := if m.trn then 16 else cols
  let (rows, s) := (List.range nr).foldl (fun a r =>
    let (es, s) := rowRead (mView t i m) (m.trn && m.plt) w m.es ne (m.base + r * m.rs) a.2
    (a.1 ++ [es], s)) (([] : List (List Elem)), s)
  let at' (r c : Nat) : Elem := (rows.getD r []).getD c (0, false)
  let es := (List.range 16).flatMap (fun r => (List.range cols).map (fun c => if m.trn then at' c r else at' r c))
  let c := mCtx s t m
  let (es, cnt) := convElems (mfOf m) (fmtOfReg m.rf) (ctxRnd m.round (itemSeed s i) c) cols c m.sk es
  let d := regOfElems m.rf es
  s |> writeReg t v.vd d |> recordCasts t i.key i.layer.toNat cnt |> notePoison i.key d.poison |> vecDoneLsu t i

/-- The formats of a memory instruction whose element index or K-block index is used. -/
def usesSk (m : MArgs) (src dst : Fmt) : Bool := decide (m.mf ≤ 6) || (m.round && rounds src dst)

def vldBody (t : TileId) (i : Item) (v : VIns) (s : State) : State :=
  let m := mArgs v
  let c := mCtx s t m
  let block := decide (m.mf ≤ 6)
  let stoch := m.round && !block && rounds (mfOf m) (fmtOfReg m.rf)
  vecChecked t i v [(mUnused v true false false true true, eProgram), (mFormatBad m, eFormat)] (fun s =>
    if mPoisoned v (block || stoch) then vecPoisonStop t i s
    else vecChecked t i v ([(block && (m.trn || decide (m.es ≠ 1) || decide (m.rf ≠ 0)), eShape),
        (stoch && (itemJob s i).seed.isNone, eNoseed), (block && !tscaleOk c.tscale, eScale)] ++
        (if block then blockRegion m c else
          plainRegion m (if m.trn then regCols m.rf else 16) (if m.trn then 16 else regCols m.rf)
            (fmtWidth (mfOf m) / 8)))
      (if block then blockLoad t i v else plainLoad t i v) s) s

def execVld (t : TileId) (s : State) : Res := .next (vecRow 0x01 vldBody t s)

/-! ## VST -/

/-- The header bits of the block row at lo, through the view's order. -/
def headerBits (s : State) (t : TileId) (m : MArgs) (c : CastCtx) (lo : Nat) : Nat :=
  let mem := (memOfIndex m.mem).getD .amem
  natOfBytes ((List.range ((c.kb + 7) / 8)).map (fun j =>
    (memGet s t mem (if m.plt then pleatAddr mem (lo + j) else lo + j) 1).headD 0))

/-- A block-scaled store has a header bit set above k + 1 in a row (R181). -/
def headerAhead (s : State) (t : TileId) (m : MArgs) (c : CastCtx) : Bool :=
  decide (0 < c.p) && (List.range 16).any (fun r =>
    let bits := headerBits s t m c (m.base + r * c.rowBytes)
    (List.range c.kb).any (fun x => decide (m.sk + 1 < x) && bitOf bits x))

/-- The capacity of R90 under a context and a job. -/
def promoCap (kb p : Nat) (j : JobParam) : Nat := min p (kb * j.promoMax / 256)

/-- A block-scaled store (R181). -/
def blockStore (t : TileId) (i : Item) (v : VIns) (s : State) : State :=
  let m := mArgs v
  let c := mCtx s t m
  let n := blocksAt c.kb m.sk
  let j := itemJob s i
  let rf := rowFmtOf m c
  let s := checkRegs t i.key.item.toNat [v.vd] s
  let src := vregRaw s.tiles[t].vec v.vd
  let rnd := ctxRnd m.round (itemSeed s i) c
  let (cnt, bad, s) := (List.range 16).foldl (fun a r =>
    let lo := m.base + r * c.rowBytes
    let hb := headerBits a.2.2 t m c lo
    let below := if c.p = 0 then 0 else ((List.range m.sk).filter (bitOf hb)).length
    let xs := chunksOf 32 n ((src.lanes.drop (64 * r)).take 64)
    let (ps, cs) := castRowBlocks rf ⟨j.qerr, below, promoCap c.kb c.p j⟩ rnd (elemIndex c r 0 (32 * m.sk)) xs
    let pz := (List.range n).map (fun b => src.poison.getD (4 * r + 2 * b) false || src.poison.getD (4 * r + 2 * b + 1) false)
    let s := blockRowWrite (mView t i m) rf lo m.sk (ps.zip pz) a.2.2
    let s := tapValues t i.key c.layer.toNat .vst
      ((ps.zip pz).flatMap (fun x => (castValues rf.f rf.t x.1).map (fun y => (y, x.2 || x.1.cast.poison)))) s
    (a.1.add cs, a.2.1 || pz.any (fun b => b) || ps.any (·.cast.poison), s)) (noCasts, false, s)
  s |> recordCasts t i.key c.layer.toNat cnt |> notePoison i.key [bad] |> vecDoneLsu t i

/-- A plain store: rows of the register cast to the memory format. -/
def plainStore (t : TileId) (i : Item) (v : VIns) (s : State) : State :=
  let m := mArgs v
  let c := mCtx s t m
  let cols := regCols m.rf
  let w := fmtWidth (mfOf m) / 8
  let s := checkRegs t i.key.item.toNat [v.vd] s
  let es := elemsOfReg m.rf (vregRaw s.tiles[t].vec v.vd)
  let (es, cnt) := convElems (fmtOfReg m.rf) (mfOf m) (ctxRnd m.round (itemSeed s i) c) cols c m.sk es
  let s := (chunksOf cols 16 es).zipIdx.foldl (fun a r => rowWrite (mView t i m) w m.es (m.base + r.2 * m.rs) r.1 a) s
  s |> tapValues t i.key c.layer.toNat .vst (es.map (fun e => (decodeElem (mfOf m) e.1, e.2)))
    |> recordCasts t i.key c.layer.toNat cnt |> notePoison i.key (es.map (·.2)) |> vecDoneLsu t i

/-! ### Pruning stores (R154, R182) -/

/-- The n of m of an NM code (R138): kept values, group size and index bits. -/
def nmOf (nm : Nat) : Option (Nat × Nat × Nat) :=
  if nm = 1 then some (1, 4, 2) else if nm = 2 then some (2, 4, 2) else if nm = 3 then some (2, 8, 3)
  else if nm = 4 then some (4, 8, 3) else none

/-- x is kept before y: a NaN ranks above every number, then the magnitude, then the lower index (R154). -/
def keptBefore (x y : Word × Nat) : Bool :=
  let a := f32v x.1
  let b := f32v y.1
  if fvIsNaN a then (if fvIsNaN b then decide (x.2 < y.2) else true)
  else if fvIsNaN b then false
  else if fvLt (fvAbs b) (fvAbs a) then true
  else if fvLt (fvAbs a) (fvAbs b) then false else decide (x.2 < y.2)

/-- Which positions of a group are kept: those that fewer than n others come before. -/
def keptIn (n : Nat) (g : List Word) : List Bool :=
  let xs := g.zipIdx
  xs.map (fun x => decide ((xs.filter (fun y => keptBefore y x)).length < n))

/-- Step 1 of R154 over a row of 32: the kept positions, all of them without structure. -/
def keptRow (nm : Nat) (xs : List Word) : List Bool :=
  match nmOf nm with
  | some (n, m, _) => (chunksOf m (32 / m) xs).flatMap (keptIn n)
  | none => List.replicate 32 true

def zeroDropped (xs : List Word) (ks : List Bool) : List Word := (xs.zip ks).map (fun p => if p.2 then p.1 else 0)

/-- S of R154 step 2: FP32 squares of x / t summed in row-major order. -/
def blockSquares (t : Word) (xs : List Word) : Word :=
  let rt := f32Div f32One t
  xs.foldl (fun a x => let y := f32Mul x rt; f32Add a (f32Mul y y)) 0

/-- A 32 × 32 block as cast: its rows with their kept positions (R139). -/
structure CastBlk where
  rows : List (PromoCast × List Bool)
  deriving DecidableEq, Repr

/-- The bytes of a stored block under R139, with the structure nm, or dense for none. -/
def storedBlock (f : Fmt) (p : Nat) (nm : Option (Nat × Nat × Nat)) (b : CastBlk) : List Byte :=
  let keep (ks : List Bool) (cs : List Nat) : List Nat :=
    if nm.isSome then ((cs.zip ks).filter (·.2)).map (·.1) else cs
  let v := match nm with | some (n, m, _) => 32 * n / m | none => 32
  let mask := if 0 < p then bytesOfNat 4 ((b.rows.zipIdx.map (fun r => 2 ^ r.2 * b2n r.1.1.promoted)).sum) else []
  let scales := if fmtBlockScaled f then b.rows.map (fun r => BitVec.ofNat 8 r.1.cast.scale) else []
  let slots := b.rows.flatMap (fun r =>
    let cs := keep r.2 r.1.cast.codes
    bytesOfNat (v * fmtWidth f / 8) (packBits (fmtWidth f) (if r.1.promoted then promoSlot cs else cs)))
  let idx := match nm with
    | some (_, m, ib) => b.rows.flatMap (fun r =>
        bytesOfNat (v * ib / 8) (packBits ib ((r.2.zipIdx.filter (·.1)).map (fun k => k.2 % m))))
    | none => []
  let ext := b.rows.flatMap (fun r => if r.1.promoted
    then bytesOfNat (16 * ((v + 31) / 32)) (packBits 4 (promoExt (keep r.2 r.1.cast.codes))) else [])
  mask ++ scales ++ slots ++ idx ++ ext

/-- R142: the block as stored, and whether it is a dense escape. -/
def storeChoice (f : Fmt) (p nm : Nat) (b : CastBlk) : List Byte × Bool :=
  let d := storedBlock f p none b
  match nmOf nm with
  | none => (d, false)
  | some x =>
    let st := storedBlock f p (some x) b
    if roundUp d.length 64 < roundUp st.length 64 then (d, true) else (st, false)

/-- A block holds an infinity or a NaN (R138); T2 has neither, its reserved code included (R72). -/
def blockNf (f : Fmt) (b : CastBlk) : Bool :=
  f != .t2 && b.rows.any (fun r => r.1.cast.codes.any (fun c =>
    match decodeElem (if r.1.promoted then .e4m3 else f) c with | .fin _ _ _ => false | _ => true))

/-- What a pruning store makes of one block: nothing when absent. -/
structure PrunedBlk where
  bytes : List Byte
  attr : Nat
  escaped : Bool
  poison : Bool
  promoted : List Bool
  counts : CastCounts
  /-- the exact values stored, for the norm taps -/
  vals : List FVal
  deriving DecidableEq, Repr

/-- The rows of a block cast one by one, each with its running count of promotions. -/
def castBlkRows (r : RowFmt) (qerr : Word) (cap : Nat) (rnd : Nat → Rnd) (n pitch : Nat) :
    List (List Word × Nat) → List PromoCast × CastCounts
  | [] => ([], noCasts)
  | (xs, below) :: rest =>
    let (ps, c) := castRowBlocks r ⟨qerr, below, cap⟩ rnd n [xs]
    let (qs, d) := castBlkRows r qerr cap rnd (n + pitch) pitch rest
    (ps ++ qs, c.add d)

def pruneBlock (r : RowFmt) (prof thr : Nat) (qerr : Word) (cap : Nat) (rnd : Nat → Rnd) (n pitch : Nat)
    (rows : List (List Word)) (below : List Nat) (bad : Bool) : Option PrunedBlk :=
  let nm := fld prof 2 0
  let ks := rows.map (keptRow nm)
  let xs := (rows.zip ks).map (fun p => zeroDropped p.1 p.2)
  if bitOf prof 3 && f32Lt (blockSquares r.t (xs.flatMap (fun x => x))) (BitVec.ofNat 32 thr) then none
  else
    let (ps, cnt) := castBlkRows r qerr cap rnd n pitch (xs.zip (below ++ List.replicate 32 0))
    let b : CastBlk := ⟨ps.zip ks⟩
    let (bytes, esc) := storeChoice r.f r.p nm b
    some ⟨bytes, nm + 8 * b2n esc + 16 * b2n (blockNf r.f b), esc, bad || ps.any (·.cast.poison),
      ps.map (·.promoted), cnt, ps.flatMap (castValues r.f r.t)⟩

/-- The bytes of one row group's map (R137): header, bitmap, attributes. -/
def mapBytes (kb : Nat) : Nat := 64 + (kb + 511) / 512 * 64 + (kb + 63) / 64 * 64

/-- Blocks promoted in each block row of the row group, after some more blocks (R91). -/
def promosAfter (below : List Nat) (bs : List (Option PrunedBlk)) : List Nat :=
  (List.range 32).map (fun r => below.getD r 0 +
    (bs.map (fun b => match b with | some x => b2n (x.promoted.getD r false) | none => 0)).sum)

/-- The blocks of a pruning store, in ascending K: a block's rows count the promotions of the blocks before it. -/
def prunedBlocks (s : State) (t : TileId) (i : Item) (v : VIns) : List (Option PrunedBlk) :=
  let m := mArgs v
  let c := mCtx s t m
  let j := itemJob s i
  let prof := reg s (vecB t) (pageBase (vecB t) 1 - pageBase (vecB t) 0 + Off.vecPrune + 8 * (m.prune - 1))
  let thr := reg s (vecB t) (pageBase (vecB t) 1 - pageBase (vecB t) 0 + Off.vecPruneThr + 8 * (m.prune - 1))
  let a := vregRaw s.tiles[t].vec v.vd
  let b := vregRaw s.tiles[t].vec (v.vd + 1)
  let below := if m.sk = 0 then [] else c.promos
  let lanes := a.lanes ++ b.lanes
  let pois := a.poison ++ b.poison
  ((List.range (blocksAt c.kb m.sk)).foldl (fun (acc : List (Option PrunedBlk) × List Nat) k =>
    let rows := (List.range 32).map (fun r => (lanes.drop (64 * r + 32 * k)).take 32)
    let bad := (List.range 32).any (fun r => pois.getD (4 * r + 2 * k) false || pois.getD (4 * r + 2 * k + 1) false)
    let x := pruneBlock (rowFmtOf m c) prof thr j.qerr (promoCap c.kb c.p j) (ctxRnd m.round (itemSeed s i) c)
      (elemIndex c 0 (32 * k) (32 * m.sk)) c.rowPitch.toNat rows acc.2 bad
    (acc.1 ++ [x], promosAfter acc.2 [x])) ([], below)).1

/-- Where the cursor of a context stands when the store begins. -/
def cursorOf (c : CastCtx) : Nat := if c.started then c.cursor else c.listStart

/-- The bytes that stored blocks take in the list. -/
def listBytes (bs : List (Option PrunedBlk)) : Nat :=
  (bs.map (fun b => match b with | some x => roundUp x.bytes.length 64 | none => 0)).sum

/-- A pruning store's K-block or row group is out of order (R182). -/
def pruneOrderBad (c : CastCtx) (g k : Nat) : Bool :=
  if k = 0 then decide (g ≠ 0) && !(c.started && decide (g = c.lastG + 1))
  else !(c.started && decide (g = c.lastG) && decide (k = c.lastK + 2))

/-- The map of row group g: COUNT, LIST_OFF, presence bits and attribute bytes. At k = 0 the whole map is written, with the bits
and bytes of blocks still to come, and of those beyond K_b, zero (R137, R154 step 4). -/
def writeMap (v : MemView) (lo kb k cursor : Nat) (bs : List (Option PrunedBlk)) (s : State) : State :=
  let here := countTrue (bs.map (·.isSome))
  let s := if k = 0 then lineWrite v lo (bytesOfNat 4 here ++ bytesOfNat 8 cursor ++ List.replicate (mapBytes kb - 12) 0)
      (clean (mapBytes kb)) s
    else
      let (d, s) := viewRead v 1 lo 4 s
      viewWrite v 1 lo (bytesOfNat 4 ((wordOf d.1 + here) % 65536)) (List.replicate 4 (d.2.any (fun b => b))) s
  let bm := lo + 64 + k / 8
  let (d, s) := viewRead v 1 bm 1 s
  let old := (d.1.headD 0).toNat
  let new := (List.range 8).map (fun j => 2 ^ j * b2n (if k % 8 ≤ j ∧ j < k % 8 + bs.length
    then ((bs.getD (j - k % 8) none).isSome) else bitOf old j))
  let s := viewWrite v 1 bm [BitVec.ofNat 8 new.sum] d.2 s
  lineWrite v (lo + 64 + (kb + 511) / 512 * 64 + k)
    (bs.map (fun b => match b with | some x => BitVec.ofNat 8 x.attr | none => 0)) (clean bs.length) s

/-- The store itself: blocks at the cursor, then the map and the cursor (R154 step 4, R182). -/
def pruneStore (t : TileId) (i : Item) (v : VIns) (s : State) : State :=
  let m := mArgs v
  let g := mSS v
  let s := checkRegs t i.key.item.toNat [v.vd, v.vd + 1] s
  let c := mCtx s t m
  let bs := prunedBlocks s t i v
  let list := m.base + c.rowGroups * mapBytes c.kb
  let cur := cursorOf c
  let (cur', s) := bs.foldl (fun a b => match b with
    | some x => (a.1 + roundUp x.bytes.length 64,
        lineWrite (mView t i m) (list + a.1) x.bytes (List.replicate x.bytes.length x.poison) a.2)
    | none => a) (cur, s)
  let s := writeMap (mView t i m) (m.base + g * mapBytes c.kb) c.kb m.sk cur bs s
  let pr := promosAfter (if m.sk = 0 then [] else c.promos) bs
  let c' := { c with cursor := cur', started := true, lastG := g, lastK := m.sk, promos := pr }
  let some' := bs.filterMap (fun b => b)
  let cnt := some'.foldl (fun a x => a.add x.counts) noCasts
  s |> modVec t (fun x => { x with ctx := vput x.ctx m.cx c' })
    |> recordCasts t i.key c.layer.toNat cnt
    |> tapValues t i.key c.layer.toNat .vst (some'.flatMap (fun b => b.vals.map (fun y => (y, b.poison))))
    |> (if some'.any (·.escaped) then itemFlags i.key 16 else (fun s => s))
    |> notePoison i.key ((vregRaw s.tiles[t].vec v.vd).poison ++ (vregRaw s.tiles[t].vec (v.vd + 1)).poison ++
        some'.map (·.poison))
    |> vecDoneLsu t i

def vstBody (t : TileId) (i : Item) (v : VIns) (s : State) : State :=
  let m := mArgs v
  let c := mCtx s t m
  let block := decide (m.mf ≤ 6)
  let prune := decide (m.prune ≠ 0)
  let stoch := m.round && (block || rounds (fmtOfReg m.rf) (mfOf m))
  vecChecked t i v [(mUnused v true false false false false || decide (4 < m.prune), eProgram),
      (mFormatBad m || (prune && !block), eFormat)] (fun s =>
    if mPoisoned v (block || stoch) then vecPoisonStop t i s
    else vecChecked t i v ([
        (prune && (beyond v.vd 2 || decide (m.rf ≠ 0) || pruneOrderBad c (mSS v) m.sk), eShape),
        (block && !prune && (decide (m.es ≠ 1) || decide (m.rf ≠ 0) || headerAhead s t m c), eShape),
        (stoch && (itemJob s i).seed.isNone, eNoseed), (block && !tscaleOk c.tscale, eScale)] ++
        (if prune then
          [(decide (m.base % 64 ≠ 0) || decide (cursorOf c % 64 ≠ 0), eAlign),
           (decide (c.kb ≤ m.sk) || decide (c.rowGroups ≤ mSS v) ||
             beyondMem m (c.rowGroups * mapBytes c.kb + cursorOf c + listBytes (prunedBlocks s t i v)), eExtent)]
        else if block then blockRegion m c
        else plainRegion m 16 (regCols m.rf) (fmtWidth (mfOf m) / 8)))
      (if prune then pruneStore t i v else if block then blockStore t i v else plainStore t i v) s) s

def execVst (t : TileId) (s : State) : Res := .next (vecRow 0x02 vstBody t s)

/-! ## Gathers and scatters (R184) -/

/-- The checks of a gather or scatter, but E_PROGRAM: formats 7 to 10, 32-bit register formats, LIMIT. -/
def gatherChecks (m : MArgs) (v : VIns) (idx : List Word) (w : Nat) : List (Bool × Nat) :=
  let lim := mSS v
  [(decide (m.base % w ≠ 0), eAlign),
   (beyondMem m (lim * w) || idx.any (fun x => decide (x.toInt < 0) || decide (lim ≤ x.toNat)), eExtent)]

/-- The index lanes with their line's poison. -/
def indexLanes (s : State) (t : TileId) (r : Nat) : List (Word × Bool) :=
  (elemsOfReg 3 (vregRaw s.tiles[t].vec r)).map (fun e => (BitVec.ofNat 32 e.1, e.2))

/-- VGTH. A poisoned index line poisons what its indices bring, and what VSCT and VSCTA store at them: DESIGN CHOICE (entry 14), since
R162 lists the memory words only. -/
def vgthEff (t : TileId) (i : Item) (v : VIns) (s : State) : State :=
  let m := mArgs v
  let w := fmtWidth (mfOf m) / 8
  let c := mCtx s t m
  let (es, s) := (indexLanes s t v.va).foldl (fun a x =>
    let (d, s) := viewRead (mView t i m) 1 (m.base + x.1.toNat * w) w a.2
    (a.1 ++ [(natOfBytes d.1, x.2 || d.2.any (fun b => b))], s)) (([] : List Elem), s)
  let (es, cnt) := convElems (mfOf m) (fmtOfReg m.rf) (ctxRnd m.round (itemSeed s i) c) 64 c m.sk es
  let d := regOfElems m.rf es
  s |> writeReg t v.vd d |> recordCasts t i.key c.layer.toNat cnt |> notePoison i.key d.poison |> vecDoneLsu t i

def vsctEff (t : TileId) (i : Item) (v : VIns) (s : State) : State :=
  let m := mArgs v
  let w := fmtWidth (mfOf m) / 8
  let c := mCtx s t m
  let (es, cnt) := convElems (fmtOfReg m.rf) (mfOf m) (ctxRnd m.round (itemSeed s i) c) 64 c m.sk
    (elemsOfReg m.rf (vregRaw s.tiles[t].vec v.vb))
  let xs := (indexLanes s t v.va).zip es
  let s := xs.foldl (fun a x =>
    viewWrite (mView t i m) 1 (m.base + x.1.1.toNat * w) (bytesOfNat w x.2.1) (List.replicate w (x.2.2 || x.1.2)) a) s
  s |> recordCasts t i.key c.layer.toNat cnt |> notePoison i.key (xs.map (fun x => x.2.2 || x.1.2)) |> vecDoneLsu t i

/-- One lane of VSCTA: the memory word gains the lane, rounded once. -/
def scatterAdd (v : MemView) (a : Nat) (x : Word) (bad : Bool) (s : State) : Bool × State :=
  let (d, s) := viewRead v 1 a 4 s
  let p := bad || d.2.any (fun b => b)
  (p, viewWrite v 1 a (bytesOfNat 4 (f32Add (BitVec.ofNat 32 (wordOf d.1)) x).toNat) (List.replicate 4 p) s)

def vsctaEff (t : TileId) (i : Item) (v : VIns) (s : State) : State :=
  let m := mArgs v
  let xs := (indexLanes s t v.va).zip (elemsOfReg 0 (vregRaw s.tiles[t].vec v.vb))
  let (bad, s) := xs.foldl (fun a x =>
    let (p, s) := scatterAdd (mView t i m) (m.base + x.1.1.toNat * 4) (BitVec.ofNat 32 x.2.1) (x.2.2 || x.1.2) a.2
    (a.1 || p, s)) (false, s)
  s |> notePoison i.key [bad] |> vecDoneLsu t i

/-- A gather or scatter: which register fields it uses, whether W-mem is allowed, its formats, its effect. -/
def gatherRow (vd vb wOk : Bool) (fmtOk : MArgs → Bool) (stochOf : MArgs → Bool) (eff : TileId → Item → VIns → State → State)
    (t : TileId) (i : Item) (v : VIns) (s : State) : State :=
  let m := mArgs v
  vecChecked t i v [(mUnused v vd true vb wOk false, eProgram), (mFormatBad m || !fmtOk m, eFormat)] (fun s =>
    if mPoisoned v (stochOf m) then vecPoisonStop t i s
    else
      let s := checkRegs t i.key.item.toNat ([v.va] ++ if vb then [v.vb] else []) s
      vecChecked t i v ([(stochOf m && (itemJob s i).seed.isNone, eNoseed)] ++
        gatherChecks m v ((indexLanes s t v.va).map (·.1)) (fmtWidth (mfOf m) / 8)) (eff t i v) s) s

/-- Formats 7 to 10 with a register format of one element per lane: R184 does not say what a packed one, BF16 or FP16, does. DESIGN
CHOICE (entry 14): it fails VGTH and VSCT with E_FORMAT, and VSCTA, whose lanes are FP32, ignores it. -/
def gatherFmts (m : MArgs) : Bool := decide (7 ≤ m.mf) && !packedFmt m.rf

def execVgth (t : TileId) (s : State) : Res :=
  .next (vecRow 0x03 (gatherRow true false true gatherFmts (fun m => m.round && rounds (mfOf m) (fmtOfReg m.rf)) vgthEff) t s)
def execVsct (t : TileId) (s : State) : Res :=
  .next (vecRow 0x04 (gatherRow false true false gatherFmts (fun m => m.round && rounds (fmtOfReg m.rf) (mfOf m)) vsctEff) t s)
def execVscta (t : TileId) (s : State) : Res :=
  .next (vecRow 0x05 (gatherRow false true false (fun m => m.mf == 9) (fun _ => false) vsctaEff) t s)

/-! ## VCTX (R178) -/

/-- A context from its record of sixteen words. -/
def ctxOfWords (ws : List Word) : CastCtx :=
  let w (k : Nat) : Nat := (ws.getD k 0).toNat
  { castCtxZero with
    tensor := BitVec.ofNat 16 (w 0), layer := BitVec.ofNat 12 (fld (w 0) 27 16), step := ws.getD 1 0,
    indexBase := BitVec.ofNat 48 (w 2 + 2 ^ 32 * fld (w 3) 15 0), rowPitch := ws.getD 4 0, tscale := ws.getD 5 0,
    kb := fld (w 6) 15 0, p := fld (w 6) 31 16, rowBytes := fld (w 7) 21 0, listStart := fld (w 8) 21 0,
    rowGroups := fld (w 9) 15 0 }

/-- The scalar that holds an A-mem address (VCTX, VPLD, VPRGM, VSLOT). -/
def amemScalar (v : VIns) : Nat := (v.scalar (fld v.x 31 28)).toNat

/-- A record of `len` bytes in A-mem on a 64-byte boundary. -/
def recordChecks (v : VIns) (len : Nat) : List (Bool × Nat) :=
  [(decide (amemScalar v % 64 ≠ 0), eAlign), (decide (memBytes .amem < amemScalar v + len), eExtent)]

def noRegs (v : VIns) : Bool := decide (v.vd = 0 ∧ v.va = 0 ∧ v.vb = 0 ∧ v.vc = 0)

def amemView (t : TileId) (i : Item) : MemView := ⟨t, .amem, vecB t, i.key.item.toNat, true, false⟩

def vctxBody (t : TileId) (i : Item) (v : VIns) (s : State) : State :=
  vecChecked t i v [(!noRegs v || decide (fld v.x 27 18 ≠ 0) || decide (fld v.x 14 0 ≠ 0), eProgram)] (fun s =>
    if v.scalarPoisoned (fld v.x 31 28) then vecPoisonStop t i s
    else vecChecked t i v (recordChecks v 64) (fun s =>
      let (d, s) := lineRead (amemView t i) (amemScalar v) 64 s
      s |> modVec t (fun x => { x with ctx := vput x.ctx (fld v.x 17 15) (ctxOfWords (wordsOfBytes 16 d.1)) })
        |> notePoison i.key d.2 |> vecDoneLsu t i) s) s

def execVctx (t : TileId) (s : State) : Res := .next (vecRow 0x06 vctxBody t s)

end Sys2Proof.Machine
end

