-- ==== Sys2Proof/Machine/MoveDesc.lean ====
section
/-! DEFINITION. Move descriptors and tensor records (R265 to R269): their fields, the formats and spaces of a side,
and the shape of each side of a transform, on which the checks of R291 rest. -/

namespace Sys2Proof.Machine
open Sys2Proof

/-! ## The descriptor (R265) -/

/-- The fields of a move descriptor; sizes D0 to D4, strides SS1 to SS4 and DS1 to DS4. -/
structure MvArgs where
  op : Nat
  xform : Nat
  sspace : Nat
  dspace : Nat
  splt : Bool
  dplt : Bool
  wide : Bool
  round : Bool
  hem : Nat
  hemYield : Bool
  predict : Bool
  release : Bool
  useStream : Bool
  sh : Nat
  sfmt : Nat
  dfmt : Nat
  sSparse : Bool
  dSparse : Bool
  layer : Nat
  addSrc : Bool
  rsvd : Nat
  src : Nat
  dst : Nat
  d0 : Nat
  d1 : Nat
  d2 : Nat
  d3 : Nat
  d4 : Nat
  hb1 : Nat
  ha1 : Nat
  hb2 : Nat
  ha2 : Nat
  srec : Nat
  drec : Nat
  ss1 : Nat
  ss2 : Nat
  ss3 : Nat
  ss4 : Nat
  ds1 : Nat
  ds2 : Nat
  ds3 : Nat
  ds4 : Nat
  deriving DecidableEq, Repr

/-- Words as one number, word 0 lowest. -/
def natOfWords : List Word → Nat
  | [] => 0
  | w :: ws => w.toNat + 2 ^ 32 * natOfWords ws

def mvArgs (ws : List Word) : MvArgs :=
  let w (i : Nat) : Nat := hword ws i
  let st := natOfWords (ws.drop 9)
  let sf (k : Nat) : Nat := fld st (28 * k + 27) (28 * k)
  { op := fld (w 0) 3 0, xform := fld (w 0) 7 4, sspace := fld (w 0) 10 8, dspace := fld (w 0) 13 11,
    splt := bitOf (w 0) 14, dplt := bitOf (w 0) 15, wide := bitOf (w 0) 16, round := bitOf (w 0) 17,
    hem := fld (w 0) 19 18, hemYield := bitOf (w 0) 20, predict := bitOf (w 0) 21, release := bitOf (w 0) 22,
    useStream := bitOf (w 0) 23, sh := fld (w 0) 31 24, sfmt := fld (w 1) 3 0, dfmt := fld (w 1) 7 4,
    sSparse := bitOf (w 1) 8, dSparse := bitOf (w 1) 9, layer := fld (w 1) 21 10, addSrc := bitOf (w 1) 22,
    rsvd := fld (w 1) 31 23, src := w 2 + 2 ^ 32 * fld (w 3) 15 0, dst := w 4 + 2 ^ 32 * fld (w 5) 15 0,
    d0 := fld (w 3) 31 16, d1 := fld (w 5) 31 16, d2 := fld (w 6) 15 0, d3 := fld (w 6) 31 16, d4 := fld (w 7) 15 0,
    hb1 := fld (w 7) 19 16, ha1 := fld (w 7) 23 20, hb2 := fld (w 7) 27 24, ha2 := fld (w 7) 31 28,
    srec := fld (w 8) 15 0, drec := fld (w 8) 31 16, ss1 := sf 0, ss2 := sf 1, ss3 := sf 2, ss4 := sf 3, ds1 := sf 4,
    ds2 := sf 5, ds3 := sf 6, ds4 := sf 7 }

/-- Hems are asked for. -/
def MvArgs.hems (a : MvArgs) : Bool := decide (a.hb1 + a.ha1 + a.hb2 + a.ha2 ≠ 0)

/-! ## Formats (R268) -/

/-- The device format of a code: codes 11 to 15 hold the elements of 0 to 4. -/
def mvDev (c : Nat) : Fmt := (fmtOfCode (if 11 ≤ c then c - 11 else c)).getD .fp32
def mvMx (c : Nat) : Bool := decide (11 ≤ c)
/-- Block-scaled or MX: moved in whole block rows (R267). -/
def mvBlk (c : Nat) : Bool := decide (c ≤ 6) || mvMx c
/-- Bytes of an element of a plain format, or of a 1-byte format under TRANSPOSE. -/
def mvW (c : Nat) : Nat := fmtWidth (mvDev c) / 8

/-! ## Tensor records (R269) -/

structure TRec where
  tensor : Nat
  extEn : Bool
  otEn : Bool
  step : Nat
  tscale : Word
  kb : Nat
  p : Nat
  rowBytes : Nat
  hemValue : Nat
  indexBase : Nat
  ip1 : Nat
  ip2 : Nat
  ip3 : Nat
  ip4 : Nat
  ext1lo : Int
  ext1hi : Int
  ext2lo : Int
  ext2hi : Int
  otBase : Nat
  brLog2 : Nat
  bbLog2 : Nat
  ncb : Nat
  nrb : Nat
  deriving DecidableEq, Repr

def tensorRec (ws : List Word) : TRec :=
  let w (i : Nat) : Nat := hword ws i
  { tensor := fld (w 0) 15 0, extEn := bitOf (w 0) 16, otEn := bitOf (w 0) 17, step := w 1, tscale := ws.getD 2 0,
    kb := fld (w 3) 15 0, p := fld (w 3) 31 16, rowBytes := fld (w 4) 27 0, hemValue := w 5,
    indexBase := w 6 + 2 ^ 32 * fld (w 7) 15 0, ip1 := w 8, ip2 := w 9, ip3 := w 10, ip4 := w 11,
    ext1lo := sext (fld (w 12) 15 0) 16, ext1hi := sext (fld (w 12) 31 16) 16, ext2lo := sext (fld (w 13) 15 0) 16,
    ext2hi := sext (fld (w 13) 31 16) 16, otBase := w 14 + 2 ^ 32 * fld (w 15) 15 0, brLog2 := fld (w 15) 20 16,
    bbLog2 := fld (w 15) 25 21, ncb := fld (w 16) 15 0, nrb := fld (w 16) 31 16 }

/-- A record as the descriptor meets it: not named, beyond A-mem, or read. -/
inductive RecRead where
  | none
  | beyond
  | ok (r : TRec)
  deriving DecidableEq, Repr

def RecRead.get? : RecRead → Option TRec
  | .ok r => some r
  | _ => Option.none

/-- A record named and absent, or one that need not be there. -/
def RecRead.absent : RecRead → Bool
  | .none => true
  | _ => false

/-- Bytes of a block row of a code under a record. -/
def rowSize (c : Nat) (r : TRec) : Nat := (rowLayout (mvDev c) r.kb (if mvMx c then 0 else r.p)).size

/-! ## Sides (R266) -/

/-- Where a side lies: a tile memory, device virtual addresses, or a distributed tensor. -/
inductive Side where
  | mem (t : TileId) (m : MemSel) (plt : Bool)
  | va
  | owner (dst : Bool)
  deriving DecidableEq, Repr

/-- The side and its base address; none for a reserved space or a malformed space-4 address. -/
def sideOf (t : TileId) (space addr : Nat) (plt dst : Bool) : Option (Side × Nat) :=
  if space = 3 then some (.va, addr)
  else if space = 5 then some (.owner dst, addr)
  else if space = 4 then
    if fld addr 47 30 ≠ 0 then none
    else (memOfIndex (fld addr 23 22)).map (fun m => (.mem ⟨fld addr 29 24 % 64, by omega⟩ m plt, fld addr 21 0))
  else (memOfIndex space).map (fun m => (.mem t m plt, fld addr 21 0))

/-- Address bits that a tile-memory space does not use, which R291 checks as a region beyond its memory. -/
def spaceHigh (space addr : Nat) : Bool := decide (space ≤ 2) && decide (2 ^ 22 ≤ addr)

/-- The region of a side: base, dimensions as size and stride, the bytes of a contiguous run, its access width. -/
structure Geo where
  side : Side
  base : Nat
  dims : List (Nat × Nat)
  run : Nat
  width : Nat
  deriving DecidableEq, Repr

/-- The end of the bounding range. -/
def Geo.hi (g : Geo) : Nat := g.base + (g.dims.map (fun d => (d.1 - 1) * d.2)).sum + g.run

/-- The starts of the runs, dimension by dimension. -/
def runStarts : List (Nat × Nat) → List Nat
  | [] => [0]
  | (n, st) :: ds => (runStarts ds).flatMap (fun o => (List.range n).map (fun i => o + i * st))

/-! ## Feed images (R273 to R275) -/

/-- A stored slot: its bits and the slots of a K-block (R274), for an operand in a pair, wide or narrow. -/
def slotOf (f partner : Fmt) (wide : Bool) : Nat × Nat :=
  match f with
  | .e2m1 => if wide then (8, 32) else if partner = .e2m1 then (8, 16) else if partner = .t2 then (16, 8) else (4, 32)
  | .t2 => if partner = .e2m1 then (8, 8) else (2, 32)
  | .bf16 | .fp16 => (16, 32)
  | .e3m2 | .e2m3 => (6, 32)
  | _ => (8, 32)

/-- Bytes of a map of one bit per K-block. -/
def bitmapBytes (kb : Nat) : Nat := (kb + 511) / 512 * 64

/-- W_max of an image from its K-blocks' wide flags. -/
def wMax (f partner : Fmt) (wides : List Bool) : Nat := wides.foldl (fun a w => max a (slotOf f partner w).1) 0

/-- Bytes of a dense feed image. -/
def imageBytes (f partner : Fmt) (wides : List Bool) : Nat :=
  let head := if fmtBlockScaled f then bitmapBytes wides.length + 256 * wides.length else 0
  head + ((wides.map (fun w => (slotOf f partner w).2)).sum + 255) * 32 * wMax f partner wides

/-! ## Regions (R267, R271, R277, R278, R285) -/

/-- Row groups of n rows. -/
def rowGroupsOf (n : Nat) : Nat := (n + 31) / 32

/-- Bytes of one run of a side in a format: a block row of its record, or d0 plain elements. -/
def runBytes (c d0 : Nat) (r : Option TRec) : Nat :=
  if mvBlk c then (match r with | some x => rowSize c x | none => 0) else d0 * mvW c

/-- The access width of a side in a format (R256). -/
def widthOf (c : Nat) : Nat := if mvBlk c then 64 else mvW c

/-- A COPY of a compressed tensor as such: both sides are addressed as a whole, like the compressed side of PACK and EXPAND. -/
def MvArgs.whole (a : MvArgs) : Bool := decide (a.xform = 0) && a.sSparse

def srcGeo (a : MvArgs) (pred : Bool) (sd : Side) (base : Nat) (r : Option TRec) : Geo :=
  let rb := match r with | some x => x.rowBytes | none => 0
  let kb := match r with | some x => x.kb | none => 0
  if a.op ≠ 1 then ⟨sd, base, [(a.d1, a.ss1), (a.d2, a.ss2), (a.d3, a.ss3), (a.d4, a.ss4)], runBytes a.sfmt a.d0 r, widthOf a.sfmt⟩
  else if a.xform = 1 then
    ⟨sd, base, [(a.d1, a.ss1), (a.d2, a.ss2), (a.d3, a.ss3), (a.d4, a.ss4)], a.d0 * mvW a.sfmt, mvW a.sfmt⟩
  else if a.xform = 2 then
    if a.sSparse then ⟨sd, base, [(1, rb)], rb, 64⟩
    else if mvBlk a.sfmt then ⟨sd, base, [(a.d0, rb)], rowSize a.sfmt (r.getD (tensorRec [])), 64⟩
    else ⟨sd, base, [(a.d0, rb)], 64 * (a.ss1 + a.d1), 2⟩
  else if a.xform = 3 then ⟨sd, base, [], 1024 * (a.ss1 - 1) + 4 * a.d0, 4⟩
  else if a.xform = 4 then ⟨sd, base, [(a.d1, a.ss1)], runBytes a.sfmt a.d0 r, 64⟩
  else if a.xform = 5 ∨ a.whole then ⟨sd, base, [], rowGroupsOf a.d1 * mapBytes kb, 64⟩
  else ⟨sd, base, [(a.d1, if pred then rb else a.ss1), (a.d2, a.ss2), (a.d3, a.ss3), (a.d4, if pred then 0 else a.ss4)],
    runBytes a.sfmt a.d0 r, widthOf a.sfmt⟩

/-- The destination's region; `rows` is the size of dimension 1 before hems. -/
def dstGeo (a : MvArgs) (pred : Bool) (sd : Side) (base : Nat) (r : Option TRec) : Geo :=
  let kb := match r with | some x => x.kb | none => 0
  let g : Geo :=
    if a.xform = 1 then
      ⟨sd, base, [(a.d0, a.ds1), (a.d2, a.ds2), (a.d3, a.ds3), (a.d4, a.ds4)], a.d1 * mvW a.dfmt, mvW a.dfmt⟩
    else if a.xform = 2 then
      ⟨sd, base, [], if a.sSparse then 64
        else imageBytes (mvDev a.sfmt) ((fmtOfCode a.d3).getD .fp32) (List.replicate a.d1 false), 64⟩
    else if a.xform = 3 then ⟨sd, base, [(a.d1, a.ds1)], runBytes a.dfmt a.d0 r, widthOf a.dfmt⟩
    else if a.xform = 4 ∨ a.whole then ⟨sd, base, [], rowGroupsOf a.d1 * mapBytes kb, 64⟩
    else if a.xform = 5 then ⟨sd, base, [(a.d1, a.ds1)], runBytes a.dfmt a.d0 r, widthOf a.dfmt⟩
    else ⟨sd, base, [(a.d1 + a.hb1 + a.ha1, a.ds1), (a.d2 + a.hb2 + a.ha2, a.ds2), (a.d3, a.ds3),
      (a.d4, if pred then 0 else a.ds4)], runBytes a.dfmt a.d0 r, widthOf a.dfmt⟩
  match sd with
  | .mem _ .wmem _ => { g with width := max 64 g.width }
  | _ => g

/-- A wide view's access width (R243): 2,048 bytes on a side in tile memory. -/
def widen (wide : Bool) (g : Geo) : Geo :=
  match g.side, wide with
  | .mem _ _ _, true => { g with width := 2048 }
  | _, _ => g

end Sys2Proof.Machine
end

