-- ==== Sys2Proof/Machine/MoveData.lean ====
section
/-! DEFINITION. A descriptor at work (R266 to R270, R283, R284): reads of its source, distributed tensors and
remote bytes among them, the writes it plans, block rows read, converted and formed. A descriptor reads all of its
source, plans its writes, and then makes them (entry 23). -/

namespace Sys2Proof.Machine
open Sys2Proof

/-- Bytes with their poison. -/
abbrev PBytes := List Byte × List Bool

/-- A write planned by a descriptor, with the counts and flags of the casts that made its values (R89). -/
structure MvWrite where
  side : Side
  at_ : Nat
  bytes : List Byte
  poison : List Bool
  counts : CastCounts
  flags : Nat
  deriving DecidableEq, Repr

/-- A descriptor at work: the state and descriptor as they change; remote sectors still to fetch and remote writes to
send; the status that stops it; statuses that data raised; what it consumed, flagged and counted; the counts and flags of casts
whose values no write holds yet; the end of what it has read of its source; its plan. -/
structure MvRun where
  s : State
  d : MvDesc
  t : TileId
  i : Item
  a : MvArgs
  sr : Option TRec
  dr : Option TRec
  needs : List FabWork
  out : List FabWork
  err : Option Nat
  soft : List Nat
  poison : Bool
  flags : Nat
  counts : CastCounts
  newCounts : CastCounts
  newFlags : Nat
  readHi : Nat
  writes : List MvWrite
  deriving Repr

def dmv (t : TileId) : Block := .tile t .dmv

def MvRun.fail (c : Nat) (m : MvRun) : MvRun := { m with err := some (m.err.getD c) }
/-- A check of R291 that only the plan can make has failed: nothing of the plan is written. -/
def MvRun.refuse (c : Nat) (m : MvRun) : MvRun := { m.fail c with writes := [] }
def MvRun.softErr (c : Nat) (m : MvRun) : MvRun := { m with soft := m.soft ++ [c] }
def MvRun.part (m : MvRun) : Fin 4 := m.i.key.part
def MvRun.vaReq (m : MvRun) : VaReq := ⟨.tile m.t, m.i.key.part, m.i.key.item.toNat, m.i.job.toNat, dmv m.t⟩

/-- The view of a tile memory: the issuing tile's mover, or another tile's router. -/
def MvRun.view (m : MvRun) (x : TileId) (mem : MemSel) (plt : Bool) : MemView :=
  ⟨x, mem, if x = m.t then dmv x else .tile x .tl, m.i.key.item.toNat, false, plt⟩

def zeros (n : Nat) : PBytes := (List.replicate n 0, clean n)

/-! ## Distributed tensors (R283, R284) -/

/-- The end of the owner-table block that offset x lies in. -/
def ownCut (r : TRec) (x : Nat) : Nat :=
  let c := x % r.rowBytes
  x / r.rowBytes * r.rowBytes + min (c / 2 ^ r.bbLog2 * 2 ^ r.bbLog2 + 2 ^ r.bbLog2) r.rowBytes

/-- A range of offsets cut at block boundaries; the first argument bounds the number of pieces. -/
def ownPieces (r : TRec) : Nat → Nat → Nat → List (Nat × Nat)
  | 0, _, _ => []
  | n + 1, x, len =>
    if len = 0 then []
    else
      let k := min len (ownCut r x - x)
      (x, k) :: ownPieces r n (x + k) (len - k)

/-- The entry number of an offset, and its place within its block. -/
def ownEntry (r : TRec) (x : Nat) : Nat :=
  x / r.rowBytes / 2 ^ r.brLog2 * r.ncb + x % r.rowBytes / 2 ^ r.bbLog2
def ownOffset (r : TRec) (x : Nat) : Nat :=
  x / r.rowBytes % 2 ^ r.brLog2 * 2 ^ r.bbLog2 + x % r.rowBytes % 2 ^ r.bbLog2

/-- An offset beyond the table. -/
def ownBeyond (r : TRec) (x : Nat) : Bool :=
  decide (r.rowBytes = 0) || decide (r.ncb * 2 ^ r.bbLog2 ≤ x % r.rowBytes) ||
    decide (r.nrb * 2 ^ r.brLog2 ≤ x / r.rowBytes)

/-- Entry e of a side's owner table, read once per descriptor. -/
def ownRead (dst : Bool) (r : TRec) (e : Nat) (m : MvRun) : Nat × MvRun :=
  let z : Nat → DWord := fun _ => 0
  let at_ := r.otBase + 8 * e
  if m.d.owned.contains at_ then ((fget z (if dst then m.d.dstOwn else m.d.srcOwn) e).toNat, m)
  else
    let (x, s) := vaRead m.vaReq at_ 8 m.s
    match x with
    | .error k => (0, MvRun.fail k { m with s := s })
    | .ok b =>
      let v := BitVec.ofNat 64 (natOfBytes b.1)
      let bad := b.2.any (fun x => x)
      let d := { m.d with owned := m.d.owned ++ [at_], ownBad := m.d.ownBad || bad }
      let d := if dst then { d with dstOwn := fset z d.dstOwn e v } else { d with srcOwn := fset z d.srcOwn e v }
      (v.toNat, { m with s := s, d := d, poison := m.poison || bad })

/-- What an attempt that must be made again leaves of itself in state s: the owner-table entries it read first (R283). -/
def keepEntries (old : MvDesc) (m : MvRun) (s : State) : State :=
  let s := (m.d.owned.drop old.owned.length).foldl (fun s a => (vaRead m.vaReq a 8 s).2) s
  modDesc m.t old.serial (fun x => { x with
    srcOwn := m.d.srcOwn, dstOwn := m.d.dstOwn, owned := m.d.owned, ownBad := m.d.ownBad }) s

/-- Where a fabric address of this chip lies (R362): a tile memory, or a device virtual address. -/
inductive Place where
  | va (a : Nat)
  | mem (t : TileId) (mem : MemSel) (a : Nat)
  | remote (chip : Nat) (part : Fin 4) (addr : Nat)
  deriving DecidableEq, Repr

/-- A fabric address of partition p on this chip, for len bytes: its place, or the status that refuses it (R363); a
retired tile's memories are beyond reach (R499). -/
def fabPlace (s : State) (p : Fin 4) (addr len : Nat) : Except Nat Place :=
  if fld addr 47 40 ≠ 0xFF then .ok (.va addr)
  else
    let t : TileId := ⟨fld addr 37 32 % 64, by omega⟩
    if partOfTile s t ≠ p then .error ePartition
    else if fld addr 39 38 ≠ 0 ∨ fld addr 31 24 ≠ 0 then .error eExtent
    else match memOfIndex (fld addr 23 22) with
      | none => .error eExtent
      | some m => if s.tiles[t].retired ∨ memBytes m < fld addr 21 0 + len then .error eExtent else .ok (.mem t m (fld addr 21 0))

/-- The place of a piece of a distributed tensor. -/
def ownPlace (dst : Bool) (x len : Nat) (m : MvRun) : Option Place × MvRun :=
  match (if dst then m.dr else m.sr) with
  | none => (none, m.fail eOwnerTable)
  | some r =>
    if ownBeyond r x then (none, m.fail eExtent)
    else
      let (e, m) := ownRead dst r (ownEntry r x) m
      if m.err.isSome then (none, m)
      else if !bitOf e 18 ∨ fld e 20 19 ≠ 0 ∨ bitOf e 63 then (none, m.fail eOwnerTable)
      else
        let addr := fld e 62 21 * 64 + ownOffset r x
        let part : Fin 4 := ⟨fld e 17 16 % 4, by omega⟩
        if fld e 15 0 ≠ ownChip m.s then (some (.remote (fld e 15 0) part addr), m)
        else if part ≠ m.part then (none, m.fail eOwnerTable)
        else match fabPlace m.s m.part addr len with
          | .error c => (none, m.fail c)
          | .ok p => (some p, m)

/-! ## Remote bytes (R263, R284) -/

/-- The sectors of a range. -/
def sectorsOf (lo len : Nat) : List Nat := (piecesOf 64 lo len).map (fun p => p.1 / 64 * 64)

def falseB : Nat → Bool := fun _ => false

/-- Bytes of another chip: those received, or a read to make for each sector not yet received. -/
def remoteRead (chip : Nat) (part : Fin 4) (addr len : Nat) (m : MvRun) : PBytes × MvRun :=
  let miss := (sectorsOf addr len).filter (fun a => !fget falseB m.d.got (remoteKey chip a))
  if miss.isEmpty then
    let k := remoteKey chip addr
    ((fread zeroByte m.d.buffer k len, fread falseB m.d.badBytes k len), m)
  else
    let w (a : Nat) : FabWork := ⟨true, BitVec.ofNat 16 chip, part, BitVec.ofNat 48 a, 1, [], false⟩
    (zeros len, { m with needs := m.needs ++ (miss.map w).filter (fun x => !m.needs.contains x) })

/-- A remote write added to those to send: whole sectors, one for each request; a part of a sector is joined to what
the sector holds. -/
def remoteWrite (chip : Nat) (part : Fin 4) (addr : Nat) (bs : List Byte) (ps : List Bool) (m : MvRun) : MvRun :=
  (piecesOf 64 addr bs.length).foldl (fun m p =>
    let sec := p.1 / 64 * 64
    let old := m.out.find? (fun w => w.chip.toNat == chip && w.addr.toNat == sec)
    let (base, bad, m) := match old with
      | some w => (w.payload, w.poison, m)
      | none =>
        if p.2 = 64 then ((zeros 64).1, false, m)
        else
          let (x, m) := remoteRead chip part sec 64 m
          (x.1, x.2.any (fun b => b), m)
    let nb := base.take (p.1 - sec) ++ (bs.drop (p.1 - addr)).take p.2 ++ base.drop (p.1 - sec + p.2)
    let np := (p.2 ≠ 64 && bad) || ((ps.drop (p.1 - addr)).take p.2).any (fun b => b)
    let w : FabWork := ⟨false, BitVec.ofNat 16 chip, part, BitVec.ofNat 48 sec, 1, nb, np⟩
    match old with
    | some o => { m with out := m.out.map (fun x => if x = o then w else x) }
    | none => { m with out := m.out ++ [w] }) m

/-! ## Streams a read advances (R288) -/

/-- The pointer moves to the furthest pattern line that a demand read reaches. -/
def advanceStream (q : QuadId) (sh va len : Nat) (s : State) : State :=
  match fget (fun _ => none) s.quads[q].streams sh with
  | none => s
  | some st =>
    let ls := (piecesOf 128 va len).map (fun p => p.1 / 128)
    let far := st.lines.zipIdx.foldl (fun a x => if ls.contains x.1 then max a x.2 else a) st.pointer
    if far = st.pointer then s
    else modQuad q (fun x => { x with streams := fset (fun _ => none) x.streams sh (some { st with pointer := far }) }) s

/-! ## Reads and writes of a side -/

/-- Accesses counted for a range: none of the line accesses in the wide view, which counts in TMEM_WIDE (R243). -/
def rawAccesses (wide : Bool) (lo len : Nat) : Nat := if wide then 0 else lineCount lo len

/-- Wide accesses served: counted, held back by no reservation, and the row reserved for one of them reserved no longer (R243). -/
def noteWide (wide held : Bool) (x : TileId) (mem : MemSel) (lo len : Nat) (s : State) : State :=
  if wide then
    modTile x (fun y => { y with wideReserved := y.wideReserved.filter (fun r =>
      !(r.1 == mem && decide (lo ≤ 2048 * r.2.toNat) && decide (2048 * r.2.toNat < lo + len))) })
      (bump (.tile x .tmem) Off.tmemWide (len / 2048) { s with heldBack := held })
  else s

/-- The pleat field of a side (R272). -/
def MvRun.plt (dst : Bool) (m : MvRun) : Bool := if dst then m.a.dplt else m.a.splt

/-- A place of this chip's tile memories that a wide view does not reach whole (R243) or reaches pleated (R244), or that W-mem does
not take a write to (R256). -/
def placeBad (wide plt dst : Bool) (p : Place) (len : Nat) : Option Nat :=
  match p with
  | .mem _ mem a =>
    if (wide && (plt || decide (a % 2048 ≠ 0) || decide (len % 2048 ≠ 0))) || (dst && mem == .wmem && decide (a % 64 ≠ 0)) then some eAlign
    else if dst && mem == .wmem && decide (len % 64 ≠ 0) then some eExtent else none
  | _ => none

def readPlace (p : Place) (plt : Bool) (len : Nat) (m : MvRun) : PBytes × MvRun :=
  match p with
  | .mem x mem a =>
    let (d, s) := viewRead (m.view x mem plt) (rawAccesses m.a.wide a len) a len m.s
    (d, { m with s := noteWide m.a.wide m.s.heldBack x mem a len s })
  | .va a =>
    (match vaRead m.vaReq a len m.s with
     | (.error c, s) => (zeros len, MvRun.fail c { m with s := s })
     | (.ok d, s) => (d, { m with s := if m.a.useStream then advanceStream (quadOf m.t) m.a.sh a len s else s }))
  | .remote chip part addr => remoteRead chip part addr len m

/-- A read of a side; the bytes and their poison, zeros once the descriptor has failed. -/
def readSide (sd : Side) (lo len : Nat) (m : MvRun) : PBytes × MvRun :=
  if m.err.isSome then (zeros len, m)
  else
    let (d, m) := match sd with
      | .mem x mem plt => readPlace (.mem x mem lo) plt len m
      | .va => readPlace (.va lo) false len m
      | .owner dst =>
        (match (if dst then m.dr else m.sr) with
         | none => (zeros len, m.fail eOwnerTable)
         | some r => (ownPieces r len lo len).foldl (fun (a : PBytes × MvRun) (p : Nat × Nat) =>
             match ownPlace dst p.1 p.2 a.2 with
             | (some pl, m) =>
               (match placeBad m.a.wide (m.plt dst) false pl p.2 with
                | some c => ((a.1.1 ++ (zeros p.2).1, a.1.2 ++ (zeros p.2).2), m.refuse c)
                | none => let (d, m) := readPlace pl (m.plt dst) p.2 m; ((a.1.1 ++ d.1, a.1.2 ++ d.2), m))
             | (none, m) => ((a.1.1 ++ (zeros p.2).1, a.1.2 ++ (zeros p.2).2), m)) (([], []), m))
    (d, { m with
      s := bump (dmv m.t) Off.dmvBytesRd len m.s, poison := m.poison || d.2.any (fun b => b), readHi := max m.readHi (lo + len) })

/-- A write planned; nothing more is planned once the descriptor has failed. -/
def MvRun.plan (sd : Side) (lo : Nat) (bs : List Byte) (ps : List Bool) (m : MvRun) : MvRun :=
  if m.err.isSome then m
  else { m with writes := m.writes ++ [⟨sd, lo, bs, ps, m.newCounts, m.newFlags⟩], newCounts := noCasts, newFlags := 0 }

def writePlace (p : Place) (plt : Bool) (bs : List Byte) (ps : List Bool) (m : MvRun) : MvRun :=
  match p with
  | .mem x mem a =>
    let s := viewWrite (m.view x mem plt) (rawAccesses m.a.wide a bs.length) a bs ps m.s
    { m with s := noteWide m.a.wide m.s.heldBack x mem a bs.length s }
  | .va a =>
    (match vaWrite m.vaReq a bs ps m.s with
     | (.error c, s) => MvRun.fail c { m with s := s }
     | (.ok (), s) => { m with s := s })
  | .remote chip part addr => remoteWrite chip part addr bs ps m

/-- The pieces of a distributed destination that fall in this chip's tile memories, before any is written. -/
def checkPlaces (m : MvRun) : MvRun :=
  m.writes.foldl (fun m w => match w.side, m.dr with
    | .owner true, some r => (ownPieces r w.bytes.length w.at_ w.bytes.length).foldl (fun (m : MvRun) (p : Nat × Nat) =>
        if m.err.isSome then m
        else match ownPlace true p.1 p.2 m with
          | (some pl, u) => (match placeBad m.a.wide (m.plt true) true pl p.2 with | some c => u.refuse c | none => u)
          | (none, _) => m) m
    | _, _ => m) m

/-- A planned write made. -/
def makeWrite (m : MvRun) (w : MvWrite) : MvRun :=
  if m.err.isSome then m
  else
    let m := match w.side with
      | .mem x mem plt => writePlace (.mem x mem w.at_) plt w.bytes w.poison m
      | .va => writePlace (.va w.at_) false w.bytes w.poison m
      | .owner dst =>
        (match (if dst then m.dr else m.sr) with
         | none => m.fail eOwnerTable
         | some r => (ownPieces r w.bytes.length w.at_ w.bytes.length).foldl (fun (m : MvRun) (p : Nat × Nat) =>
             if m.err.isSome then m
             else match ownPlace dst p.1 p.2 m with
               | (some pl, m) => writePlace pl (m.plt dst) ((w.bytes.drop (p.1 - w.at_)).take p.2)
                   ((w.poison.drop (p.1 - w.at_)).take p.2) m
               | (none, m) => m) m)
    { m with
      s := bump (dmv m.t) Off.dmvBytesWr w.bytes.length m.s, poison := m.poison || w.poison.any (fun b => b)
      counts := if m.err.isSome then m.counts else m.counts.add w.counts
      flags := if m.err.isSome then m.flags else m.flags ||| w.flags }

/-- Counts of casts, with the flags they raise (R89). -/
def MvRun.count (c : CastCounts) (m : MvRun) : MvRun :=
  { m with newCounts := m.newCounts.add c, newFlags := m.newFlags ||| castFlags c }

/-! ## Elements (R267, R270) -/

/-- The element index of a destination element (R269, R270). -/
def mvIndex (r : Option TRec) (i0 i1 i2 i3 i4 : Nat) : Nat :=
  match r with
  | some r => r.indexBase + i0 + i1 * r.ip1 + i2 * r.ip2 + i3 * r.ip3 + i4 * r.ip4
  | none => 0

/-- The rounding of the element of an index. -/
def mvRnd (m : MvRun) (n : Nat) : Rnd :=
  match m.dr with
  | some r => drawRnd m.a.round (itemSeed m.s m.i) r.tensor r.step n
  | none => .rne

/-- Elements converted one by one, element j drawing at index n + j, and what that counts (R89). -/
def convRun (src dst : Fmt) (n : Nat) (es : List Elem) (m : MvRun) : List Elem × CastCounts :=
  let rs := es.zipIdx.map (fun e => (convElem src dst (mvRnd m (n + e.2)) e.1.1, e.1.2))
  (rs.map (fun r => (r.1.bits, r.2 || r.1.poison)), countCasts (rs.map (·.1)))

/-- The same, counted with the next write planned. -/
def mvConv (src dst : Fmt) (n : Nat) (es : List Elem) (m : MvRun) : List Elem × MvRun :=
  let (xs, c) := convRun src dst n es m
  (xs, m.count c)

def elemBytes (w : Nat) (es : List Elem) : PBytes :=
  (es.flatMap (fun e => bytesOfNat w e.1), es.flatMap (fun e => List.replicate w e.2))

/-! ## Block rows (R78, R92, R104, R105, R268) -/

/-- A K-block as stored: its scale byte, element codes, whether promoted, its poison, and the counts and flags of the casts that
made it (R89, R104). -/
structure KBlk where
  scale : Nat
  codes : List Nat
  promoted : Bool
  poison : Bool
  counts : CastCounts
  flags : Nat
  deriving DecidableEq, Repr

def kblkZero : KBlk := ⟨0, List.replicate 32 0, false, false, noCasts, 0⟩

/-- The casts of some blocks are counted with the next write planned, which stores them (R89). -/
def MvRun.countBlocks (bs : List KBlk) (m : MvRun) : MvRun :=
  bs.foldl (fun m b => { m with newCounts := m.newCounts.add b.counts, newFlags := m.newFlags ||| b.flags }) m

/-- The format that a block's codes are in. -/
def kblkFmt (f : Fmt) (b : KBlk) : Fmt := if b.promoted then .e4m3 else f

/-- K-blocks [k, k + n) of the block row of code c at lo. -/
def readBlocks (sd : Side) (c : Nat) (r : TRec) (lo k n : Nat) (m : MvRun) : List KBlk × MvRun :=
  let f := mvDev c
  let p := if mvMx c then 0 else r.p
  let l := rowLayout f r.kb p
  let bb := blockBytes f
  let (hd, m) := if p = 0 ∨ n = 0 then (([], []), m) else readSide sd lo ((k + n - 1) / 8 + 1) m
  let bits := natOfBytes hd.1
  let badH := hd.2.any (fun b => b)
  let (sc, m) := readSide sd (lo + l.scales + k) n m
  let (el, m) := readSide sd (lo + l.slots + k * bb) (n * bb) m
  (List.range n).foldl (fun a i =>
    let slot := (el.1.drop (i * bb)).take bb
    let bad := badH || sc.2.getD i false || ((el.2.drop (i * bb)).take bb).any (fun b => b)
    let scale := (sc.1.getD i 0).toNat
    if 0 < p ∧ f = .e2m1 ∧ bitOf bits (k + i) then
      let j := ((List.range (k + i)).filter (bitOf bits)).length
      let (x, m) := readSide sd (lo + l.ext + 16 * j) 16 a.2
      (a.1 ++ [⟨scale, (blockCodes f slot (some x.1)).2, true, bad || x.2.any (fun b => b), noCasts, 0⟩], m)
    else (a.1 ++ [⟨scale, (blockCodes f slot none).2, false, bad, noCasts, 0⟩], a.2)) ([], m)

/-- Zero bytes up to n. -/
def padTo (n : Nat) (x : PBytes) : PBytes :=
  (x.1 ++ List.replicate (n - x.1.length) 0, x.2 ++ clean (n - x.2.length))

def joinP (x y : PBytes) : PBytes := (x.1 ++ y.1, x.2 ++ y.2)

/-- The bytes of a block row (R78, R92); a poisoned block poisons its slots. -/
def rowBytesOf (f : Fmt) (kb p : Nat) (bs : List KBlk) : PBytes :=
  let l := rowLayout f kb p
  let bb := blockBytes f
  let hb := (kb + 7) / 8
  let hdr : PBytes := if p = 0 then ([], []) else
    padTo l.scales (bytesOfNat hb ((bs.zipIdx.map (fun b => 2 ^ b.2 * b2n b.1.promoted)).sum), clean hb)
  let sc := padTo (l.slots - l.scales) (bs.map (fun b => BitVec.ofNat 8 b.scale), clean bs.length)
  let slots := padTo (l.ext - l.slots)
    (bs.flatMap (fun b => bytesOfNat bb (if b.promoted then packBits 4 (promoSlot b.codes) else packBits (fmtWidth f) b.codes)),
     bs.flatMap (fun b => List.replicate bb b.poison))
  let pr := bs.filter (·.promoted)
  let ext := padTo (l.size - l.ext) (pr.flatMap (fun b => bytesOfNat 16 (packBits 4 (promoExt b.codes))),
    pr.flatMap (fun b => List.replicate 16 b.poison))
  joinP (joinP hdr sc) (joinP slots ext)

/-- An MX block's scale as S8 (R104): the limits count, the NaN code raises E_SCALE and poisons the block. -/
def mxLoad (b : KBlk) (m : MvRun) : KBlk × MvRun :=
  match mxToS8 b.scale with
  | none => ({ b with scale := 0, poison := true }, MvRun.softErr eScale { m with poison := true })
  | some (c, lo, hi) =>
    (if lo || hi then { b with
        scale := c, counts := b.counts.add { noCasts with sat := 1 }, flags := b.flags ||| (if lo then 8 else 4) }
      else { b with scale := c }, m)

def mxLoadAll (c : Nat) (bs : List KBlk) (m : MvRun) : List KBlk × MvRun :=
  if mvMx c then bs.foldl (fun a b => let (x, m) := mxLoad b a.2; (a.1 ++ [x], m)) ([], m) else (bs, m)

/-- The FP32 values of a block of a record, and the status its data raise (R180). -/
def kblkValues (f : Fmt) (t : Word) (b : KBlk) (m : MvRun) : List Elem × MvRun :=
  let v := blockValues (kblkFmt f b) t b.scale b.codes b.poison
  (v.elems, match v.err with
    | some c => MvRun.softErr c { m with poison := true }
    | none => m)

def kblkOfCast (c : PromoCast) (bad : Bool) : KBlk :=
  ⟨c.cast.scale, c.cast.codes, c.promoted, bad || c.cast.poison, c.counts, castFlags c.counts⟩

/-- 32 values per block cast into the blocks of a row of code c, the row's first element at index n (R79 to R82, R91,
R105). -/
def castBlocks (c : Nat) (n : Nat) (vs : List (List Elem)) (m : MvRun) : List KBlk :=
  let r := m.dr.getD (tensorRec [])
  let f := mvDev c
  let ws (v : List Elem) : List Word := v.map (fun e => BitVec.ofNat 32 e.1)
  let bad (v : List Elem) : Bool := v.any (·.2)
  if mvMx c then
    vs.zipIdx.map (fun v =>
      let x := castMxBlock f ((List.range 32).map (fun j => mvRnd m (n + 32 * v.2 + j))) ((ws v.1).map f32v)
      let cs : CastCounts := ⟨1, x.clips, x.unders, 0, 0, 0⟩
      ⟨x.scale, x.codes, false, bad v.1 || x.poison, cs, castFlags cs⟩)
  else
    let j := itemJob m.s m.i
    let (ps, _) := castRowBlocks ⟨f, r.kb, r.p, r.tscale⟩ ⟨j.qerr, 0, promoCap r.kb r.p j⟩ (mvRnd m) n (vs.map ws)
    (ps.zip vs).map (fun p => kblkOfCast p.1 (bad p.2))

/-- Blocks decoded with the source record's scale and cast again. Within one format nothing is converted, and no element
draws (entry 38). -/
def recast (n : Nat) (bs : List KBlk) (m : MvRun) : List KBlk × MvRun :=
  let t := (m.sr.getD (tensorRec [])).tscale
  let (vs, m) := bs.foldl (fun a b => let (v, m) := kblkValues (mvDev m.a.sfmt) t b a.2; (a.1 ++ [v], m)) ([], m)
  let a := m.a
  let cs := castBlocks a.dfmt n vs { m with a := { a with round := a.round && decide (a.sfmt ≠ a.dfmt) } }
  ((cs.zip bs).map (fun x => { x.1 with counts := x.2.counts.add x.1.counts, flags := x.2.flags ||| x.1.flags }), m)

/-- The stored blocks of a source row in the destination's format (R270): kept as stored where the formats are one and
the promoted blocks fit; elements kept where one side is the MX form of the other; otherwise decoded and cast. For a row of one
format with more promoted blocks than the destination's P the spec gives no conversion: DESIGN CHOICE (entry 38), the row is
decoded and cast again, to nearest even. -/
def convBlocks (n : Nat) (bs : List KBlk) (m : MvRun) : List KBlk × MvRun :=
  let a := m.a
  let room := (bs.filter (·.promoted)).length ≤ (m.dr.getD (tensorRec [])).p
  if a.sfmt = a.dfmt ∧ (mvMx a.sfmt = true ∨ room) then (bs, m)
  else
    let (bs, m) := mxLoadAll a.sfmt bs m
    if mvDev a.sfmt ≠ mvDev a.dfmt ∨ a.sfmt = a.dfmt then recast n bs m
    else if mvMx a.dfmt then
      bs.zipIdx.foldl (fun acc b =>
        match s8ToMx b.1.scale with
        | some x => if b.1.promoted then
            let (y, m) := recast (n + 32 * b.2) [b.1] acc.2; (acc.1 ++ y, m)
          else (acc.1 ++ [{ b.1 with scale := x }], acc.2)
        | none => let (y, m) := recast (n + 32 * b.2) [b.1] acc.2; (acc.1 ++ y, m)) ([], m)
    else (bs, m)

/-- A destination row from FP32 values or from stored blocks: its bytes in code dfmt. -/
def rowOfBlocks (bs : List KBlk) (m : MvRun) : PBytes :=
  let r := m.dr.getD (tensorRec [])
  rowBytesOf (mvDev m.a.dfmt) r.kb (if mvMx m.a.dfmt then 0 else r.p) bs

/-- A row of FP32 values written in the destination format, element j at index n + j. -/
def rowOfValues (n : Nat) (es : List Elem) (m : MvRun) : PBytes × MvRun :=
  if mvBlk m.a.dfmt then
    let bs := castBlocks m.a.dfmt n (chunksOf 32 (es.length / 32) es) m
    (rowOfBlocks bs m, m.countBlocks bs)
  else
    let (xs, m) := mvConv .fp32 (mvDev m.a.dfmt) n es m
    (elemBytes (mvW m.a.dfmt) xs, m)

/-- A row of stored blocks written in the destination format. -/
def rowOfStored (n : Nat) (bs : List KBlk) (m : MvRun) : PBytes × MvRun :=
  if mvBlk m.a.dfmt then
    let (xs, m) := convBlocks n bs m
    (rowOfBlocks xs m, m.countBlocks xs)
  else
    let t := (m.sr.getD (tensorRec [])).tscale
    let (bs, m) := mxLoadAll m.a.sfmt bs m
    let (vs, m) := bs.foldl (fun a b => let (v, m) := kblkValues (mvDev m.a.sfmt) t b a.2; (a.1 ++ v, m)) ([], m)
    rowOfValues n vs (m.countBlocks bs)

end Sys2Proof.Machine
end

