-- ==== Sys2Proof/Machine/Stair.lean ====
section
/-! DEFINITION. The transforms STAIR, UNSTAIR, PACK and EXPAND (R271, R273 to R278), with the compressed tensors of R136
to R143 and the checks of R152 and R153. -/

namespace Sys2Proof.Machine
open Sys2Proof

/-! ## Images (R273 to R276) -/

/-- A lane of a K-block as an image stores it: its scale, its codes in the stored format, its indices, its poison. -/
structure LaneBlk where
  scale : Nat
  codes : List Nat
  idx : List Nat
  poison : Bool
  deriving DecidableEq, Repr

/-- A K-block of an image: stored wide, its structure (n, m and index bits; none when dense), its lanes. -/
structure ImgBlk where
  wide : Bool
  nm : Option (Nat × Nat × Nat)
  lanes : List LaneBlk
  deriving DecidableEq, Repr

/-- An FP4 code widened exactly to E4M3 (R94). -/
def widenCode (c : Nat) : Nat := (castElem .e4m3 .rne (decodeElem .e2m1 c)).bits

/-- The codes of a block in a K-block stored wide or not (R273). -/
def storedCodes (wide promoted : Bool) (codes : List Nat) : List Nat :=
  if wide && !promoted then codes.map widenCode else codes

/-- The slots of a lane's codes: each slot holds as many elements as its width allows, lower index lower (R274, R275). -/
def laneSlots (f partner : Fmt) (wide : Bool) (l : LaneBlk) : List Elem :=
  let sl := slotOf f partner wide
  let e := 32 / sl.2
  let w := sl.1 / e
  (chunksOf e (l.codes.length / e) l.codes).map (fun x => (packBits w x, l.poison))

/-- The element records: record t holds for lane i its stored slot t − i (R275). -/
def elementRecords (w : Nat) (lanes : List (List Elem)) (slots : Nat) : PBytes :=
  (List.range (slots + 255)).foldl (fun acc t =>
    let at' (i : Nat) : Elem := if t < i then (0, false) else (lanes.getD i []).getD (t - i) (0, false)
    let v := ((List.range lanes.length).map (fun i => (at' i).1 % 2 ^ w * 2 ^ (w * i))).sum
    let bad := (List.range lanes.length).filter (fun i => (at' i).2)
    let ps := (List.range (32 * w)).map (fun b => bad.any (fun i => decide (w * i < 8 * b + 8) && decide (8 * b < w * i + w)))
    joinP acc (bytesOfNat (32 * w) v, ps)) ([], [])

/-- The indices of a lane without kept values: the lowest positions of each group, which are ascending as R152 asks. The spec
does not say what stands there (DESIGN CHOICE, entry 40). -/
def emptyIdx (x : Option (Nat × Nat × Nat)) : List Nat :=
  match x with
  | some (n, q, _) => (List.range (32 / q)).flatMap (fun _ => List.range n)
  | none => []

/-- The K-block record of an image: 256 scales, then the indices of a structured one (R273, R276). -/
def kbRecord (b : ImgBlk) : PBytes :=
  let no := emptyIdx b.nm
  let ib := match b.nm with | some (_, _, ib) => ib | none => 0
  let sc := padTo 256 (b.lanes.map (fun l => BitVec.ofNat 8 l.scale), clean b.lanes.length)
  let n := no.length * ib / 8
  let ix : PBytes := (b.lanes.flatMap (fun l => bytesOfNat n (packBits ib l.idx)),
    b.lanes.flatMap (fun l => List.replicate n l.poison))
  let rest := 256 - b.lanes.length
  joinP sc (joinP ix ((List.range rest).flatMap (fun _ => bytesOfNat n (packBits ib no)), clean (rest * n)))

/-- A feed image from its K-blocks, `ks` their places in the step (R273, R276). -/
def imageOf (f partner : Fmt) (kb : Nat) (ks : List Nat) (bs : List ImgBlk) : PBytes :=
  let w := bs.foldl (fun a b => max a (slotOf f partner b.wide).1) (if bs.isEmpty then (slotOf f partner false).1 else 0)
  let nl := (bs.head?.map (·.lanes.length)).getD 0
  let lanes := (List.range nl).map (fun i =>
    bs.flatMap (fun b => laneSlots f partner b.wide (b.lanes.getD i ⟨0, [], [], false⟩)))
  let slots := (bs.map (fun b =>
    let v := match b.nm with | some (n, q, _) => 32 * n / q | none => 32
    v / (32 / (slotOf f partner b.wide).2))).sum
  let wm := bytesOfNat (bitmapBytes kb) (((ks.zip bs).map (fun p => 2 ^ p.1 * b2n p.2.wide)).sum)
  let head : PBytes := if fmtBlockScaled f then
      bs.foldl (fun a b => joinP a (kbRecord b)) (wm, clean wm.length)
    else ([], [])
  joinP head (elementRecords w lanes slots)

/-- An image that would end beyond its tile memory is refused before it is written. -/
def planImage (sd : Side) (lo : Nat) (x : PBytes) (m : MvRun) : MvRun :=
  match sd with
  | .mem _ mem _ => if memBytes mem < lo + x.1.length then m.refuse eExtent else m.plan sd lo x.1 x.2
  | _ => m.plan sd lo x.1 x.2

/-- The lanes' rows of a dense STAIR: one list of K-blocks for each lane; a BF16 or FP16 row has no scales. -/
def stairRow (sd : Side) (base : Nat) (m : MvRun) (lane : Nat) : List KBlk × MvRun :=
  let r := m.sr.getD (tensorRec [])
  let lo := base + lane * r.rowBytes
  if mvBlk m.a.sfmt then
    let (bs, m) := readBlocks sd m.a.sfmt r lo m.a.ss1 m.a.d1 m
    mxLoadAll m.a.sfmt bs m
  else
    let (d, m) := readSide sd (lo + 64 * m.a.ss1) (64 * m.a.d1) m
    ((List.range m.a.d1).map (fun k =>
      let es := elemsOfBytes 2 32 ((d.1.drop (64 * k)).take 64, (d.2.drop (64 * k)).take 64)
      ⟨0, es.map (·.1), false, es.any (·.2), noCasts, 0⟩), m)

/-- STAIR from dense rows (R273 to R275); `lanes` names the row of each lane. -/
def stairDense (sd : Side) (base : Nat) (dd : Side) (dlo : Nat) (lanes : List Nat) (m : MvRun) : MvRun :=
  let f := mvDev m.a.sfmt
  let partner := (fmtOfCode m.a.d3).getD .fp32
  let (rows, m) := lanes.foldl (fun a l => let (r, m) := stairRow sd base a.2 l; (a.1 ++ [r], m))
    (([] : List (List KBlk)), m)
  let bs := (List.range m.a.d1).map (fun k =>
    let ls := rows.map (fun r => r.getD k kblkZero)
    let wide := ls.any (·.promoted)
    (⟨wide, none, ls.map (fun b => ⟨b.scale, storedCodes wide b.promoted b.codes, [], b.poison⟩)⟩ : ImgBlk))
  planImage dd dlo (imageOf f partner m.a.d1 (List.range m.a.d1) bs) (m.countBlocks (rows.flatMap (fun r => r)))

/-! ## Compressed tensors (R137 to R140, R152) -/

/-- A row of a stored block: its scale, kept codes with their positions in 0 to 31, whether promoted. -/
structure CRow where
  scale : Nat
  kept : List (Nat × Nat)
  promoted : Bool
  deriving DecidableEq, Repr

/-- A stored block: its NM code (0 when dense or escaped), its attributes and its bytes as stored, its rows, whether an index
is out of order, its poison. -/
structure CBlk where
  nm : Nat
  attr : Nat
  bytes : List Byte
  rows : List CRow
  badIdx : Bool
  poison : Bool
  deriving DecidableEq, Repr

/-- The map of a row group: its presence bits and attributes, the place of its first block, whether it failed its
checks, whether it was poisoned. -/
structure RgMap where
  present : List Bool
  attrs : List Nat
  off : Nat
  failed : Bool
  poison : Bool
  deriving DecidableEq, Repr

/-- The header checks of R152 but the list's extent; `pop` is the population of the whole bitmap. -/
def mapFailed (f : Fmt) (count pop : Nat) (present : List Bool) (attrs : List Nat) : Bool :=
  decide (count ≠ pop) ||
    (present.zip attrs).any (fun p =>
      let nm := fld p.2 2 0
      (!p.1 && decide (p.2 ≠ 0)) || decide (4 < nm) || (bitOf p.2 3 && decide (nm = 0)) ||
        (decide (nm ≠ 0) && !fmtBlockScaled f))

/-- Row group g's map from the block map at `base` (R137). -/
def readMap (sd : Side) (base kb g : Nat) (f : Fmt) (m : MvRun) : RgMap × MvRun :=
  let lo := base + g * mapBytes kb
  let (h, m) := readSide sd lo 64 m
  let (b, m) := readSide sd (lo + 64) (bitmapBytes kb) m
  let (x, m) := readSide sd (lo + 64 + bitmapBytes kb) ((kb + 63) / 64 * 64) m
  let pr := (List.range kb).map (bitOf (natOfBytes b.1))
  let at' := (x.1.take kb).map (·.toNat)
  let bad := (h.2 ++ b.2 ++ x.2).any (fun z => z)
  let failed := !bad && mapFailed f (natOfBytes (h.1.take 2)) (countTrue ((List.range (8 * b.1.length)).map (bitOf (natOfBytes b.1)))) pr at'
  (⟨pr, at', natOfBytes ((h.1.drop 4).take 8), failed, bad⟩,
    if failed && m.err.isNone then m.softErr eSparseHeader else m)

/-- The block list would run beyond the tensor's extent. No record states that extent: DESIGN CHOICE (entry 40), it ends with
the tile memory, or with the 2^48 device addresses. -/
def listBeyond (sd : Side) (lo len : Nat) : Bool :=
  match sd with
  | .mem _ mem _ => decide (memBytes mem < lo + len)
  | _ => decide (2 ^ 48 < lo + len)

/-- Bytes of a stored block's parts: mask, scales, values, indices (R139). -/
def blkParts (f : Fmt) (p : Nat) (x : Option (Nat × Nat × Nat)) : Nat × Nat × Nat × Nat :=
  let v := match x with | some (n, q, _) => 32 * n / q | none => 32
  (if 0 < p ∧ fmtBlockScaled f = true then 4 else 0, if fmtBlockScaled f then 32 else 0, 32 * v * fmtWidth f / 8,
    match x with | some (_, _, ib) => 32 * v * ib / 8 | none => 0)

/-- A row of a stored block: its codes, and its positions from the indices of its groups of q. -/
def rowKept (x : Option (Nat × Nat × Nat)) (codes idx : List Nat) : List (Nat × Nat) :=
  match x with
  | none => codes.zipIdx.map (fun c => (c.2, c.1))
  | some (n, q, _) => (codes.zip idx).zipIdx.map (fun c => (q * (c.2 / n) + c.1.2, c.1.1))

/-- The indices of every group are strictly ascending. -/
def idxAscending (n : Nat) (idx : List Nat) : Bool :=
  (chunksOf n (idx.length / n) idx).all (fun g => decide (g.Pairwise (· < ·)))

/-- A block whose row group failed: written dense and as poison, contributing nothing (R153). -/
def failedBlk (f : Fmt) (p : Nat) : CBlk :=
  let (pm, ps, pv, _) := blkParts f p none
  ⟨0, 0, List.replicate (roundUp (pm + ps + pv) 64) 0, List.replicate 32 ⟨0, (List.range 32).map (fun q => (q, 0)), false⟩, false, true⟩

/-- A stored block at lo, and the bytes it takes in the list (R139); none where it would end beyond the tensor's extent. -/
def readStored (sd : Side) (lo : Nat) (f : Fmt) (p attr : Nat) (m : MvRun) : Option (CBlk × Nat) × MvRun :=
  let x := if bitOf attr 3 then none else nmOf (fld attr 2 0)
  let v := match x with | some (n, q, _) => 32 * n / q | none => 32
  let (pm, ps, pv, pi) := blkParts f p x
  if listBeyond sd lo (pm + ps + pv + pi) then (none, m) else
  let (mk, m) := readSide sd lo pm m
  let mask := if f = .e2m1 then natOfBytes mk.1 else 0
  let np := countTrue ((List.range 32).map (bitOf mask))
  let es := 16 * ((v + 31) / 32)
  if listBeyond sd lo (pm + ps + pv + pi + es * np) then (none, m) else
  let (d, m) := readSide sd (lo + pm) (ps + pv + pi + es * np) m
  let rb := v * fmtWidth f / 8
  let row (i : Nat) : CRow × Bool :=
    let pr := bitOf mask i
    let raw := (d.1.drop (ps + i * rb)).take rb
    let j := ((List.range i).filter (bitOf mask)).length
    let ex := (d.1.drop (ps + pv + pi + es * j)).take es
    let codes := if pr then (unpackBits 4 v (natOfBytes raw)).zip (unpackBits 4 v (natOfBytes ex)) |>.map
        (fun c => 16 * c.1 + c.2) else unpackBits (fmtWidth f) v (natOfBytes raw)
    let ib := match x with | some (_, _, b) => b | none => 0
    let idx := unpackBits ib v (natOfBytes ((d.1.drop (ps + pv + i * (v * ib / 8))).take (v * ib / 8)))
    (⟨if ps = 0 then 0 else ((d.1.getD i 0)).toNat, rowKept x codes idx, pr⟩,
      match x with | some (n, _, _) => !idxAscending n idx | none => false)
  let rows := (List.range 32).map row
  (some (⟨if bitOf attr 3 then 0 else fld attr 2 0, attr, (padTo (roundUp (pm + ps + pv + pi + es * np) 64) (joinP mk d)).1, rows.map (·.1), rows.any (·.2), (mk.2 ++ d.2).any (fun b => b)⟩,
    roundUp (pm + ps + pv + pi + es * np) 64), m)

/-- A row's codes at all 32 positions, dropped positions zero (R140). -/
def denseCodes (r : CRow) : List Nat :=
  (List.range 32).map (fun q => (r.kept.foldl (fun a k => if k.1 = q then k.2 else a) 0))

/-- The present blocks of a row group below K-block `top`, from the list at `list`, and its map as checked. -/
def readGroup (sd : Side) (base list kb g p top : Nat) (f : Fmt) (m : MvRun) : RgMap × List (Option CBlk) × MvRun :=
  let (mp, m) := readMap sd base kb g f m
  let (bs, _, beyond, m) := (List.range (min kb top)).foldl
    (fun (a : List (Option CBlk) × Nat × Bool × MvRun) k =>
      let (bs, off, beyond, m) := a
      if !mp.present.getD k false then (bs ++ [none], off, beyond, m)
      else if mp.failed || mp.poison || beyond then (bs ++ [some (failedBlk f p)], off, beyond, m)
      else
        let attr := mp.attrs.getD k 0
        match readStored sd (list + off) f p attr m with
        | (none, m) => (bs ++ [some (failedBlk f p)], off, true, m)
        | (some (b, n), m) => (bs ++ [some b], off + n, beyond, m)) ([], mp.off, false, m)
  if beyond then
    ({ mp with failed := true }, bs.map (fun b => b.map (fun _ => failedBlk f p)),
      if mp.failed then m else m.softErr eSparseHeader)
  else (mp, bs, m)

/-- A block holds an infinity or a NaN (R141); T2 has neither, its reserved code included (R72). -/
def cblkNf (f : Fmt) (b : CBlk) : Bool :=
  f != .t2 && b.rows.any (fun r => r.kept.any (fun c =>
    match decodeElem (if r.promoted then .e4m3 else f) c.2 with | .fin _ _ _ => false | _ => true))

/-! ## STAIR from a compressed tensor (R143, R276) -/

/-- How dense a structure is: 1:4, 2:8, 2:4, 4:8, dense (R146). -/
def nmRank (nm : Nat) : Nat := if nm = 1 then 0 else if nm = 3 then 1 else if nm = 2 then 2 else if nm = 4 then 3 else 4

/-- The densest of a list of NM codes. -/
def densest (nms : List Nat) : Nat := nms.foldl (fun a n => if nmRank a < nmRank n then n else a) (nms.headD 0)

/-- Kept values of one group of q: filled up to n with the lowest unused positions, in ascending order unless the block's
indices were out of order. -/
def fillGroup (n q : Nat) (keepOrder : Bool) (g : List (Nat × Nat)) : List (Nat × Nat) :=
  let unused := (List.range q).filter (fun i => !g.any (fun k => k.1 % q == i))
  let fill := (unused.take (n - g.length)).map (fun i => (i, 0))
  let all := g.map (fun k => (k.1 % q, k.2)) ++ fill
  if keepOrder then all
  else (List.range q).flatMap (fun i => all.filter (fun k => decide (k.1 = i)))

/-- A row's values and indices under a structure, widened from its own (R146). -/
def widenRow (x : Option (Nat × Nat × Nat)) (bad : Bool) (r : CRow) : List Nat × List Nat :=
  match x with
  | none => (denseCodes r, [])
  | some (n, q, _) =>
    let gs := (List.range (32 / q)).flatMap (fun j => fillGroup n q bad (r.kept.filter (fun k => k.1 / q == j)))
    (gs.map (·.2), gs.map (·.1))

/-- The lanes of one present K-block of a tile: zero slots for an absent row group. -/
def groupLanes (x : Option (Nat × Nat × Nat)) (wide : Bool) (b : Option CBlk) : List LaneBlk :=
  let v := match x with | some (n, q, _) => 32 * n / q | none => 32
  match b with
  | none => List.replicate 32 ⟨0, List.replicate v 0, emptyIdx x, false⟩
  | some b => b.rows.map (fun r =>
      let (cs, ix) := widenRow x b.badIdx r
      ⟨r.scale, storedCodes wide r.promoted cs, ix, b.poison⟩)

/-- An image is of B where its tile feeds B only: north-edge tiles feed B, west-edge tiles A. Where the tile feeds both or
neither, nothing in the descriptor says which: DESIGN CHOICE (entry 40), an image in W-mem is of B, any other of A. -/
def forB (s : State) : Side → Bool
  | .mem t mem _ =>
    let c := liveGang s t
    let n := gangSide c.mode
    let l := leaderOf c t
    let north := (List.range n).any (fun x => decide (gangTile l 0 x = t))
    let west := (List.range n).any (fun x => decide (gangTile l x 0 = t))
    if north = west then mem == .wmem else north
  | _ => false

/-- The A-mem of the tile that a destination side lies in. -/
def sideTile (m : MvRun) : Side → TileId
  | .mem t _ _ => t
  | _ => m.t

/-- The map record (R143). -/
def mapRecord (kb dst : Nat) (present : List (List Bool)) (nf : List Bool) (nms : List Nat) (poison : List Bool) :
    List Byte :=
  let bits (l : List Bool) : Nat := (l.zipIdx.map (fun b => 2 ^ b.2 * b2n b.1)).sum
  let orMap := (List.range kb).map (fun k => present.any (fun g => g.getD k false))
  bytesOfNat 4 (dst % 2 ^ 22) ++ bytesOfNat 4 (countTrue orMap % 65536) ++ bytesOfNat 4 (kb % 65536) ++
    bytesOfNat 4 (bits poison) ++ List.replicate 48 0 ++
    ((present ++ List.replicate (8 - present.length) []).flatMap (fun g => bytesOfNat (bitmapBytes kb) (bits g))) ++
    bytesOfNat (bitmapBytes kb) (bits nf) ++
    bytesOfNat ((kb + 127) / 128 * 64) ((nms.zipIdx.map (fun n => 16 ^ n.2 * n.1)).sum)

/-- Bytes of a map record. -/
def mapRecordBytes (kb : Nat) : Nat := 64 + 9 * bitmapBytes kb + (kb + 127) / 128 * 64

/-- STAIR with S_SPARSE (R276): the image of the tile's present K-blocks, and its map record; `groups` names the row groups
of its lanes. A structured block that is expanded, of A or in a dense K-block of B, has its indices checked here; those of any
other block of B the feeder checks (R140, R146, R152). The mover is not told A_BASE or B_BASE: DESIGN CHOICE (entry 40), IMG_OFF is the image's own address, an offset
from a base of 0. -/
def stairSparse (sd : Side) (base : Nat) (dd : Side) (dlo : Nat) (groups : List Nat) (m : MvRun) : MvRun :=
  let a := m.a
  let f := mvDev a.sfmt
  let r := m.sr.getD (tensorRec [])
  let partner := (fmtOfCode a.d3).getD .fp32
  let toB := forB m.s dd
  let (gs, m) := groups.foldl (fun (acc : List (RgMap × List (Option CBlk)) × MvRun) j =>
    let (mp, bs, m) := readGroup sd base (base + r.rowBytes) r.kb j r.p (a.ss1 + a.d1) f acc.2
    (acc.1 ++ [(mp, (bs.drop a.ss1).take a.d1)], m)) ([], m)
  let nmAt (k : Nat) : Nat :=
    if toB then densest ((gs.map (fun g => g.2.getD k none)).filterMap (fun b => b.map (·.nm))) else 0
  let bad (k : Nat) (b : CBlk) : Bool := b.badIdx && (nmOf (nmAt k)).isNone
  let badAt (x : Option CBlk × Nat) : Bool := match x.1 with | some b => bad x.2 b | none => false
  let m := if gs.any (fun g => g.2.zipIdx.any badAt) then m.softErr eSparseIndex else m
  let fails := gs.map (fun g => g.1.failed || g.1.poison || g.2.zipIdx.any badAt)
  let gs := gs.map (fun g => (g.1, g.2.zipIdx.map (fun x => x.1.map (fun b => { b with poison := b.poison || bad x.2 b }))))
  let col (k : Nat) : List (Option CBlk) := gs.map (fun g => g.2.getD k none)
  let ks := (List.range a.d1).filter (fun k => (col k).any (·.isSome))
  let bs := ks.map (fun k =>
    let x := nmOf (nmAt k)
    let wide := (col k).any (fun b => match b with | some y => y.rows.any (·.promoted) | none => false)
    let lanes := ((col k).flatMap (groupLanes x wide)).take (groups.map (fun g => min 32 (a.d0 - 32 * (g - a.ss2)))).sum
    (⟨wide, x, lanes⟩ : ImgBlk))
  let nf := (List.range a.d1).map (fun k => (col k).any (fun b => match b with | some y => cblkNf f y | none => false))
  let prs := gs.map (fun g => g.2.map (·.isSome))
  let rec' := mapRecord a.d1 dlo prs nf ((List.range a.d1).map nmAt) fails
  let m := planImage dd dlo (imageOf f partner a.d1 ks bs) m
  m.plan (.mem (sideTile m dd) .amem false) a.ds1 rec' (clean rec'.length)

/-! ## UNSTAIR (R277) -/

/-- Lanes c that record j of a drain of n rows by w lanes covers: row j − c lies in 0 to n − 1. -/
def coveredLanes (n w j : Nat) : Nat × Nat := (j + 1 - n, min w (j + 1) - (j + 1 - n))

/-- Rows of a ring or ADD region, each record's covered lanes read once. -/
def unstairRows (sd : Side) (base : Nat) (m : MvRun) : List (List Elem) × MvRun :=
  let a := m.a
  let n := a.d1
  let w := a.d0
  let (recs, m) := (List.range (n + w - 1)).foldl (fun (acc : List (Nat × List Elem) × MvRun) j =>
    let (c0, k) := coveredLanes n w j
    let (d, m) := readSide sd (base + 1024 * ((a.ss2 + j) % a.ss1) + 4 * c0) (4 * k) acc.2
    (acc.1 ++ [(c0, elemsOfBytes 4 k d)], m)) ([], m)
  ((List.range n).map (fun r => (List.range w).map (fun c =>
    let x := recs.getD (r + c) (0, [])
    x.2.getD (c - x.1) (0, false))), m)

def unstair (sd : Side) (base : Nat) (dd : Side) (dlo : Nat) (m : MvRun) : MvRun :=
  let (rows, m) := unstairRows sd base m
  rows.zipIdx.foldl (fun m r =>
    let (x, m) := rowOfValues (mvIndex m.dr 0 r.2 0 0 0) r.1 m
    m.plan dd (dlo + r.2 * m.a.ds1) x.1 x.2) m

/-! ## PACK (R278) -/

/-- More than n non-zero values in a group of q (R152). -/
def overfull (x : Option (Nat × Nat × Nat)) (nz : List Bool) : Bool :=
  match x with
  | none => false
  | some (n, q, _) => (chunksOf q (32 / q) nz).any (fun g => decide (n < countTrue g))

/-- The positions stored for a row: its non-zero values, then the lowest unused positions of each group. -/
def packKept (x : Option (Nat × Nat × Nat)) (nz : List Bool) : List Bool :=
  match x with
  | none => List.replicate 32 true
  | some (n, q, _) => (chunksOf q (32 / q) nz).flatMap (fun g =>
      let used := countTrue g
      g.zipIdx.map (fun b =>
        let before := countTrue (g.take b.2)
        if b.1 then decide (before < n) else decide (b.2 - before < n - used)))

def kblkZeroAt (f : Fmt) (b : KBlk) (c : Nat) : Bool := fvIsZero (decodeElem (kblkFmt f b) c)

/-- One block of 32 rows as PACK stores it: nothing when every element is zero. -/
def packBlock (f : Fmt) (p nm : Nat) (rows : List KBlk) : Option (PrunedBlk × Bool) :=
  let x := nmOf nm
  let nz := rows.map (fun b => b.codes.map (fun c => !kblkZeroAt f b c))
  if nz.all (fun r => r.all (fun b => !b)) then none
  else
    let ovf := nz.any (overfull x)
    let b : CastBlk := ⟨(rows.zip nz).map (fun r =>
      ((⟨⟨r.1.scale, r.1.codes, 0, 0, false, r.1.poison⟩, r.1.promoted, false⟩ : PromoCast), packKept x r.2))⟩
    let (bytes, esc) := storeChoice f p nm b
    some (⟨bytes, nm + 8 * b2n esc + 16 * b2n (blockNf f b), esc, ovf || rows.any (·.poison),
      rows.map (·.promoted), noCasts, []⟩, ovf)

/-- PACK (R278). A block is counted with the write that stores it, an absent one with its row group's map (R89, R93). -/
def pack (sd : Side) (base : Nat) (dd : Side) (dlo : Nat) (m : MvRun) : MvRun :=
  let a := m.a
  let sr := m.sr.getD (tensorRec [])
  let dr := m.dr.getD (tensorRec [])
  let kb := dr.kb
  let ng := rowGroupsOf a.d1
  let (rows, m) := (List.range a.d1).foldl (fun (acc : List (List KBlk) × MvRun) r =>
    let (bs, m) := readBlocks sd a.sfmt sr (base + r * a.ss1) 0 kb acc.2
    let (cs, m) := convBlocks (mvIndex m.dr 0 r 0 0 0) bs m
    (acc.1 ++ [cs], m)) ([], m)
  let list := dlo + ng * mapBytes kb
  ((List.range ng).foldl (fun (acc : Nat × MvRun) g =>
    let grp := (List.range 32).map (fun i => rows.getD (32 * g + i) [])
    let bs := (List.range kb).map (fun k => packBlock (mvDev a.dfmt) dr.p a.d3 (grp.map (fun r => r.getD k kblkZero)))
    let m := acc.2
    let m := if bs.any (fun b => match b with | some x => x.2 | none => false)
      then MvRun.softErr eSparseOverfull { m with poison := true } else m
    let col (k : Nat) : List KBlk := grp.map (fun r => r.getD k kblkZero)
    let m := m.countBlocks (((List.range kb).filter (fun k => (bs.getD k none).isNone)).flatMap col)
    let pr := bs.map (·.isSome)
    let lo := dlo + g * mapBytes kb
    let bits := (pr.zipIdx.map (fun b => 2 ^ b.2 * b2n b.1)).sum
    let attrs := bs.map (fun b => match b with | some x => BitVec.ofNat 8 x.1.attr | none => (0 : Byte))
    let hd := padTo 64 (bytesOfNat 4 (countTrue pr) ++ bytesOfNat 8 acc.1, [])
    let mp := hd.1 ++ bytesOfNat (bitmapBytes kb) bits ++ (padTo ((kb + 63) / 64 * 64) (attrs, [])).1
    let m := planImage dd lo (mp, clean mp.length) m
    bs.zipIdx.foldl (fun (acc : Nat × MvRun) b => match b.1 with
      | some x =>
        let n := roundUp x.1.bytes.length 64
        let y := padTo n (x.1.bytes, List.replicate x.1.bytes.length x.1.poison)
        let m := acc.2.countBlocks (col b.2)
        let m := if x.1.escaped then { m with newFlags := m.newFlags ||| 16 } else m
        (acc.1 + n, planImage dd (list + acc.1) y m)
      | none => acc) (acc.1, m)) (0, m)).2

/-! ## COPY of a compressed tensor (R141) -/

/-- The attribute byte of a stored block with NF as its values have it (R138, R141). -/
def attrNf (f : Fmt) (b : CBlk) : Nat := b.attr % 16 + 16 * b2n (cblkNf f b)

/-- Row groups of a compressed tensor moved as stored, NF set or cleared (R141): the maps, then the list, packed in the order
of `groups`. -/
def copySparse (sd : Side) (base : Nat) (dd : Side) (dlo : Nat) (groups : List Nat) (m : MvRun) : MvRun :=
  let r := m.sr.getD (tensorRec [])
  let f := mvDev m.a.sfmt
  let list := dlo + groups.length * mapBytes r.kb
  (groups.zipIdx.foldl (fun (acc : Nat × MvRun) g =>
    let (mp, bs, m) := readGroup sd base (base + rowGroupsOf m.a.d1 * mapBytes r.kb) r.kb g.1 r.p r.kb f acc.2
    let hd := padTo 64 (bytesOfNat 4 (countTrue mp.present) ++ bytesOfNat 8 acc.1, [])
    let bits := (mp.present.zipIdx.map (fun b => 2 ^ b.2 * b2n b.1)).sum
    let attrs := bs.map (fun b => match b with | some x => BitVec.ofNat 8 (attrNf f x) | none => (0 : Byte))
    let rec' := hd.1 ++ bytesOfNat (bitmapBytes r.kb) bits ++ (padTo ((r.kb + 63) / 64 * 64) (attrs, [])).1
    let m := planImage dd (dlo + g.2 * mapBytes r.kb) (rec', List.replicate rec'.length mp.poison) m
    bs.foldl (fun (acc : Nat × MvRun) b => match b with
      | some x => (acc.1 + x.bytes.length,
          planImage dd (list + acc.1) (x.bytes, List.replicate x.bytes.length x.poison) acc.2)
      | none => acc) (acc.1, m)) (0, m)).2

/-! ## EXPAND (R278) -/

/-- EXPAND (R278): an absent block is +0, but every block of a row group that failed is poison (R153). -/
def expand (sd : Side) (base : Nat) (dd : Side) (dlo : Nat) (m : MvRun) : MvRun :=
  let a := m.a
  let sr := m.sr.getD (tensorRec [])
  let ng := rowGroupsOf a.d1
  let f := mvDev a.sfmt
  (List.range ng).foldl (fun m g =>
    let (mp, bs, m) := readGroup sd base (base + ng * mapBytes sr.kb) sr.kb g sr.p sr.kb f m
    let m := if bs.any (fun b => match b with | some x => x.badIdx | none => false)
      then MvRun.softErr eSparseIndex { m with poison := true } else m
    (List.range (min 32 (a.d1 - 32 * g))).foldl (fun m i =>
      let r := 32 * g + i
      let ks := bs.map (fun b => match b with
        | some x =>
          let w := x.rows.getD i ⟨0, [], false⟩
          (⟨w.scale, denseCodes w, w.promoted, x.poison || x.badIdx, noCasts, 0⟩ : KBlk)
        | none => { kblkZero with poison := mp.failed || mp.poison })
      let n := mvIndex m.dr 0 r 0 0 0
      let (y, m) := if mvBlk a.sfmt then rowOfStored n ks m
        else rowOfValues n (ks.flatMap (fun b => b.codes.map (fun c => ((convElem f .fp32 .rne c).bits, b.poison)))) m
      m.plan dd (dlo + r * a.ds1) y.1 y.2) m) m

end Sys2Proof.Machine
end

