-- ==== Sys2Proof/Machine/Feed.lean ====
section
/-! DEFINITION. Array descriptors (R132, R144) and what the array's feeders read: feed images, map records, the run map and
the beats of a step, and the value of an output cell (R94 to R101, R109, R112, R143 to R153, R273 to R276). -/

namespace Sys2Proof.Machine
open Sys2Proof

/-! ## The descriptor (R132, R144) -/

/-- The fields of one operand of an array descriptor. -/
structure OpArgs where
  fmt : Nat
  mem : MemSel
  sparse : Bool
  base : Nat
  stride : Nat
  map : Nat
  tscale : Word
  deriving DecidableEq, Repr

/-- The fields of an array descriptor. -/
structure ArrArgs where
  op : Nat
  a : OpArgs
  b : OpArgs
  add : Bool
  tagEn : Bool
  tagInit : Bool
  layer : Nat
  kb : Nat
  steps : Nat
  drainBase : Nat
  ringTiles : Nat
  rtag : Nat
  expect : Nat
  /-- an RSVD bit is set -/
  rsvd : Bool
  deriving DecidableEq, Repr

def arrWord (ws : List Word) (k : Nat) : Nat := (ws.getD k 0).toNat

def arrArgs (ws : List Word) : ArrArgs :=
  let w (k : Nat) : Nat := arrWord ws k
  let m (i : Nat) : MemSel := if bitOf (w 0) i then .wmem else .amem
  { op := fld (w 0) 7 0
    a := ⟨fld (w 0) 11 8, m 16, bitOf (w 0) 21, fld (w 3) 21 0, fld (w 4) 21 0, fld (w 11) 21 0, ws.getD 9 0⟩
    b := ⟨fld (w 0) 15 12, m 17, bitOf (w 0) 22, fld (w 5) 21 0, fld (w 6) 21 0, fld (w 12) 21 0, ws.getD 10 0⟩
    add := bitOf (w 0) 18, tagEn := bitOf (w 0) 19, tagInit := bitOf (w 0) 20
    layer := fld (w 1) 11 0, kb := fld (w 2) 15 0, steps := fld (w 2) 31 16
    drainBase := fld (w 7) 20 0, ringTiles := fld (w 8) 3 0, rtag := fld (w 8) 11 8, expect := fld (w 8) 23 16
    rsvd := decide (fld (w 0) 31 23 ≠ 0) || decide (fld (w 1) 31 12 ≠ 0) ||
      [3, 4, 5, 6, 11, 12].any (fun k => decide (fld (w k) 31 22 ≠ 0)) || decide (fld (w 7) 31 21 ≠ 0) ||
      decide (fld (w 8) 7 4 ≠ 0) || decide (fld (w 8) 15 12 ≠ 0) || decide (fld (w 8) 31 24 ≠ 0) ||
      [13, 14, 15].any (fun k => decide (w k ≠ 0)) }

/-- An operand's format; reserved codes fail acceptance (R132, R133). -/
def OpArgs.f (o : OpArgs) : Fmt := (fmtOfCode o.fmt).getD .fp32

/-- The format codes are listed and the pair is one of R102. -/
def arrPairOk (a : ArrArgs) : Bool := decide (a.a.fmt ≤ 8) && decide (a.b.fmt ≤ 8) && pairOk a.a.f a.b.f

/-- The slot period q of R109, and the drain period r of R114. -/
def slotPeriod (a : ArrArgs) : Nat := if a.a.f = .bf16 ∨ a.a.f = .fp16 then 4 else 1
def drainPeriod (a : ArrArgs) : Nat := max (slotPeriod a) (if a.add then 2 else 1)

/-! ## The gang's feeding tiles (R20, R108, R110) -/

/-- A feeding tile: its lanes and the gang row or column of its lane 0. -/
structure FeedTile where
  tile : TileId
  lanes : Nat
  first : Nat
  deriving DecidableEq, Repr

/-- The widths of the gang's tile-columns. -/
def gangWidths (s : State) (l : TileId) (n : Nat) : List Nat := (List.range n).map (colWidth s l n)

/-- West-edge tiles feed A, north-edge tiles feed B. -/
def feedTiles (l : TileId) (n : Nat) (widths : List Nat) (isB : Bool) : List FeedTile :=
  (List.range n).map (fun x => if isB then ⟨gangTile l 0 x, widths.getD x 0, (widths.take x).sum⟩
    else ⟨gangTile l x 0, 256, 256 * x⟩)

/-- The tile-column and the lane of a logical column. -/
def laneOfCol : List Nat → Nat → Nat × Nat
  | [], j => (0, j)
  | w :: ws, j => if j < w then (0, j) else let (b, c) := laneOfCol ws (j - w); (b + 1, c)

/-! ## Images (R273 to R276, R143) -/

/-- A K-block stored in an image: its place in the step, wide or not, its structure, its slots and its K-block record. -/
structure ImgK where
  k : Nat
  wide : Bool
  nm : Nat
  slot0 : Nat
  slots : Nat
  record : Nat
  deriving DecidableEq, Repr

/-- One step's operand in one feeding tile. -/
structure TileFeed where
  ft : FeedTile
  mem : MemSel
  f : Fmt
  partner : Fmt
  /-- the image: where it starts, its size, its element records, its W_max, its K-blocks -/
  lo : Nat
  size : Nat
  elems : Nat
  wmax : Nat
  ks : List ImgK
  /-- of a map record: its address and size (0 for a dense operand), NF bits, POISON_RG; the whole record failed its
  check, or was poisoned -/
  mapLo : Nat
  mapSize : Nat
  nf : Nat
  poisonRg : Nat
  /-- the presence bitmaps of the row groups of a compressed operand; none of a dense one -/
  groups : Option (List Nat)
  failed : Bool
  dead : Bool
  deriving DecidableEq, Repr

/-- Kept values per lane of a structure, and its index bits. -/
def keptOf (nm : Nat) : Nat × Nat :=
  match nmOf nm with
  | some (n, q, ib) => (32 * n / q, ib)
  | none => (32, 0)

/-- The K-blocks of an image laid out from `record` on, with the slots before them. -/
def layoutKs (f partner : Fmt) : Nat → Nat → List (Nat × Bool × Nat) → List ImgK × Nat × Nat
  | record, slot0, [] => ([], record, slot0)
  | record, slot0, (k, wide, nm) :: rest =>
    let (v, ib) := keptOf nm
    let n := v / (32 / (slotOf f partner wide).2)
    let (ks, r, t) := layoutKs f partner
      (if fmtBlockScaled f then record + 256 + 256 * (v * ib / 8) else record) (slot0 + n) rest
    (⟨k, wide, nm, slot0, n, record⟩ :: ks, r, t)

/-- A feeding tile's operand of step idx, as its memory holds it. A map record that fails its own check (KB, PRESENT) has no row
group to name: DESIGN CHOICE (entry 40), every lane of its tile is poisoned, and its presence and NF bits are left out of the
panel maps. -/
def tileFeed (s : State) (o : OpArgs) (partner : Fmt) (kb idx : Nat) (ft : FeedTile) : TileFeed :=
  let f := o.f
  let t := ft.tile
  let bm := bitmapBytes kb
  let mlo := o.map + idx * o.stride
  let rec' := if o.sparse then memGet s t .amem mlo (mapRecordBytes kb) else []
  let word (k : Nat) : Nat := natOfBytes ((rec'.drop (4 * k)).take 4)
  let groups := (List.range 8).map (fun g => natOfBytes ((rec'.drop (64 + g * bm)).take bm))
  let orMap := groups.foldl (· ||| ·) 0
  let bad := o.sparse && (memPoison s t .amem mlo (mapRecordBytes kb)).any (fun b => b)
  let failed := o.sparse && !bad && (decide (fld (word 2) 15 0 ≠ kb) ||
    decide (fld (word 1) 15 0 ≠ countTrue ((List.range (8 * bm)).map (bitOf orMap))))
  let lo := if o.sparse then o.base + fld (word 0) 21 0 else o.base + idx * o.stride
  let wm := if fmtBlockScaled f then natOfBytes (memGet s t o.mem lo bm) else 0
  let nmMap := natOfBytes ((rec'.drop (64 + 9 * bm)).take ((kb + 127) / 128 * 64))
  let present := if o.sparse then (if bad || failed then [] else (List.range kb).filter (bitOf orMap)) else List.range kb
  let head := if fmtBlockScaled f then lo + bm else lo
  let (ks, elems, slots) := layoutKs f partner head 0
    (present.map (fun k => (k, bitOf wm k, if o.sparse then nmMap / 16 ^ k % 16 else 0)))
  let w := ks.foldl (fun a b => max a (slotOf f partner b.wide).1) (if ks.isEmpty then (slotOf f partner false).1 else 0)
  let wideBad := fmtBlockScaled f && (memPoison s t o.mem lo bm).any (fun b => b)
  { ft := ft, mem := o.mem, f := f, partner := partner, lo := lo, elems := elems, wmax := w, ks := ks
    size := elems - lo + (slots + 255) * 32 * w
    mapLo := mlo, mapSize := rec'.length
    nf := if bad || failed then 0 else natOfBytes ((rec'.drop (64 + 8 * bm)).take bm)
    poisonRg := if o.sparse then fld (word 3) 7 0 else 0
    groups := if o.sparse then some groups else none
    failed := failed, dead := bad || failed || wideBad }

/-- An image whose actual extent ends beyond its memory (R534). -/
def TileFeed.beyond (x : TileFeed) : Bool := decide (memBytes x.mem < x.lo + x.size)

/-- A K-block of a lane as the feeder presents it: its scale, its 32 values, and what is wrong with it. -/
structure LaneVals where
  scale : Nat
  vals : List FVal
  poison : Bool
  badScale : Bool
  badCode : Bool
  badIdx : Bool
  deriving DecidableEq, Repr

/-- Zeros with scale code 0x00 (R146). -/
def laneZero : LaneVals := ⟨0, List.replicate 32 (.fin false 0 0), false, false, false, false⟩

/-- A slot of a lane: its bits, and whether a byte of it is poisoned (R275). -/
def slotBits (s : State) (x : TileFeed) (w lane slot : Nat) : Nat × Bool :=
  let bit := x.wmax * lane
  let lo := x.elems + (slot + lane) * 32 * x.wmax + bit / 8
  let n := (bit % 8 + w + 7) / 8
  (natOfBytes (memGet s x.ft.tile x.mem lo n) / 2 ^ (bit % 8) % 2 ^ w,
    (memPoison s x.ft.tile x.mem lo n).any (fun b => b))

/-- A lane's row group is marked in POISON_RG, or the tile's map could not be used (R153). -/
def laneDead (x : TileFeed) (lane : Nat) : Bool := x.dead || bitOf x.poisonRg (lane / 32)

/-- Kept values at their positions, the others zero. -/
def placeKept (nm : Nat) (vals : List FVal) (idx : List Nat) : List FVal :=
  match nmOf nm with
  | none => vals
  | some (n, q, _) => (List.range 32).map (fun p =>
      ((vals.zip idx).zipIdx.foldl (fun a c => if c.2 / n = p / q ∧ c.1.2 = p % q then c.1.1 else a) (.fin false 0 0)))

/-- A lane's row group is present at K-block k (R146). -/
def lanePresent (x : TileFeed) (lane k : Nat) : Bool :=
  match x.groups with
  | some gs => bitOf (gs.getD (lane / 32) 0) k
  | none => true

/-- Lane `lane` of K-block k: zeros where its row group is absent. -/
def laneVals (s : State) (x : TileFeed) (lane k : Nat) : LaneVals :=
  if laneDead x lane then { laneZero with poison := true }
  else if !lanePresent x lane k then laneZero
  else match x.ks.find? (fun b => b.k == k) with
    | none => laneZero
    | some b =>
      let sl := slotOf x.f x.partner b.wide
      let e := 32 / sl.2
      let raw := (List.range b.slots).map (fun j => slotBits s x sl.1 lane (b.slot0 + j))
      let codes := raw.flatMap (fun r => unpackBits (sl.1 / e) e r.1)
      let (v, ib) := keptOf b.nm
      let at' (lo n : Nat) : Nat × Bool :=
        (natOfBytes (memGet s x.ft.tile x.mem lo n), (memPoison s x.ft.tile x.mem lo n).any (fun z => z))
      let sc := if fmtBlockScaled x.f then at' (b.record + lane) 1 else (0, false)
      let ix := at' (b.record + 256 + lane * (v * ib / 8)) (v * ib / 8)
      let idx := unpackBits ib v ix.1
      let f := if b.wide then .e4m3 else x.f
      { scale := sc.1
        vals := placeKept b.nm (codes.map (decodeElem f)) idx
        poison := raw.any (·.2) || sc.2 || ix.2
        badScale := fmtBlockScaled x.f && !s8Valid sc.1
        badCode := decide (x.f = .t2) && codes.any (fun c => c == 2)
        badIdx := match nmOf b.nm with | some (n, _, _) => !idxAscending n idx | none => false }

/-! ## The run map and the beats of a step (R112, R145 to R148) -/

/-- The operands of one step over the gang. -/
structure StepFeed where
  a : List TileFeed
  b : List TileFeed
  deriving DecidableEq, Repr

def stepFeed (s : State) (l : TileId) (n : Nat) (widths : List Nat) (g : ArrArgs) (idx : Nat) : StepFeed :=
  ⟨(feedTiles l n widths false).map (tileFeed s g.a g.b.f g.kb idx),
   (feedTiles l n widths true).map (tileFeed s g.b g.a.f g.kb idx)⟩

def TileFeed.has (x : TileFeed) (k : Nat) : Bool := x.ks.any (fun b => b.k == k)
def TileFeed.wideAt (x : TileFeed) (k : Nat) : Bool := x.ks.any (fun b => b.k == k && b.wide)

/-- The structure of K-block k under R146: the densest of the B tiles that store it. -/
def structureAt (bs : List TileFeed) (nf : Bool) (k : Nat) : Nat :=
  if nf then 0 else densest (bs.flatMap (fun x => (x.ks.filter (fun b => b.k == k)).map (·.nm)))

/-- A step's run K-blocks, R_b, D_b and C. -/
structure StepBeats where
  runs : List KRun
  rb : Nat
  db : Nat
  c : Nat
  deriving DecidableEq, Repr

/-- The K-blocks that a step runs and their beats (R145 to R149). An operand fed dense has no NF map, so that a K-block in which it
holds an infinity or a NaN, and which the compressed other operand lacks, is skipped, as R145 says: DEDUCED (entry 40), since R149
asks for the outputs of the dense product. -/
def stepBeats (g : ArrArgs) (x : StepFeed) : StepBeats :=
  let all := x.a ++ x.b
  let nf (k : Nat) : Bool := all.any (fun y => bitOf y.nf k)
  let prom (k : Nat) : Bool := all.any (fun y => y.wideAt k)
  let runs := (List.range g.kb).filter (fun k => nf k ||
    ((!g.a.sparse || x.a.any (·.has k)) && (!g.b.sparse || x.b.any (·.has k))))
  let beta (k : Nat) : Nat := beatsPerBlock g.a.f g.b.f (prom k)
  let krs := runs.map (fun k =>
    let nm := structureAt x.b (nf k) k
    (⟨k, prom k, match nmOf nm with | some (n, q, _) => beta k * n / q | none => beta k, nm⟩ : KRun))
  let rb := (krs.map (·.beats)).sum
  let db := ((List.range g.kb).map beta).sum
  ⟨krs, rb, db, if g.a.sparse || g.b.sparse then max rb ((db + 7) / 8) else db⟩

/-- The codes that the feeders raise for a step: E_FORMAT, E_SCALE, E_SPARSE_INDEX, E_SPARSE_HEADER (R74, R76, R152). An A image
holds no indices (R140), so that the third is B's. -/
def feedCodes (s : State) (x : StepFeed) (runs : List KRun) : List Nat :=
  let all := x.a ++ x.b
  let bad (y : TileFeed) (p : LaneVals → Bool) : Bool :=
    (List.range y.ft.lanes).any (fun i => runs.any (fun r => p (laneVals s y i r.k)))
  (if all.any (fun y => bad y (·.badCode)) then [eFormat] else []) ++
  (if all.any (fun y => bad y (·.badScale)) then [eScale] else []) ++
  (if all.any (fun y => bad y (·.badIdx)) then [eSparseIndex] else []) ++
  (if all.any (·.failed) then [eSparseHeader] else [])

/-- What a lane's data make of the outputs it feeds: a failed block poisons the outputs of its whole row group (R121,
R153). -/
def lanePoison (s : State) (x : TileFeed) (lane : Nat) (runs : List KRun) : Bool :=
  runs.any (fun r =>
    let v := laneVals s x lane r.k
    v.poison || v.badScale || v.badCode ||
      (List.range 32).any (fun i => decide (lane / 32 * 32 + i < x.ft.lanes) &&
        (laneVals s x (lane / 32 * 32 + i) r.k).badIdx)) || laneDead x lane

/-! ## The value of an output cell (R97 to R101, R107, R121) -/

/-- A K-block added to a cell's accumulator. -/
def cellBlock (wide : Bool) (a b : LaneVals) (acc : Word) : Word :=
  if wide then accumWide acc (a.vals.zip b.vals) else accumBlock acc (blockSum (a.vals.zip b.vals)) a.scale b.scale

/-- The accumulator of a cell fed by lane i of x and lane c of y, its K-blocks in ascending order. -/
def cellAcc (s : State) (x y : TileFeed) (i c : Nat) (runs : List KRun) : Word :=
  let wide := decide (x.f = .bf16 ∨ x.f = .fp16)
  runs.foldl (fun acc r => cellBlock wide (laneVals s x i r.k) (laneVals s y c r.k) acc) 0

/-- A drained value with its poison: the accumulator times t_A × t_B (R77, R121). -/
def cellOut (s : State) (g : ArrArgs) (x y : TileFeed) (i c : Nat) (runs : List KRun) : Word × Bool :=
  (f32Mul (cellAcc s x y i c runs) (f32Mul g.a.tscale g.b.tscale),
    lanePoison s x i runs || lanePoison s y c runs)

end Sys2Proof.Machine
end

