-- ==== Sys2Proof/Machine/Mover.lean ====
section
/-! DEFINITION. The data mover's commands (chapter 09): the checks of R291, COPY with its conversions, hems and
predicted fetches, TRANSPOSE, streams, and how a descriptor starts, fails and completes. -/

namespace Sys2Proof.Machine
open Sys2Proof

/-! ## Checks (R291) -/

/-- Both formats are plain: codes 7 to 10. -/
def bothPlain (a : MvArgs) : Bool := !mvBlk a.sfmt && !mvBlk a.dfmt

/-- A transform not permitted for its formats or spaces (R271, R278). COPY takes a compressed tensor only as such, into a
compressed tensor of the same format (DESIGN CHOICE, entry 40). -/
def xformBad (a : MvArgs) : Bool :=
  let sparse := a.sSparse || a.dSparse
  if a.xform = 0 then sparse && (!a.sSparse || !a.dSparse || decide (a.sfmt ≠ a.dfmt) || decide (8 < a.sfmt))
  else if a.xform = 1 then
    sparse || !(bothPlain a || (decide (a.sfmt = a.dfmt) && decide (3 ≤ a.sfmt) && decide (a.sfmt ≤ 5)))
  else if a.xform = 2 then
    a.dSparse || !(decide (a.dspace = 0) || decide (a.dspace = 2) || decide (a.dspace = 4)) ||
      decide (a.sfmt = 9) || decide (a.sfmt = 10) ||
      decide (a.dfmt ≠ if mvMx a.sfmt then a.sfmt - 11 else a.sfmt) || (a.sSparse && mvMx a.sfmt) ||
      (match fmtOfCode a.d3 with | some f => !pairOk (mvDev a.sfmt) f | none => true)
  else if a.xform = 3 then
    sparse || !(decide (a.sspace = 1) || (decide (a.sspace = 4) && decide (fld a.src 23 22 = 1))) || decide (a.sfmt ≠ 9)
  else if a.xform = 4 then a.sSparse || !mvBlk a.sfmt || decide (6 < a.dfmt) || decide (4 < a.d3)
  else if a.xform = 5 then a.dSparse || decide (8 < a.sfmt)
  else true

def formatBad (t : TileId) (a : MvArgs) : Bool :=
  decide (a.op = 0) || decide (3 < a.op) || decide (5 < a.xform) || decide (5 < a.sspace) || decide (5 < a.dspace) ||
    decide (a.rsvd ≠ 0) || (sideOf t a.sspace a.src a.splt false).isNone || (sideOf t a.dspace a.dst a.dplt true).isNone ||
    (a.addSrc && !(decide (a.op = 1) && decide (a.xform = 3))) ||
    (a.wide && !(decide (a.op = 1) && decide (a.xform = 0) && bothPlain a && !a.sSparse)) || (decide (a.op = 1) && xformBad a)

/-- Conversion takes place under a transform. -/
def converts (a : MvArgs) : Bool := decide (a.xform ≠ 2) && decide (a.sfmt ≠ a.dfmt)

/-- FP32 and INT32 convert without record, seed or count (R270). -/
def intPair (a : MvArgs) : Bool :=
  (decide (a.sfmt = 9) && decide (a.dfmt = 10)) || (decide (a.sfmt = 10) && decide (a.dfmt = 9))

/-- A conversion that draws when ROUND is set: into any format but FP32 and INT32. -/
def draws (a : MvArgs) : Bool := a.round && converts a && decide (a.dfmt ≠ 9) && decide (a.dfmt ≠ 10)

/-- The sides that are moved in block rows under the transform. -/
def srcBlk (a : MvArgs) : Bool := mvBlk a.sfmt && decide (a.xform ≠ 1)
def dstBlk (a : MvArgs) : Bool := mvBlk a.dfmt && decide (a.xform ≠ 1) && decide (a.xform ≠ 2)

def needsS (a : MvArgs) (pred : Bool) : Bool := srcBlk a || decide (a.xform = 2) || decide (a.xform = 5) || a.whole || pred
def needsD (a : MvArgs) : Bool :=
  dstBlk a || (a.round && converts a && !intPair a) || (decide (a.hem = 1) && a.hems) || decide (a.xform = 4)

/-- A used tensor scale is not positive, finite and normal. -/
def scaleBad (a : MvArgs) (sr dr : RecRead) : Bool :=
  let bad (r : RecRead) : Bool := match r with | .ok x => !tscaleOk x.tscale | _ => false
  decide (a.op = 1) && ((srcBlk a && decide (a.xform ≠ 2) && bad sr) || (dstBlk a && !mvMx a.dfmt && bad dr))

/-- The block-row rules of R267 for one side: D0 = 32 × KB, and its stride in dimension 1 is ROW_BYTES. -/
def blockRowsBad (a : MvArgs) (s1 : Nat) (r : RecRead) : Bool :=
  match r with
  | .ok x => decide (a.d0 ≠ 32 * x.kb) || decide (s1 ≠ x.rowBytes)
  | _ => false

def unusedBad (a : MvArgs) (pred : Bool) : Bool :=
  if a.xform = 2 then decide (a.d2 ≠ 1) || decide (a.d4 ≠ 1)
  else if a.xform = 3 then decide (a.d2 ≠ 1) || decide (a.d3 ≠ 1) || decide (a.d4 ≠ 1)
  else if a.xform = 4 then decide (a.d2 ≠ 1) || decide (a.d4 ≠ 1)
  else if a.xform = 5 ∨ a.whole then decide (a.d2 ≠ 1) || decide (a.d3 ≠ 1) || decide (a.d4 ≠ 1)
  else pred && decide (a.d4 ≠ 1)

/-- A size of 0; D3 of STAIR and PACK is no size. -/
def sizeZero (a : MvArgs) : Bool :=
  decide (a.d0 = 0) || decide (a.d1 = 0) || decide (a.d2 = 0) || decide (a.d4 = 0) ||
    (decide (a.d3 = 0) && decide (a.xform ≠ 2) && decide (a.xform ≠ 4))

/-- The hem rules of R279, and a core element outside the declared extent (R280). -/
def hemBad (a : MvArgs) (dr : RecRead) : Bool :=
  (a.hems && (decide (a.xform ≠ 0) || mvBlk a.sfmt || mvBlk a.dfmt)) ||
  (a.hems && decide (a.hem = 3) && (decide (a.d1 ≤ max a.hb1 a.ha1) || decide (a.d2 ≤ max a.hb2 a.ha2))) ||
  (match dr with
   | .ok r => decide (a.xform = 0) && r.extEn && (decide (0 < r.ext1lo) || decide (r.ext1hi < (a.d1 : Int)) ||
       decide (0 < r.ext2lo) || decide (r.ext2hi < (a.d2 : Int)))
   | _ => false)

/-- The ring that an UNSTAIR reads, when its source is the current STORE ring of the tile it names (R277). -/
def currentRing (s : State) (a : MvArgs) (src : Side × Nat) : Option Ring :=
  match src.1 with
  | .mem x _ _ =>
    let r := s.tiles[x].mnt.ring
    if !a.addSrc && decide (a.xform = 3) && r.opened && decide (r.base = src.2) then some r else none
  | _ => none

/-- The RELEASE rules of R277. -/
def releaseBad (s : State) (t : TileId) (a : MvArgs) (src : Side × Nat) : Bool :=
  a.release && (match src.1, currentRing s a src with
    | .mem x _ _, some r => decide (x ≠ t) || decide (a.ss2 % 2 ^ 24 ≠ r.released % 2 ^ 24)
    | _, _ => true)

/-- The rules of R277, R279 and R291 for a stream's descriptor; those of R267 for a pattern in block rows. -/
def streamShapeBad (a : MvArgs) (sr : RecRead) : Bool :=
  sizeZero { a with xform := 0 } || a.hems || a.release ||
    (decide (a.op = 2) && (decide (a.sspace ≠ 3) || (mvBlk a.sfmt && (sr.absent || blockRowsBad a a.ss1 sr))))

/-- The records of a compressed tensor moved as such: D0 = 32 × KB, and a destination record of the same KB and P. -/
def wholeBad (a : MvArgs) (sr dr : RecRead) : Bool :=
  (match sr with | .ok x => decide (a.d0 ≠ 32 * x.kb) | _ => false) ||
    (match sr, dr with
     | .ok x, .ok y => decide (x.kb ≠ y.kb) || decide (x.p ≠ y.p)
     | _, _ => false)

def shapeBad (s : State) (t : TileId) (a : MvArgs) (pred : Bool) (sr dr : RecRead) (src : Side × Nat) : Bool :=
  if a.op ≠ 1 then streamShapeBad a sr
  else
    sizeZero a || unusedBad a pred || (needsS a pred && sr.absent) || (needsD a && dr.absent) ||
    ((decide (a.xform = 0 ∧ ¬ a.whole) || decide (a.xform = 4)) && srcBlk a && blockRowsBad a a.ss1 sr) ||
    (a.whole && wholeBad a sr dr) ||
    ((decide (a.xform = 0 ∧ ¬ a.whole) || decide (a.xform = 3) || decide (a.xform = 5)) && dstBlk a && blockRowsBad a a.ds1 dr) ||
    (decide (a.xform = 4 ∨ a.xform = 5) && (match sr, dr with
      | .ok x, .ok y => decide (x.kb ≠ y.kb)
      | _, _ => false)) ||
    (decide (a.xform = 5) && (match sr with | .ok x => decide (a.d0 ≠ 32 * x.kb) | _ => false)) ||
    hemBad a dr || releaseBad s t a src || (decide (a.xform = 2) && decide (256 < a.d0)) ||
    (decide (a.xform = 3) && (decide (a.ss1 = 0) || (decide (256 < a.d0) && !dstBlk a) || decide (256 < a.d0))) ||
    (decide (a.xform = 2) && (match sr with | .ok x => mvBlk a.sfmt && decide (x.kb < a.ss1 + a.d1) | _ => false))

/-- A stream slot of the issuing quadrant. -/
def streamAt (s : State) (q : QuadId) (n : Nat) : Option StreamSt := fget (fun _ => none) s.quads[q].streams n

def ownsStream (k : ItemKey) (job : BitVec 6) (x : StreamSt) : Bool := decide (x.part = k.part) && decide (x.job = job)

/-- A stream slot misused (R287). -/
def slotBad (s : State) (q : QuadId) (i : Item) (a : MvArgs) : Bool :=
  match streamAt s q a.sh with
  | none => decide (a.op = 1) && a.useStream
  | some x => decide (a.op = 2) || ((decide (a.op = 3) || a.useStream) && !ownsStream i.key i.job x)

def outsidePartition (s : State) (p : Fin 4) (space : Nat) (g : Side) : Bool :=
  match g with
  | .mem x _ _ => decide (space = 4) && decide (partOfTile s x ≠ p)
  | _ => false

/-- Space 4 names a retired tile (R499). -/
def retiredSide (s : State) (space : Nat) (g : Side) : Bool :=
  match g with
  | .mem x _ _ => decide (space = 4) && s.tiles[x].retired
  | _ => false

/-- A base or a stride that is no multiple of the access width (R256); in the wide view a length or a pleat too. -/
def geoAlignBad (wide : Bool) (g : Geo) : Bool :=
  decide (g.base % g.width ≠ 0) || g.dims.any (fun d => decide (d.2 % g.width ≠ 0)) ||
    (match g.side, wide with
     | .mem _ _ plt, true => plt || decide (g.run % 2048 ≠ 0)
     | _, _ => false)

/-- A region beyond its memory, a W-mem write of part of a line, or an offset beyond its owner table. -/
def geoExtentBad (r : Option TRec) (dst : Bool) (g : Geo) : Bool :=
  match g.side, r with
  | .mem _ m _, _ => decide (memBytes m < g.hi) || (dst && m == .wmem && decide (g.run % 64 ≠ 0))
  | .owner _, some x =>
    decide (x.rowBytes = 0) || (x.otEn && (runStarts g.dims).any (fun o =>
      (ownPieces x g.run (g.base + o) g.run).any (fun p => ownBeyond x p.1)))
  | _, _ => false

/-- The two sides' bounding ranges overlap in one memory or one virtual address range (R281). -/
def geosOverlap (x y : Geo) : Bool :=
  (match x.side, y.side with
   | .mem t m _, .mem u n _ => decide (t = u) && m == n
   | .va, .va => true
   | _, _ => false) && decide (x.base < y.hi) && decide (y.base < x.hi)

/-- A plain copy (R281). Under PREDICT the fourth stride fields are addresses (R285). -/
def plainCopy (a : MvArgs) (pred : Bool) : Bool :=
  decide (a.xform = 0) && decide (a.sfmt = a.dfmt) && !a.hems && decide (a.ss1 = a.ds1) && decide (a.ss2 = a.ds2) &&
    decide (a.ss3 = a.ds3) && (pred || decide (a.ss4 = a.ds4))

/-- The in-place transpose of R282. -/
def inPlace (a : MvArgs) (x y : Geo) : Bool :=
  match x.side with
  | .mem _ m _ =>
    let row := 64 * memBanks m
    decide (a.xform = 1) && decide (x.base = y.base) && a.splt && a.dplt && decide (mvW a.sfmt = 4) &&
      decide (mvW a.dfmt = 4) && decide (a.d0 = a.d1) && decide (a.d0 % 16 = 0) && decide (a.d0 / 16 ≤ memBanks m) &&
      decide (a.ss1 = row) && decide (a.ds1 = row) && decide (x.base % row = 0)
  | _ => false

/-- A space-5 table check of R284. -/
def ownerBad (g : Geo) (r : Option TRec) : Bool :=
  match g.side, r with
  | .owner _, some x => !x.otEn || decide (x.otBase % 64 ≠ 0)
  | .owner _, none => true
  | _, _ => false

/-! ## Hems (R279, R280) -/

/-- The coordinate of a hem element folded onto the core. -/
def foldCoord (hem : Nat) (c : Int) (n : Nat) : Nat :=
  if hem = 3 then (if c < 0 then -c else if (n : Int) ≤ c then 2 * ((n : Int) - 1) - c else c).toNat
  else (min (max c 0) ((n : Int) - 1)).toNat

/-- The destination runs of a COPY, as (d1, d2, d3, d4) in destination coordinates. -/
def dstRuns (a : MvArgs) (n1 : Nat) : List (Nat × Nat × Nat × Nat) :=
  let e1 := n1 + a.hb1 + a.ha1
  let e2 := a.d2 + a.hb2 + a.ha2
  (List.range (e1 * e2 * a.d3 * a.d4)).map (fun x => (x % e1, x / e1 % e2, x / e1 / e2 % a.d3, x / e1 / e2 / a.d3))

def isCore (a : MvArgs) (n1 : Nat) (x : Nat × Nat × Nat × Nat) : Bool :=
  decide (a.hb1 ≤ x.1) && decide (x.1 < a.hb1 + n1) && decide (a.hb2 ≤ x.2.1) && decide (x.2.1 < a.hb2 + a.d2)

def runOffset (a : MvArgs) (pred : Bool) (x : Nat × Nat × Nat × Nat) : Nat :=
  x.1 * a.ds1 + x.2.1 * a.ds2 + x.2.2.1 * a.ds3 + x.2.2.2 * (if pred then 0 else a.ds4)

/-- The owner-table blocks that core elements lie in. -/
def coreBlocks (a : MvArgs) (pred : Bool) (n1 dlo len : Nat) (r : TRec) : List Nat :=
  ((dstRuns a n1).filter (isCore a n1)).flatMap (fun x =>
    (ownPieces r len (dlo + runOffset a pred x) len).map (fun p => ownEntry r p.1))

/-- The pieces of a hem run that may be written, and the bytes of it that cover a neighbour's valid data. -/
def hemPieces (dd : Side) (core : List Nat) (lo len : Nat) (x : Nat × Nat × Nat × Nat) (m : MvRun) :
    (List (Nat × Nat) × Nat) × MvRun :=
  let c1 : Int := (x.1 : Int) - m.a.hb1
  let c2 : Int := (x.2.1 : Int) - m.a.hb2
  let ext := match m.dr with
    | some r => r.extEn && !(decide (r.ext1lo ≤ c1) && decide (c1 < r.ext1hi) && decide (r.ext2lo ≤ c2) && decide (c2 < r.ext2hi))
    | none => false
  if ext then (([], len), m)
  else match dd, m.dr with
    | .owner _, some r =>
      (ownPieces r len lo len).foldl (fun (acc : (List (Nat × Nat) × Nat) × MvRun) p =>
        let (e, m) := ownRead true r (ownEntry r p.1) acc.2
        if bitOf e 18 && !core.contains (ownEntry r p.1) then ((acc.1.1, acc.1.2 + p.2), m)
        else ((acc.1.1 ++ [p], acc.1.2), m)) (([], 0), m)
    | _, _ => (([(lo, len)], 0), m)

/-! ## Predicted fetches (R156 to R159, R285) -/

/-- PREDICT is honoured. -/
def predicts (s : State) (t : TileId) (a : MvArgs) : Bool :=
  a.predict && decide (a.op = 1) && (decide (a.xform = 0) || decide (a.xform = 2)) && bitOf (reg s (dmv t) Off.dmvPredCtrl) 0

/-- The weight's rows. R285 counts them by D1, which STAIR uses for KB: DESIGN CHOICE (entry 40), under STAIR they are the rows
of its D0 lanes. -/
def predRows (a : MvArgs) : Nat :=
  if a.xform = 2 then a.d0 else a.d1

def guarded (u g : Nat) : Bool := decide ((u + 1) * g / 256 ≠ u * g / 256)

/-- The neuron map and the gather list lie in A-mem. -/
def predExtentBad (a : MvArgs) : Bool :=
  decide (memBytes .amem < a.ss4 + 64) || decide (memBytes .amem < a.ds4 + roundUp (2 * rowGroupsOf (predRows a)) 64)

/-- The row groups that a transform takes when none is predicted: a compressed STAIR names its first by SS2 (R271). -/
def rowGroups (a : MvArgs) : List Nat :=
  let g0 := if a.xform = 2 ∧ a.sSparse then a.ss2 else 0
  (List.range (rowGroupsOf (predRows a))).map (fun j => g0 + j)

/-- The row groups to fetch: those that the neuron map names, or all of them; the gather list is planned and the
predictor's counters count. A poisoned map record counts as one whose VALID is 0 (DESIGN CHOICE, entry 40: the spec does not say
what it does). -/
def predGroups (m : MvRun) : List Nat × MvRun :=
  let all := rowGroups m.a
  let hi := m.readHi
  let am : Side := .mem m.t .amem false
  let (h, m) := readSide am m.a.ss4 64 m
  let w0 := natOfBytes (h.1.take 4)
  let u := natOfBytes ((h.1.drop 4).take 2)
  let nb := bitmapBytes (fld w0 31 16)
  if memBytes .amem < m.a.ss4 + 64 + nb then (all, m.refuse eExtent)
  else
    let (b, m) := readSide am (m.a.ss4 + 64) nb m
    let valid := bitOf w0 0 && !(h.2 ++ b.2).any (fun x => x)
    let g := guarded u (fld (reg m.s (dmv m.t) Off.dmvPredCtrl) 15 8)
    let pred := valid && !g
    let gs := if pred then all.filter (bitOf (natOfBytes b.1)) else all
    let list := padTo (roundUp (2 * gs.length) 64) (gs.flatMap (fun k => bytesOfNat 2 k), clean (2 * gs.length))
    let m := m.plan am m.a.ds4 list.1 list.2
    let s := if pred then
        bump (dmv m.t) Off.dmvPredRgFetch gs.length (bump (dmv m.t) Off.dmvPredRgFull all.length m.s)
      else if valid then bump (dmv m.t) Off.dmvPredGuarded 1 m.s else m.s
    (gs, { m with s := s, readHi := hi, flags := if pred then m.flags ||| 32 else m.flags })

/-- The source rows of a COPY or the lanes of a STAIR. -/
def sourceRows (pred : Bool) (m : MvRun) : List Nat × MvRun :=
  let n := predRows m.a
  if pred then
    let (gs, m) := predGroups m
    (gs.flatMap (fun g => (List.range (min 32 (n - 32 * g))).map (fun i => 32 * g + i)), m)
  else (List.range n, m)

/-- Whether any hem element covers a neighbour's valid data, over as many rows as the descriptor takes. -/
def hemCovers (dd : Side) (dlo : Nat) (pred : Bool) (m : MvRun) : Bool × MvRun :=
  if !m.a.hems then (false, m)
  else
    let n1 := (sourceRows pred m).1.length
    let len := m.a.d0 * mvW m.a.dfmt
    let core := match dd, m.dr with | .owner _, some r => coreBlocks m.a pred n1 dlo len r | _, _ => []
    ((dstRuns m.a n1).filter (fun x => !isCore m.a n1 x)).foldl (fun acc x =>
      let (y, m) := hemPieces dd core (dlo + runOffset m.a pred x) len x acc.2
      (acc.1 || decide (0 < y.2), m)) (false, m)

/-! ## COPY and TRANSPOSE -/

/-- Source runs of the four outer dimensions: row j of dimension 1 is `rows[j]`. -/
def srcOffset (pred : Bool) (m : MvRun) (row c2 c3 c4 : Nat) : Nat :=
  let s1 := if pred then (m.sr.getD (tensorRec [])).rowBytes else m.a.ss1
  row * s1 + c2 * m.a.ss2 + c3 * m.a.ss3 + c4 * (if pred then 0 else m.a.ss4)

/-- Every source row read, dimension 1 fastest. -/
def readRows (sd : Side) (base : Nat) (pred : Bool) (rows : List Nat) (m : MvRun) : List (List Elem) × MvRun :=
  let w := mvW m.a.sfmt
  let n1 := rows.length
  (List.range (n1 * m.a.d2 * m.a.d3 * m.a.d4)).foldl (fun (acc : List (List Elem) × MvRun) x =>
    let o := srcOffset pred m (rows.getD (x % n1) 0) (x / n1 % m.a.d2) (x / n1 / m.a.d2 % m.a.d3) (x / n1 / m.a.d2 / m.a.d3)
    let (d, m) := readSide sd (base + o) (m.a.d0 * w) acc.2
    (acc.1 ++ [elemsOfBytes w m.a.d0 d], m)) ([], m)

/-- The value of a constant or zero hem element (R279). -/
def hemElem (m : MvRun) : Nat :=
  let v := (m.dr.getD (tensorRec [])).hemValue
  if m.a.hem = 0 then 0
  else if m.a.dfmt = 10 then v else (convElem .fp32 (mvDev m.a.dfmt) .rne v).bits

/-- COPY of plain formats, with conversion and hems (R270, R279, R280). -/
def copyPlain (sd : Side) (base : Nat) (dd : Side) (dlo : Nat) (pred : Bool) (rows : List Nat) (m : MvRun) : MvRun :=
  let a := m.a
  let n1 := rows.length
  let w := mvW a.dfmt
  let len := a.d0 * w
  let (src, m) := readRows sd base pred rows m
  let core := src.zipIdx.map (fun r =>
    let x := r.2
    let n := mvIndex m.dr 0 (x % n1 + a.hb1) (x / n1 % a.d2 + a.hb2) (x / n1 / a.d2 % a.d3) (x / n1 / a.d2 / a.d3)
    convRun (mvDev a.sfmt) (mvDev a.dfmt) n r.1 m)
  let at' (c1 c2 c3 c4 : Nat) : List Elem × CastCounts :=
    core.getD (((c4 * a.d3 + c3) * a.d2 + c2) * n1 + c1) ([], noCasts)
  let blocks := match dd, m.dr with | .owner _, some r => if a.hems then coreBlocks a pred n1 dlo len r else [] | _, _ => []
  (dstRuns a n1).foldl (fun m x =>
    let lo := dlo + runOffset a pred x
    if isCore a n1 x then
      let e := at' (x.1 - a.hb1) (x.2.1 - a.hb2) x.2.2.1 x.2.2.2
      let b := elemBytes w e.1
      (m.count e.2).plan dd lo b.1 b.2
    else
      let es := if a.hem < 2 then List.replicate a.d0 (hemElem m, false)
        else (at' (foldCoord a.hem ((x.1 : Int) - a.hb1) n1) (foldCoord a.hem ((x.2.1 : Int) - a.hb2) a.d2) x.2.2.1 x.2.2.2).1
      let b := elemBytes w es
      let (y, m) := hemPieces dd blocks lo len x m
      let m := { m with s := bump (dmv m.t) Off.dmvHemMasked (y.2 / w) m.s }
      y.1.foldl (fun m p => m.plan dd p.1 ((b.1.drop (p.1 - lo)).take p.2) ((b.2.drop (p.1 - lo)).take p.2)) m) m

/-- COPY with a block-scaled side: row by row (R267, R270). -/
def copyRows (sd : Side) (base : Nat) (dd : Side) (dlo : Nat) (pred : Bool) (rows : List Nat) (m : MvRun) : MvRun :=
  let a := m.a
  let n1 := rows.length
  let sr := m.sr.getD (tensorRec [])
  let raw := decide (a.sfmt = a.dfmt) && decide (rowSize a.sfmt sr = rowSize a.dfmt (m.dr.getD (tensorRec []))) &&
    (mvMx a.sfmt || decide (sr.p = (m.dr.getD (tensorRec [])).p))
  (List.range (n1 * a.d2 * a.d3 * a.d4)).foldl (fun m x =>
    let c1 := x % n1
    let c2 := x / n1 % a.d2
    let c3 := x / n1 / a.d2 % a.d3
    let c4 := x / n1 / a.d2 / a.d3
    let lo := base + srcOffset pred m (rows.getD c1 0) c2 c3 c4
    let n := mvIndex m.dr 0 c1 c2 c3 c4
    let (b, m) :=
      if raw then readSide sd lo (rowSize a.sfmt sr) m
      else if mvBlk a.sfmt then
        let (bs, m) := readBlocks sd a.sfmt sr lo 0 sr.kb m
        rowOfStored n bs m
      else
        let w := mvW a.sfmt
        let (d, m) := readSide sd lo (a.d0 * w) m
        rowOfValues n ((elemsOfBytes w a.d0 d).map (fun e => ((convElem (mvDev a.sfmt) .fp32 .rne e.1).bits, e.2))) m
    m.plan dd (dlo + runOffset a pred (c1, c2, c3, c4)) b.1 b.2) m

/-- TRANSPOSE (R271). -/
def transpose (sd : Side) (base : Nat) (dd : Side) (dlo : Nat) (m : MvRun) : MvRun :=
  let a := m.a
  let (src, m) := readRows sd base false (List.range a.d1) m
  (List.range (a.d0 * a.d2 * a.d3 * a.d4)).foldl (fun m x =>
    let i0 := x % a.d0
    let c2 := x / a.d0 % a.d2
    let c3 := x / a.d0 / a.d2 % a.d3
    let c4 := x / a.d0 / a.d2 / a.d3
    let es := (List.range a.d1).map (fun i1 => (src.getD (((c4 * a.d3 + c3) * a.d2 + c2) * a.d1 + i1) []).getD i0 (0, false))
    let (ys, m) := mvConv (mvDev a.sfmt) (mvDev a.dfmt) (mvIndex m.dr 0 i0 c2 c3 c4) es m
    let b := elemBytes (mvW a.dfmt) ys
    m.plan dd (dlo + i0 * a.ds1 + c2 * a.ds2 + c3 * a.ds3 + c4 * a.ds4) b.1 b.2) m

/-- The transform of a checked MOVE: its plan. -/
def transform (sd : Side) (base : Nat) (dd : Side) (dlo : Nat) (pred : Bool) (m : MvRun) : MvRun :=
  let a := m.a
  if a.xform = 1 then transpose sd base dd dlo m
  else if a.xform = 2 then
    if a.sSparse then
      let (gs, m) := if pred then predGroups m else (rowGroups a, m)
      stairSparse sd base dd dlo gs m
    else
      let (rows, m) := sourceRows pred m
      stairDense sd base dd dlo rows m
  else if a.xform = 3 then unstair sd base dd dlo m
  else if a.xform = 4 then pack sd base dd dlo m
  else if a.xform = 5 then expand sd base dd dlo m
  else if a.sSparse then
    let (gs, m) := if pred then predGroups m else (rowGroups a, m)
    copySparse sd base dd dlo gs m
  else
    let (rows, m) := sourceRows pred m
    if bothPlain a then copyPlain sd base dd dlo pred rows m else copyRows sd base dd dlo pred rows m

/-! ## Streams (R287 to R289) -/

/-- The lines of a pattern in the order of first touch. -/
def patternLines (a : MvArgs) (run : Nat) : List Nat :=
  let starts := runStarts [(a.d1, a.ss1), (a.d2, a.ss2), (a.d3, a.ss3), (a.d4, a.ss4)]
  (starts.flatMap (fun o => (piecesOf 128 (a.src + o) run).map (fun p => p.1 / 128))).eraseDups

def setStream (q : QuadId) (n : Nat) (x : Option StreamSt) (s : State) : State :=
  modQuad q (fun y => { y with streams := fset (fun _ => none) y.streams n x }) s

/-! ## A descriptor starts, fails, completes (R263, R264, R291, R292) -/

/-- A descriptor gone: it leaves the mover and its token becomes free. -/
def dropDesc (t : TileId) (serial : Nat) (s : State) : State :=
  s |> modMov t (fun m => { m with active := m.active.filter (fun d => decide (d.serial ≠ serial)) })
    |> freeTokens t (fun h => decide (h.eng = .mover) && decide (h.serial = serial)) |> clearReserve

/-- A descriptor fails: DMV_LAST_ERR, its token, its item (R264). -/
def mvFail (t : TileId) (d : MvDesc) (code : Nat) (s : State) : State :=
  s |> moveLastErr t d.key code (hword d.words 0) |> dropDesc t d.serial |> failItem d.key t code (dmv t)

/-- A named record read from A-mem. -/
def readRecord (t : TileId) (i : Item) (line : Nat) (s : State) : (RecRead × Bool) × State :=
  if line = 0 then ((.none, false), s)
  else if memBytes .amem < 64 * line + 128 then ((.beyond, false), s)
  else
    let (d, s) := tmRead ⟨t, .amem, dmv t, i.key.item.toNat, false, 2⟩ (64 * line) 128 s
    ((.ok (tensorRec (wordsOfBytes 32 d.1)), d.2.any (fun b => b)), s)

/-- Alignment of the A-mem addresses that a descriptor holds in stride fields. The neuron map and the gather list are no whole wide
rows, so the wide view does not reach them (R243, R272). -/
def fieldAlignBad (a : MvArgs) (pred : Bool) (sr : RecRead) : Bool :=
  (pred && (a.wide || decide (a.ss4 % 64 ≠ 0) || decide (a.ds4 % 64 ≠ 0))) ||
    (decide (a.op = 1) && decide (a.xform = 2) && a.sSparse && (decide (a.ds1 % 64 ≠ 0) ||
      (match sr with | .ok r => decide (r.rowBytes % 64 ≠ 0) | _ => false)))

/-- Every check of R291 in its order: the status of the first that fails. -/
def mvCheck (sr dr : RecRead) (sd : Side) (base : Nat) (dd : Side) (dlo : Nat) (pred : Bool) (m : MvRun) :
    Option Nat × MvRun :=
  let a := m.a
  let gs := widen a.wide (srcGeo a pred sd base m.sr)
  let gd := widen a.wide (dstGeo a pred dd dlo m.dr)
  let move := decide (a.op = 1)
  let (cov, m) := if move then hemCovers dd dlo pred m else (false, m)
  (firstFail [
    (scaleBad a sr dr, eScale),
    (shapeBad m.s m.t a pred sr dr (sd, base), eShape),
    (move && draws a && (itemJob m.s m.i).seed.isNone, eNoseed),
    (move && (outsidePartition m.s m.part a.sspace sd || outsidePartition m.s m.part a.dspace dd), ePartition),
    (slotBad m.s (quadOf m.t) m.i a, eSlot),
    ((decide (a.op ≠ 3) && geoAlignBad a.wide gs) || (move && geoAlignBad a.wide gd) || fieldAlignBad a pred sr, eAlign),
    (sr == .beyond || dr == .beyond || (move && (retiredSide m.s a.sspace sd || retiredSide m.s a.dspace dd || spaceHigh a.sspace a.src || spaceHigh a.dspace a.dst ||
      geoExtentBad m.sr false gs || geoExtentBad m.dr true gd || (pred && predExtentBad a) ||
      (decide (a.xform = 2) && a.sSparse && decide (memBytes .amem < a.ds1 + mapRecordBytes a.d1)))), eExtent),
    (cov && !a.hemYield, eHemOverlap),
    (move && geosOverlap gs gd && !plainCopy a pred && !inPlace a gs gd, eCopyOverlap),
    (move && (ownerBad gs m.sr || ownerBad gd m.dr), eOwnerTable)], m)

/-- What a finished plan leaves on its item: poison, flags, the layer's counts, the beats it took. -/
def noteMove (m : MvRun) (s : State) : State :=
  let (n, s) := takeFree s
  let k := m.i.key
  s |> countLayer m.t k m.a.layer m.counts |> itemFlags k m.flags
    |> modItem k (fun i => { i with poisoned := i.poisoned || m.poison, beatsMover := i.beatsMover + n })

/-- A descriptor that a remote refusal failed: its item's list stops, and it is gone once no request is outstanding
(R264, R292). -/
def settleFailed (t : TileId) (serial : Nat) (s : State) : State :=
  match s.tiles[t].mov.active.find? (fun d => d.serial == serial) with
  | none => s
  | some d =>
    if !d.failed then s
    else
      let s := stopItem d.key t s
      if d.todo.isEmpty ∧ d.outstanding = 0 then dropDesc t serial s else s

/-- Every failed descriptor of the chip settled, after requests were refused together. -/
def settleAll (s : State) : State :=
  allTiles.foldl (fun s t => ((s.tiles[t].mov.active.filter (·.failed)).map (·.serial)).foldl
    (fun s n => settleFailed t n s) s) s

/-- Rows that an UNSTAIR with RELEASE has read (R277). -/
def releaseRows (t : TileId) (n : Nat) (s : State) : State :=
  modMnt t (fun m => { m with ring := { m.ring with released := min (m.ring.released + n) m.ring.drained } }) s

/-- A descriptor with a side outside its tile has sent packets (R36). -/
def leaveTile (t : TileId) (a : MvArgs) (s : State) : State :=
  if 3 ≤ a.sspace ∨ 3 ≤ a.dspace then emitSome (dmv t) (leaves t s) else s

/-- The descriptor's data have moved: what remains are its remote writes. -/
def moved (m : MvRun) : State :=
  let a := m.a
  let s := noteMove m (leaveTile m.t a m.s)
  let s := clearReserve (modDesc m.t m.d.serial (fun d => { d with moved := true, todo := m.out }) s)
  let s := if a.release then releaseRows m.t a.d1 s else s
  let s := settleFailed m.t m.d.serial (issueFab m.t m.d.serial 64 s)
  match m.soft with
  | [] => s
  | c :: cs =>
    let code := cs.foldl min c
    s |> modDesc m.t m.d.serial (fun d => { d with failed := true })
      |> moveLastErr m.t m.d.key code (hword m.d.words 0) |> failItem m.d.key m.t code (dmv m.t)

/-- The sides' bounding ranges overlap where their extent is known only once the source has been read: feed images and
compressed tensors (R281). -/
def plannedOverlap (pred : Bool) (gs gd : Geo) (m : MvRun) : Bool :=
  let a := m.a
  let ws := m.writes.filter (fun w => w.side == gd.side && (decide (a.xform ≠ 2) || decide (w.at_ = gd.base)))
  let hi := ws.foldl (fun h w => max h (w.at_ + w.bytes.length)) gd.base
  (decide (a.xform = 2) || decide (a.xform = 4) || decide (a.xform = 5) || (a.whole && !plainCopy a pred)) &&
    geosOverlap { gs with dims := [], run := max gs.hi m.readHi - gs.base } { gd with dims := [], run := max gd.hi hi - gd.base }

/-- A failure during the move (R292): what was planned before it is written in part, how far being free (entry 23). -/
def movedPartly (code : Nat) (planned : Bool) (m : MvRun) : State :=
  let (n, s) := takeFree m.s
  let m1 := { m with s := s, err := none }
  let m1 := if planned then (m.writes.take (n % (m.writes.length + 1))).foldl makeWrite m1 else m1
  mvFail m.t m.d code (noteMove m1 (leaveTile m.t m.a m1.s))

/-- The wait for drained rows of a current ring is over (R277). -/
def rowsDrained (s : State) (a : MvArgs) (src : Side × Nat) : Bool :=
  match currentRing s a src with
  | none => true
  | some r =>
    let k := (r.drained + 2 ^ 24 - a.ss2 % 2 ^ 24) % 2 ^ 24
    decide (a.d1 ≤ k) && decide (k < 2 ^ 23)

/-- One attempt at a descriptor in progress: checked at the first, read and planned; then its remote
reads are asked for, or its writes made. A descriptor that waits (R277, R457) stays in progress, and the attempt leaves
nothing else but the owner-table entries that it read. -/
def runDesc (t : TileId) (d : MvDesc) (i : Item) (s : State) : State :=
  let a := mvArgs d.words
  if formatBad t a then mvFail t d eFormat s
  else match sideOf t a.sspace a.src a.splt false, sideOf t a.dspace a.dst a.dplt true with
    | some (sd, base), some (dd, dlo) =>
      let ((sr, p1), s1) := readRecord t i a.srec s
      let ((dr, p2), s1) := readRecord t i a.drec s1
      let pred := predicts s t a
      let m : MvRun := ⟨s1, d, t, i, a, sr.get?, dr.get?, [], [], none, [], p1 || p2 || d.ownBad, 0, noCasts, noCasts, 0, 0, []⟩
      let (c, m) := if d.checked then (none, m) else mvCheck sr dr sd base dd dlo pred m
      let ok := c.isNone && m.err.isNone
      let waiting (m : MvRun) : State := modDesc t d.serial (fun x => { x with checked := ok }) (keepEntries d m s)
      (match c, m.err with
       | some c, _ => mvFail t d c m.s
       | none, some c => if c = waitCode then waiting m else mvFail t d c m.s
       | none, none =>
         if a.op = 2 then
           let st : StreamSt := ⟨i.key.part, i.job, t, patternLines a (srcGeo a false sd base m.sr).run, 0, 0, false, false⟩
           setStream (quadOf t) a.sh (some st) (modDesc t d.serial (fun x => { x with moved := true }) m.s)
         else if a.op = 3 then
           setStream (quadOf t) a.sh none (modDesc t d.serial (fun x => { x with moved := true }) m.s)
         else if !rowsDrained s a (sd, base) then waiting m
         else
           let m := transform sd base dd dlo pred m
           let m := if p1 || p2 then
               { m with writes := m.writes.map (fun w => { w with poison := w.poison.map (fun _ => true) }) } else m
           let m := if m.needs.isEmpty && plannedOverlap pred (srcGeo a pred sd base m.sr) (dstGeo a pred dd dlo m.dr) m then m.refuse eCopyOverlap
             else checkPlaces m
           (match m.err with
            | some c => if c = waitCode then waiting m else movedPartly c true m
            | none =>
              let m := m.writes.foldl makeWrite m
              (match m.err with
               | some c => if c = waitCode then waiting m else movedPartly c false m
               | none =>
                 if m.needs.isEmpty then moved m
                 else settleFailed t d.serial
                   (issueFab t d.serial 64 (modDesc t d.serial (fun x => { x with todo := m.needs }) (waiting m))))))
    | _, _ => mvFail t d eFormat s

/-- The head of a mover's queue starts when fewer than 8 are in progress, under its item's generation (R33, R263). -/
def startDesc (ops : Nat → Bool) (t : TileId) (s : State) : State :=
  match s.tiles[t].mov.queue with
  | [] => s
  | d :: rest =>
    match findItem s d.key with
    | none => s
    | some i =>
      let h := hdr s (dmv t)
      if s.flt.safe || !ops (mvArgs d.words).op || decide (8 ≤ s.tiles[t].mov.active.length) ||
          decide (d.gen ≠ h.genLive) || decide (h.mode = .off) || decide (h.mode = .updating) then s
      else viaPort t (fun s => runDesc t d i (modMov t (fun m => { m with queue := rest, active := m.active ++ [d] }) s)) s

/-- MOVE (R265, R271): every descriptor but those of streams; a reserved OP fails here. -/
def execMove (t : TileId) (s : State) : Res := .next (startDesc (fun op => op != 2 && op != 3) t s)

/-- STREAM_OPEN (R287): the slot is claimed with its pattern. -/
def execStreamOpen (t : TileId) (s : State) : Res := .next (startDesc (fun op => op == 2) t s)

/-- STREAM_CLOSE (R287): the slot is free; prefetched lines stay in the cache. -/
def execStreamClose (t : TileId) (s : State) : Res := .next (startDesc (fun op => op == 3) t s)

/-- A descriptor whose remote reads have all been answered is carried out; one that failed and has no request
outstanding is gone. -/
def settleMove (t : TileId) (serial : Nat) (s : State) : State :=
  match s.tiles[t].mov.active.find? (fun d => d.serial == serial) with
  | none => s
  | some d =>
    if !d.todo.isEmpty then settleFailed t serial (issueFab t serial 64 s)
    else if d.failed then settleFailed t serial s
    else if d.outstanding ≠ 0 || d.moved || s.flt.safe then s
    else match findItem s d.key with
      | none => s
      | some i => viaPort t (runDesc t d i) s

/-- MOVE_COMPLETE (R263, R301): every write of a descriptor has been acknowledged; its token is free and its counter
gains 1. -/
def execMoveComplete (t : TileId) (token : Fin 32) (s : State) : Res :=
  .next (match s.tiles[t].mov.active.find? (fun d => d.token == token.val) with
    | none => s
    | some d =>
      if d.moved ∧ !d.failed ∧ d.todo.isEmpty ∧ d.outstanding = 0 then
        let s := s |> dropDesc t d.serial |> bump (dmv t) Off.dmvDesc 1
        match d.cnt with
        | some k => addCounter t k s
        | none => s
      else settleMove t d.serial s)

/-- A stream's prefetch is halted at a page boundary until the pointer passes it (R289). -/
def streamHalted (x : StreamSt) : Bool := x.stopped && decide (x.pointer ≤ x.next)

/-- The access of a stream's prefetcher, by the quadrant's walker for the mover that opened it. -/
def streamReq (q : QuadId) (x : StreamSt) : VaReq := ⟨.walker q, x.part, 0, x.job.toNat, dmv x.tile⟩

/-- STREAM_PREFETCH (R288, R289): the next pattern line, at most 64 KiB ahead of the pointer. -/
def prefetchNext (q : QuadId) (slot : Nat) (x : StreamSt) (s : State) : State :=
  let x := { x with next := max x.next x.pointer, stopped := streamHalted x }
  match x.lines[x.next]? with
  | none => s
  | some l =>
    if x.stopped ∨ x.pointer + 512 ≤ x.next then s
    else match translate (streamReq q x) (128 * l) false s with
      | (.error _, s) => setStream q slot (some { x with stopped := true }) (bump (dmv x.tile) Off.dmvPfStop 1 s)
      | (.ok e, s) =>
        if e.nra then setStream q slot (some { x with next := x.next + 1 }) s
        else
          if yields s false (entryPa e (128 * l)) then s
          else s |> emitN (dmv x.tile) 1 |> prefetchLine (hbmReqOf 0) (entryPa e (128 * l) / 128)
            |> bump (dmv x.tile) Off.dmvPfLines 1
            |> setStream q slot (some { x with
                next := x.next + 1, done := x.done || decide (x.next + 1 = x.lines.length) })

def execStreamPrefetch (q : QuadId) (slot : BitVec 8) (s : State) : Res :=
  .next (match streamAt s q slot.toNat with
    | some x => if s.flt.safe then s else unlessHeld (prefetchNext q slot.toNat x) s
    | none => s)

end Sys2Proof.Machine
end

