-- ==== Sys2Proof/Machine/Array.lean ====
section
/-! DEFINITION. Gangs at work (chapter 04): acceptance of array descriptors, the gang beat with admission, ramps, stalls
and the drain into STORE rings and ADD regions, and completion. -/

namespace Sys2Proof.Machine
open Sys2Proof

def mnt (t : TileId) : Block := .tile t .mnt

def gangOf (s : State) (l : TileId) : GangSt := s.tiles[l].mnt.gang
def setGang (l : TileId) (g : GangSt) (s : State) : State := modMnt l (fun m => { m with gang := g }) s

/-- A gang as a beat sees it: its leader, side and widths. -/
structure GangGeo where
  l : TileId
  n : Nat
  widths : List Nat
  deriving DecidableEq, Repr

def gangGeo (s : State) (l : TileId) : GangGeo :=
  let n := gangSide (liveGang s l).mode
  ⟨l, n, gangWidths s l n⟩

/-- N, and the south-edge tiles. -/
def GangGeo.rows (e : GangGeo) : Nat := 256 * e.n
def GangGeo.south (e : GangGeo) (b : Nat) : TileId := southTile e.l e.n b

/-! ## Acceptance (R133, R144, R534) -/

/-- A region or an image would end beyond its memory, for any step. -/
def operandBeyond (o : OpArgs) (partner : Fmt) (kb steps : Nat) : Bool :=
  let far := (steps - 1) * o.stride
  if o.sparse then decide (memBytes .amem < o.map + far + mapRecordBytes kb)
  else decide (memBytes o.mem < o.base + far + imageBytes o.f partner (List.replicate kb false))

/-- A member of the gang reads DRAINING, DRAINED or UPDATING (R133, R502). -/
def memberStopped (s : State) (l : TileId) : Bool :=
  (liveMembers s l).any (fun m => match (hdr s (mnt m)).mode with
    | .draining | .drained | .updating => true | _ => false)

/-- The checks of R133 and R144 in their order. -/
def acceptChecks (s : State) (l : TileId) (d : ArrDesc) : List (Bool × Nat) :=
  let g := arrArgs d.words
  let e := gangGeo s l
  [(decide (g.op ≠ 1) || g.rsvd || !arrPairOk g, eFormat),
   (!tscaleOk g.a.tscale || !tscaleOk g.b.tscale, eScale),
   (decide (g.kb = 0) || decide (g.steps = 0) ||
      (!g.add && (decide (g.ringTiles = 0) || decide (2048 < g.ringTiles * e.rows))) ||
      decide (d.issuer ≠ l) || decide (e.n = 0) || gangUnusable s l || memberStopped s l, eShape),
   ([g.a.base, g.a.stride, g.b.base, g.b.stride].any (fun x => decide (x % 64 ≠ 0)) ||
      decide (g.drainBase % 1024 ≠ 0) || (g.a.sparse && decide (g.a.map % 64 ≠ 0)) ||
      (g.b.sparse && decide (g.b.map % 64 ≠ 0)), eAlign),
   (operandBeyond g.a g.b.f g.kb g.steps || operandBeyond g.b g.a.f g.kb g.steps ||
      decide (memBytes .pmem < g.drainBase + 1024 * (if g.add then e.rows else g.ringTiles * e.rows)), eExtent)]

/-- A descriptor leaves the gang's input, its token free. -/
def dropInput (l : TileId) (d : ArrDesc) (s : State) : State :=
  let g := gangOf s l
  s |> setGang l { g with input := g.input.filter (fun x => decide (x.serial ≠ d.serial) || decide (x.issuer ≠ d.issuer)) }
    |> freeTokens d.issuer (fun h => h.eng == .array && h.serial == d.serial)

/-- The feed images of a step, to be left alone until the descriptor has completed (R150). -/
def stepWatches (s : State) (e : GangGeo) (g : ArrArgs) (serial idx : Nat) : List (TileId × Watch) :=
  let x := stepFeed s e.l e.n e.widths g idx
  (x.a ++ x.b).flatMap (fun y =>
    [(y.ft.tile, (⟨y.mem, y.lo, y.lo + y.size, e.l, serial, idx⟩ : Watch))] ++
    (if y.mapSize = 0 then [] else [(y.ft.tile, ⟨.amem, y.mapLo, y.mapLo + y.mapSize, e.l, serial, idx⟩)]))

def addWatches (e : GangGeo) (g : ArrArgs) (serial : Nat) (s : State) : State :=
  ((List.range g.steps).flatMap (stepWatches s e g serial)).foldl
    (fun s w => modMnt w.1 (fun m => { m with watches := m.watches ++ [w.2] }) s) s

/-- A climb back from a stop ramp (R126): the start ramp's phases after the current one. The accumulator starts at 0 with each
ramp (R125); whether a climb back is one the spec does not say: DESIGN CHOICE (entry 39), it carries the stop ramp's fraction
on. -/
def climbBack (len : Nat) (r : Ramp) : Ramp :=
  if r.kind ≠ 2 then r
  else
    let p := min 3 (r.pos / (len / 4))
    if p = 0 then ⟨0, 0, 0⟩ else ⟨3, (4 - p) * (len / 4), r.acc⟩

def rampLen (s : State) (l : TileId) : Nat := max 4 (fld (reg s (mnt l) Off.mntRamp) 6 0)

/-- The ring that an accepted STORE descriptor, issued by tile by_, opens at a south-edge tile (R116). -/
def openRing (t by_ : TileId) (g : ArrArgs) (rows : Nat) (s : State) : State :=
  modMnt t (fun m => { m with ring := ⟨true, g.drainBase, g.ringTiles * rows, g.ringTiles, 0, 0, by_⟩ }) s

/-- Every row of a step is written in tile-column b. -/
def tileDone (e : GangGeo) (b : Nat) (st : DrainStep) : Bool :=
  ((st.cols.drop ((e.widths.take b).sum)).take (e.widths.getD b 0)).all (fun c => decide (e.rows ≤ c.1))

/-- Every row of a descriptor is written in tile-column b. -/
def descDone (e : GangGeo) (g : GangSt) (b : Nat) (d : ArrDesc) : Bool :=
  decide (d.nextStep = d.stepsTotal) && (match g.plan with | some p => decide (p.serial ≠ d.serial) | none => true) &&
    g.drains.all (fun st => decide (st.serial ≠ d.serial) || tileDone e b st)

/-- New rings open at a tile once every row of the rings before them has been written there (R116). -/
def openRingsAt (e : GangGeo) (b : Nat) (s : State) : State :=
  let g := gangOf s e.l
  let stores := g.descs.filter (fun d => !(arrArgs d.words).add)
  match (stores.zipIdx).find? (fun x => x.1.newRing && !x.1.opened.getD b true &&
      (stores.take x.2).all (descDone e g b)) with
  | none => s
  | some (d, _) =>
    s |> openRing (e.south b) d.issuer (arrArgs d.words) e.rows
      |> setGang e.l { g with descs := g.descs.map (fun x =>
          if x.serial = d.serial then { x with opened := x.opened.set b true } else x) }

def openRings (e : GangGeo) (s : State) : State := (List.range e.n).foldl (fun s b => openRingsAt e b s) s

/-- An accepted descriptor (R118, R126, R150, R151). -/
def acceptDesc (l : TileId) (d : ArrDesc) (s : State) : State :=
  let g := arrArgs d.words
  let e := gangGeo s l
  let q := gangOf s l
  let key := (g.drainBase, g.ringTiles)
  let fresh := !g.add && decide (q.ringKey ≠ some key)
  let d := { d with stepsTotal := g.steps, newRing := fresh, opened := List.replicate e.n false }
  let s := setGang l { q with
    input := q.input.filter (fun x => decide (x.serial ≠ d.serial) || decide (x.issuer ≠ d.issuer))
    descs := q.descs ++ [d]
    ramp := climbBack (rampLen s l) q.ramp
    ringKey := if g.add then q.ringKey else some key } s
  let s := addWatches e g d.serial s
  let s := if g.tagEn && g.tagInit then (List.range e.n).foldl (fun s b => modMnt (e.south b)
      (fun m => { m with rtag := vput m.rtag g.rtag (BitVec.ofNat 8 g.expect) }) s) s else s
  openRings e (modItem d.key (fun i => { i with sparse := i.sparse || g.a.sparse || g.b.sparse }) s)

/-- ARRAY_DESCRIPTOR_ACCEPT (R113, R133): the first descriptor at the gang's input, once every member runs its
generation; so must its issuer's array, whose waiting descriptors its switch moves (R123). -/
def execArrayDescriptorAccept (t : TileId) (s : State) : Res :=
  let g := gangOf s t
  .next (match g.input with
    | [] => s
    | d :: _ =>
      let ms := t :: d.issuer :: liveMembers s t
      if s.flt.safe ∨ 4 ≤ g.descs.length then s
      else if ms.any (fun m => decide ((hdr s (mnt m)).genLive ≠ d.gen)) then s
      else if ms.any (fun m => decide ((hdr s (mnt m)).mode = .fenced)) then
        stopItem d.key d.issuer (fenceItem (mnt t) d.key (dropInput t d s))
      else match firstFail (acceptChecks s t d) with
        | some c => failItem d.key d.issuer c (mnt d.issuer) (dropInput t d s)
        | none => if ms.any (fun m => decide ((hdr s (mnt m)).mode = .off)) then s else acceptDesc t d s)

/-! ## Forming a step (R112, R145, R534) -/

/-- The feeders' reads of a step's image and map record, with their checks and repairs. -/
def readFeed (key : ItemKey) (x : StepFeed) (s : State) : State :=
  (x.a ++ x.b).foldl (fun s y =>
    let r (m : MemSel) : MemReq := ⟨y.ft.tile, m, mnt y.ft.tile, key.item.toNat, false, 0⟩
    let (_, s) := tmRead (r .amem) y.mapLo y.mapSize s
    (tmRead (r y.mem) y.lo (min y.size (memBytes y.mem - y.lo)) s).2) s

def modArrDesc (l : TileId) (serial : Nat) (f : ArrDesc → ArrDesc) (s : State) : State :=
  let g := gangOf s l
  setGang l { g with descs := g.descs.map (fun d => if d.serial = serial then f d else d) } s

/-- R119: the beat before which a step's first slot is held while the step before it is being drained (DEDUCED, entry 39). -/
def paceUntil (e : GangGeo) (g : GangSt) (c : Nat) : Nat :=
  match g.drains.getLast?, g.drains.getLast?.bind (fun st => g.descs.find? (fun d => d.serial == st.serial)) with
  | some st, some d =>
    if st.cols.all (fun x => decide (e.rows ≤ x.1)) then 0
    else
      let a := arrArgs d.words
      let r := drainPeriod a
      let base := st.endBeat + r * (e.rows - 1)
      let far := st.cols.zipIdx.foldl (fun m x =>
        if x.1.1 = 0 then m else max m (x.1.2 + r * (e.rows - x.1.1) - slotPeriod a * x.2)) base
      far + 1 - c
  | _, _ => 0

/-- An item's steps not yet formed do not run (R534). A ring that a descriptor without a step would have opened is opened by the
next STORE descriptor, accepted now or later (R116). -/
def cutItem (k : ItemKey) (g : GangSt) : GangSt :=
  let cut := g.descs.map (fun d => if d.key = k then { d with stepsTotal := d.nextStep } else d)
  let (descs, open') := cut.foldl (fun (a : List ArrDesc × Bool) d =>
      if (arrArgs d.words).add then (a.1 ++ [d], a.2)
      else (a.1 ++ [{ d with newRing := d.newRing || a.2 }], (d.newRing || a.2) && decide (d.stepsTotal = 0))) ([], false)
  { g with descs := descs, ringKey := if open' then none else g.ringKey }

/-- The step is formed, or its actual extent ends the item there (R534). -/
def formStep (e : GangGeo) (d : ArrDesc) (s : State) : State :=
  let a := arrArgs d.words
  let s := readFeed d.key (stepFeed s e.l e.n e.widths a d.nextStep) s
  let x := stepFeed s e.l e.n e.widths a d.nextStep
  if (x.a ++ x.b).any (·.beyond) then
    failItem d.key d.issuer eExtent (mnt e.l) (setGang e.l (cutItem d.key (gangOf s e.l)) s)
  else
    let b := stepBeats a x
    let s := (feedCodes s x b.runs).foldl (fun s c => failItem d.key d.issuer c (mnt e.l) s) s
    let s := modArrDesc e.l d.serial (fun y => { y with nextStep := y.nextStep + 1 }) s
    let g := gangOf s e.l
    let s := setGang e.l { g with plan := some ⟨d.serial, d.nextStep, b.runs, b.rb, b.db, b.c, 0, paceUntil e g b.c⟩ } s
    modItem d.key (fun i => { i with sumRb := i.sumRb + b.rb, sumDb := i.sumDb + b.db }) s

/-- A step's feed comes to a bank that is reserved for a wide access (R243). -/
def feedReserved (e : GangGeo) (d : ArrDesc) (idx : Nat) (s : State) : Bool :=
  s.tiles.any (·.wideReserved.isSome) &&
    (let x := stepFeed s e.l e.n e.widths (arrArgs d.words) idx
     (x.a ++ x.b).any (fun y => bankReserved s y.ft.tile y.mem y.lo y.size || bankReserved s y.ft.tile .amem y.mapLo y.mapSize))

/-- The next step of the accepted descriptors, in issue order. -/
def nextDesc (g : GangSt) : Option ArrDesc := g.descs.find? (fun d => decide (d.nextStep < d.stepsTotal))

/-- The next step formed, where none is being fed and its feed is not held back. -/
def formNext (e : GangGeo) : Nat → State → State
  | 0, s => s
  | n + 1, s =>
    let g := gangOf s e.l
    if g.plan.isSome then s
    else match nextDesc g with
      | none => s
      | some d => if feedReserved e d d.nextStep s then s else formNext e n (formStep e d s)

/-- The gang's feed waits for a bank that is reserved for a wide access: of the step being fed, or of the next one (R243). -/
def feedWaits (e : GangGeo) (s : State) : Bool :=
  let g := gangOf s e.l
  match g.plan with
  | some p => (match g.descs.find? (fun d => d.serial == p.serial) with | some d => feedReserved e d p.idx s | none => false)
  | none => (match nextDesc g with | some d => feedReserved e d d.nextStep s | none => false)

/-! ## The drain (R114 to R118, R121) -/

def gangDesc (g : GangSt) (serial : Nat) : Option ArrDesc := g.descs.find? (fun d => d.serial == serial)

/-- What a gang column's drain does in a beat. -/
inductive ColState where
  | idle | wait
  /-- reads cell (i, j) of the step -/
  | read (st : DrainStep) (row : Nat)
  /-- a read that is due is held, by a region tag or otherwise -/
  | held (tag : Bool)
  deriving DecidableEq, Repr

/-- A step's region tag has its value at tile-column b (R118). -/
def regionReady (s : State) (e : GangGeo) (a : ArrArgs) (b : Nat) (st : DrainStep) : Bool :=
  !a.tagEn || st.go.getD b false ||
    decide ((vat s.tiles[e.south b].mnt.rtag a.rtag 0).toNat = (a.expect + 2 * st.idx) % 256)

/-- The record that an element lands in, and the byte of P-mem (R115). -/
def drainPos (a : ArrArgs) (rows : Nat) (st : DrainStep) (i c : Nat) : Nat :=
  if a.add then (i + c) % rows else (st.ringBase + i + c) % (a.ringTiles * rows)
def drainAddr (a : ArrArgs) (rows : Nat) (st : DrainStep) (i c : Nat) : Nat :=
  a.drainBase + 1024 * drainPos a rows st i c + 4 * c

/-- The drain of column j: the first step with rows left, its next row, when it is due and when its place is free. -/
def colState (s : State) (e : GangGeo) (g : GangSt) (j : Nat) : ColState :=
  match g.drains.find? (fun st => decide ((st.cols.getD j (0, 0)).1 < e.rows)) with
  | none => .idle
  | some st =>
    match gangDesc g st.serial with
    | none => .idle
    | some d =>
      let a := arrArgs d.words
      let (i, at') := st.cols.getD j (0, 0)
      let (b, c) := laneOfCol e.widths j
      let ring := s.tiles[e.south b].mnt.ring
      if g.adm ≤ st.last + slotPeriod a * (i + j) ∨ (0 < i ∧ g.beat < at' + drainPeriod a) then .wait
      else if !regionReady s e a b st then .held true
      else if (!a.add && ((d.newRing && !d.opened.getD b true) ||
        decide (ring.released + ring.records ≤ st.ringBase + i))) ||
        bankReserved s (e.south b) .pmem (drainAddr a e.rows st i c) 4 then .held false
      else .read st i

/-- A feed image of the step was written in use: its values are free (R150). -/
def stepDisturbed (s : State) (e : GangGeo) (st : DrainStep) : Bool :=
  (liveMembers s e.l).any (fun m => s.tiles[m].mnt.disturbed.contains (e.l, st.serial, st.idx))

/-- A cell that a beat drains: its gang column with the tile-column and lane, its step and row, and the byte of P-mem at which
it lands (R115). -/
structure CellRead where
  j : Nat
  b : Nat
  c : Nat
  st : DrainStep
  i : Nat
  d : ArrDesc
  lo : Nat
  deriving DecidableEq, Repr

def cellRead (e : GangGeo) (g : GangSt) (r : Nat × DrainStep × Nat) : Option CellRead :=
  (gangDesc g r.2.1.serial).map (fun d =>
    let a := arrArgs d.words
    let (b, c) := laneOfCol e.widths r.1
    ⟨r.1, b, c, r.2.1, r.2.2, d, drainAddr a e.rows r.2.1 r.2.2 c⟩)

/-- The P-mem line in which a cell lands: its tile-column, its descriptor and its line. The drain reads and writes lines (R239). -/
def CellRead.line (x : CellRead) : Nat × Nat × Nat := (x.b, x.d.serial, x.lo / 64)

/-- The request by which the drain reaches P-mem. -/
def drainReq (e : GangGeo) (x : CellRead) : MemReq :=
  ⟨e.south x.b, .pmem, mnt (e.south x.b), x.d.key.item.toNat, false, 0⟩

/-- Cell (i, j) of a step written to its south-edge tile, in ADD mode added to `old`, what the line read delivered there, and tapped
in STORE mode (R115, R117, R121, R444). -/
def drainCell (e : GangGeo) (old : Option (Nat × Bool)) (x : CellRead) (s : State) : (FVal × Bool) × State :=
  let a := arrArgs x.d.words
  let f := stepFeed s e.l e.n e.widths a x.st.idx
  let (v, p) := match f.a[x.i / 256]?, f.b[x.b]? with
    | some fa, some fb => cellOut s a fa fb (x.i % 256) x.c x.st.runs
    | _, _ => (0, false)
  let (v, s) := if stepDisturbed s e x.st then let (n, s) := takeFree s; (BitVec.ofNat 32 n, s) else (v, s)
  let (v, p) := match old with
    | some o => (f32Add (BitVec.ofNat 32 o.1) v, p || o.2)
    | none => (v, p)
  let s := tmWrite (drainReq e x) x.lo (bytesOfNat 4 v.toNat) (List.replicate 4 p) s
  ((f32v v, p), if p then itemPoison x.d.key s else s)

/-- A column's read recorded in its step. -/
def noteRead (e : GangGeo) (beat j : Nat) (v : FVal × Bool) (store : Bool) (st : DrainStep) : DrainStep :=
  let (b, _) := laneOfCol e.widths j
  let x := st.cols.getD j (0, 0)
  { st with
    cols := st.cols.set j (x.1 + 1, beat), go := st.go.set b true
    taps := if store then st.taps.set b (tapAdd (st.taps.getD b tapZero) v) else st.taps }

def sameStep (x y : DrainStep) : Bool := x.serial == y.serial && x.idx == y.idx

/-- One column's read of a beat. -/
def drainCol (e : GangGeo) (beat : Nat) (old : Option (Nat × Bool)) (x : CellRead) (s : State) : State :=
  let (v, s) := drainCell e old x s
  let g := gangOf s e.l
  setGang e.l { g with drains := g.drains.map (fun y =>
    if sameStep y x.st then noteRead e beat x.j v (!(arrArgs x.d.words).add) y else y) } s

/-- The cells of one line: in ADD mode the line is read once, from the first of them to the last (R115, R117, R239). -/
def drainLine (e : GangGeo) (beat : Nat) (s : State) (cells : List CellRead) : State :=
  match cells.head?, cells.getLast? with
  | some x, some y =>
    let add := (arrArgs x.d.words).add
    let (o, s) := if add then tmRead (drainReq e x) x.lo (y.lo + 4 - x.lo) s else (([], []), s)
    cells.foldl (fun s z => drainCol e beat (if add then
      some (wordOf (o.1.drop (z.lo - x.lo)), ((o.2.drop (z.lo - x.lo)).take 4).any (fun p => p)) else none) z s) s
  | _, _ => s

/-- The STORE descriptors of the ring that is open at tile-column b, as far as the gang still holds them (R116). -/
def ringDescs (g : GangSt) (b : Nat) : List ArrDesc :=
  ((g.descs.filter (fun d => !(arrArgs d.words).add)).takeWhile (fun d => !d.newRing || d.opened.getD b true)).foldl
    (fun a d => if d.newRing then [d] else a ++ [d]) []

/-- DRAINED of a south-edge tile: the rows of its ring written in every lane (R116). -/
def countDrained (e : GangGeo) (g : GangSt) (s : State) (b : Nat) : State :=
  let stores := g.drains.filter (fun st => (ringDescs g b).any (fun d => d.serial == st.serial))
  let lanes (st : DrainStep) : List (Nat × Nat) := (st.cols.drop ((e.widths.take b).sum)).take (e.widths.getD b 0)
  let pick : Option DrainStep := match stores.find? (fun st => !tileDone e b st) with
    | some st => some st
    | none => stores.getLast?
  match pick with
  | none => s
  | some st =>
    let m := (lanes st).foldl (fun m x => min m x.1) e.rows
    modMnt (e.south b) (fun t => { t with ring := { t.ring with drained := max t.ring.drained (st.ringBase + m) } }) s

/-- A step's last row is written in tile-column b: its region tag advances and its taps are accumulated (R118, R446). -/
def tileStepDone (e : GangGeo) (d : ArrDesc) (st : DrainStep) (b : Nat) (s : State) : State :=
  let a := arrArgs d.words
  let s := if a.tagEn then modMnt (e.south b) (fun m => { m with
      rtag := vput m.rtag a.rtag (BitVec.ofNat 8 (a.expect + 2 * st.idx + 1)) }) s else s
  tapInto (e.south b) d.key a.layer .drain (st.taps.getD b tapZero) s

/-- The reads of one beat, and what follows from them: DRAINED, region tags, steps completed, rings opened. -/
def drainBeat (e : GangGeo) (reads : List (Nat × DrainStep × Nat)) (s : State) : State :=
  let g0 := gangOf s e.l
  let cells := reads.filterMap (cellRead e g0)
  let s := (cells.map CellRead.line).eraseDups.foldl (fun s l => drainLine e g0.beat s (cells.filter (fun x => x.line == l))) s
  let g := gangOf s e.l
  let s := (List.range e.n).foldl (countDrained e g) s
  let s := (g0.drains.zip g.drains).foldl (fun s p => match gangDesc g p.2.serial with
    | none => s
    | some d => (List.range e.n).foldl (fun s b =>
        if !tileDone e b p.1 && tileDone e b p.2 then tileStepDone e d p.2 b s else s) s) s
  let whole (st : DrainStep) : Bool := (List.range e.n).all (fun b => tileDone e b st)
  let s := (g.drains.filter whole).foldl (fun s st => s |> bump (mnt e.l) Off.mntSteps 1
    |> modArrDesc e.l st.serial (fun d => { d with stepsDrained := d.stepsDrained + 1 })) s
  let g' := gangOf s e.l
  openRings e (setGang e.l { g' with drains := g'.drains.filter (fun st => !whole st) } s)

/-! ## Admission (R123 to R126, R533) -/

/-- The stall causes of R122 that the array counts. -/
def stallEmpty : Nat := 0
def stallDrain : Nat := 1
def stallConflict : Nat := 2
def stallConvoy : Nat := 3
def stallBubble : Nat := 7
def stallRamp : Nat := 8
def stallGen : Nat := 10
def stallTag : Nat := 11

/-- R533: columns in which the next place of the wavefront would swap a cell of step k whose shadow still holds step p. -/
def swapBlocked (e : GangGeo) (adm q : Nat) (last : Nat) (p : DrainStep) : List Nat :=
  (List.range e.widths.sum).filter (fun j =>
    let x := adm - last
    decide (last ≤ adm) && decide (x % q = 0) && decide (j ≤ x / q) && decide (x / q - j < e.rows) &&
      decide ((p.cols.getD j (0, 0)).1 ≤ x / q - j))

/-- Where the last slot of each step lies, the step being fed last if this beat would admit its last slot. -/
def stepEnds (g : GangSt) : List (Nat × Nat) :=
  g.drains.map (fun st => (st.serial, st.last)) ++
    (match g.plan with | some p => if p.pos + 1 = p.c then [(p.serial, g.adm)] else [] | none => [])

/-- The wavefront may not move: the blocking steps and columns. -/
def waveBlocked (e : GangGeo) (g : GangSt) : List (DrainStep × Nat) :=
  (g.drains.zip ((stepEnds g).drop 1)).flatMap (fun x =>
    let q := match gangDesc g x.2.1 with | some d => slotPeriod (arrArgs d.words) | none => 1
    (swapBlocked e g.adm q x.2.2 x.1).map (fun j => (x.1, j)))

/-- A blocking read is held by a region tag. -/
def blockedByTag (s : State) (e : GangGeo) (g : GangSt) (bs : List (DrainStep × Nat)) : Bool :=
  bs.any (fun x => match gangDesc g x.1.serial with
    | some d => !regionReady s e (arrArgs d.words) (laneOfCol e.widths x.2).1 x.1
    | none => false)

/-- Slots that begin in a number of admitted beats, at q beats a slot (R109, R125). -/
def slotsIn (beats q : Nat) : Nat := (beats + q - 1) / q

/-- The slot period of a descriptor of the gang. -/
def periodOf (g : GangSt) (serial : Nat) : Nat :=
  match gangDesc g serial with | some d => slotPeriod (arrArgs d.words) | none => 1

/-- Slots left to admit over all accepted descriptors, the far lanes' last ones included (R120, R126). -/
def slotsLeft (e : GangGeo) (g : GangSt) : Nat :=
  let rest (d : ArrDesc) : Nat :=
    let a := arrArgs d.words
    (d.stepsTotal - d.nextStep) * slotsIn (a.kb * beatsPerBlock a.a.f a.b.f false) (slotPeriod a)
  match g.plan with
  | some p => slotsIn (p.rb - p.pos) (periodOf g p.serial) + (g.descs.map rest).sum + (e.rows - 1)
  | none => slotsIn (g.tend - g.adm) (match g.drains.getLast? with | some st => periodOf g st.serial | none => 1)

/-- R533: the place of the wavefront from which a step's first slot reaches every cell after that cell has swapped the step
before it, whose slots follow each other more slowly. -/
def followFrom (e : GangGeo) (g : GangSt) (p : StepPlan) : Nat :=
  match g.drains.getLast? with
  | some st => st.last + (periodOf g st.serial - periodOf g p.serial) * (e.rows + e.widths.sum - 2) + 1
  | none => 0

/-- The fraction of a ramp's current phase, in eighths (R125). -/
def rampFrac (len : Nat) (r : Ramp) : Nat :=
  let p := r.pos / (len / 4)
  if r.kind = 0 ∨ len ≤ r.pos then 8
  else if r.kind = 2 then [8, 4, 2, 1].getD p 8 else [1, 2, 4, 8].getD p 8

/-- A beat of the ramp: whether it lets a slot in, and the ramp after it, before a slot is taken from it. -/
def rampBeat (len : Nat) (r : Ramp) : Bool × Ramp :=
  if r.kind = 0 then (true, r)
  else
    let acc := if r.acc < 8 then r.acc + rampFrac len r else r.acc
    let r' : Ramp := ⟨r.kind, r.pos + 1, acc⟩
    (decide (8 ≤ acc), r')

/-- A slot taken from a ramp; a start ramp or a climb ends with its last beat. -/
def rampTake (len : Nat) (taken : Bool) (r : Ramp) : Ramp :=
  let r := if taken then { r with acc := r.acc - 8 } else r
  if r.kind ≠ 0 ∧ r.kind ≠ 2 ∧ len ≤ r.pos then ⟨0, 0, 0⟩ else r

/-- The run opens, and the stop ramp begins or is cancelled, by the slots left (R126). -/
def runState (len left : Nat) (g : GangSt) : GangSt :=
  let g := if g.runOpen then g else { g with runOpen := true, ramp := ⟨1, 0, 0⟩, haltRun := 0 }
  let lim := 15 * len / 32
  if left ≤ lim then (if g.ramp.kind = 2 then g else { g with ramp := ⟨2, 0, 0⟩ })
  else { g with ramp := climbBack len g.ramp }

/-- The cause of a beat that has a slot to admit, in the order of R124 but for GEN_WAIT; none when it is admitted. -/
def slotCause (rampOk bubble tag full : Bool) (wait : BankWait) (idle : Bool) : Option Nat :=
  if !rampOk then some stallRamp
  else if bubble then some stallBubble
  else if tag then some stallTag
  else if full then some stallDrain
  else if idle then some stallEmpty
  else match wait with
    | .conflict => some stallConflict
    | .convoy => some stallConvoy
    | .granted => none

/-- The cause that R124 counts where a descriptor waits at the gang's input for its generation (R123). -/
def shownCause (gen : Bool) (c : Nat) : Nat := if gen && decide (c ≠ stallRamp) && decide (c ≠ stallBubble) then stallGen else c

/-- A step whose slots are all fed begins to drain (R107, R116). -/
def planDone (e : GangGeo) (p : StepPlan) (last : Nat) (g : GangSt) : GangSt :=
  match gangDesc g p.serial with
  | none => { g with plan := none }
  | some d =>
    let a := arrArgs d.words
    let fresh := d.newRing && decide (p.idx = 0)
    let before := if a.add then 0 else if fresh then 0 else g.ringSteps
    let st : DrainStep := ⟨p.serial, p.idx, p.runs, last, g.beat + 1, before * e.rows, fresh,
      List.replicate e.widths.sum (0, 0), List.replicate e.n false, List.replicate e.n tapZero⟩
    { g with
      plan := none, drains := g.drains ++ [st], tailKey := some d.key
      tend := max g.tend (last + 1 + slotPeriod a * (e.rows - 1))
      ringSteps := if a.add then g.ringSteps else before + 1 }

/-- A stall of one cause counted by the leader. -/
def countStall (l : TileId) (cause : Nat) (s : State) : State := bump (mnt l) (Off.mntStall + 8 * cause) 1 s

/-- A beat of an item (R123). -/
def itemBeat (l : TileId) (k : ItemKey) (s : State) : State :=
  bump (mnt l) Off.mntBeats 1 (modItem k (fun i => { i with beatsArray := i.beatsArray + 1 }) s)

/-- The K-blocks of a step counted as their last slots enter cell (0, 0), and those skipped as its last beat passes (R135). -/
def countBlocks (l : TileId) (kb : Nat) (p : StepPlan) (s : State) : State :=
  let ends := (p.runs.foldl (fun (a : List (Nat × Bool) × Nat) r => (a.1 ++ [(a.2 + r.beats, r.promoted)], a.2 + r.beats)) ([], 0)).1
  let now := ends.filter (fun x => decide (x.1 = p.pos + 1))
  s |> bump (mnt l) Off.mntKbRun now.length |> bump (mnt l) Off.mntKbPromo (now.filter (·.2)).length
    |> bump (mnt l) Off.mntKbSkip (if p.pos + 1 = p.c then kb - p.runs.length else 0)

/-- The gang after a beat in which the wavefront moved or stood. -/
def waveStep (moved : Bool) (g : GangSt) : GangSt :=
  { g with adm := if moved then g.adm + 1 else g.adm, beat := g.beat + 1, pos64 := (g.pos64 + 1) % 64 }

/-- A beat with a slot waiting: one of a step's slots, or of the far lanes' last ones. A run opens with the first slot that
nothing but its start ramp keeps back (R126). Whether a BUBBLE_POWER beat within a halting stall restarts the 64 consecutive
beats of R126 the spec does not say: DESIGN CHOICE (entry 39), it neither counts toward them nor restarts them. -/
def slotBeat (e : GangGeo) (wait : BankWait) (key : ItemKey) (gen : Bool) (s : State) : State :=
  let len := rampLen s e.l
  let g := gangOf s e.l
  let plan := g.plan
  let held := match plan with
    | some p => decide (g.beat < p.holdUntil) || (decide (p.pos = 0) && decide (g.adm < followFrom e g p))
    | none => false
  let idle := match plan with | some p => decide (p.rb ≤ p.pos) | none => false
  let bs := waveBlocked e g
  let tag := blockedByTag s e g bs
  let full := held || !bs.isEmpty
  let g := if g.runOpen || (!tag && !full && !idle && decide (wait = .granted)) then runState len (slotsLeft e g) g else g
  let (ok, ramp) := rampBeat len g.ramp
  let bub := bubbleAt s.pwr.quads[quadOf e.l].fa g.pos64
  let cause := slotCause ok bub tag full wait idle
  let admitted := cause.isNone
  let moves := admitted || decide (cause = some stallEmpty) || (decide (cause = some stallDrain) && bs.isEmpty)
  let g := { g with
    ramp := rampTake len admitted ramp
    haltRun := if admitted then 0 else if cause = some stallBubble then g.haltRun else g.haltRun + 1 }
  let g := match g.plan with
    | some p => if admitted || decide (cause = some stallEmpty) then
        (if p.pos + 1 = p.c then planDone e p g.adm g else { g with plan := some { p with pos := p.pos + 1 } })
      else g
    | none => g
  let g := waveStep moves g
  let more := g.plan.isSome || g.descs.any (fun d => decide (d.nextStep < d.stepsTotal)) || decide (g.adm < g.tend)
  let g := if more then g else { g with runOpen := false, ramp := ⟨0, 0, 0⟩, haltRun := 0 }
  let s := setGang e.l g s
  let s := match plan with
    | some p => if admitted || decide (cause = some stallEmpty) then
        countBlocks e.l (match gangDesc g p.serial with | some d => (arrArgs d.words).kb | none => 0) p s else s
    | none => s
  match cause with
  | none => itemBeat e.l key s
  | some c => countStall e.l (shownCause gen c) (if c = stallBubble then itemFlags key 64 s else s)

/-- A beat with no slot waiting, but for a step whose feed a reserved bank holds back, BANK_CONFLICT: the drain tail of the item whose step was draining as the beat began, or a descriptor
that waits for its generation, which a power bubble may withhold first (R123, R124). No run is open in such a beat (R126). -/
def tailBeat (e : GangGeo) (key genWait : Option ItemKey) (anyRead anyHeld heldTag feed : Bool) (s : State) : State :=
  let g := gangOf s e.l
  let bs := waveBlocked e g
  let halts := !anyRead && (anyHeld || !bs.isEmpty)
  let bub := bubbleAt s.pwr.quads[quadOf e.l].fa g.pos64
  let s := setGang e.l (waveStep (bs.isEmpty && !g.drains.isEmpty)
    { g with runOpen := false, ramp := ⟨0, 0, 0⟩, haltRun := 0 }) s
  if feed then
    if bub then countStall e.l stallBubble (match nextDesc g with | some d => itemFlags d.key 64 s | none => s)
    else countStall e.l (shownCause genWait.isSome stallConflict) s
  else match genWait with
  | some k => if bub then countStall e.l stallBubble (itemFlags k 64 s) else countStall e.l stallGen s
  | none => match key with
    | none => s
    | some k =>
      if anyRead || !halts then itemBeat e.l k s
      else countStall e.l (if heldTag then stallTag else stallDrain) s

/-- The item of a descriptor that waits at the gang's input for its generation: it is the staged generation of a member that
has not switched yet, or of its issuer (R33, R123). -/
def genWaits (s : State) (l : TileId) : Option ItemKey :=
  ((gangOf s l).input.find? (fun d => (l :: d.issuer :: liveMembers s l).any (fun m =>
    decide (d.gen ≠ (hdr s (mnt m)).genLive) && decide (d.gen = (hdr s (mnt m)).genStaged)))).map (·.key)

/-- One beat of a gang: due cells are drained, then a slot is admitted or the beat is counted as R123 says. -/
def gangBeat (l : TileId) (wait : BankWait) (s : State) : State :=
  let e := gangGeo s l
  let s := formNext e 5 s
  let g := gangOf s l
  let cols := (List.range e.widths.sum).map (fun j => (j, colState s e g j))
  let reads := cols.filterMap (fun c => match c.2 with | .read st i => some (c.1, st, i) | _ => none)
  let held := cols.any (fun c => match c.2 with | .held _ => true | _ => false)
  let tag := cols.any (fun c => match c.2 with | .held t => t | _ => false)
  let feed := feedWaits e s
  let drainKey := g.drains.head?.bind (fun st => (gangDesc g st.serial).map (·.key))
  let s := drainBeat e reads s
  let g := gangOf s l
  let key : Option ItemKey := match g.plan with
    | some p => (gangDesc g p.serial).map (·.key)
    | none => if g.adm < g.tend then g.tailKey else none
  match key with
  | some k => slotBeat e (if feed then .conflict else wait) k (genWaits s l).isSome s
  | none => tailBeat e drainKey (genWaits s l) (!reads.isEmpty) held tag feed s

/-- A gang with a descriptor accepted or waiting for its generation; the beats of any other are not counted (R123). -/
def gangActive (s : State) (l : TileId) : Bool := !(gangOf s l).descs.isEmpty || (genWaits s l).isSome

/-- ARRAY_BEAT (R111 to R126): one beat of the gang that tile t leads. -/
def execArrayBeat (t : TileId) (wait : BankWait) (s : State) : Res :=
  .next (if s.flt.safe || !gangActive s t || decide (liveLeader s t ≠ t) then s else gangBeat t wait s)

/-- RUN_STALL_CLOSE (R126): admission has halted for 64 beats in a row. -/
def execRunStallClose (t : TileId) (s : State) : Res :=
  let g := gangOf s t
  .next (if g.runOpen ∧ 64 ≤ g.haltRun then setGang t { g with runOpen := false, ramp := ⟨0, 0, 0⟩, haltRun := 0 } s else s)

/-! ## Completion (R134) -/

/-- ARRAY_DESCRIPTOR_COMPLETE: the oldest accepted descriptor whose every step has been drained. -/
def execArrayDescriptorComplete (t : TileId) (s : State) : Res :=
  .next (match (gangOf s t).descs with
    | [] => s
    | d :: _ => if arrayDrained d then completeArray t d s else s)

end Sys2Proof.Machine
end

