-- ==== Sys2Proof/Machine/Audit.lean ====
section
/-! DEFINITION. The root of trust's audit log (R488) and random values drawn as free values (R470). -/

namespace Sys2Proof.Machine
open Sys2Proof

/-- n random bytes: a free value (entry 4). -/
def freeBytes (n : Nat) (s : State) : List Byte × State :=
  let (x, s) := takeFree s
  (bytesOfNat n x, s)

/-- n free values. -/
def takeFrees : Nat → State → List Nat × State
  | 0, s => ([], s)
  | n + 1, s =>
    let (x, s) := takeFree s
    let (xs, s) := takeFrees n s
    (x :: xs, s)

/-- Event codes that are no opcodes. -/
def evBoot : Nat := 0xF0
def evSafe : Nat := 0xF1
def evTamper : Nat := 0xF2
def evLinkRefused : Nat := 0xF3
def evReset : Nat := 0xF4

/-- The 48 bytes of an entry. -/
def auditBytes (e : AuditEntry) : List Byte :=
  bytesOfNat 4 e.index ++ [e.event, e.who, e.status, 0] ++ bytesOfNat 4 e.kslot.toNat ++ [0, 0, 0, 0] ++ e.digest

/-- An entry appended: the chain head moves on, and the newest 16,384 entries are kept. The head is signed after every
16 entries and where `sign` asks for it. -/
def auditAppend (event who status kslot : Nat) (digest : List Byte) (sign : Bool) (s : State) : State :=
  modRot (fun r =>
    let e : AuditEntry := ⟨r.auditNext, BitVec.ofNat 8 event, BitVec.ofNat 8 who, BitVec.ofNat 8 status,
      BitVec.ofNat 32 kslot, digest⟩
    let log := r.audit ++ [e]
    let h := Config.shake256 (r.auditHead ++ auditBytes e) 32
    let signs := sign || decide ((r.auditNext + 1) % 16 = 0)
    { r with
      audit := log.drop (log.length - 16384)
      auditNext := r.auditNext + 1
      auditHead := h
      signedAt := if signs then r.auditNext else r.signedAt
      signedHead := if signs then h else r.signedHead }) s

/-- An entry for an event that is no command, whose data begin with some bytes; the rest of what they hold is free (entry 4). -/
def auditNote (event : Nat) (data : List Byte) (sign : Bool) (s : State) : State :=
  let (d, s) := freeBytes 32 s
  auditAppend event 0 0 0 ((data ++ d).take 32) sign s

def auditEvent (event : Nat) (sign : Bool) (s : State) : State := auditNote event [] sign s

end Sys2Proof.Machine
end

