-- ==== Sys2Proof/Machine/SrvMem.lean ====
section
/-! DEFINITION. What a survival engine keeps in memory: the survival record, the tensor table, the places of its buffers, the digests
(R453, R454, R458, R459, R465). Places that the spec does not give a byte of are named in entry 29. -/

namespace Sys2Proof.Machine
open Sys2Proof

/-! ## The survival record and the tensor table (R453, R454) -/

def modSrv (q : QuadId) (f : SrvSt → SrvSt) (s : State) : State := modQuad q (fun x => { x with srv := f x.srv }) s

/-- The record's words; none where it does not translate. -/
def survRec (p : Fin 4) (s : State) : List Word × State :=
  match vaRead (srvReq s p) (reg s (.srv (leadQuad s p)) Off.srvRecBase) 256 s with
  | (.ok d, s) => (wordsOfBytes 64 d.1, s)
  | (.error _, s) => ([], s)

def recWide (r : List Word) (n : Nat) : Nat := hword r n + 2 ^ 32 * fld (hword r (n + 1)) 15 0
/-- A chip of MEMBERS (24), HOLDERS (32) or HMEMBERS (40) by position. -/
def recChip (r : List Word) (base i : Nat) : BitVec 16 := BitVec.ofNat 16 (hword r (base + i / 2) / 2 ^ (16 * (i % 2)))
def recG (r : List Word) : Nat := fld (hword r 4) 4 0
def recPos (r : List Word) : Nat := fld (hword r 4) 9 5

/-- A tensor's entry. -/
structure TEnt where
  idx : Nat
  words : List Word
  deriving DecidableEq, Repr

def TEnt.id (e : TEnt) : Nat := fld (hword e.words 0) 15 0
def TEnt.method (e : TEnt) : Nat := fld (hword e.words 0) 17 16
def TEnt.chosen (e : TEnt) : Nat := fld (hword e.words 0) 19 18
def TEnt.c (e : TEnt) : Nat := fld (hword e.words 0) 28 20
def TEnt.va (e : TEnt) : Nat := recWide e.words 1
def TEnt.blocks (e : TEnt) : Nat := hword e.words 3
def TEnt.moff (e : TEnt) : Nat := hword e.words 4
def TEnt.poff (e : TEnt) : Nat := hword e.words 5
def TEnt.blockVa (e : TEnt) (j : Nat) : Nat := e.va + kib64 * j

def readEnt (p : Fin 4) (r : List Word) (i : Nat) (s : State) : TEnt × State :=
  match vaRead (srvReq s p) (recWide r 20 + 64 * i) 64 s with
  | (.ok d, s) => (⟨i, wordsOfBytes 16 d.1⟩, s)
  | (.error _, s) => (⟨i, []⟩, s)

def readTable (p : Fin 4) (r : List Word) (s : State) : List TEnt × State :=
  (List.range (fld (hword r 22) 15 0)).foldl (fun (a : List TEnt × State) i =>
    let (e, s) := readEnt p r i a.2
    (a.1 ++ [e], s)) ([], s)

/-- Bytes written to device memory by the engine, in packets of its own (R36). -/
def srvPut (p : Fin 4) (va : Nat) (bs : List Byte) (ps : List Bool) (s : State) : State :=
  emitSome (.srv (leadQuad s p)) (vaWriteRaw (srvReq s p) va bs ps s).2

/-- A word of a tensor's entry written. -/
def putEntWord (p : Fin 4) (r : List Word) (i n v : Nat) (s : State) : State :=
  srvPut p (recWide r 20 + 64 * i + 4 * n) (bytesOfNat 4 v) (clean 4) s

/-! ## Places (R453, R458, R459) -/

def recPpart (r : List Word) : Fin 4 := ⟨fld (hword r 0) 17 16 % 4, by omega⟩
def mirrorAddr (r : List Word) (buf off : Nat) : Nat := recWide r 1 + kib64 * (buf * hword r 3 + off)
def parityAddr (r : List Word) (buf off : Nat) : Nat := recWide r 5 + kib64 * (buf * hword r 7 + off)
def shadowAddr (r : List Word) (b : Nat) : Nat := recWide r 10 + kib64 * b
def stageAddr (r : List Word) (k : Nat) : Nat := recWide r 12 + kib64 * k
/-- Slot i of the ring of source position x on a holder: a 64-byte header, then the delta (entry 29). -/
def ringAddr (r : List Word) (x i : Nat) : Nat := recWide r 8 + (64 * x + i) * (kib64 + 64)

/-! ## Digests (R465) -/

/-- Bytes as eight words of DIGEST. -/
def putDigest (p : Fin 4) (r : List Word) (i : Nat) (d : List Byte) (s : State) : State :=
  srvPut p (recWide r 20 + 64 * i + 32) d (clean d.length) s

/-- The content of a tensor, block by block, at an address of its block j; none where it does not translate. -/
def tensorBytes (p : Fin 4) (blocks : Nat) (at_ : Nat → Nat) (s : State) : Option (List Byte) × State :=
  (List.range blocks).foldl (fun (a : Option (List Byte) × State) j =>
    match a.1 with
    | none => a
    | some bs => match vaRead (srvReq a.2 p) (at_ j) kib64 a.2 with
      | (.ok d, s) => (some (bs ++ d.1), s)
      | (.error _, s) => (none, s)) (some [], s)

/-- The digest of a tensor's content; a content that cannot be read here has a free digest. -/
def digestOf (c : Option (List Byte)) (s : State) : List Byte × State :=
  match c with
  | some bs => (fitBytes 32 (Config.shake256 bs 32), s)
  | none => freeBytes 32 s

/-- The requests of a digest check are all answered. -/
def checkCame (s : State) (p : Fin 4) : Bool :=
  s.quads[leadQuad s p].srv.todo.all (fun w => !isCheck w.2.1) &&
    s.fabReqs.all (fun r => decide (r.key.part ≠ p) || !isCheck r.dest)

/-- A digest check ends once the copies of its mirror tensors have come: their digests are written, and the verdict says so. -/
def settleCheck (q : QuadId) (s : State) : State :=
  let v := s.quads[q].srv
  let p := partOf s q
  if v.checking.isEmpty || !checkCame s p then s
  else
    let (r, s) := survRec p s
    let s := v.checking.foldl (fun s i =>
      let (e, s) := readEnt p r i s
      putDigest p r i (fitBytes 32 (Config.shake256 (fread (fun _ => (0 : Byte)) v.checkMem (2 ^ 48 * i) (kib64 * e.blocks)) 32)) s) s
    modSrv q (fun v => { v with checking := [], checkMem := [], verdict := 4 }) s

end Sys2Proof.Machine
end

