-- ==== Sys2Proof/Machine/GwCmds.lean ====
section
/-! DEFINITION. The Gwetre commands (R352 to R368, R480): packets as they arrive at a port, requests served at their
destination, reduce-on-write, training, a link that goes down. -/

namespace Sys2Proof.Machine
open Sys2Proof

/-! ## The receiver (R355, R356) -/

/-- Packets of the retry buffer that an acknowledgement of LSEQ `ack` covers are gone. -/
def retireAcked (p : PortId) (ack : Nat) (s : State) : State :=
  let covered (x : GwHeld) : Bool := decide ((ack + 4096 - (gwHdrOf x.tx.header).lseq) % 4096 < 2048)
  let g := s.ports[p]
  let rest := g.retry.dropWhile covered
  if rest.length = g.retry.length then s
  else flushPort p (modPort p (fun g => { g with retry := rest }) s)

/-- A packet that fails its check: counted and reported, with a NAK naming the LSEQ; a later one that is no replay of
it is discarded. -/
def failedPacket (p : PortId) (lseq : Nat) (s : State) : State :=
  let g := s.ports[p]
  if g.nakSent && decide (lseq ≠ g.rxSeq.toNat) then s
  else
    s |> bump (gwp p) Off.gwpRetry 1 |> raiseFault (gwp p) 0x20 0 0 g.rxSeq.toNat
      |> modPort p (fun g => { g with nakSent := true, rxFails := g.rxFails + 1 })
      |> sendCtrl p 0 false (0, 0) (some g.rxSeq.toNat)

/-- The output port of a packet in transit, with the dateline bit of its route: none where it ends here, in the safe state, or
where its route is not valid or not UP (R358 to R360, R439). -/
def transit (s : State) (p : PortId) (h : GwHdr) : Option (PortId × Bool) :=
  if s.flt.safe || decide (h.dchip = ownChip s) then none
  else match routeOf s.ports[p].routes h.dchip with
    | some (o, dl) => if portUp s o then some (o, dl) else none
    | none => none

/-- A failed packet already on its way out of another port leaves it stomped (R355, R360): the output's next LSEQ
goes to the replayed copy. -/
def stompOnward (p : PortId) (pk : GwPacket) (s : State) : State :=
  let h := gwHdrOf pk.header
  if gwMalformed pk then s
  else match transit s p h with
    | some (o, dl) =>
      let h := linkHdr s.ports[o] (routedHdr dl h)
      if canSend s.ports[o] h && s.ports[o].waiting.isEmpty then gwPut o (gwWords h) pk.payload true s else s
    | none => s

/-- A port has met a packet under the next nonce of its receiving direction (R354). -/
def nextNonce (p : PortId) (s : State) : State := modPort p (fun g => { g with rxNonce := g.rxNonce + 1 }) s

/-- The tag is checked on a keyed link only (R480). -/
def packetPasses (s : State) (p : PortId) (pk : GwPacket) : Bool :=
  pk.crc == .good && (pk.tagOk || !s.ports[p].keyed)

/-- A packet at an UP port whose opcode is the row's, or is none of R353's. -/
def rowTakes (s : State) (p : PortId) (opc : Nat) (pk : GwPacket) : Bool :=
  let o := (gwHdrOf pk.header).opc
  portUp s p && (o == opc || !(gwIsRequest o || gwIsResponse o || o == gwLinkCtrl))

/-! ## Requests at their destination (R361 to R366) -/

/-- A reduce window live at a port: base, bytes, partition, payload and destination element sizes. -/
structure Window where
  base : Nat
  size : Nat
  part : Nat
  wp : Nat
  wd : Nat
  deriving DecidableEq, Repr

/-- The enabled windows that a port has adopted. -/
def windowsOf (g : GwpSt) : List Window :=
  (List.range 16).filterMap (fun k =>
    let b := (fget (fun _ => (0 : DWord)) g.rdw (2 * k)).toNat
    let z := (fget (fun _ => (0 : DWord)) g.rdw (2 * k + 1)).toNat
    if bitOf b 50 then some ⟨fld b 47 0, 4096 * z, fld b 49 48, if bitOf b 51 then 4 else 2, if bitOf b 52 then 4 else 2⟩
    else none)

/-- The window of partition dp that a range meets. -/
def windowAt (g : GwpSt) (dp addr len : Nat) : Option Window :=
  (windowsOf g).find? (fun w => decide (w.part = dp) && decide (w.base < addr + len) && decide (addr < w.base + w.size))

def windowHolds (w : Window) (addr len : Nat) : Bool := decide (w.base ≤ addr) && decide (addr + len ≤ w.base + w.size)

/-- Where the elements of a payload are added: linear from the window's base (entry 22). -/
def reduceRange (w : Window) (addr len : Nat) : Nat × Nat := (w.base + (addr - w.base) * w.wd / w.wp, len * w.wd / w.wp)

/-- Each element of the destination with its payload element added, rounded once (R366). -/
def reduceBytes (w : Window) (payload : List Byte) (bad : Bool) (dst : PBytes) : PBytes :=
  let n := payload.length / w.wp
  let spec (k : Nat) : FSpec := if k = 4 then specF32 else specBF16
  let ps := chunksOf w.wp n payload
  let ds := elemsOfBytes w.wd n dst
  elemBytes w.wd ((ps.zip ds).map (fun p =>
    (packIeee (spec w.wd) (fvAdd (decodeFloat (spec w.wd) p.2.1) (decodeFloat (spec w.wp) (natOfBytes p.1))), bad || p.2.2)))

/-- The whole sectors that a range of n bytes at a lies in. -/
def sectorSpan (a n : Nat) : Nat × Nat := (a / 64 * 64, (a + n + 63) / 64 * 64 - a / 64 * 64)

/-- The sectors after a reduce of the n bytes at offset k among them: the sums in their place, and a sector with a poisoned byte
poisoned whole (R366). -/
def reduceSectors (w : Window) (payload : List Byte) (bad : Bool) (k n : Nat) (d : PBytes) : PBytes :=
  let sum := reduceBytes w payload bad ((d.1.drop k).take n, (d.2.drop k).take n)
  let bits := d.2.take k ++ sum.2 ++ d.2.drop (k + n)
  (d.1.take k ++ sum.1 ++ d.1.drop (k + n),
    (List.range bits.length).map (fun i => ((bits.drop (i / 64 * 64)).take 64).any (fun b => b)))

/-- The access of a port for a partition (R364). -/
def portReq (p : PortId) (part : Fin 4) : VaReq := ⟨.port p, part, 0xFFFF, 0, gwp p⟩

/-- The tag with which a port delivers a request to the blocks of its chip (R364): JOB 0, ITEM 0xFFFF, the port's live
generation and SEQ, and the sender's LAYER, POISON and DET. -/
def deliverTag (p : PortId) (h : GwHdr) (s : State) : Nat × State :=
  let (n, s) := emit (gwp p) s
  (tagOf h.dpart 0 (hdr s (gwp p)).genLive.toNat (tagLayer h.tag) 0xFFFF 1 (tagPoison h.tag) (tagDet h.tag) n, s)

/-- Every page of a range of virtual addresses translates. -/
def allTranslate (r : VaReq) (va len : Nat) (wr : Bool) (s : State) : Option Nat × State :=
  (piecesOf (2 ^ 21) va len).foldl (fun a p =>
    match a with
    | (some c, s) => (some c, s)
    | (none, s) =>
      match translate r p.1 wr s with
      | (.error c, s) => (some c, s)
      | (.ok _, s) => (none, s)) (none, s)

/-- The checks of R363 on a range of fabric addresses: where it lies. -/
def checkRange (r : VaReq) (addr len : Nat) (wr : Bool) (s : State) : Except Nat Place × State :=
  if (quadsOf s r.part).isEmpty then (.error ePartition, s)
  else match fabPlace s r.part addr len with
    | .error c => (.error c, s)
    | .ok (.va a) =>
      (match allTranslate r a len wr s with
       | (some c, s) => (.error c, s)
       | (none, s) => (.ok (.va a), s))
    | .ok x => (.ok x, s)

/-- A router's access to a tile memory for a fabric request. -/
def fabMem (t : TileId) (m : MemSel) (a len : Nat) : MemReq := ⟨t, m, .tile t .tl, 0xFFFF, false, lineCount a len⟩

def readFab (r : VaReq) (x : Place) (len : Nat) (s : State) : Except Nat PBytes × State :=
  match x with
  | .mem t m a => let (d, s) := tmRead (fabMem t m a len) a len s; (.ok d, s)
  | .va a => vaRead r a len s
  | .remote _ _ _ => (.error eExtent, s)

def writeFab (r : VaReq) (x : Place) (d : PBytes) (s : State) : Except Nat Unit × State :=
  match x with
  | .mem t m a => (.ok (), tmWrite (fabMem t m a d.1.length) a d.1 d.2 s)
  | .va a => vaWrite r a d.1 d.2 s
  | .remote _ _ _ => (.error eExtent, s)

/-- The partition of DPART. -/
def dpartOf (h : GwHdr) : Fin 4 := ⟨h.dpart % 4, by omega⟩

/-- A request to store bytes: delivered, then written, or added into its reduce window. -/
def storeFab (p : PortId) (h : GwHdr) (bs : List Byte) (s : State) : Except Nat Unit × State :=
  let r := portReq p (dpartOf h)
  match windowAt s.ports[p] (dpartOf h).val h.addr bs.length with
  | none =>
    (match checkRange r h.addr bs.length true s with
     | (.error c, s) => (.error c, s)
     | (.ok x, s) =>
       let (t, s) := deliverTag p h s
       writeFab r x (bs, List.replicate bs.length (tagPoison t)) s)
  | some w =>
    let (a, n) := reduceRange w h.addr bs.length
    let (b, m) := sectorSpan a n
    if !windowHolds w h.addr bs.length || !windowHolds w a n then (.error eExtent, s)
    else match checkRange r b m true s with
      | (.error c, s) => (.error c, s)
      | (.ok x, s) =>
        let (t, s) := deliverTag p h s
        match readFab r x m s with
        | (.error c, s) => (.error c, s)
        | (.ok d, s) => writeFab r x (reduceSectors w bs (tagPoison t) (a - b) n d) s

/-- A request for this chip in the safe state is answered FENCED, one in transit E_LINK_DOWN (R439). -/
def safeRequest (p : PortId) (h : GwHdr) (s : State) : State :=
  answerErr p s.ports[p].routes h (if h.dchip = ownChip s then stFenced else eLinkDown) s

/-- WRITE (R363, R365, R366): stored and acknowledged; for another chip it has no route here. A write held by R457 waits at the
port. -/
def writeBody (p : PortId) (h : GwHdr) (pk : GwPacket) (s : State) : Option State :=
  if s.flt.safe then some (safeRequest p h s)
  else if h.dchip ≠ ownChip s then some (postRequest p s.ports[p].routes h pk.payload s)
  else match storeFab p h pk.payload s with
    | (.ok (), s) => some (answer p s.ports[p].routes h gwWriteAck 0 [] false s)
    | (.error c, s) => if c = waitCode then none else some (answerErr p s.ports[p].routes h c s)

/-- READ (R363, R365): answered with the sectors as they stand; for another chip it has no route here. -/
def readBody (p : PortId) (h : GwHdr) (pk : GwPacket) (s : State) : Option State :=
  if s.flt.safe then some (safeRequest p h s)
  else if h.dchip ≠ ownChip s then some (postRequest p s.ports[p].routes h pk.payload s)
  else
    let r := portReq p (dpartOf h)
    match checkRange r h.addr (64 * h.sectors) false s with
    | (.error c, s) => some (answerErr p s.ports[p].routes h c s)
    | (.ok x, s) =>
      match readFab r x (64 * h.sectors) (deliverTag p h s).2 with
      | (.error c, s) => some (answerErr p s.ports[p].routes h c s)
      | (.ok d, s) => some (answer p s.ports[p].routes h gwReadData 0 d.1 (d.2.any (fun b => b)) s)

/-- A response completes the request it names (R365, R368); one for another chip has no route here, or the safe state drops it. -/
def responseBody (p : PortId) (h : GwHdr) (pk : GwPacket) (s : State) : Option State :=
  if h.dchip ≠ ownChip s then some (dropRsp p s.ports[p].routes h.dchip s)
  else
    let rq := fabReqAt s h.rqid
    let s := postResponse p s.ports[p].routes h pk.payload s
    some (match rq with
      | some r => (match r.moveSerial with
        | some n => settleMove r.tile n s
        | none => settleCheck (leadQuad s r.key.part) (pumpSrv (leadQuad s r.key.part) 64 s))
      | none => s)

/-! ## Packets at their destination (R353, R356, R361) -/

/-- What a packet does at its destination; none where it must wait. -/
def gwBody (p : PortId) (h : GwHdr) (pk : GwPacket) (s : State) : Option State :=
  if h.opc = gwWrite then writeBody p h pk s else if h.opc = gwRead then readBody p h pk s else responseBody p h pk s

/-- A packet accepted at its destination, or refused; none where it must wait: a write held by R457, an access held at its memory. -/
def gwServe (p : PortId) (pk : GwPacket) (s : State) : Option State :=
  let h := gwHdrOf pk.header
  if gwMalformed pk then
    some (if gwIsRequest h.opc then answerErr p s.ports[p].routes h eFormat s
      else if gwIsResponse h.opc then bump (gwp p) Off.gwpRspDrop 1 s
      else s)
  else match gwBody p h pk { s with heldBack := false, passed := [] } with
    | none => none
    | some u => if u.heldBack || u.passed.any (outranked u false) then none else some { u with passed := [] }

/-- A packet that stands at a port goes to its output port, with its place in the buffer, or is served here and leaves the buffer. -/
def takePacket (p : PortId) (x : GwHold) (s : State) : Option State :=
  let h := gwHdrOf x.pk.header
  let buf := if x.credit then some (p, h.vc, h.flits) else none
  if x.late && blockStops s (gwp p) then none
  else match if gwMalformed x.pk then none else transit s p h with
    | some (o, dl) => some (sendOn o ⟨gwWords (routedHdr dl h), x.pk.payload, buf, false⟩ s)
    | none => (gwServe p x.pk s).map (freeBuf buf)

/-- The packets that stand at a port are taken, in arrival order per source chip and virtual channel (R361). -/
def serveHeld (p : PortId) (s : State) : State :=
  let xs := s.ports[p].held
  let s := modPort p (fun g => { g with held := [] }) s
  (xs.foldl (fun a x =>
    let h := gwHdrOf x.pk.header
    let keep := ((h.schip, h.vc) :: a.1, modPort p (fun g => { g with held := g.held ++ [x] }) a.2)
    if a.1.contains (h.schip, h.vc) then keep
    else match takePacket p x a.2 with
      | some s => (a.1, s)
      | none => keep) (([] : List (Nat × Nat)), s)).2

/-- Every port's packets, after something that one of them may have waited for. -/
def serveAll (s : State) : State := settleAll (allPorts.foldl (fun s p => serveHeld p s) s)

/-- A routed packet arrives: its checks, its sequence number and acknowledgement, then what it is for. One that must wait stands in this
port's buffer, and so does a new request while the port drains. -/
def gwArrive (opc : Nat) (p : PortId) (pk : GwPacket) (s : State) : State :=
  if !rowTakes s p opc pk then s
  else
    let h := gwHdrOf pk.header
    let s := bump (gwp p) Off.gwpFlitRx h.flits (noteWork (blockId (gwp p)) s)
    if pk.crc == .stomped then stompOnward p pk (bump (gwp p) Off.gwpStomp 1 (nextNonce p s))
    else if !packetPasses s p pk then stompOnward p pk (failedPacket p h.lseq s)
    else if h.lseq ≠ s.ports[p].rxSeq.toNat then s
    else
      let s := if h.ackV then retireAcked p h.ack s else s
      let s := modPort p (fun g => { g with rxSeq := g.rxSeq + 1, nakSent := false, rxFails := 0 }) s
      let s := sendCtrl p h.lseq true (0, 0) none (nextNonce p s)
      let x : GwHold := ⟨pk, true, blockStops s (gwp p) && gwIsRequest h.opc⟩
      serveHeld p (modPort p (fun g => { g with held := g.held ++ [x] }) s)

/-- The routed packets' commands. -/
def gwRow (opc : Nat) (p : PortId) (pk : GwPacket) (s : State) : Res := .next (settleAll (gwArrive opc p pk s))

def execGwWrite (p : PortId) (pk : GwPacket) (s : State) : Res := gwRow gwWrite p pk s
def execGwRead (p : PortId) (pk : GwPacket) (s : State) : Res := gwRow gwRead p pk s
def execGwWriteAck (p : PortId) (pk : GwPacket) (s : State) : Res := gwRow gwWriteAck p pk s
def execGwReadData (p : PortId) (pk : GwPacket) (s : State) : Res := gwRow gwReadData p pk s
def execGwError (p : PortId) (pk : GwPacket) (s : State) : Res := gwRow gwError p pk s

/-! ## LINK_CTRL (R352, R355, R356) -/

/-- Credits of word 6 returned to a port. -/
def addCredits (p : PortId) (w6 : Nat) (s : State) : State :=
  modPort p (fun g => { g with credits := Vector.ofFn (fun k : Fin 3 =>
    min 256 (vat g.credits k.val 0 + fld w6 (10 * k.val + 9) (10 * k.val))) }) s

/-- The packet of LSEQ n has failed; every packet of the retry buffer from it onward is sent again, in order, as it was (R354,
R355). -/
def replayFrom (p : PortId) (n : Nat) (s : State) : State :=
  let s := modPort p (fun g => { g with retry := g.retry.map (fun x =>
    if (gwHdrOf x.tx.header).lseq = n then { x with fails := x.fails + 1 } else x) }) s
  (s.ports[p].retry.filter (fun x => decide (((gwHdrOf x.tx.header).lseq + 4096 - n) % 4096 < 2048))).foldl (fun s x =>
    bump (gwp p) Off.gwpFlitTx (txFlits x.tx) { s with out := s.out ++ [.gw p x.tx] }) s

def linkCtrlBody (p : PortId) (pk : GwPacket) (s : State) : State :=
  let w3 := hword pk.header 3
  let w6 := hword pk.header 6
  let w7 := hword pk.header 7
  if ctrlMalformed pk then s
  else
    let s := addCredits p w6 s
    let s := if bitOf w3 12 then retireAcked p (fld w3 11 0) s else s
    let s := if bitOf w7 12 then replayFrom p (fld w7 11 0) s else s
    flushPort p s

/-- A LINK_CTRL packet that fails its check is counted and reported; it has no LSEQ that a NAK could name, no replay follows, and its
nonce is spent (R354; entry 22). -/
def failedCtrl (p : PortId) (lseq : Nat) (s : State) : State :=
  raiseFault (gwp p) 0x20 0 0 lseq (bump (gwp p) Off.gwpRetry 1 (nextNonce p s))

def execLinkCtrl (p : PortId) (pk : GwPacket) (s : State) : Res :=
  .next (if !portUp s p || (gwHdrOf pk.header).opc != gwLinkCtrl then s
    else
      let s := bump (gwp p) Off.gwpFlitRx (gwHdrOf pk.header).flits s
      if pk.crc == .stomped then bump (gwp p) Off.gwpStomp 1 (nextNonce p s)
      else if packetPasses s p pk then linkCtrlBody p pk (nextNonce p s)
      else failedCtrl p (gwHdrOf pk.header).lseq s)

/-! ## Links down and up (R357, R368, R480) -/

/-- GWP_LINK_DOWN (R355, R357): the lanes lose alignment, or a packet has failed its eighth replay. -/
def execGwpLinkDown (p : PortId) (lostAlignment : Bool) (s : State) : Res :=
  .next (if portUp s p && (lostAlignment || s.ports[p].retry.any (fun x => decide (9 ≤ x.fails)) || decide (9 ≤ s.ports[p].rxFails))
    then settleAll (linkDown p (some lostAlignment) s) else s)

/-- The key of one direction of a link (R478): the shared secret of the static keys, the serials and the nonces, those of the
chip with the lower serial first, and the direction. -/
def linkKey (own : Nat) (x : GwTraining) (toPeer : Bool) : List Byte :=
  let lower := decide (Config.deviceSerial < x.serial.toNat)
  let order (a b : List Byte) : List Byte := if lower then a ++ b else b ++ a
  fitBytes 32 (Config.shake256 (x448Of linkStatic x.linkKey ++
    order (bytesOfNat 16 Config.deviceSerial) (bytesOfNat 16 x.serial.toNat) ++
    order (bytesOfNat 32 own) (bytesOfNat 32 x.nonce.toNat) ++ asciiBytes (if lower == toPeer then "L2H" else "H2L")) 32)

/-- The keys that a training derives, sending and receiving, with this chip's own nonce. -/
def linkKeys (own : Nat) (x : GwTraining) : List Byte × List Byte := (linkKey own x true, linkKey own x false)

/-- A link comes UP with fresh sequence numbers and nonces and whole credit. -/
def linkUp (p : PortId) (x : GwTraining) (keys : Option (List Byte × List Byte)) (s : State) : State :=
  noteWork (blockId (gwp p)) (modPort p (fun g => { g with
    link := .up, lanes := x.lanes, keys := keys, txNonce := 0, rxNonce := 0, keying := false, peer := x.peer, txSeq := 0
    rxSeq := 0, nakSent := false, rxFails := 0, retry := [], waiting := [], credits := Vector.replicate 3 256 }) s)

/-- GWP_TRAIN_COMPLETE (R354, R480): keys installed and the link UP, or UP without keys, or refused: it stays TRAINING
and the audit log says so. Certificates must pass in every case. -/
def execGwpTrainComplete (p : PortId) (x : GwTraining) (s : State) : Res :=
  .next (if s.ports[p].link ≠ .training then s
    else if lcKeyed s && x.peerKeyed && x.certOk then linkUp p x (some (linkKeys s.ports[p].nonce.toNat x)) s
    else if lcUnkeyed s && !x.peerKeyed && x.certOk then linkUp p x none s
    else auditEvent evLinkRefused false (modPort p (fun g => { g with keying := false }) s))

end Sys2Proof.Machine
end

