-- ==== Sys2Proof/Machine/CamLink.lean ====
section
/-! DEFINITION. The Cammos link (R376 to R384, R389, R392 to R396): transactions, flits, credits and the retry buffer,
interrupt requests, sealing, host windows, outbound reads, and what a link that goes DOWN or comes UP does. -/

namespace Sys2Proof.Machine
open Sys2Proof

/-! ## Transactions (R382 to R384) -/

def ttRegRd : Nat := 1
def ttRegWr : Nat := 2
def ttMemRd : Nat := 3
def ttMemWr : Nat := 4
def ttDb : Nat := 5
def ttIntr : Nat := 6
def ttCpl : Nat := 7

/-- The header as numbers. -/
structure CamHdr where
  ttype : Nat
  len : Nat
  tagid : Nat
  status : Nat
  addr : Nat
  conf : Bool
  poison : Bool
  deriving DecidableEq, Repr

def camHdrOf (ws : List Word) : CamHdr :=
  ⟨fld (hword ws 0) 3 0, fld (hword ws 0) 11 4, fld (hword ws 0) 21 12, fld (hword ws 0) 29 22,
    hword ws 1 + 2 ^ 32 * fld (hword ws 2) 15 0, bitOf (hword ws 3) 0, bitOf (hword ws 3) 1⟩

def camWords (h : CamHdr) : List Word :=
  [BitVec.ofNat 32 (h.ttype + 2 ^ 4 * h.len + 2 ^ 12 * h.tagid + 2 ^ 22 * h.status), BitVec.ofNat 32 h.addr,
    BitVec.ofNat 32 (h.addr / 2 ^ 32), BitVec.ofNat 32 (b2n h.conf + 2 * b2n h.poison)]

/-- An RSVD bit of the header is set; STATUS belongs to CPL only. -/
def camReserved (ws : List Word) : Bool :=
  decide (fld (hword ws 0) 31 30 ≠ 0) || decide (fld (hword ws 2) 31 16 ≠ 0) || decide (fld (hword ws 3) 31 2 ≠ 0) ||
    ((camHdrOf ws).ttype != ttCpl && decide ((camHdrOf ws).status ≠ 0))

/-- Payload bytes that follow a header, padded to 8 (R382, R383). -/
def camPayload (h : CamHdr) : Nat :=
  let words := if h.ttype = ttRegWr ∨ h.ttype = ttDb then 1 else if h.ttype = ttMemWr ∨ h.ttype = ttCpl then h.len else 0
  (4 * words + 7) / 8 * 8

/-- All bytes of a transaction on the link. -/
def camBytes (h : CamHdr) : Nat := 16 + camPayload h + (if h.conf then 16 else 0)

/-- Its 8-byte credit units. -/
def camUnits (h : CamHdr) : Nat := camBytes h / 8

/-- The data flits that a run of n stream bytes takes. -/
def flitsFor (n : Nat) : Nat := (n + 119) / 120

/-- The classes of R380. -/
inductive CamClass where
  | posted | nonPosted | completion
  deriving DecidableEq, Repr

def camClassOf (ttype : Nat) : Option CamClass :=
  if ttype = ttMemWr ∨ ttype = ttDb ∨ ttype = ttIntr then some .posted
  else if ttype = ttRegRd ∨ ttype = ttRegWr ∨ ttype = ttMemRd then some .nonPosted
  else if ttype = ttCpl then some .completion else none

/-! ## Sending (R378 to R380) -/

def camB (h : HostId) : Block := .cam h
def camUp (s : State) (h : HostId) : Bool := decide (s.cams[h].link = .up)

def camCreditOf (c : CamSt) : CamClass → Nat
  | .posted => c.creditsP | .nonPosted => c.creditsNP | .completion => c.creditsCpl
def spendCredit (k : CamClass) (n : Nat) (c : CamSt) : CamSt :=
  match k with
  | .posted => { c with creditsP := c.creditsP - n }
  | .nonPosted => { c with creditsNP := c.creditsNP - n }
  | .completion => { c with creditsCpl := c.creditsCpl - n }

/-- The bytes of a transaction in the stream (R382). -/
def camTxBytes (x : CamTx) : List Byte :=
  fitBytes (camBytes (camHdrOf x.header)) (bytesOfWords x.header ++ x.payload ++ x.tag)

/-- A flit: its link word, its stream filled up with zeros, and the CRC-32 of both (R378). -/
def camFlitBytes (link : Word) (stream : List Byte) : List Byte :=
  let bs := bytesOfWords [link] ++ fitBytes 120 stream
  bs ++ bytesOfNat 4 (crc32 bs).toNat

/-- Credit for all of a transaction's bytes, and room for them in the 256-flit retry buffer behind n bytes that leave before it. -/
def camCanSend (c : CamSt) (n : Nat) (x : CamTx) : Bool :=
  let h := camHdrOf x.header
  match camClassOf h.ttype with
  | some k => decide (c.link = .up) && decide (camUnits h ≤ camCreditOf c k) &&
      decide (c.flits.length + flitsFor (n + camBytes h) ≤ 256)
  | none => false

/-- An INTR that has been sent is pending no longer (R392). -/
def clearSent (x : CamTx) (c : CamSt) : CamSt :=
  let h := camHdrOf x.header
  if h.ttype = ttIntr then { c with irqPending := maskClear c.irqPending (h.addr % 256) } else c

/-- The transactions that leave a port: their bytes end to end, each with the byte at which it ends; and the port without them. -/
structure CamLoad where
  held : List (Option CamClass)
  bytes : List Byte
  ends : List (Nat × CamTx)
  port : CamSt

/-- The next waiting transaction leaves, or stays with those of its class behind it. -/
def camPick (a : CamLoad) (x : CamTx) : CamLoad :=
  let hd := camHdrOf x.header
  let k := camClassOf hd.ttype
  if a.held.contains k || !camCanSend a.port a.bytes.length x then
    { a with held := k :: a.held, port := { a.port with waiting := a.port.waiting ++ [x] } }
  else
    let bytes := a.bytes ++ camTxBytes x
    { a with
      bytes := bytes, ends := a.ends ++ [(bytes.length, x)]
      port := clearSent x (spendCredit (k.getD .posted) (camUnits hd) a.port) }

/-- A data flit sent: its link word holds its FSEQ and no acknowledgement, which goes in control flits. -/
def camDataFlit (h : HostId) (f : CamHeld) : OutEvent := .cam h (camFlitBytes (BitVec.ofNat 32 f.fseq.toNat) f.stream)

/-- The flits of a run of stream bytes, from an FSEQ on: laid end to end, the last filled up with padding. -/
def flitsOfStream (fseq : BitVec 12) (bs : List Byte) : List CamHeld :=
  (List.range (flitsFor bs.length)).map (fun i => ⟨fseq + BitVec.ofNat 12 i, fitBytes 120 (bs.drop (120 * i)), 0⟩)

/-- Waiting transactions leave in order within each class, those that leave together end to end (R378, R380). -/
def camFlush (h : HostId) (s : State) : State :=
  let c := s.cams[h]
  let l := c.waiting.foldl camPick ⟨[], [], [], { c with waiting := [] }⟩
  if l.ends.isEmpty then s
  else
    let fs := flitsOfStream c.txSeq l.bytes
    let s := modCam h (fun _ => { l.port with
      txSeq := c.txSeq + BitVec.ofNat 12 fs.length, flits := c.flits ++ fs
      retry := c.retry ++ l.ends.map (fun e => (c.txSeq + BitVec.ofNat 12 (flitsFor e.1) - 1, e.2)) }) s
    bump (camB h) Off.camFlitTx fs.length { s with out := s.out ++ fs.map (camDataFlit h) }

def camSend (h : HostId) (x : CamTx) (s : State) : State :=
  camFlush h (modCam h (fun c => { c with waiting := c.waiting ++ [x] }) (noteWork (blockId (camB h)) s))

/-- A control flit: its link word, P and NP credits, CPL credits (R378). -/
def camCtrlFlit (h : HostId) (link credits cpl : Word) : OutEvent := .cam h (camFlitBytes link (bytesOfWords [credits, cpl]))

/-- A control flit sent: acknowledgement or NAK, and credits. -/
def camControl (h : HostId) (ack : Nat) (ackV nak : Bool) (p np cpl : Nat) (s : State) : State :=
  { s with out := s.out ++ [camCtrlFlit h (BitVec.ofNat 32 (ack * 2 ^ 12 + 2 ^ 24 * b2n ackV + 2 ^ 25 * b2n nak + 2 ^ 26))
      (BitVec.ofNat 32 (p + 2 ^ 12 * np)) (BitVec.ofNat 32 cpl)] }

/-- The credit units of an inbound transaction go back to the adapter once it has been taken. -/
def returnCredit (h : HostId) (x : CamTx) (s : State) : State :=
  let n := camUnits (camHdrOf x.header)
  match camClassOf (camHdrOf x.header).ttype with
  | some .posted => camControl h 0 false false n 0 0 s
  | some .nonPosted => camControl h 0 false false 0 n 0 s
  | some .completion => camControl h 0 false false 0 0 n s
  | none => s

/-! ## Interrupt requests (R392) -/

def intrTx (v : Nat) : CamTx := ⟨camWords ⟨ttIntr, 0, 0, 0, v, false, false⟩, [], []⟩

/-- A port asked for a vector: a request for a pending vector merges with it; an UP port sends it. -/
def irqTo (h : HostId) (v : Nat) (s : State) : State :=
  if maskHas s.cams[h].irqPending v then s
  else
    let s := modCam h (fun c => { c with irqPending := maskSet c.irqPending v }) s
    if camUp s h then camSend h (intrTx v) s else s

/-- Vectors 64 to 66 go to the owner's port, or to both ports when the owner is no host port. -/
def irqSystem (v : Nat) (s : State) : State :=
  match s.dev.owner with
  | some .hp0 => irqTo 0 v s
  | some .hp1 => irqTo 1 v s
  | _ => irqTo 1 v (irqTo 0 v s)

/-- A completion queue's vector goes to its assigned master's port, else to the owner's, else it is not sent and
counted in CAM_IRQ_DROP of HP0. -/
def irqQueue (master v : Nat) (s : State) : State :=
  if master = 0 then irqTo 0 v s else if master = 1 then irqTo 1 v s
  else match s.dev.owner with
    | some .hp0 => irqTo 0 v s
    | some .hp1 => irqTo 1 v s
    | _ => bump (.cam 0) Off.camIrqDrop 1 s

/-! ## Sealing (R394 to R396) -/

/-- The nonce of a sealed transaction. -/
def txNonce (dir id ctr : Nat) : Nat := dir * 2 ^ 95 + id * 2 ^ 64 + ctr

def modSess (h : HostId) (p : Fin 4) (f : Session → Session) (s : State) : State :=
  modCam h (fun c => { c with sess := c.sess.set p (f c.sess[p]) }) s

/-- A seal or sequence failure: counted, and the session is FAILED. -/
def confFailed (h : HostId) (p : Fin 4) (s : State) : State :=
  bump (camB h) Off.camConfFail 1 (modSess h p (fun x => { x with state := .failed }) s)

/-- A sealed inbound transaction opened at the next counter: its payload as sent by the guest. -/
def openTx (h : HostId) (p : Fin 4) (x : CamTx) (s : State) : Option (List Byte) × State :=
  let z := s.cams[h].sess[p]
  match Config.gcmOpen z.keyIn (txNonce 0 z.id.toNat z.inCtr.toNat) (bytesOfWords x.header)
      (x.payload ++ x.tag) with
  | some bs => (some (fitBytes x.payload.length bs), modSess h p (fun x => { x with inCtr := x.inCtr + 1 }) s)
  | none => (none, confFailed h p s)

/-- A completion sealed for the guest, at the next counter. -/
def sealTx (h : HostId) (p : Fin 4) (x : CamTx) (s : State) : CamTx × State :=
  let z := s.cams[h].sess[p]
  let n := x.payload.length
  let y := fitBytes (n + 16) (Config.gcmSeal z.keyOut (txNonce 1 z.id.toNat z.outCtr.toNat)
    (bytesOfWords x.header) x.payload)
  (⟨x.header, y.take n, y.drop n⟩, modSess h p (fun x => { x with outCtr := x.outCtr + 1 }) s)

/-! ## Host windows (R389, R394, R396) -/

/-- A window register of a port: BASE and PAGES, for host windows at 0x300 and device windows at 0x200. -/
def hwinBase (s : State) (h : HostId) (k : Nat) : Nat := reg s (camB h) (Off.camHwinBase + 16 * k)
def hwinPages (s : State) (h : HostId) (k : Nat) : Nat := fld (reg s (camB h) (Off.camHwinSize + 16 * k)) 27 0

/-- What an outbound access for a partition meets. -/
inductive HostAccess where
  | refused (code : Nat)
  /-- a sealed ring without a session, or a port that drains: nothing is read or written (R396, R501) -/
  | waits
  | open_ (sealed : Bool)
  deriving DecidableEq, Repr

def hostAccess (s : State) (h : HostId) (p : Fin 4) (addr len : Nat) : HostAccess :=
  let k := fld addr 47 45
  let b := hwinBase s h k
  let z := s.cams[h].sess[p].state
  let off := fld addr 39 0
  let conf := bitOf b 2
  if blockStops s (camB h) then .waits
  else if !bitOf b 0 ∨ fld addr 44 40 ≠ 0 ∨ 4096 * hwinPages s h k < off + len ∨ fld b 4 3 ≠ p.val then
    .refused (if z = .none then ePartition else eBounce)
  else if z = .none then (if conf then .waits else .open_ false)
  else if !(bitOf b 1 && conf) then .refused eBounce
  else if z = .failed then .refused eDenied
  else .open_ true

/-- A ring in a host window stores sealed entries: the session of its partition is or was established there. -/
def ringSealed (s : State) (h : HostId) (p : Fin 4) (addr : Nat) : Bool :=
  bitOf (hwinBase s h (fld addr 47 45)) 2 || decide (s.cams[h].sess[p].state ≠ .none)

/-- An outbound access refused (R389): CAM_LAST_ERR and its counter; a record write is reported too. -/
def outRefused (h : HostId) (code ttype addr : Nat) (report : Bool) (s : State) : State :=
  let s := bump (camB h) Off.camOutRefused 1 s
  let s := setReg (camB h) Off.camLastErr (code + 2 ^ 8 * ttype + 2 ^ 12 + 2 ^ 13 * fld addr 47 45) s
  if report then raiseFault (camB h) 0x28 addr 0 (code + 2 ^ 8 * ttype + 2 ^ 12) s else s

/-! ## Outbound reads (R393) -/

/-- The entry that a submission queue has fetched. -/
def setFetched (q : QuadId) (k : Fin 16) (code : Nat) (ws : List Word) (s : State) : State :=
  modQuad q (fun x => { x with sqs := x.sqs.set k { x.sqs[k] with fetched := some (code, ws), fetching := false } }) s

/-- The lowest free TAGID slot. -/
def freeTag (c : CamSt) : Option Nat := (List.range 256).find? (fun n => c.reads.all (fun r => decide (r.slot.toNat ≠ n)))

/-- An outbound MEM_RD for a submission queue's entry. -/
def startRead (h : HostId) (q : QuadId) (k : Fin 16) (addr len : Nat) (s : State) : State :=
  match freeTag s.cams[h] with
  | none => s
  | some n =>
    let e := fget (fun _ => 0) s.cams[h].epochs n
    let s := modCam h (fun c => { c with
      reads := c.reads ++ [⟨BitVec.ofNat 8 n, BitVec.ofNat 2 e, some (q, k), len / 4⟩] }) s
    let s := modQuad q (fun x => { x with sqs := x.sqs.set k { x.sqs[k] with fetching := true } }) s
    camSend h ⟨camWords ⟨ttMemRd, len / 4, n + 2 ^ 8 * e, 0, addr, false, false⟩, [], []⟩ s

/-- Every outstanding outbound read completes with E_LINK_DOWN; its slot is freed and its epoch advances. -/
def endReads (h : HostId) (s : State) : State :=
  let rs := s.cams[h].reads
  let s := modCam h (fun c => { c with
    reads := []
    epochs := rs.foldl (fun m r => fset (fun _ => 0) m r.slot.toNat ((fget (fun _ => 0) m r.slot.toNat + 1) % 4)) c.epochs }) s
  rs.foldl (fun s r => match r.target with
    | some (q, k) => setFetched q k eLinkDown [] s
    | none => s) s

/-! ## Links down and up (R381) -/

/-- The transactions that a DOWN port keeps: outbound posted writes, whole. -/
def keptWrites (c : CamSt) : List CamTx :=
  (c.retry.map (·.2) ++ c.waiting).filter (fun x => (camHdrOf x.header).ttype == ttMemWr)

/-- Vectors of INTRs not yet acknowledged are pending again. -/
def repend (c : CamSt) : BitVec 256 :=
  (c.retry.map (·.2)).foldl (fun m x =>
    let h := camHdrOf x.header
    if h.ttype = ttIntr then maskSet m (h.addr % 256) else m) c.irqPending

def camLinkDown (h : HostId) (report : Bool) (s : State) : State :=
  let s := if report then raiseFault (camB h) 0x28 0 0 eLinkDown s else s
  let s := modCam h (fun c => { c with
    link := .down, lanes := 0, nakSent := false, rxFails := 0, flits := [], partBytes := [], rx := [], later := []
    waiting := keptWrites c, retry := [], irqPending := repend c }) s
  endReads h s

/-- Vectors pending at a port, in ascending order. -/
def pendingVectors (c : CamSt) : List Nat := (List.range 256).filter (fun v => maskHas c.irqPending v)

/-- A link comes UP: fresh sequence numbers, the receiver's credits advertised (R380), held writes sent again, then
pending INTRs. -/
def camLinkUp (h : HostId) (lanes : Byte) (s : State) : State :=
  let s := modCam h (fun c => { c with
    link := .up, lanes := lanes, txSeq := 0, rxSeq := 0, creditsP := 0, creditsNP := 0, creditsCpl := 0
    waiting := c.waiting ++ (pendingVectors c).map intrTx }) s
  camFlush h (camControl h 0 false false 1024 128 2048 s)

end Sys2Proof.Machine
end

