-- ==== Sys2Proof/Machine/Meter.lean ====
section
/-! DEFINITION. The Virhorn meter and its mailbox (R412 to R418, R420): marks, the apportioning of energy, signed
records and the record window. -/

namespace Sys2Proof.Machine
open Sys2Proof

/-! ## Marks (R414) -/

def markJobStart : Nat := 1
def markJobStop : Nat := 2
def markPartMap : Nat := 3
def markReset : Nat := 4

/-- The mailbox takes a mark: it has room among its 64, or the mark is dropped while METER_LINK stands. -/
def markRoom (s : State) (n : Nat) : Bool :=
  s.pwr.meterLost || (s.mtr.waitMarks.isEmpty && decide (s.mtr.marks.length + n ≤ 64))

/-- A mark sent: MSEQ counts it; while METER_LINK stands it is dropped and counted. Without room its sender waits. -/
def sendMark (kind : Nat) (part : Fin 4) (job : BitVec 6) (qmask : BitVec 4) (s : State) : State :=
  let m : Mark := ⟨kind, part, job, qmask, s.mtr.mseq⟩
  let count (s : State) : State := modMtr (fun x => { x with mseq := x.mseq + 1 }) s
  if s.pwr.meterLost then bump32 .mtr Off.mtrMarkDrop (count s)
  else if markRoom s 1 then modMtr (fun x => { x with marks := x.marks ++ [m] }) (count s)
  else modMtr (fun x => { x with waitMarks := x.waitMarks ++ [(kind, part, job, qmask)] }) s

/-- The senders that wait send, in order. -/
def resendMarks (s : State) : State :=
  s.mtr.waitMarks.foldl (fun s x => sendMark x.1 x.2.1 x.2.2.1 x.2.2.2 s) (modMtr (fun x => { x with waitMarks := [] }) s)

/-- The quadrants of a partition as a mask. -/
def quadMask (s : State) (p : Fin 4) : BitVec 4 := (quadsOf s p).foldl (fun m q => maskSet m q.val) 0

/-- One PART_MAP for each partition of the live map (R414). -/
def sendPartMaps (s : State) : State :=
  (List.finRange 4).foldl (fun a p => if (quadsOf s p).isEmpty then a else sendMark markPartMap p 0 (quadMask s p) a) s

/-! ## Records (R416) -/

/-- The key roles of Config.sign: the device identity key, Yarinwick's, the meter's. -/
def roleMeter : Nat := 2

/-- SW_NAME: ASCII "VIRHORN-LMS", zero-padded to 12 bytes. -/
def meterName : List Byte := [0x56, 0x49, 0x52, 0x48, 0x4F, 0x52, 0x4E, 0x2D, 0x4C, 0x4D, 0x53, 0]

def meterDigestNow (s : State) : List Byte := fitBytes 32 (Config.meterDigest s.mtr.now.event.toNat)

/-- Compute goes on while the meter is lost (R418). -/
def computeUnmetered (s : State) : Bool := s.pwr.meterLost && !bitOf (reg s .pwr Off.pwrPolicy) 0

/-- FLAGS of a partition's record. -/
def meterFlags (m : MtrSt) (p : Fin 4) (periodic overlap closed : Bool) : Nat :=
  b2n (maskHas m.unmetered p.val || decide (0 < m.unmet[p])) + 2 * b2n (maskHas m.restarted p.val && !periodic) +
    4 * b2n overlap + 8 * b2n closed + 16 * b2n (maskHas m.gap p.val)

/-- A record's first 128 bytes. -/
def recordHead (s : State) (rseq kind : Nat) (p : Fin 4) (job : BitVec 6) (flags ejob : Nat) : List Byte :=
  let m := s.mtr
  bytesOfNat 8 rseq ++ [BitVec.ofNat 8 kind, BitVec.ofNat 8 p.val, job.setWidth 8, (vat m.quads p.val 0).setWidth 8] ++
    bytesOfNat 4 flags ++ bytesOfNat 4 m.now.event.toNat ++ bytesOfNat 4 m.swVersion.toNat ++
    bytesOfNat 8 m.now.mtime ++ bytesOfNat 8 m.now.total ++ bytesOfNat 8 m.now.parts[p] ++ bytesOfNat 8 ejob ++
    bytesOfNat 8 m.unmet[p] ++ meterDigestNow s ++ meterName ++ List.replicate 20 0

/-- A record written: signed, numbered from 1, shown in slot RSEQ mod 64; what it reports for its partition starts
anew. -/
def meterRecord (kind : Nat) (p : Fin 4) (job : BitVec 6) (overlap closed : Bool) (ejob : Nat) (s : State) : State :=
  let n := s.mtr.now.rseq + 1
  let periodic := kind == 1
  let head := recordHead s n kind p job (meterFlags s.mtr p periodic overlap closed) ejob
  let bytes := head ++ fitBytes 114 (Config.sign roleMeter head) ++ List.replicate 14 0
  modMtr (fun m => { m with
    now := { m.now with rseq := n }
    window := fset (fun _ => []) m.window (n % 64) bytes
    unmet := m.unmet.set p 0
    unmetered := if computeUnmetered s then m.unmetered else maskClear m.unmetered p.val
    gap := maskClear m.gap p.val
    restarted := if periodic then 0 else m.restarted }) s

/-- The partitions as the meter knows them. -/
def meterParts (m : MtrSt) : List (Fin 4) := (List.finRange 4).filter (fun p => decide (m.quads[p] ≠ 0))

/-! ## Energy (R412, R413) -/

/-- The rated power of a channel in W. -/
def ratedW (c : Nat) : Nat :=
  if c < 4 then 220 else if c < 8 then 40 else if c < 12 then 30 else if c = 12 then 60 else if c = 13 then 10
  else if c = 14 then 40 else 8

/-- The quadrants of a partition as the meter knows them. -/
def meterQuads (m : MtrSt) (p : Fin 4) : List Nat := (List.range 4).filter (fun q => maskHas m.quads[p] q)

def coreEnergy (m : MtrSt) (mj : List Nat) (p : Fin 4) : Nat := ((meterQuads m p).map (fun q => mj.getD q 0)).sum
def directEnergy (m : MtrSt) (mj : List Nat) (p : Fin 4) : Nat :=
  ((meterQuads m p).map (fun q => mj.getD q 0 + mj.getD (4 + q) 0 + mj.getD (8 + q) 0)).sum
def sharedEnergy (mj : List Nat) : Nat := ([12, 13, 14, 15].map (fun c => mj.getD c 0)).sum

/-- A partition's weight in the split of shared energy: its core energy, or its quadrants where every core energy is 0. -/
def shareWeight (m : MtrSt) (mj : List Nat) (p : Fin 4) : Nat :=
  if (List.finRange 4).all (fun p => decide (coreEnergy m mj p = 0)) then (meterQuads m p).length else coreEnergy m mj p

/-- Shared energy of each partition, rounded down. -/
def shareOf (m : MtrSt) (mj : List Nat) (p : Fin 4) : Nat :=
  sharedEnergy mj * shareWeight m mj p / ((List.finRange 4).map (shareWeight m mj)).sum

/-- The partition with the largest core energy, the lower number on a tie, of those that hold a quadrant. -/
def largestCore (m : MtrSt) (mj : List Nat) : Fin 4 :=
  (meterParts m).foldl (fun b p => if coreEnergy m mj b < coreEnergy m mj p then p else b) ((meterParts m).headD 0)

/-- What a partition's register gains. -/
def energyOf (m : MtrSt) (mj : List Nat) (p : Fin 4) : Nat :=
  directEnergy m mj p + shareOf m mj p +
    (if p = largestCore m mj then sharedEnergy mj - ((List.finRange 4).map (shareOf m mj)).sum else 0)

/-- Channels above their rated power in 100 ms lie outside the measuring range (entry 25). -/
def outOfRange (mj : List Nat) (c : Nat) : Bool := decide (100 * ratedW c < mj.getD c 0)

def unmeteredParts (m : MtrSt) (mj : List Nat) : BitVec 4 :=
  (List.finRange 4).foldl (fun x p =>
    if (meterQuads m p).any (fun q => outOfRange mj q || outOfRange mj (4 + q) || outOfRange mj (8 + q)) ||
        [12, 13, 14, 15].any (outOfRange mj) then maskSet x p.val else x) 0

/-- METER_APPORTION (R413): 100 ms of meter time. -/
def execMeterApportion (mj : List Nat) (s : State) : Res :=
  .next (if !s.mtr.running then s
    else modMtr (fun m => { m with
      now := { m.now with
        total := m.now.total + ((List.finRange 4).map (energyOf m mj)).sum
        parts := Vector.ofFn (fun p => m.now.parts[p] + energyOf m mj p)
        mtime := m.now.mtime + 100 }
      unmetered := m.unmetered ||| unmeteredParts m mj }) s)

/-- METER_NV_COMMIT (R523): the registers are committed to non-volatile memory. -/
def execMeterNvCommit (s : State) : Res :=
  .next (if s.mtr.running then modMtr (fun m => { m with nv := m.now }) s else s)

/-- PERIODIC_RECORD (R415): one PERIODIC record per partition. -/
def execPeriodicRecord (s : State) : Res :=
  .next (if s.mtr.running then (meterParts s.mtr).foldl (fun a p => meterRecord 1 p 0 false false 0 a) s else s)

/-! ## Marks taken (R414, R415) -/

/-- The mark at the head of the mailbox, of a kind, taken: a gap in MSEQ is flagged for every partition. -/
def takeMark (kind : Nat) (f : Mark → State → State) (s : State) : State :=
  if !s.mtr.running then s
  else match s.mtr.marks with
    | k :: rest =>
      if k.kind ≠ kind then s
      else
        let skipped := match s.mtr.lastMseq with
          | some n => decide (k.mseq ≠ n + 1)
          | none => false
        resendMarks (f k (modMtr (fun m => { m with
          marks := rest, lastMseq := some k.mseq, gap := if skipped then 0xF else m.gap }) s))
    | [] => s

/-- A job opens; jobs of one partition open together overlap. -/
def openJob (k : Mark) (s : State) : State :=
  modMtr (fun m =>
    let others := m.jobs.any (fun j => decide (j.part = k.part))
    { m with jobs := (m.jobs.map (fun j => if j.part = k.part then { j with overlap := true } else j)) ++
        [⟨k.part, k.job, m.now.parts[k.part], others⟩] }) s

/-- A job's record: E_PART now less E_PART at its start mark; without a start mark E_JOB is free (entry 25). -/
def closeJob (kind : Nat) (p : Fin 4) (job : BitVec 6) (closed : Bool) (s : State) : State :=
  match s.mtr.jobs.find? (fun j => decide (j.part = p ∧ j.job = job)) with
  | some j =>
    let s := meterRecord kind p job j.overlap closed (s.mtr.now.parts[p] - j.start) s
    modMtr (fun m => { m with jobs := m.jobs.filter (fun x => !decide (x.part = p ∧ x.job = job)) }) s
  | none => let (n, s) := takeFree s; meterRecord kind p job false closed n s

/-- JOB_START_MARK (R414). -/
def execJobStartMark (s : State) : Res := .next (takeMark markJobStart openJob s)
/-- JOB_STOP_MARK (R415). -/
def execJobStopMark (s : State) : Res := .next (takeMark markJobStop (fun k => closeJob 2 k.part k.job false) s)
/-- The quadrants of a mark go to its partition; each quadrant stays in exactly one (R413; entry 25). -/
def mapQuads (p : Fin 4) (mask : BitVec 4) (quads : Vector (BitVec 4) 4) : Vector (BitVec 4) 4 :=
  Vector.ofFn (fun r : Fin 4 => if r = p then quads[r] ||| mask else quads[r] &&& ~~~mask)

/-- PART_MAP_MARK (R414). -/
def execPartMapMark (s : State) : Res :=
  .next (takeMark markPartMap (fun k => modMtr (fun m => { m with quads := mapQuads k.part k.qmask m.quads })) s)
/-- RESET_MARK (R415): every open job record is closed. -/
def execResetMark (s : State) : Res :=
  .next (takeMark markReset (fun _ s => s.mtr.jobs.foldl (fun a j => closeJob 3 j.part j.job true a) s) s)

/-- The version of the meter image that restarts the meter, being applied or installed (R416, R490). -/
def meterVersion (s : State) : Word :=
  match s.rot.applying.find? (fun x => x.1 == 0x18) with
  | some x => x.2.2.1
  | none => (match s.rot.comps.find? (fun x => x.id == 0x18) with
    | some x => x.version
    | none => s.mtr.swVersion)

/-- METER_RESTART (R415, R417, R418): after an accepted image, whose change EVENT counts, or at power-up, when every
quadrant counts as partition 0 until the first PART_MAP. The device page sends PART_MAP marks. -/
def execMeterRestart (unmetMs : Nat) (image : Bool) (s : State) : Res :=
  .next (if image && !s.mtr.updating then s
    else
      let v := meterVersion s
      let s := modMtr (fun m => { m with
        updating := false, running := true, restarted := 0xF
        now := { m.now with
          event := if image then m.now.event + 1 else m.now.event
          mtime := m.now.mtime + unmetMs }
        unmet := m.unmet.map (· + unmetMs)
        swVersion := if image then v else m.swVersion
        quads := if image then m.quads else #v[0xF, 0, 0, 0] }) s
      let s := (meterParts s.mtr).foldl (fun a p => meterRecord 4 p 0 false false 0 a) s
      sendPartMaps s)

end Sys2Proof.Machine
end

