-- ==== Sys2Proof/Machine/Queues.lean ====
section
/-! DEFINITION. Queues (R310, R312, R318 to R325, R329, R532): what writes of a QUE_ page do, packets written by
producers, completion records in their rings, and entries fetched from host rings. -/

namespace Sys2Proof.Machine
open Sys2Proof

/-- The answer to an access and the state after it. -/
abbrev Eff := Nat × State
def ok (s : State) : Eff := (stDone, s)
def denied (s : State) : Eff := (eDenied, s)

/-! ## The fields of a queue page (R329) -/

def ringLog (s : State) (id : QueueId) : Nat := fld (queReg s id Off.queRingCfg) 4 0
def ringSize (s : State) (id : QueueId) : Nat := 2 ^ ringLog s id
def ringLoc (s : State) (id : QueueId) : Nat := fld (queReg s id Off.queRingCfg) 6 5
def ringPart (s : State) (id : QueueId) : Fin 4 := ⟨fld (queReg s id Off.queRingCfg) 9 8 % 4, by omega⟩
def ringMaster (s : State) (id : QueueId) : Nat := fld (queReg s id Off.queRingCfg) 11 10
def ringPrio (s : State) (id : QueueId) : Nat := fld (queReg s id Off.queRingCfg) 13 12
def ringIrq (s : State) (id : QueueId) : Nat := fld (queReg s id Off.queRingCfg) 31 24
def ringBase (s : State) (id : QueueId) : Nat := queReg s id Off.queRingBase

/-- The port of a ring in a host window, by LOC. -/
def ringPort (s : State) (id : QueueId) : Option HostId :=
  if ringLoc s id = 1 then some 0 else if ringLoc s id = 2 then some 1 else none

/-- The quadrant of a submission or completion queue. -/
def queQuad : QueueId → Option QuadId
  | .sq q _ => some q | .cq q _ => some q | _ => none

/-- A ring whose entries are sealed, in slots of twice the size (R395). -/
def sealedRing (s : State) (id : QueueId) : Bool :=
  match ringPort s id with
  | some h => ringSealed s h (ringPart s id) (ringBase s id)
  | none => false

/-- Bytes of a ring slot. -/
def slotBytes (s : State) (id : QueueId) : Nat :=
  (match id with | .sq _ _ => 64 | _ => 32) * (if sealedRing s id then 2 else 1)

/-! ## Rings in memory -/

/-- The access of a quadrant's dispatcher, or of its queue block, to device memory, through the quadrant's walker (entry 21). -/
def ringReq (q : QuadId) (p : Fin 4) : VaReq := ⟨.walker q, p, 0xFFFF, 0, .qdsp q⟩
def spillReq (q : QuadId) (p : Fin 4) : VaReq := ⟨.walker q, p, 0xFFFF, 0, .qque q⟩

/-- A host ring's next entry asked for: when its queue is enabled, has an unread entry, and none is on its way
(R381, R389, R393). -/
def pumpFetch (q : QuadId) (k : Fin 16) (s : State) : State :=
  let id := QueueId.sq q k
  let x := s.quads[q].sqs[k]
  match ringPort s id with
  | none => s
  | some h =>
    let head := queReg s id Off.queSqHead
    if !queEn s id || head = x.tail || x.fetching || x.fetched.isSome then s
    else
      let n := slotBytes s id
      let a := ringBase s id + head * n
      if !camUp s h then setFetched q k eLinkDown [] s
      else match hostAccess s h (ringPart s id) a n with
        | .refused c => setFetched q k c [] (outRefused h c ttMemRd a false s)
        | .waits => s
        | .open_ _ => startRead h q k a n (emitN (.qdsp q) 1 s)

def allSqs : List (QuadId × Fin 16) := allQuads.flatMap (fun q => (List.finRange 16).map (fun k => (q, k)))
def pumpQuad (q : QuadId) (s : State) : State := (List.finRange 16).foldl (fun a k => pumpFetch q k a) s
def pumpAll (s : State) : State := allQuads.foldl (fun a q => pumpQuad q a) s

/-- Reads on their way for a queue find no one waiting. -/
def detachReads (q : QuadId) (k : Fin 16) (s : State) : State :=
  let f (c : CamSt) : CamSt := { c with reads := c.reads.map (fun r => if r.target = some (q, k) then { r with target := none } else r) }
  s |> modCam 0 f |> modCam 1 f

def modSq (q : QuadId) (k : Fin 16) (f : SqSt → SqSt) (s : State) : State :=
  modQuad q (fun x => { x with sqs := x.sqs.set k (f x.sqs[k]) }) s
def modCq (q : QuadId) (k : Fin 16) (f : CqSt → CqSt) (s : State) : State :=
  modQuad q (fun x => { x with cqs := x.cqs.set k (f x.cqs[k]) }) s

/-- No entry of the queue is fetched or on its way. -/
def dropFetch (q : QuadId) (k : Fin 16) (s : State) : State :=
  modSq q k (fun x => { x with fetched := none, fetching := false }) (detachReads q k s)

/-! ## Writes of a queue page -/

/-- QUE_SQ_DB (R312). -/
def doorbell (q : QuadId) (k : Fin 16) (tail : Nat) (s : State) : Eff :=
  let id := QueueId.sq q k
  if !queEn s id then denied s
  else if ringSize s id ≤ tail then (eExtent, s)
  else ok (pumpFetch q k (modSq q k (fun x => { x with tail := tail }) s))

def cqTail (s : State) (id : QueueId) : Nat := fld (queReg s id Off.queCqTail) 15 0
def cqPhase (s : State) (id : QueueId) : Bool := bitOf (queReg s id Off.queCqTail) 16
def cqHead (s : State) (id : QueueId) : Nat := fld (queReg s id Off.queCqHead) 15 0
/-- Records of the ring not yet consumed. -/
def cqHeld (s : State) (id : QueueId) : Nat := (cqTail s id + ringSize s id - cqHead s id) % ringSize s id
/-- The ring is full (R320). -/
def cqFull (s : State) (id : QueueId) : Bool := decide (ringSize s id - 1 ≤ cqHeld s id)

/-- QUE_CQ_HEAD (R320): the head advances over records that the ring holds. -/
def setCqHead (q : QuadId) (k : Fin 16) (v : Nat) (s : State) : Eff :=
  let id := QueueId.cq q k
  if ringSize s id ≤ v ∨ cqHeld s id < (v + ringSize s id - cqHead s id) % ringSize s id then (eExtent, s)
  else ok (setQueReg id Off.queCqHead v s)

/-- The submission queues of a partition that are enabled (R310). -/
def sqsEnabled (s : State) (p : Fin 4) : Nat :=
  (allSqs.filter (fun x => queEn s (.sq x.1 x.2) && ringPart s (.sq x.1 x.2) == p)).length

/-- Why setting EN is refused (R310, R532). -/
def enableRefused (s : State) (id : QueueId) : Option Nat :=
  let spill := 2 ^ fld (queReg s id Off.queSpillSize) 4 0
  let ring := ringSize s id * slotBytes s id
  let rings := (queQuad id).isSome
  firstFail [(decide (queReg s id Off.queSpillBase % spill ≠ 0) || (rings && decide (ringBase s id % ring ≠ 0)), eAlign),
    ((match id with | .sq _ _ => true | _ => false) && decide (16 ≤ sqsEnabled s (ringPart s id)), eDenied)]

/-- Setting EN (R319, R395): head, tail and write phase, and the ring pass, start anew; kept records are written from
entry 0, one half-written first. -/
def startQueue (id : QueueId) (s : State) : State :=
  let s := setQueReg id Off.queCtrl 1 s
  match id with
  | .sq q k => dropFetch q k (setQueReg id Off.queSqHead 0 s) |> modSq q k (fun x => { x with tail := 0, pass := 0 })
  | .cq q k =>
    let s := setQueReg id Off.queCqHead 0 (setQueReg id Off.queCqTail 0x10000 s)
    modCq q k (fun x => { x with
      half := none, pass := 0, sinceIrq := 0, refused := false
      q := match x.half with
        | some ws => { x.q with pkts := recordPkt ws :: x.q.pkts }
        | none => x.q }) s
  | _ => s

/-- QUE_CTRL.EN written 1 (R532). -/
def enableQueue (id : QueueId) (s : State) : Eff :=
  if queEn s id then ok s
  else match enableRefused s id with
    | some c => (c, s)
    | none => ok (startQueue id s)

/-- QUE_CTRL.EN written 0 (R320, R441). -/
def disableQueue (id : QueueId) (s : State) : Eff :=
  match id with
  | .fault => denied s
  | .sq q k => ok (dropFetch q k (setQueReg id Off.queCtrl 0 s))
  | _ => ok (setQueReg id Off.queCtrl 0 s)

/-- A queue emptied, its producer's open packet dropped up to the next SOP (R325). -/
def emptied (x : SpillQ) : SpillQ := { spillEmpty with dropping := x.dropping || x.inPacket }

/-- The items whose records a completion stream holds. -/
def recordsOf (x : SpillQ) : List ItemKey := x.pkts.filterMap (fun p => match p.body with
  | .record ws => some (recordKey ws)
  | _ => none)

def dataOf (s : State) : QueueId → DataQ
  | .fab p => s.fabQs[p]
  | .tele q => s.teleQs[q]
  | _ => dataEmpty

def setData (id : QueueId) (x : DataQ) (s : State) : State :=
  match id with
  | .fab p => { s with fabQs := s.fabQs.set p x }
  | .tele q => { s with teleQs := s.teleQs.set q x }
  | _ => s

/-- The number 0 to 63 of a submission or completion queue. -/
def queNumber (q : QuadId) (k : Fin 16) : Nat := 16 * q.val + k.val

/-! ## The interrupt of a completion queue (R320) -/

/-- No item in flight and no record waiting names the queue. -/
def cqQuiet (s : State) (q : QuadId) (k : Fin 16) : Bool :=
  s.items.all (fun i => decide (i.cq ≠ queNumber q k)) && s.quads[q].cqs[k].q.pkts.isEmpty && s.quads[q].cqs[k].half.isNone

/-- The interrupt of R320: after every n records, and when the queue's last item in flight completes. -/
def irqRecords (q : QuadId) (k : Fin 16) (s : State) : State :=
  let id := QueueId.cq q k
  let n := ringIrq s id
  let x := s.quads[q].cqs[k]
  if decide (n ≠ 0) && decide (0 < x.sinceIrq) && (decide (n ≤ x.sinceIrq) || cqQuiet s q k) then
    irqQueue (ringMaster s id) (queNumber q k) (modCq q k (fun x => { x with sinceIrq := 0 }) s)
  else s

/-- A packet at the head of a queue rewound: a record so lost may leave its completion queue with nothing to come. -/
def rewindQue (id : QueueId) (s : State) : State :=
  let s := rewindHead id s
  match id with
  | .cq q k => irqRecords q k s
  | _ => s

/-! ## FLUSH -/

/-- A data queue emptied; its producer's open packet is dropped up to the next SOP (R325). -/
def emptiedData (x : DataQ) : DataQ := { dataEmpty with dropping := x.dropping || x.inPacket }

/-- FLUSH (R325, R395, R441). -/
def flushQueue (id : QueueId) (s : State) : State :=
  match id with
  | .sq q k =>
    let wraps := decide (s.quads[q].sqs[k].tail < queReg s id Off.queSqHead)
    let s := setQueReg id Off.queSqHead s.quads[q].sqs[k].tail s
    let s := modSq q k (fun x => { x with pass := if wraps then x.pass + 1 else x.pass }) s
    dropFetch q k (setQue id (emptied (queOf s id)) s)
  | .cq q k => irqRecords q k (modCq q k (fun x => { x with refused := false }) (setQue id (emptied (queOf s id)) s))
  | .work t => flushWork t s
  | .comp t =>
    let ks := recordsOf (queOf s id)
    let gone := s.items.filter (fun i => ks.contains i.key && decide (i.tile = t))
    let s := setQue id (emptied (queOf s id)) { s with items := s.items.filter (fun i => !(ks.contains i.key && decide (i.tile = t))) }
    ((gone.map (·.cq)).eraseDups).foldl (fun s n => irqRecords (cqOfNat n).1 (cqOfNat n).2 s) s
  | .fault => modFlt (fun f => { f with log := [] }) (setQue id (emptied (queOf s id)) s)
  | .fab _ | .tele _ => setData id (emptiedData (dataOf s id)) s

/-- QUE_CTRL written: FLUSH, then EN; a write that is refused flushes nothing (R441; entry 33). -/
def writeQueCtrl (id : QueueId) (v : Nat) (s : State) : Eff :=
  let t := if bitOf v 1 then flushQueue id s else s
  let (c, u) := if bitOf v 0 then enableQueue id t else disableQueue id t
  (c, if c = stDone then u else s)

/-- QUE_RING_CFG (R329, R532). -/
def writeRingCfg (id : QueueId) (v : Nat) (s : State) : Eff :=
  if queEn s id then denied s
  else match firstFail [(decide (fld v 6 5 = 3), eFormat), (decide (fld v 4 0 < 6 ∨ 16 < fld v 4 0), eExtent),
      (match queQuad id with | some q => decide ((partOf s q).val ≠ fld v 9 8) | none => false, ePartition)] with
    | some c => (c, s)
    | none => ok (setQueReg id Off.queRingCfg (fld v 31 24 * 2 ^ 24 + fld v 13 8 * 2 ^ 8 + fld v 6 0) s)

/-- QUE_SPILL_SIZE (R329, R532). -/
def writeSpillSize (id : QueueId) (v : Nat) (s : State) : Eff :=
  let l := fld v 4 0
  let device := (queQuad id).isSome
  if queEn s id then denied s
  else if (device && decide (l < 16 ∨ 26 < l)) || (!device && decide (l < 12 ∨ 16 < l)) then (eExtent, s)
  else ok (setQueReg id Off.queSpillSize l s)

/-- QUE_SPILL_BASE and QUE_RING_BASE (R329). -/
def writeQueBase (id : QueueId) (off v : Nat) (s : State) : Eff :=
  if queEn s id then denied s else ok (setQueReg id off (v % 2 ^ 48) s)

/-- The words that a queue holds, and the committed packets; the collector's queue is its log (R424). -/
def heldWords (s : State) (id : QueueId) : Nat :=
  if id = .fault then 2 * s.flt.log.length + s.flt.q.partWords.length
  else if dataQueue id then (dataOf s id).words.length else spillWords (queOf s id)
def heldPkts (s : State) (id : QueueId) : Nat :=
  if id = .fault then s.flt.log.length
  else if dataQueue id then ((dataOf s id).words.filter (·.eop)).length
  else ((queOf s id).pkts.filter (fun p => decide (0 < p.words))).length

/-- Words lie in the spill region. -/
def spilling (s : State) (id : QueueId) : Bool :=
  if id = .fault || dataQueue id then decide (32 < heldWords s id) else decide (0 < (queOf s id).lines)

/-- QUE_STAT (R329): FULL of a completion queue whose ring has a size and is full, whatever EN (R320). -/
def queStat (s : State) (id : QueueId) : Nat :=
  let full := match id with | .cq _ _ => decide (6 ≤ ringLog s id) && cqFull s id | _ => false
  queKind id + 8 * queClass id + 32 * b2n full + 64 * b2n (spilling s id) + 128 * b2n (decide (heldWords s id = 0))

/-- QUE_PKT_CNT and QUE_WORDS. -/
def quePktCnt (s : State) (id : QueueId) : Nat := min (heldPkts s id) (2 ^ 24 - 1)
def queWordCnt (s : State) (id : QueueId) : Nat := min (heldWords s id) (2 ^ 24 - 1)

/-! ## Packets (R321, R322) -/

/-- Lines of a queue's spill region, in its partition's device memory or in the tile's A-mem (R321, R324). -/
def queSpill (id : QueueId) (n : Nat) (s : State) : State :=
  match id with
  | .work t | .comp t => tileSpill t id n s
  | .sq q _ | .cq q _ =>
    let (bs, s) := spillBytes s
    (vaWrite (spillReq q (ringPart s id)) (spillAt s id n) bs (clean 64) s).2
  | _ => s
def queFetch (id : QueueId) (n : Nat) (s : State) : Bool × State :=
  match id with
  | .work t | .comp t => tileFetch t id n s
  | .sq q _ | .cq q _ => (match vaRead (spillReq q (ringPart s id)) (spillAt s id n) 64 s with
      | (.ok d, s) => (d.2.any (fun b => b), s)
      | (.error _, s) => (true, s))
  | _ => (false, s)

/-- A packet enters a queue (R321). -/
def pushQue (id : QueueId) (p : QPkt) (s : State) : State :=
  spillOut (queSpill id) id (setQue id { queOf s id with pkts := (queOf s id).pkts ++ [p] } s)

/-- Whether the packet at a queue's head fails, and that packet taken (R321, R322). -/
def queHeadBad (id : QueueId) (s : State) : Bool × State := headBad (queFetch id) id s
def takeQueHead (id : QueueId) (s : State) : State := takeHead (queFetch id) id s

/-- A fault message of two queue words, as its bits lie under R421. -/
def msgOfWords (ws : List DWord) : FMsg :=
  let n := (ws.getD 0 0).toNat + 2 ^ 64 * (ws.getD 1 0).toNat
  ⟨BitVec.ofNat 12 n, BitVec.ofNat 8 (n / 2 ^ 12), BitVec.ofNat 48 (n / 2 ^ 23), BitVec.ofNat 16 (n / 2 ^ 71),
    BitVec.ofNat 16 (n / 2 ^ 87), BitVec.ofNat 25 (n / 2 ^ 103)⟩

/-- A packet whose EOP has been written: committed, or rewound where a word fails its check. A fault message goes to
the collector, which logs it. -/
def commitPacket (id : QueueId) (ws : List DWord) (bad : Bool) (s : State) : State :=
  let p : QPkt := ⟨.raw ws, ws.length⟩
  if bad then
    let s := rewound id s
    if queKind id = 0 then setQue id { queOf s id with pkts := (queOf s id).pkts ++ [vanished (wdOf s id p)] } s else s
  else match id with
    | .fault => modFlt (fun f => { f with inflight := f.inflight ++ [msgOfWords ws] }) s
    | _ => pushQue id p s

/-! ## Data and telemetry queues (R323) -/

/-- Words written to a data queue: each is there for the consumer at once. Its spill region has the reset size (R329; entry 8). After
a flush words are dropped and counted up to the next SOP (R325). -/
def writeData (id : QueueId) (ws : List DWord) (sop eop : Bool) (bad : Option Nat) (s : State) : State :=
  let x := dataOf s id
  if x.dropping && !sop then bumpQue32 id Off.queFlushDropCnt ws.length s
  else if (!sop && !x.inPacket) || decide (dataRoom 16 < x.words.length + ws.length) then s
  else
    let word (p : DWord × Nat) : DataWord := ⟨p.1, sop && decide (p.2 = 0), eop && decide (p.2 + 1 = ws.length), decide (bad = some p.2)⟩
    setData id { x with words := x.words ++ ws.zipIdx.map word, inPacket := !eop, dropping := false } s

/-- The consumer takes one word; one that fails its check is delivered with POISON, counted, and reported as QUEUE_PARITY (R323,
R422). -/
def takeData (id : QueueId) (bad : Bool) (s : State) : State :=
  let x := dataOf s id
  match x.words with
  | [] => s
  | w :: rest =>
    let poison := w.bad || bad
    let s := setData id { x with words := rest, taken := (if w.sop then [] else x.taken) ++ [(w.bits, poison)] } s
    if poison then raiseFault (queBlock id) 0x08 0 (lostItem id) (queKind id) (bumpQue32 id Off.quePoisonCnt 1 s) else s

/-- Words written by a queue's producer (R321, R322, R325): into the tail cuff. After a flush words are dropped and counted up to
the next SOP; without room the producer waits; a packet holds at most 16 words; FLT_INJECT MODE 2 may corrupt one. A data queue takes
its words one by one (R323). -/
def writeWords (id : QueueId) (words : List DWord) (sop eop : Bool) (bad : Option Nat) (s : State) : State :=
  let x := queOf s id
  let held := if sop then [] else x.partWords
  if words.isEmpty then s
  else if dataQueue id then writeData id words sop eop bad s
  else if x.dropping && !sop then bumpQue32 id Off.queFlushDropCnt words.length s
  else if !sop && !x.inPacket then s
  else if !queRoom s id words.length || decide (16 < held.length + words.length) then s
  else
    let (hit, s) := match armedAt s (queBlock id) (fun _ => true) with
      | some a => (true, disarm a s)
      | none => (false, s)
    let isBad := (!sop && x.partBad) || bad.isSome || hit
    let all := held ++ words
    if eop then commitPacket id all isBad (setQue id { x with partWords := [], partBad := false, inPacket := false, dropping := false } s)
    else spillOut (queSpill id) id
      (setQue id { x with partWords := all, partBad := isBad, inPacket := true, dropping := false } s)

/-- QUEUE_PACKET_WRITE: a write whose spill must wait for its memory waits (R243, R504). -/
def execQueuePacketWrite (id : QueueId) (words : List DWord) (sop eop : Bool) (bad : Option Nat) (s : State) : Res :=
  .next (unlessHeld (writeWords id words sop eop bad) s)

/-! ## Completion records (R318 to R320, R395) -/

/-- The slot of a record in its ring. -/
def recordAddr (s : State) (id : QueueId) : Nat := ringBase s id + cqTail s id * slotBytes s id

/-- The nonce of a sealed ring entry: 0x53 for descriptors, 0x43 for records. -/
def ringNonce (kind queue index pass : Nat) : Nat :=
  kind * 2 ^ 88 + queue * 2 ^ 80 + index * 2 ^ 64 + pass % 2 ^ 32 * 2 ^ 32

/-- Word 7: PHASE. -/
def phaseWord (s : State) (id : QueueId) : Word := BitVec.ofNat 32 (2 ^ 31 * b2n (cqPhase s id))

/-- The first part of a sealed record: 60 bytes. -/
def sealedRecord (s : State) (q : QuadId) (k : Fin 16) (h : HostId) (ws : List Word) : List Byte :=
  let id := QueueId.cq q k
  let z := s.cams[h].sess[ringPart s id]
  let y := fitBytes 44 (Config.gcmSeal z.keyOut
    (ringNonce 0x43 (queNumber q k) (cqTail s id) s.quads[q].cqs[k].pass) (bytesOfWords [phaseWord s id])
    (bytesOfWords (ws.take 7)))
  y ++ List.replicate 16 0

/-- An outbound posted write. -/
def hostWrite (h : HostId) (addr : Nat) (bs : List Byte) (s : State) : State :=
  camSend h ⟨camWords ⟨ttMemWr, bs.length / 4, 0, 0, addr, false, false⟩, fitBytes ((bs.length + 7) / 8 * 8) bs, []⟩ s

/-- Bytes into a ring: by translation in device memory, by an outbound write in a host window; none where the write does
not go. -/
def ringWrite (q : QuadId) (id : QueueId) (addr : Nat) (bs : List Byte) (s : State) : Option State :=
  match ringPort s id with
  | none =>
    match vaWrite (ringReq q (ringPart s id)) addr bs (clean bs.length) s with
    | (.ok (), s) => some s
    | (.error _, _) => none
  | some h => some (hostWrite h addr bs s)

/-- What stands against a record write through a host window (R389). -/
def recordAccess (s : State) (id : QueueId) : HostAccess :=
  match ringPort s id with
  | none => .open_ false
  | some h => hostAccess s h (ringPart s id) (recordAddr s id) (slotBytes s id)

/-- A record gets its SEQ from the writing dispatcher (R316). -/
def withSeq (ws : List Word) (n : Nat) : List Word := ws.set 6 (BitVec.ofNat 32 (n + 2 ^ 16 * fld (hword ws 6) 31 16))

/-- Queue words as 32-bit words. -/
def rawWords (ds : List DWord) : List Word :=
  ds.flatMap (fun d => [BitVec.ofNat 32 d.toNat, BitVec.ofNat 32 (d.toNat / 2 ^ 32)])

/-- The words of a queued record. -/
def recordBody : QBody → Option (List Word)
  | .record ws => some ws
  | .raw ds => some ((rawWords ds ++ List.replicate 8 0).take 8)
  | _ => none

/-- A record write refused at its host window: reported once, and waiting until a window admits it (R389). -/
def recordRefused (q : QuadId) (k : Fin 16) (c : Nat) (s : State) : State :=
  let id := QueueId.cq q k
  match ringPort s id with
  | some h => if s.quads[q].cqs[k].refused then s
    else outRefused h c ttMemWr (recordAddr s id) true (modCq q k (fun x => { x with refused := true }) s)
  | none => s

/-- The first part of the record at the queue's head written at the tail. -/
def writeFirstPart (q : QuadId) (k : Fin 16) (ws : List Word) (s : State) : State :=
  let id := QueueId.cq q k
  let go (sealed : Bool) : State :=
    let (n, s1) := emit (.qdsp q) s
    let ws := withSeq ws n
    let bytes := match ringPort s id, sealed with
      | some h, true => sealedRecord s q k h ws
      | _, _ => bytesOfWords (ws.take 7)
    match ringWrite q id (recordAddr s id) bytes s1 with
    | some s2 => takeQueHead id (modCq q k (fun x => { x with half := some ws, refused := false }) s2)
    | none => s
  match recordAccess s id with
  | .refused c => recordRefused q k c s
  | .waits => s
  | .open_ z => go z

/-- COMPLETION_RECORD_WRITE (R318, R320): the first part of the next record, while the ring has room. -/
def writeRecord (q : QuadId) (k : Fin 16) (s : State) : State :=
  let id := QueueId.cq q k
  let x := s.quads[q].cqs[k]
  if !queEn s id || cqFull s id || x.half.isSome then s
  else match x.q.pkts with
    | p :: _ => (match recordBody p.body with
        | some ws => (match queHeadBad id s with
            | (true, s) => rewindQue id s
            | (false, s) => writeFirstPart q k ws s)
        | none => s)
    | [] => s

def execCompletionRecordWrite (q : QuadId) (k : Fin 16) (s : State) : Res :=
  .next (unlessHeld (writeRecord q k) s)

/-- The first part has been acknowledged: no write of it waits at the port (R386). -/
def firstPartAcked (s : State) (id : QueueId) : Bool :=
  match ringPort s id with
  | none => true
  | some h => !((s.cams[h].retry.map (·.2)) ++ s.cams[h].waiting).any (fun x =>
      (camHdrOf x.header).ttype == ttMemWr && (camHdrOf x.header).addr == recordAddr s id)

/-- The tail advances; the write phase flips, and the ring pass counts, where it wraps (R319, R395). -/
def advanceCq (q : QuadId) (k : Fin 16) (s : State) : State :=
  let id := QueueId.cq q k
  let t := (cqTail s id + 1) % ringSize s id
  let flip := decide (t = 0)
  let s' := setQueReg id Off.queCqTail (t + 2 ^ 16 * b2n (xor (cqPhase s id) flip)) s
  modCq q k (fun x => { x with half := none, sinceIrq := x.sinceIrq + 1, pass := if flip then x.pass + 1 else x.pass }) s'

/-- The second part of the record of ring k of quadrant q, which makes it valid, where the ring's window admits it (R318, R319, R389,
R396). -/
def writePhase (q : QuadId) (k : Fin 16) (s : State) : State :=
  let id := QueueId.cq q k
  match s.quads[q].cqs[k].half with
  | none => s
  | some _ =>
    if !queEn s id || !firstPartAcked s id then s
    else match recordAccess s id with
      | .refused c => recordRefused q k c s
      | .waits => s
      | .open_ _ =>
        let off := if sealedRing s id then 60 else 28
        match ringWrite q id (recordAddr s id + off) (bytesOfWords [phaseWord s id]) (emitN (.qdsp q) 1 s) with
        | some s => irqRecords q k (advanceCq q k (modCq q k (fun x => { x with refused := false }) s))
        | none => s

/-- COMPLETION_PHASE_WRITE (R318, R319): the write that makes a record valid; one that waits for a memory is tried again (R504). -/
def execCompletionPhaseWrite (q : QuadId) (k : Fin 16) (s : State) : Res :=
  .next (unlessHeld (writePhase q k) s)

end Sys2Proof.Machine
end

