-- ==== Sys2Proof/Machine/Jobs.lean ====
section
/-! DEFINITION. Work submission (R310 to R314): descriptors read from the submission queues, the dispatcher's checks,
items placed on tiles, jobs granted and ended. -/

namespace Sys2Proof.Machine
open Sys2Proof

/-! ## Descriptors (R311, R312) -/

/-- A descriptor read from a queue: its sixteen words with its ring index, or why it cannot be read. -/
structure SqEntry where
  code : Nat
  words : List Word
  wd : Nat
  deriving DecidableEq, Repr

def sqHeadOf (s : State) (q : QuadId) (k : Fin 16) : Nat := queReg s (.sq q k) Off.queSqHead

/-- The head advances past an entry that has been read; the ring pass counts its wraps. -/
def advanceSq (q : QuadId) (k : Fin 16) (s : State) : State :=
  let id := QueueId.sq q k
  let t := (sqHeadOf s q k + 1) % ringSize s id
  modSq q k (fun x => { x with fetched := none, pass := if t = 0 then x.pass + 1 else x.pass }) (setQueReg id Off.queSqHead t s)

/-- A sealed descriptor opened (R395, R396): one that fails its tag is refused with E_DENIED and the session is FAILED; without an
ACTIVE session none is opened. -/
def openEntry (q : QuadId) (k : Fin 16) (h : HostId) (ws : List Word) (s : State) : Nat × List Word × State :=
  let id := QueueId.sq q k
  let p := ringPart s id
  let z := s.cams[h].sess[p]
  let bs := bytesOfWords ws
  if z.state ≠ .active then (eDenied, [], s)
  else match Config.gcmOpen z.keyIn (ringNonce 0x53 (queNumber q k) (sqHeadOf s q k) s.quads[q].sqs[k].pass) []
      (bs.take 80) with
  | some d => (0, wordsOfBytes 16 (fitBytes 64 d), s)
  | none => (eDenied, [], confFailed h p s)

/-- The ring's entry at the head, or why it cannot be read; none while it is not there yet. A poisoned entry has vanished (R314,
R321). -/
def ringEntry (q : QuadId) (k : Fin 16) (s : State) : Option (SqEntry × State) :=
  let id := QueueId.sq q k
  let x := s.quads[q].sqs[k]
  let head := sqHeadOf s q k
  if !queEn s id || decide (head = x.tail) then none
  else match ringPort s id with
    | none =>
      (match vaRead (ringReq q (ringPart s id)) (ringBase s id + 64 * head) 64 s with
       | (.error c, s) => some (⟨c, [], head⟩, s)
       | (.ok d, s) => some (⟨if d.2.any (fun b => b) then eInternal else 0, wordsOfBytes 16 d.1, head⟩, s))
    | some h =>
      match x.fetched with
      | none => none
      | some (c, ws) =>
        if c ≠ 0 ∨ !sealedRing s id then some (⟨c, ws, head⟩, s)
        else
          let (c, ws, s) := openEntry q k h ws s
          some (⟨c, ws, head⟩, s)

/-- The ring reader reads the entry at the head, once, into an empty queue, and the head advances (R312, R324; entry 8). -/
def readRing (q : QuadId) (k : Fin 16) (s : State) : State :=
  if !(queOf s (.sq q k)).pkts.isEmpty then s
  else match ringEntry q k s with
    | none => s
    | some (e, s) => pumpFetch q k (advanceSq q k (pushQue (.sq q k) ⟨.desc e.code e.words e.wd, 8⟩ s))

def readRings (q : QuadId) (s : State) : State := (List.finRange 16).foldl (fun s k => readRing q k s) (pumpQuad q s)

/-- The descriptor at the head of an enabled submission queue. -/
def nextEntry (q : QuadId) (k : Fin 16) (s : State) : Option SqEntry :=
  let id := QueueId.sq q k
  if !queEn s id then none
  else (queOf s id).pkts.head?.map (fun p => match p.body with
    | .desc c ws wd => ⟨c, ws, wd⟩
    | .raw ds => ⟨0, rawWords ds, wdOf s id p⟩
    | .record ws => ⟨0, ws, wdOf s id p⟩
    | _ => ⟨0, [], wdOf s id p⟩)

/-- The dispatcher takes the packet at the head. -/
def popEntry (q : QuadId) (k : Fin 16) (s : State) : State := takeQueHead (.sq q k) s

def opRun : Nat := 1
def opJobStart : Nat := 2
def opJobEnd : Nat := 3
def opJobAbort : Nat := 4

/-- A descriptor's fields. -/
structure Desc where
  op : Nat
  job : BitVec 6
  barrier : Bool
  cq : Nat
  layer : BitVec 12
  cookie : BitVec 16
  tiles : BitVec 64
  entry : BitVec 16
  args : List Word
  seed : DWord
  seedEn : Bool
  det : Bool
  qerr : Word
  promoMax : Nat
  promoApply : Bool
  deriving DecidableEq, Repr

def descOf (ws : List Word) : Desc :=
  let w (i : Nat) : Nat := hword ws i
  ⟨fld (w 0) 7 0, BitVec.ofNat 6 (fld (w 0) 13 8), bitOf (w 0) 14, fld (w 0) 21 16, BitVec.ofNat 12 (w 1),
    BitVec.ofNat 16 (w 1 / 2 ^ 16), BitVec.ofNat 64 (w 2 + 2 ^ 32 * w 3), BitVec.ofNat 16 (w 4),
    (List.range 8).map (fun i => ws.getD (6 + i) 0), BitVec.ofNat 64 (w 6 + 2 ^ 32 * w 7), bitOf (w 8) 0, bitOf (w 8) 1,
    ws.getD 9 0, fld (w 10) 8 0, bitOf (w 10) 9⟩

/-- The bits of word i that an OP uses (R311). -/
def usedBits (op i : Nat) : Nat :=
  if i = 0 then 0x3F3FFF + (if op = opRun then 0x4000 else 0)
  else if i = 1 then 0xFFFF0000 + (if op = opRun then 0xFFF else 0)
  else if op = opRun then
    (if i = 2 ∨ i = 3 ∨ (6 ≤ i ∧ i ≤ 13) then 0xFFFFFFFF else if i = 4 then 0xFFFF else 0)
  else if op = opJobStart then
    (if i = 6 ∨ i = 7 ∨ i = 9 then 0xFFFFFFFF else if i = 8 then 3 else if i = 10 then 0x3FF else 0)
  else 0

def descReserved (ws : List Word) : Bool :=
  let op := fld (hword ws 0) 7 0
  decide (op = 0 ∨ opJobAbort < op) ||
    (List.range 16).any (fun i => decide (hword ws i &&& (0xFFFFFFFF - usedBits op i) ≠ 0))

/-- The tiles a mask names, ascending. -/
def tilesOf (m : BitVec 64) : List TileId := allTiles.filter (fun t => maskHas m t.val)

/-! ## The dispatcher (R314) -/

/-- A completion queue takes a record of a partition's work. -/
def cqTakes (s : State) (p : Fin 4) (n : Nat) : Bool :=
  let (q, k) := cqOfNat n
  queEn s (.cq q k) && ringPart s (.cq q k) == p

/-- A record posted in a completion queue. -/
def postRecord (n : Nat) (ws : List Word) (s : State) : State := pushQue (.cq (cqOfNat n).1 (cqOfNat n).2) (recordPkt ws) s

/-- The record of a command or a refused descriptor taken at a live generation. What its DETAIL holds the spec does not state: a free value
(entry 26). -/
def postCommand (n status : Nat) (gen : Byte) (p : Fin 4) (job : BitVec 6) (sq wd : Nat) (cookie : BitVec 16) (s : State) : State :=
  let (d, s) := takeFree s
  postRecord n (commandRecord status gen.toNat (jobByte p job) sq wd (d % 2 ^ 32) cookie.toNat) s

def dropDescriptor (q : QuadId) (s : State) : State := bump32 (.qdsp q) Off.qdspDropCnt s

/-- The dispatcher takes no descriptor: not on, failed, stopped with its head tile's SQC_ (R503), in the safe state, or
while its partition is zero-filled (R485). -/
def dispatchHeld (s : State) (q : QuadId) : Bool :=
  s.flt.safe || decide ((hdr s (.qdsp q)).mode ≠ .on) || quadFailed s q ||
    decide ((hdr s (.tile (headTile q) .sqc)).mode ≠ .on) || maskHas s.rot.zeroing q.val

/-- The generation stamped on an item for a tile (R58, R62 step 4). -/
def stampFor (s : State) (t : TileId) : Byte :=
  let x := s.quads[quadOf t]
  if x.notice && maskHas x.marked (quadPos t).val then s.dev.genTarget else x.stampGen

/-- A tile in which some block fences, or drains, has drained or is updated. -/
def tileFenced (s : State) (t : TileId) : Bool := tileUnits.any (fun u => decide ((hdr s (.tile t u)).mode = .fenced))
def tileHeld (s : State) (t : TileId) : Bool :=
  tileUnits.any (fun u => blockStops s (.tile t u))

def jobGranted (s : State) (p : Fin 4) (job : BitVec 6) : Bool :=
  let x := s.quads[leadQuad s p]
  maskHas x.granted job.toNat && !maskHas x.ending job.toNat

/-- The checks of R314 on a RUN; a tile with a fenced block last (R430). -/
def runFails (s : State) (p : Fin 4) (ws : List Word) (d : Desc) : Option Nat :=
  let ts := tilesOf d.tiles
  firstFail [(descReserved ws || ts.isEmpty, eProgram), (decide (d.entry.toNat % 4 ≠ 0), eAlign),
    (ts.any (fun t => partOfTile s t != p || quadFailed s (quadOf t)), ePartition),
    (ts.any (fun t => s.tiles[t].retired), eShape), (!jobGranted s p d.job, eDenied), (ts.any (tileFenced s), stFenced)]

/-- A RUN that passes its checks waits: for BARRIER, a tile that holds 32 items or drains, its other dispatchers, or the
meter (R314, R418, R502). -/
def runWaits (s : State) (sq : Nat) (d : Desc) : Bool :=
  let ts := tilesOf d.tiles
  meterHold s || (d.barrier && s.items.any (fun i => decide (i.sq = sq))) ||
    ts.any (fun t => decide (32 ≤ (tileItems s t).length) || tileHeld s t || dispatchHeld s (quadOf t) ||
      !queRoom s (.work t) 8)

/-- The next ITEM value of a partition: not in flight, not 0xFFFF (R32). -/
def freeItem (s : State) (p : Fin 4) : Nat → BitVec 16 → BitVec 16
  | 0, n => n
  | k + 1, n => if n = 0xFFFF ∨ (findItem s ⟨p, n⟩).isSome then freeItem s p k (n + 1) else n

/-- One item placed in a tile's work stream: eight queue words (entry 8), a packet of the tile's dispatcher. -/
def placeItem (p : Fin 4) (sq wd : Nat) (d : Desc) (s : State) (x : TileId × Nat) : State :=
  let (t, rank) := x
  let lead := leadQuad s p
  let n := freeItem s p 4096 s.quads[lead].nextItem
  let k : ItemKey := ⟨p, n⟩
  let i : Item := {
    key := k, job := d.job, gen := stampFor s t, det := (jobParam s t d.job.toNat).det, layer := d.layer, tile := t,
    rank := rank, entry := d.entry, args := d.args, sq := sq, cq := d.cq, wd := wd, cookie := d.cookie, state := .queued,
    errs := [], remote := 0, fenced := false, cancelled := false, poisoned := false, flags := 0, detail := 0,
    listEnded := false, usedArray := false, usedVector := false, beatsArray := 0, beatsVector := 0, beatsMover := 0,
    sparse := false, sumRb := 0, sumDb := 0, energyPj := 0, taps := 0 }
  { s with items := s.items ++ [i] } |> modQuad lead (fun y => { y with nextItem := n + 1 })
    |> pushQue (.work t) ⟨.item k, 8⟩ |> emitN (.qdsp (quadOf t)) 1

def dispatchRun (p : Fin 4) (sq wd : Nat) (d : Desc) (s : State) : State :=
  (tilesOf d.tiles).zipIdx.foldl (placeItem p sq wd d) s

/-- QERR 0 selects the default; otherwise it must be a positive finite FP32. -/
def qerrBad (w : Word) : Bool :=
  match f32v w with
  | .fin neg m _ => decide (w ≠ 0) && (neg || decide (m = 0))
  | _ => true

def paramOf (d : Desc) : JobParam :=
  ⟨if d.seedEn then some d.seed else none, if d.qerr = 0 then jobParamDefault.qerr else d.qerr,
    if d.promoApply then d.promoMax else jobParamDefault.promoMax, d.det⟩

/-- A job's parameters in every tile of its partition (R87, R88). -/
def setJobParam (p : Fin 4) (job : BitVec 6) (v : JobParam) (s : State) : State :=
  ((quadsOf s p).flatMap quadTiles).foldl (fun a t =>
    modVec t (fun x => { x with jobs := fset (fun _ => jobParamDefault) x.jobs job.toNat v }) a) s

def startJob (p : Fin 4) (d : Desc) (s : State) : State :=
  s |> modQuad (leadQuad s p) (fun x => { x with granted := maskSet x.granted d.job.toNat })
    |> setJobParam p d.job (paramOf d) |> sendMark markJobStart p d.job 0

def jobStartFails (s : State) (p : Fin 4) (ws : List Word) (d : Desc) : Option Nat :=
  firstFail [(descReserved ws || (d.promoApply && decide (256 < d.promoMax)), eProgram),
    (decide (d.job = 0) || maskHas s.quads[leadQuad s p].granted d.job.toNat || qerrBad d.qerr, eDenied)]

/-- A job that ends takes no more RUNs; its number is freed, and its record posted, when its last item is COMPLETE. -/
def endJob (p : Fin 4) (sq wd : Nat) (d : Desc) (s : State) : State :=
  modQuad (leadQuad s p) (fun x => { x with
    ending := maskSet x.ending d.job.toNat, jobEnds := x.jobEnds ++ [(d.job, sq, d.cq, wd, d.cookie, s.dev.genLive)] }) s

def jobEndFails (s : State) (p : Fin 4) (ws : List Word) (d : Desc) : Option Nat :=
  firstFail [(descReserved ws, eProgram), (!jobGranted s p d.job, eDenied)]

/-- Every QUEUED item of a job ends CANCELLED. -/
def cancelJob (p : Fin 4) (job : BitVec 6) (s : State) : State :=
  (s.items.filter (fun i => decide (i.key.part = p ∧ i.job = job ∧ i.state = .queued))).foldl
    (fun a i => cancelItem i.key a) s

/-- What a descriptor does that its queue may act on: none where it waits. -/
def actOn (q : QuadId) (k : Fin 16) (e : SqEntry) (s : State) : Option State :=
  let sq := queNumber q k
  let p := ringPart s (.sq q k)
  let d := descOf e.words
  let refuse (c : Nat) : State := postCommand d.cq c s.dev.genLive p d.job sq e.wd d.cookie s
  if e.code ≠ 0 then
    if !cqTakes s p sq then some (dropDescriptor q s)
    else if queRoom s (.cq (cqOfNat sq).1 (cqOfNat sq).2) 4 then some (postCommand sq e.code s.dev.genLive p 0 sq e.wd 0 s)
    else none
  else if !cqTakes s p d.cq then some (dropDescriptor q s)
  else if !queRoom s (.cq (cqOfNat d.cq).1 (cqOfNat d.cq).2) 4 then none
  else if d.op = opJobStart then
    match jobStartFails s p e.words d with
    | some c => some (refuse c)
    | none => if markRoom s 1 then some (postCommand d.cq stDone s.dev.genLive p d.job sq e.wd d.cookie (startJob p d s)) else none
  else if d.op = opJobEnd then
    match jobEndFails s p e.words d with
    | some c => some (refuse c)
    | none => some (endJob p sq e.wd d s)
  else if d.op = opJobAbort then
    match jobEndFails s p e.words d with
    | some c => some (refuse c)
    | none => some (cancelJob p d.job (endJob p sq e.wd d s))
  else match runFails s p e.words d with
    | some c => some (refuse c)
    | none => if runWaits s sq d then none else some (dispatchRun p sq e.wd d s)

/-- The queue's next descriptor carried out, with its OP; none where it has none or waits. One that fails as it is read back has
vanished. -/
def tryQueue (q : QuadId) (k : Fin 16) (s : State) : Option (Nat × State) :=
  let s := match queHeadBad (.sq q k) s with
    | (true, s) => rewindHead (.sq q k) s
    | (false, s) => s
  match nextEntry q k s with
  | none => none
  | some e =>
    match actOn q k e (popEntry q k s) with
    | none => none
    | some s => some ((descOf e.words).op, modQuad q (fun x => { x with lastSq := k.val }) s)

/-- The order of service: the highest PRIO first, round robin among equals after the queue served last. -/
def serviceOrder (s : State) (q : QuadId) : List (Fin 16) :=
  let ring := (List.finRange 16).map (fun i => (⟨(s.quads[q].lastSq + 1 + i.val) % 16, by omega⟩ : Fin 16))
  [3, 2, 1, 0].flatMap (fun pr => ring.filter (fun k => ringPrio s (.sq q k) == pr))

/-- A dispatcher row: the ring readers read, and the descriptor that is next in turn acts where it is of the row's OP. -/
def dispatchRow (p : Nat → Bool) (q : QuadId) (s : State) : State :=
  unlessHeld (fun s =>
    if dispatchHeld s q then s
    else
      let t := readRings q s
      match (serviceOrder t q).findSome? (fun k => tryQueue q k t) with
      | some (op, u) => if p op then u else t
      | none => t) s

/-- RUN (R314): also a descriptor that has no valid OP, whose record or drop is the same. -/
def execRun (q : QuadId) (s : State) : Res :=
  .next (dispatchRow (fun op => !(op == opJobStart || op == opJobEnd || op == opJobAbort)) q s)
/-- JOB_START (R313). -/
def execJobStart (q : QuadId) (s : State) : Res := .next (dispatchRow (· == opJobStart) q s)
/-- JOB_END (R313). -/
def execJobEnd (q : QuadId) (s : State) : Res := .next (dispatchRow (· == opJobEnd) q s)
/-- JOB_ABORT (R313). -/
def execJobAbort (q : QuadId) (s : State) : Res := .next (dispatchRow (· == opJobAbort) q s)

/-! ## The end of a job (R88, R194, R287, R313) -/

/-- A job's sequence slots in its partition's tiles, and its stream slots in its quadrants, are free. -/
def freeJobSlots (p : Fin 4) (job : BitVec 6) (s : State) : State :=
  let s := ((quadsOf s p).flatMap quadTiles).foldl (fun a t => modVec t (fun v => { v with
    slots := v.slots.map (fun x => if x.owner = some (p, job) then seqSlotFree else x) }) a) s
  (quadsOf s p).foldl (fun a q => modQuad q (fun x => { x with
    streams := x.streams.filter (fun e => match e.2 with | some y => !decide (y.part = p ∧ y.job = job) | none => true) }) a) s

/-- JOB_NUMBER_FREE: the last item of an ending job is COMPLETE; its number, slots and parameters are freed, the mark is
sent and DONE posted. -/
def freeJob (part : Fin 4) (job : BitVec 6) (s : State) : State :=
  let lead := leadQuad s part
  if !maskHas s.quads[lead].ending job.toNat || s.items.any (fun i => decide (i.key.part = part ∧ i.job = job)) ||
      !markRoom s 1 then s
  else match s.quads[lead].jobEnds.find? (fun e => decide (e.1 = job)) with
    | none => s
    | some (_, sq, cq, wd, cookie, gen) =>
      if !queRoom s (.cq (cqOfNat cq).1 (cqOfNat cq).2) 4 then s
      else s |> modQuad lead (fun x => { x with
            granted := maskClear x.granted job.toNat, ending := maskClear x.ending job.toNat
            jobEnds := x.jobEnds.filter (fun e => decide (e.1 ≠ job)) })
        |> freeJobSlots part job |> setJobParam part job jobParamDefault |> sendMark markJobStop part job 0
        |> postCommand cq stDone gen part job sq wd cookie

def execJobNumberFree (part : Fin 4) (job : BitVec 6) (s : State) : Res := .next (unlessHeld (freeJob part job) s)

end Sys2Proof.Machine
end

