-- ==== Sys2Proof/Machine/Power.lean ====
section
/-! DEFINITION. The power controller (R401 to R411, R418, R535): rails set in steps, junction sensors, the energy
estimate with its trim, the peak limit with its bubbles, and the energy of items. -/

namespace Sys2Proof.Machine
open Sys2Proof

/-- A fault message of the power controller. -/
def pwrFault (kind detail : Nat) (s : State) : State := raiseFault .pwr kind 0 0 detail s

/-- The quadrant that owns a Gwetre port (R348). -/
def portQuad (s : State) (p : PortId) : QuadId := ⟨fld (reg s (.gwp p) Off.gwpCfg) 2 1 % 4, by omega⟩

/-- The quadrant that owns a Cammos port: the one on its side of the north edge (entry 27). -/
def hostQuad (h : HostId) : QuadId := ⟨h.val, by omega⟩

/-- The quadrant that owns a block, if one does (R15, R348). -/
def ownerQuad (s : State) : Block → Option QuadId
  | .hbm k => some (quadOfStack k) | .gwp p => some (portQuad s p) | .cam h => some (hostQuad h)
  | .qdsp q => some q | .qstat q => some q | .srv q => some q | .qque q => some q
  | .tile t _ => some (quadOf t)
  | _ => none

/-! ## Rails (R401 to R403) -/

/-- An entry of the quadrant's voltage table, the fused one or the v-th applied by image: point 3 at 75 °C is 0.70 V on
every chip; every other VDD entry is 0.62 V or more, every VDDM entry between 0.70 V and 0.85 V. -/
def tableEntry (q : QuadId) (v : Nat) (m : Bool) (point col : Nat) : Nat :=
  if m then max 700 (min 850 (Config.tableVddm q v point col))
  else if point = 3 ∧ col = 1 then 700 else max 620 (Config.tableVdd q v point col)

/-- Linear interpolation between the two nearest of 45, 75 and 105 °C, rounded up to the next millivolt; the nearer entry
outside them. Temperatures are in 0.25 °C. -/
def tableAt (q : QuadId) (v : Nat) (m : Bool) (point hot : Nat) : Nat :=
  let e := tableEntry q v m point
  let mix (lo hi d : Nat) : Nat := (lo * (120 - d) + hi * d + 119) / 120
  if hot ≤ 180 then e 0 else if hot ≤ 300 then mix (e 0) (e 1) (hot - 180)
  else if hot ≤ 420 then mix (e 1) (e 2) (hot - 300) else e 2

def pq (s : State) (q : QuadId) : PwrQuad := s.pwr.quads[q]
def modPq (q : QuadId) (f : PwrQuad → PwrQuad) (s : State) : State :=
  modPwr (fun p => { p with quads := p.quads.set q (f p.quads[q]) }) s

/-- What the table asks of a rail, VDD limited to 0.62 V to 0.80 V. -/
def railTarget (s : State) (q : QuadId) (m : Bool) : Nat :=
  let v := tableAt q (pq s q).tables m (pq s q).point (pq s q).hot
  if m then v else max 620 (min 800 v)

def railNow (x : PwrQuad) (m : Bool) : Nat := if m then x.vddm else x.vdd
def railGoal (x : PwrQuad) (m : Bool) : Nat := if m then x.vddmGoal else x.vddGoal
def railFailed (x : PwrQuad) (m : Bool) : Bool := if m then x.vddmFailed else x.vddFailed
def railBoot (x : PwrQuad) (m : Bool) : Bool := if m then x.vddmBoot else x.vddBoot
def setRailNow (m : Bool) (v : Nat) (x : PwrQuad) : PwrQuad := if m then { x with vddm := v } else { x with vdd := v }
def setRailGoal (m : Bool) (v : Nat) (x : PwrQuad) : PwrQuad :=
  if m then { x with vddmGoal := v } else { x with vddGoal := v }
def railBusy (x : PwrQuad) (m : Bool) : Bool := if m then x.vddmBusy else x.vddBusy
def setRailBusy (m : Bool) (v : Bool) (x : PwrQuad) : PwrQuad := if m then { x with vddmBusy := v } else { x with vddBusy := v }
def setRailFailed (m : Bool) (v : Bool) (x : PwrQuad) : PwrQuad :=
  if m then { x with vddmFailed := v } else { x with vddFailed := v }
def setRailBoot (m : Bool) (v : Bool) (x : PwrQuad) : PwrQuad := if m then { x with vddmBoot := v } else { x with vddBoot := v }

/-- AVSBus interface and rail select of a rail. -/
def avsIface (q : QuadId) : Bool := decide (2 ≤ q.val)
def avsSelect (q : QuadId) (m : Bool) : Nat := 2 * (q.val % 2) + b2n m

/-- A voltage written to a rail. -/
def writeRail (q : QuadId) (m : Bool) (mv : Nat) (s : State) : State :=
  modPq q (fun x => setRailBusy m true (setRailGoal m mv x)) { s with out := s.out ++ [.avs (avsIface q) (BitVec.ofNat 2 (avsSelect q m)) mv] }

/-- The next step of at most 10 mV. -/
def stepToward (now target : Nat) : Nat := if now ≤ target then min target (now + 10) else max target (now - 10)

/-- A voltage setting: VCAP shows the 0.80 V limit; a rail away from its target, or whose last setting failed (R403), takes a step
unless one is in progress. -/
def setRail (q : QuadId) (m : Bool) (s : State) : State :=
  let s := if m then s else modPq q (fun x => { x with vcap := decide (800 < tableAt q x.tables false x.point x.hot) }) s
  let x := pq s q
  let t := railTarget s q m
  if railBusy x m || (decide (t = railNow x m) && !railFailed x m) then s else writeRail q m (stepToward (railNow x m) t) s

/-- The rails of a quadrant stand at what its table asks. -/
def railsMatch (s : State) (q : QuadId) : Bool :=
  [false, true].all (fun m => decide (railNow (pq s q) m = railTarget s q m))

/-- A new table is confirmed once both rails match it (R506). -/
def settleTable (q : QuadId) (s : State) : State :=
  if (pq s q).tableNew && decide ((pq s q).tables = (pq s q).tablesTo) && railsMatch s q then modPq q (fun x => { x with tableNew := false }) s else s

/-- The voltage setting of both rails. -/
def setRails (q : QuadId) (s : State) : State := settleTable q (setRail q true (setRail q false s))

/-- Start-up step 5 (R495): every rail written; each confirms or fails. -/
def bootRails (s : State) : State :=
  allQuads.foldl (fun s q => [false, true].foldl (fun s m =>
    let s := modPq q (fun x => setRailBoot m false (setRailFailed m false x)) s
    writeRail q m (stepToward (railNow (pq s q) m) (railTarget s q m)) s) s) s

def railDone (x : PwrQuad) (m : Bool) : Bool := railBoot x m || railFailed x m

/-- Start-up goes on to the self-test once every rail has confirmed or failed; a quadrant with a failed rail stays down
(R497). -/
def bootDone (s : State) : State :=
  if s.dev.phase = 2 ∧ !s.flt.safe ∧ allQuads.all (fun q => railDone (pq s q) false && railDone (pq s q) true) then
    let bad := allQuads.foldl (fun (m : BitVec 4) q =>
      if railFailed (pq s q) false || railFailed (pq s q) true then maskSet m q.val else m) s.dev.qfail
    if bad = 0xF then modDev (fun d => { d with qfail := bad, phase := 15, halt := true, code := eInternal }) s
    else
      let s := modDev (fun d => { d with qfail := bad, phase := 3 }) s
      (allTiles.filter (fun t => !quadFailed s (quadOf t) && !s.tiles[t].retired)).foldl (fun s t => rotChain t s) s
  else s

/-- AVS_ACTION_COMPLETE (R401, R403): the voltage read back confirms the step; or the transaction failed, so that none is read back, the
regulator reports a fault, or the read-back differs: reported once. -/
def execAvsActionComplete (q : QuadId) (vddm : Bool) (readback : Option Nat) (fault : Bool) (s : State) : Res :=
  .next (let x := pq s q
    let booting := decide (s.dev.phase = 2) && !railDone x vddm
    let goal := railGoal x vddm
    let mismatch := readback.any (fun v => decide (goal + 10 < v ∨ v + 10 < goal))
    if !railBusy x vddm then s
    else if readback.isNone || fault || mismatch then
      let s := if railFailed x vddm then s else
        pwrFault 0x38 (b2n (avsIface q) + 2 * avsSelect q vddm + 8 * b2n mismatch + 16 * b2n fault) s
      bootDone (modPq q (fun x => setRailBusy vddm false (setRailGoal vddm (railNow x vddm) (setRailFailed vddm true x))) s)
    else
      let s := modPq q (fun x => setRailBusy vddm false (setRailFailed vddm false (setRailNow vddm goal x))) s
      let t := railTarget s q vddm
      if t ≠ goal then writeRail q vddm (stepToward goal t) s
      else settleTable q (bootDone (if booting then modPq q (setRailBoot vddm true) s else s)))

/-! ## Junction sensors (R404) -/

/-- The hottest of a quadrant's 18 sensors. -/
def hottest (temps : List (BitVec 10)) (q : QuadId) : Nat :=
  ((quadTiles q).map (·.val) ++ [64 + 2 * q.val, 65 + 2 * q.val]).foldl (fun m n => max m (temps.getD n 0).toNat) 0

/-- The fixed trip temperature, 112 °C. -/
def tripTemp : Nat := 448

/-- Each sensor that reaches the trip temperature is reported. -/
def thermalReports (old new : List (BitVec 10)) (s : State) : State :=
  (List.range 72).foldl (fun s n =>
    let t := (new.getD n 0).toNat
    if tripTemp ≤ t ∧ (old.getD n 0).toNat < tripTemp then pwrFault 0x39 (n + 2 ^ 7 * t) s else s) s

/-- The sensors as read: hottest values, the warning with its vector, the trip. -/
def takeTemps (temps : List (BitVec 10)) (s : State) : State :=
  let old := s.pwr.temps
  let warn := temps.any (fun t => decide (reg s .pwr Off.pwrTwarn ≤ t.toNat))
  let rising := warn && !s.pwr.twarn
  let s := modPwr (fun p => { p with temps := temps, twarn := warn }) s
  let s := allQuads.foldl (fun s q => modPq q (fun x => { x with hot := hottest temps q }) s) s
  let s := if rising then irqSystem 66 s else s
  thermalReports old temps s

def fitTemps (temps : List (BitVec 10)) : List (BitVec 10) := (temps ++ List.replicate 72 0).take 72

/-- The power controller samples: it has its reference clock, and is not being updated. -/
def pwrRuns (s : State) : Bool :=
  s.dev.powered && !s.rot.lostClks.contains .pwr && decide ((hdr s .pwr).mode ≠ .updating)

/-- While the controller is updated only the fixed trip stays armed, in its sampling domain (R507). -/
def tripOnly (temps : List (BitVec 10)) (s : State) : State :=
  thermalReports s.pwr.temps temps (modPwr (fun p => { p with temps := temps }) s)

/-- SENSOR_SAMPLE (R402, R404, R506, R507): every 100 µs; a new voltage table is in use from this voltage setting on. -/
def execSensorSample (temps : List (BitVec 10)) (s : State) : Res :=
  .next (if !s.dev.powered || s.rot.lostClks.contains .pwr then s
    else if (hdr s .pwr).mode = .updating then tripOnly (fitTemps temps) s
    else
      let s := takeTemps (fitTemps temps) s
      if s.dev.resetLow || decide (s.dev.phase < 2) then s else allQuads.foldl (fun s q => setRails q (modPq q (fun x => { x with tables := x.tablesTo }) s)) s)

/-! ## Leakage (R535) -/

def f32Quarter : Word := 0x3E800000#32
def f32Half : Word := 0x3F000000#32
def f32Two : Word := 0x40000000#32

def cube (w : Word) : Word := f32Mul (f32Mul w w) w

/-- ⌊√n⌋ of a number below 2²⁵⁶, bit by bit. -/
def isqrt (n : Nat) : Nat :=
  (List.range 128).foldl (fun r i => let r' := r + 2 ^ (127 - i); if r' * r' ≤ n then r' else r) 0

/-- 2^(f / 2⁶⁴) in units of 2⁻¹²⁶, by the roots of 2 that the bits of f name. -/
def exp2Frac (f : Nat) : Nat :=
  ((List.range 64).foldl (fun (a : Nat × Nat) i =>
    let r := isqrt (a.2 * 2 ^ 126)
    (if f.testBit (63 - i) then a.1 * r / 2 ^ 126 else a.1, r)) (2 ^ 126, 2 ^ 127)).1

/-- The FP32 word at or next below m × 2^e, of a positive number (with 127 bits of m). -/
def f32Below (m : Nat) (k : Int) : Word :=
  if k < -149 then 0 else if 127 < k then 0x7F7FFFFF#32
  else if k < -126 then f32 (.fin false (m / 2 ^ (103 + (-126 - k).toNat)) (-149)) else f32 (.fin false (m / 2 ^ 103) (k - 23))

/-- 2 to the power of an FP32 number, exact where the number is an integer, and else one of its two FP32 neighbours (R535; entry 6): the
power is carried to 2⁻¹⁰⁰ before that. -/
def exp2F32 (x : Word) : Word :=
  match f32v x with
  | .nan => x
  | .inf n => if n then 0 else x
  | .fin n m e =>
    let scale := e + 64
    let (q, exact) : Nat × Bool := if 0 ≤ scale then (m * 2 ^ scale.toNat, true)
      else (m / 2 ^ (-scale).toNat, decide (m % 2 ^ (-scale).toNat = 0))
    let v : Int := if n then (if exact then -(q : Int) else -((q : Int) + 1)) else q
    let k := v / 2 ^ 64
    let f := (v % 2 ^ 64).toNat
    if 128 ≤ k then 0x7F800000#32
    else if exact && decide (f = 0) then f32 (.fin false 1 k)
    else
      let lo := f32Below (exp2Frac f) k
      if Config.exp2Up x then lo + 1 else lo

/-- L_q in W, in FP32 (R535). -/
def leakage (s : State) (q : QuadId) : Word :=
  let x := pq s q
  let c := f32Mul (Config.leakCore q x.weights) (cube (f32Div (f32OfNat x.vdd) (f32OfNat 700)))
  let m := f32Mul (Config.leakMem q x.weights) (cube (f32Div (f32OfNat x.vddm) (f32OfNat 750)))
  let t := f32Mul (f32 (fvalOfInt ((x.hot : Int) - 300))) f32Quarter
  f32Mul (f32Add c m) (exp2F32 (f32Div t (Config.leakDouble q x.weights)))

/-- n times a non-negative FP32 value, rounded down. -/
def scaleDown (w : Word) (n : Nat) : Nat :=
  match f32v w with
  | .fin false m e => if 0 ≤ e then n * m * 2 ^ e.toNat else n * m / 2 ^ (-e).toNat
  | _ => 0

/-- Leakage energy of one window of 2 µs in pJ. -/
def leakagePj (s : State) (q : QuadId) : Nat := scaleDown (leakage s q) 2000000

/-! ## The estimate (R405 to R407) -/

def trimOf (s : State) (q : QuadId) : Word := BitVec.ofNat 32 (reg s .pwr (Off.pwrTrim + 4 * q.val))

/-- Windows of 2 µs in W. -/
def windowLen (s : State) : Nat := 250 * fld (reg s .pwr Off.pwrWindow) 3 0

/-- The table maximum of a quadrant: its blocks that are not OFF (R407). -/
def tableMax (s : State) (q : QuadId) : Nat :=
  let parts := (quadTiles q).flatMap (fun t => tileUnits.map (Block.tile t)) ++
    [Block.hbm (quadStack q false), Block.hbm (quadStack q true)] ++
    (allPorts.filter (fun p => decide (portQuad s p = q))).map Block.gwp ++
    (allHosts.filter (fun h => decide (hostQuad h = q))).map Block.cam
  ((parts.filter (fun b => decide ((hdr s b).mode ≠ .off))).map (fun b => Config.maxBlockPj (pq s q).weights (blockId b))).sum

/-- The energy of the last W: measured windows, and assumed ones at a maximum. -/
def windowSum (hist : List (Option Nat)) (n assumed : Nat) : Nat :=
  ((hist.take n).map (fun e => e.getD assumed)).sum + (n - hist.length) * assumed

/-- A history without its oldest missed window. -/
def dropMissed (h : List (Option Nat)) : List (Option Nat) := (h.reverse.erase none).reverse

/-- A window ends: a measured one replaces an assumed entry of the last n, oldest first (R407). -/
def pushWindow (n : Nat) (e : Option Nat) (h : List (Option Nat)) : List (Option Nat) :=
  let old := if e.isSome && decide (n ≤ h.length) then dropMissed (h.take n) ++ h.drop n else h
  (e :: old).take 4000

/-- An assumed entry remains among the last n. -/
def assumedLeft (n : Nat) (h : List (Option Nat)) : Bool := decide (h.length < n) || (h.take n).contains none

def quadSum (s : State) (q : QuadId) : Nat := windowSum (pq s q).hist (windowLen s) (tableMax s q)
def sysSum (s : State) : Nat := windowSum s.pwr.histSys (windowLen s) Config.maxSysPj

/-- PWR_STAT.COLD: assumed entries remain. -/
def pwrCold (s : State) : Bool :=
  allQuads.any (fun q => assumedLeft (windowLen s) (pq s q).hist) || assumedLeft (windowLen s) s.pwr.histSys

/-- PWR_QSTATq.AVG: A_q in 0.0625 W. -/
def quadAvg (s : State) (q : QuadId) : Nat :=
  if windowLen s = 0 then 0 else min (16 * quadSum s q / (2000000 * windowLen s)) 0xFFFF

/-! ## Bubbles (R409, R410) -/

/-- F of R410: A_q and B_q times 256 W, in pJ. A budget below 0 counts as 0. -/
def bubbleOf (s : State) (q : QuadId) : Nat :=
  let n := windowLen s
  let a := 256 * quadSum s q
  let b := fld (reg s .pwr (Off.pwrShare + 4 * q.val)) 8 0 *
    (fld (reg s .pwr Off.pwrLimit) 10 0 * (2000000 * n) - sysSum s)
  if a ≤ b then 0 else if b = 0 then 56
  else min 56 (64 * fld (reg s .pwr Off.pwrGain) 7 0 * (a - b) / (16 * b))

/-! ## Activity counters (R13, R405) -/

/-- Events counted. -/
def countEvent (s : State) (e : ActEvent) : State :=
  let n := e.counter.val
  match e.block with
  | .tile t => modTile t (fun x => { x with activity := x.activity.set e.counter (x.activity[e.counter] + e.count) }) s
  | .hbm k => modStack k (fun x => { x with activity := fset (fun _ => 0) x.activity n (fget (fun _ => 0) x.activity n + e.count) }) s
  | .port p => modPort p (fun x => { x with activity := fset (fun _ => 0) x.activity n (fget (fun _ => 0) x.activity n + e.count) }) s
  | .host h => modCam h (fun x => { x with activity := fset (fun _ => 0) x.activity n (fget (fun _ => 0) x.activity n + e.count) }) s

/-- The counters are read and cleared. -/
def clearActivity (s : State) : State :=
  { s with
    tiles := s.tiles.map (fun x => { x with activity := Vector.replicate 48 0 })
    hbmStacks := s.hbmStacks.map (fun x => { x with activity := [] })
    ports := s.ports.map (fun x => { x with activity := [] })
    cams := s.cams.map (fun x => { x with activity := [] }) }

/-- The weight of a counter of quadrant q: of its tiles, its controllers, its Gwetre and Cammos ports. -/
def weightOf (s : State) (q : QuadId) (kind i : Nat) : Nat := Config.weightPj q (pq s q).weights kind i

/-- Σ w·c over the counters of a quadrant, in pJ: those of its tiles, its HBM controllers, and the ports that it owns. -/
def dynPj (s : State) (q : QuadId) : Nat :=
  let sum (kind : Nat) (m : FMap Nat) : Nat := (m.map (fun e => weightOf s q kind e.1 * e.2)).sum
  ((quadTiles q).map (fun t => ((List.range 48).map (fun i => weightOf s q 0 i * vat s.tiles[t].activity i 0)).sum)).sum +
    ([false, true].map (fun b => sum 1 s.hbmStacks[quadStack q b].activity)).sum +
    ((allPorts.filter (fun p => decide (portQuad s p = q))).map (fun p => sum 2 s.ports[p].activity)).sum +
    ((allHosts.filter (fun h => decide (hostQuad h = q))).map (fun h => sum 3 s.cams[h].activity)).sum

/-- The quadrant to which an event's energy counts, and that energy in pJ. -/
def eventQuad (s : State) (e : ActEvent) : QuadId :=
  match e.block with
  | .tile t => quadOf t
  | .hbm k => quadOfStack k
  | .port p => portQuad s p
  | .host h => hostQuad h
def eventPj (s : State) (e : ActEvent) : Nat :=
  weightOf s (eventQuad s e) (match e.block with | .tile _ => 0 | .hbm _ => 1 | .port _ => 2 | .host _ => 3) e.counter.val * e.count

/-- The next window's fractions, and the count of windows with F > 0. -/
def setBubbles (q : QuadId) (es : List ActEvent) (s : State) : State :=
  let f := bubbleOf s q
  let a := ((es.filter (fun e => e.array)).map (eventPj s)).sum
  let p := a + ((es.filter (fun e => e.vector && !e.array)).map (eventPj s)).sum
  let fa := if p = 0 then 0 else f * a / p
  let s := modPq q (fun y => { y with fa := fa, fv := if p = 0 then 0 else f - fa }) s
  if 0 < f then bump .pwr (Off.pwrBub + 8 * q.val) 1 s else s

/-! ## Energy counters and items (R411) -/

/-- pJ added to a counter of mJ, the remainder kept. -/
def addEnergy (k off pj : Nat) (s : State) : State :=
  let t := fget (fun _ => 0) s.pwr.frac k + pj
  bump .pwr off (t / 10 ^ 9) (modPwr (fun p => { p with frac := fset (fun _ => 0) p.frac k (t % 10 ^ 9) }) s)

def addItemEnergy (k : ItemKey) (pj : Nat) (s : State) : State :=
  modItem k (fun i => { i with energyPj := i.energyPj + pj }) s

/-- Items RUNNING or FINISHING on a tile in the window: at its end, or until they ended in it. -/
def leakItems (s : State) (t : TileId) : List ItemKey :=
  ((tileItems s t).filter (fun i => decide (i.state = .running) || decide (i.state = .finishing))).map (·.key) ++
    (s.pwr.ran.filter (fun x => decide (x.1 = t))).map (·.2)

/-- A window's energy reaches an item, and the record of one that has ended as long as it stands in its completion stream (entry 28). -/
def creditItem (k : ItemKey) (pj : Nat) (s : State) : State :=
  let s := addItemEnergy k pj s
  match findItem s k with
  | some i => if i.state = .ended then
      let q := queOf s (.comp i.tile)
      setQue (.comp i.tile) { q with pkts := q.pkts.map (fun p => match p.body with
        | .record ws => if recordKey ws = k then recordPkt (itemRecord i) else p
        | _ => p) } s
    else s
  | none => s

/-- A window's energy attributed: that of the events which served each item, and an equal share of each tile's sixteenth of
the leakage (entry 28); the rest is unattributed. -/
def shareEnergy (q : QuadId) (es : List ActEvent) (total : Nat) (s : State) : State :=
  let w := trimOf s q
  let direct := es.filterMap (fun e => match e.item with
    | some k => if (findItem s ⟨k.1, k.2⟩).isSome || s.pwr.ran.any (fun x => decide (x.2 = ⟨k.1, k.2⟩)) then some ((⟨k.1, k.2⟩ : ItemKey), scaleDown w (eventPj s e)) else none
    | none => none)
  let tile := scaleDown w (leakagePj s q) / 16
  let leaks := (quadTiles q).flatMap (fun t =>
    let ks := leakItems s t
    ks.map (fun k => (k, tile / ks.length)))
  let all := direct ++ leaks
  let s := all.foldl (fun s e => creditItem e.1 e.2 s) s
  addEnergy 5 Off.pwrUnattr (total - (all.map (·.2)).sum) s

/-- One quadrant's window (R405, R406). -/
def quadWindow (s : State) (q : QuadId) (es : List ActEvent) : State :=
  let raw := dynPj s q + leakagePj s q
  let e := scaleDown (trimOf s q) raw
  let s := modPq q (fun y => { y with hist := pushWindow (windowLen s) (some e) y.hist, untrimmed := y.untrimmed + raw }) s
  shareEnergy q es e (addEnergy q.val (Off.pwrEst + 8 * q.val) e s)

/-- A new speed point is adopted with the window, and set on the rails. -/
def adoptPoint (q : QuadId) (s : State) : State :=
  let n := fld (reg s .pwr (Off.pwrSpeed + 4 * q.val)) 2 0
  if n = (pq s q).point then s else setRails q (modPq q (fun x => { x with point := n }) s)

/-- New estimator weights in use from the next window on: TRIM is 1.0, and the history is assumed (R506). -/
def adoptWeights (q : QuadId) (s : State) : State :=
  if (pq s q).weights = (pq s q).weightsTo then s
  else setReg .pwr (Off.pwrTrim + 4 * q.val) 0x3F800000 (modPq q (fun x => { x with weights := x.weightsTo, hist := [] }) s)

/-- Values adopted at the controller's switch, and new trims, hold from the start of its next window (R62 step 9, R408). -/
def adoptPower (s : State) : State :=
  allQuads.foldl (fun s q => adoptWeights q s)
    (modPwr (fun p => { p with next := [], ran := [] }) (s.pwr.next.foldl (fun s x => setRegAt x.1 x.2 s) s))

/-- E_sys of a window (R405). -/
def sysPj (s : State) : Nat := Config.sysWindowPj (allQuads.map (fun q => (pq s q).weights))

/-- A window that passes while the controller is updated is missed: it counts as table maximum, and the bubble fractions
stay (R507). -/
def missWindow (s : State) : State :=
  let s := allQuads.foldl (fun s q => modPq q (fun y => { y with hist := pushWindow (windowLen s) none y.hist }) s) s
  modPwr (fun p => { p with histSys := pushWindow (windowLen s) none p.histSys, ran := [] }) s

/-- ESTIMATION_WINDOW_END (R405 to R411): every 2 µs the window's events have been counted, and the counters are read and
cleared; an updated controller reads none. -/
def execEstimationWindowEnd (events : List ActEvent) (s : State) : Res :=
  .next (if (hdr s .pwr).mode = .updating then missWindow (events.foldl countEvent s)
    else if !pwrRuns s || s.dev.resetLow || decide (s.dev.phase < 2) then s
    else
      let act (q : QuadId) : List ActEvent := events.filter (fun e => decide (eventQuad s e = q))
      let s := allQuads.foldl (fun s q => quadWindow s q (act q)) (events.foldl countEvent s)
      let s := clearActivity s
      let s := modPwr (fun p => { p with histSys := pushWindow (windowLen s) (some (sysPj s)) p.histSys }) s
      let s := addEnergy 5 Off.pwrUnattr (sysPj s) (addEnergy 4 Off.pwrEstSys (sysPj s) s)
      let s := adoptPower (allQuads.foldl (fun s q => setBubbles q (act q) s) s)
      allQuads.foldl (fun s q => adoptPoint q s) s)

/-! ## The meter's readings (R408, R418) -/

/-- The trim of a quadrant as last computed: the live one, or the one that holds from the next window on. -/
def trimLast (s : State) (q : QuadId) : Word :=
  match s.pwr.next.reverse.find? (fun x => decide (x.1 = pageBase .pwr 0 + Off.pwrTrim + 4 * q.val)) with
  | some x => BitVec.ofNat 32 x.2
  | none => trimOf s q

/-- TRIM_q ← TRIM_q + (M / S − TRIM_q) / 4, in FP32, between 0.5 and 2.0, from the next window on; skipped when S is 0. -/
def updateTrim (mj : List Nat) (q : QuadId) (s : State) : State :=
  let m := (mj.getD q.val 0 + mj.getD (4 + q.val) 0 + mj.getD (8 + q.val) 0) * 10 ^ 9
  let z := (pq s q).untrimmed
  let s' := modPq q (fun x => { x with untrimmed := 0 }) s
  if z = 0 then s'
  else
    let t := trimLast s q
    let u := f32Add t (f32Mul (f32Sub (f32Div (f32OfNat m) (f32OfNat z)) t) f32Quarter)
    modPwr (fun p => { p with
      next := p.next ++ [(pageBase .pwr 0 + Off.pwrTrim + 4 * q.val, (f32Min f32Two (f32Max f32Half u)).toNat)] }) s'

/-- METER_READING (R408, R418): the trims follow the meter; a lost meter is back. -/
def execMeterReading (mj : List Nat) (s : State) : Res :=
  .next (if !s.dev.powered then s
    else
      let back := s.pwr.meterLost
      let s := allQuads.foldl (fun s q => updateTrim mj q s) s
      let s := modPwr (fun p => { p with meterLost := false }) s
      let s := modMtr (fun m => { m with link := true }) s
      if back then irqSystem 66 s else s)

/-- METER_SILENCE (R418): no reading for 1 s, or a failed check of the link; where compute continues, the meter's records of that time
carry UNMETERED. -/
def execMeterSilence (failedCheck : Bool) (s : State) : Res :=
  .next (if s.pwr.meterLost || !s.dev.powered then s
    else
      let s := pwrFault 0x48 (b2n failedCheck) s
      let s := modMtr (fun m => { m with link := false }) (modPwr (fun p => { p with meterLost := true }) s)
      let s := resendMarks s
      let s := if computeUnmetered s then modMtr (fun m => { m with unmetered := 0xF }) s else s
      irqSystem 66 s)

end Sys2Proof.Machine
end

