-- ==== Sys2Proof/Machine/Secure.lean ====
section
/-! DEFINITION. The root of trust's secrets and command slots as a wipe finds them (R471, R472, R479, R482, R487): commands as they
stand in their slots, responses, the end of sessions, and the wipe of the secure SRAM and of every key slot. -/

namespace Sys2Proof.Machine
open Sys2Proof

def masterIdx : Master → Fin 3
  | .hp0 => 0 | .hp1 => 1 | .mgmt => 2
def masterOf (n : Nat) : Option Master :=
  if n = 0 then some .hp0 else if n = 1 then some .hp1 else if n = 2 then some .mgmt else none

/-! ## Commands in their slots (R471, R472) -/

/-- A command as it stands in its slot. -/
structure RotCmd where
  master : Fin 3
  head : List Word
  body : List Byte
  /-- the 114 bytes that follow the body, a signed command's signature -/
  sig : List Byte
  deriving DecidableEq, Repr

def slotWord (s : State) (m : Fin 3) (k : Nat) : Word := fget (fun _ => (0 : Word)) s.rot.slots[m] k

def headWord (c : RotCmd) (k : Nat) : Nat := hword c.head k
def RotCmd.opc (c : RotCmd) : Nat := fld (headWord c 0) 7 0
def RotCmd.role (c : RotCmd) : Nat := fld (headWord c 0) 9 8
def RotCmd.part (c : RotCmd) : Fin 4 := ⟨fld (headWord c 0) 11 10 % 4, by omega⟩
def RotCmd.kslot (c : RotCmd) : Nat := fld (headWord c 0) 15 12
def RotCmd.len (c : RotCmd) : Nat := fld (headWord c 0) 27 16
def RotCmd.challenge (c : RotCmd) : Nat :=
  headWord c 1 + 2 ^ 32 * headWord c 2 + 2 ^ 64 * headWord c 3 + 2 ^ 96 * headWord c 4

/-- Bytes of the body, and as a little-endian number; beyond its end 0. -/
def RotCmd.bytes (c : RotCmd) (lo n : Nat) : List Byte := fitBytes n (c.body.drop lo)
def RotCmd.num (c : RotCmd) (lo n : Nat) : Nat := natOfBytes (c.bytes lo n)

/-- The command that a slot holds. -/
def cmdOf (s : State) (m : Fin 3) : RotCmd :=
  let head := (List.range 16).map (slotWord s m)
  let len := fld (hword head 0) 27 16
  let rest := bytesOfWords ((List.range ((len + 117) / 4)).map (fun k => slotWord s m (16 + k)))
  ⟨m, head, fitBytes len rest, fitBytes 114 (rest.drop len)⟩

/-! ## Responses and sessions (R482, R494) -/

/-- The response of a master's command, with its interrupt. -/
def respond (m : Fin 3) (opc status : Nat) (data : List Byte) (s : State) : State :=
  irqSystem 65 (modRot (fun r => { r with rsp := r.rsp.set m ⟨status, opc, true, data⟩ }) s)

/-- Sessions of a port that a predicate names return to NONE; their keys are erased. -/
def endSessions (h : HostId) (f : Fin 4 → Session → Bool) (s : State) : State :=
  modCam h (fun c => { c with sess := Vector.ofFn (fun p : Fin 4 =>
    if f p c.sess[p] then { c.sess[p] with state := .none, inCtr := 0, outCtr := 0, keyIn := [], keyOut := [] } else c.sess[p]) }) s

def endAllSessions (f : Fin 4 → Session → Bool) (s : State) : State := endSessions 1 f (endSessions 0 f s)

/-! ## The wipe (R487) -/

/-- Before a quadrant's keys change, its slices write back what they hold and are empty: what was stored under the old keys reads
through the new ones (R341, R479; entry 12). -/
def dropSlices (q : QuadId) (s : State) : State :=
  [quadStack q false, quadStack q true].foldl (fun s k =>
    modStack k (fun x => { x with cache := [] }) (s.hbmStacks[k].cache.foldl (fun s l => writeBackLine k l s) s)) s

/-- What a wipe of the secure SRAM leaves: no operator keys, no sessions, an audit log that starts with BOOT; memory under the lost
keys is garbage. -/
def wipeSecure (s : State) : State :=
  let s := endAllSessions (fun _ _ => true) s
  let s := allQuads.foldl (fun s q => if maskHas s.rot.enc (partOf s q).val then dropSlices q s else s) s
  auditEvent evBoot false (modRot (fun r => { r with
    slots := Vector.replicate 3 [], opKeys := [], audit := [], auditNext := 0, auditHead := List.replicate 32 0
    signedAt := 0, signedHead := List.replicate 32 0 }) s)

/-- Commands that await execution at a wipe are answered E_DENIED. -/
def denyWaiting (s : State) : State :=
  let w := s.rot.waiting
  let s := modRot (fun r => { r with waiting := 0 }) s
  (List.finRange 3).foldl (fun s m => if maskHas w m.val then respond m (cmdOf s m).opc eDenied [] s else s) s

/-- Key epochs drawn at random (R479). -/
def drawEpochs (s : State) : State :=
  let (es, s) := takeFrees 4 s
  modRot (fun r => { r with epochs := Vector.ofFn (fun p : Fin 4 => BitVec.ofNat 32 (es.getD p.val 0)) }) s

/-- The wipe of a tamper event: every key slot too, so that the epochs are drawn anew and each Gwetre port takes its link DOWN. -/
def tamperWipe (s : State) : State :=
  let s := auditEvent evTamper false (drawEpochs (wipeSecure (denyWaiting s)))
  settleAll (allPorts.foldl (fun s p =>
    if s.ports[p].link = .up ∨ s.ports[p].link = .training then linkDown p (some false) s else s) s)

end Sys2Proof.Machine
end

