-- ==== Sys2Proof/Machine/Tables.lean ====
section
/-! DEFINITION. Function tables (chapter 07): banks, evaluation, seams, the load check, the built-in tables, loading and
the lookups of a tile's slots. -/

namespace Sys2Proof.Machine
open Sys2Proof

/-! ## A table and its fields (R209) -/

/-- A table: its header and coefficient words. -/
structure Tbl where
  hdr : List Word
  coef : List Word
  deriving DecidableEq, Repr

def Tbl.h (t : Tbl) (k : Nat) : Nat := (t.hdr.getD k 0).toNat
def Tbl.form (t : Tbl) : Nat := fld (t.h 0) 2 0
def Tbl.mono (t : Tbl) : Nat := fld (t.h 0) 4 3
def Tbl.sym (t : Tbl) : Nat := fld (t.h 0) 6 5
def Tbl.passHi (t : Tbl) : Bool := bitOf (t.h 0) 7
def Tbl.mb (t : Tbl) : Nat := fld (t.h 0) 9 8
def Tbl.nb (t : Tbl) : Nat := fld (t.h 0) 16 10
def Tbl.ebase (t : Tbl) : Nat := fld (t.h 0) 24 17
def Tbl.sb (t : Tbl) : Nat := fld (t.h 0) 27 25
def Tbl.lowCut (t : Tbl) : Word := t.hdr.getD 1 0
def Tbl.highCut (t : Tbl) : Word := t.hdr.getD 2 0
def Tbl.sat (t : Tbl) : Word := t.hdr.getD 3 0
def Tbl.z0 (t : Tbl) : Word := t.hdr.getD 4 0
def Tbl.z1 (t : Tbl) : Word := t.hdr.getD 5 0
/-- Coefficient c_j of segment s. -/
def Tbl.c (t : Tbl) (s j : Nat) : Word := t.coef.getD (4 * s + j) 0

/-- Binade segments per sign, and segments N (R206, R208). -/
def Tbl.half (t : Tbl) : Nat := t.nb * 2 ^ t.mb
def Tbl.segs (t : Tbl) : Nat := if t.form = 0 then (if t.sym = 0 then 2 * t.half else t.half) else 2 ^ t.sb

/-- 2 ^ n as a value. -/
def pow2 (n : Int) : FVal := .fin false 1 n
def Tbl.bLo (t : Tbl) : FVal := pow2 ((t.ebase : Int) - 127)
def Tbl.bHi (t : Tbl) : FVal := pow2 ((t.ebase : Int) - 127 + t.nb)

/-! ## Evaluation (R205 to R208) -/

/-- ((c3 u + c2) u + c1) u + c0, each step fused and rounded once. -/
def Tbl.horner (t : Tbl) (s : Nat) (u : FVal) : Word :=
  let step (a b : Word) : Word := f32 (fvAdd (fvMul (f32v a) u) (f32v b))
  step (step (step (t.c s 3) (t.c s 2)) (t.c s 1)) (t.c s 0)

/-- The zero zone's Z0 + Z1 × x, fused and rounded once. -/
def Tbl.zero (t : Tbl) (x : FVal) : Word := f32 (fvAdd (f32v t.z0) (fvMul (f32v t.z1) x))

/-- The number of pieces (R211). -/
def Tbl.pieces (t : Tbl) : Nat := if t.form = 0 then t.segs + 1 else t.segs

/-- What a piece is: a segment, or the zero zone. -/
def Tbl.pieceSeg (t : Tbl) (p : Nat) : Option Nat :=
  if t.form ≠ 0 then some p
  else if t.sym = 0 then (if p < t.half then some p else if p = t.half then none else some (p - 1))
  else (if p = 0 then none else some (p - 1))
def Tbl.segPiece (t : Tbl) (s : Nat) : Nat :=
  if t.form ≠ 0 then s else if t.sym = 0 then (if s < t.half then s else s + 1) else s + 1
def Tbl.zeroPiece (t : Tbl) : Nat := if t.sym = 0 then t.half else 0

/-- A negative segment under SYM 0, whose x falls as u rises. -/
def Tbl.reversed (t : Tbl) (s : Nat) : Bool := decide (t.form = 0) && decide (t.sym = 0) && decide (s < t.half)

/-- The lower and the upper x end of a piece (R211). -/
def Tbl.ends (t : Tbl) (p : Nat) : Word × Word :=
  match t.pieceSeg p with
  | some s =>
    let a := t.horner s (.fin false 0 0)
    let b := t.horner s (.fin false 1 0)
    if t.reversed s then (b, a) else (a, b)
  | none => (if t.sym = 0 then t.zero (fvNeg t.bLo) else t.z0, t.zero t.bLo)

/-- Seam value V_i, for i from 0 to P. -/
def Tbl.seam (t : Tbl) (i : Nat) : Word :=
  if i = 0 then (t.ends 0).1
  else if i = t.pieces then (t.ends (i - 1)).2
  else f32 (fvMul (fvAdd (f32v (t.ends (i - 1)).2) (f32v (t.ends i).1)) (pow2 (-1)))

/-- A value clamped to the interval between two, in either order. -/
def clampTo (r a b : Word) : Word := f32Min (f32Max r (f32Min a b)) (f32Max a b)

/-- Step 7 of R205: the clamp to a piece's seam interval when MONO ≠ 0. -/
def Tbl.clampPiece (t : Tbl) (p : Nat) (r : Word) : Word :=
  if t.mono = 0 then r else clampTo r (t.seam p) (t.seam (p + 1))

/-- The symmetry of a negative input (R208). -/
def Tbl.mirror (t : Tbl) (r : Word) : Word :=
  if t.sym = 1 then f32Neg r
  else if t.sym = 3 then f32 (fvAdd (fvMul (pow2 1) (f32v t.z0)) (fvNeg (f32v r)))
  else r

/-- The zero zone at x: under SYM ≠ 0 a negative x has the seam interval's mirror image (R212; entry 20). -/
def Tbl.zeroZone (t : Tbl) (x : FVal) : Word :=
  let r := t.zero x
  if t.mono = 0 then r
  else if t.sym ≠ 0 ∧ fvNegative x then clampTo r (t.mirror (t.seam 1)) (t.mirror (t.seam 0))
  else t.clampPiece t.zeroPiece r

/-- DIRECT form. -/
def Tbl.direct (t : Tbl) (x : Word) : Word :=
  let v := f32v x
  let e := fld x.toNat 30 23
  let fr := fld x.toNat 22 0
  let neg := bitOf x.toNat 31
  if e < t.ebase then t.zeroZone v
  else if e < t.ebase + t.nb then
    let k := (e - t.ebase) * 2 ^ t.mb + fr / 2 ^ (23 - t.mb)
    let u : FVal := .fin false (fr % 2 ^ (23 - t.mb)) (-((23 - t.mb : Nat) : Int))
    let s := if t.sym ≠ 0 then k else if neg then t.half - 1 - k else t.half + k
    let r := t.clampPiece (t.segPiece s) (t.horner s u)
    if neg && decide (t.sym ≠ 0) then t.mirror r else r
  else if !neg && t.passHi then x
  else if !neg then t.seam t.pieces
  else if t.sym = 0 then t.seam 0 else t.mirror (t.seam t.pieces)

/-- A segment and u from a fraction num / 2^den, cut into 2 ^ bits parts. -/
def cutFrac (num den bits : Nat) : Nat × FVal :=
  (num * 2 ^ bits / 2 ^ den, .fin false (num * 2 ^ bits % 2 ^ den) (-(den : Int)))

/-- The integer part and the fraction, over 2 ^ den, of a number. -/
def floorParts (neg : Bool) (m : Nat) (e : Int) : Int × Nat × Nat :=
  let i : Int := if neg then -(m : Int) else m
  if 0 ≤ e then (i * 2 ^ e.toNat, 0, 0)
  else
    let d := (-e).toNat
    (i.fdiv (2 ^ d), (i.fmod (2 ^ d)).toNat, d)

/-- E and the fraction of m, over 2 ^ den, of |x| = 2^E × m. -/
def binParts (m : Nat) (e : Int) : Int × Nat × Nat :=
  let l := Nat.log2 m
  (e + l, m - 2 ^ l, l)

/-- An exponent kept where no FP32 result can tell it from a larger one. -/
def boundExp (n : Int) : Int := max (-1000) (min 1000 n)

/-- Forms 1 to 4 of a finite, non-zero or EXP2 input, after the special inputs (R206). -/
def Tbl.reduced (t : Tbl) (neg : Bool) (m : Nat) (e : Int) : Word :=
  if t.form = 1 then
    let (n, num, den) := floorParts neg m e
    let (s, u) := cutFrac num den t.sb
    f32 (fvMul (f32v (t.clampPiece s (t.horner s u))) (pow2 (boundExp n)))
  else
    let (ex, num, den) := binParts m e
    if t.form = 4 then
      let (s, u) := cutFrac num den (t.sb - 1)
      let odd := (ex % 2).toNat
      let s := odd * 2 ^ (t.sb - 1) + s
      f32 (fvMul (f32v (t.clampPiece s (t.horner s u))) (pow2 (-(ex / 2))))
    else
      let (s, u) := cutFrac num den t.sb
      let r := f32v (t.clampPiece s (t.horner s u))
      if t.form = 2 then f32 (fvAdd (fvalOfInt ex) r)
      else let y := fvMul r (pow2 (-ex)); f32 (if neg then fvNeg y else y)

/-- The special inputs of R207. -/
def Tbl.special (t : Tbl) (v : FVal) : Option Word :=
  let neg := fvNegative v
  match v with
  | .nan => some f32NaN
  | .inf _ =>
    if t.form = 1 then some (if neg then 0 else f32PosInf)
    else if t.form = 2 then some (if neg then f32NaN else f32PosInf)
    else if t.form = 3 then some (if neg then 0x80000000#32 else 0)
    else if t.form = 4 then some (if neg then f32NaN else 0)
    else none
  | .fin _ 0 _ =>
    if t.form = 2 then some f32NegInf
    else if t.form = 3 ∨ t.form = 4 then some (if neg then f32NegInf else f32PosInf)
    else none
  | .fin _ _ _ => if (t.form = 2 ∨ t.form = 4) ∧ neg then some f32NaN else none

/-- A lookup (R205). -/
def Tbl.eval (t : Tbl) (x : Word) : Word :=
  let v := f32v x
  if fvIsNaN v then f32NaN
  else if f32Lt x t.lowCut then 0
  else if f32Lt t.highCut x then t.sat
  else match t.special v with
    | some r => r
    | none =>
      match v with
      | .fin neg m e => if t.form = 0 then t.direct x else t.reduced neg m e
      | _ => t.direct x

/-- The piece whose formula a lookup uses, if it uses one. -/
def Tbl.pieceOf (t : Tbl) (x : Word) : Option Nat :=
  let v := f32v x
  if fvIsNaN v || f32Lt x t.lowCut || f32Lt t.highCut x || (t.special v).isSome then none
  else match v with
    | .fin neg m e =>
      if t.form = 0 then
        let ex := fld x.toNat 30 23
        if ex < t.ebase then some t.zeroPiece
        else if ex < t.ebase + t.nb then
          let k := (ex - t.ebase) * 2 ^ t.mb + fld x.toNat 22 0 / 2 ^ (23 - t.mb)
          some (t.segPiece (if t.sym ≠ 0 then k else if neg then t.half - 1 - k else t.half + k))
        else none
      else if t.form = 1 then
        let (_, num, den) := floorParts neg m e
        some (cutFrac num den t.sb).1
      else
        let (ex, num, den) := binParts m e
        some (if t.form = 4 then (ex % 2).toNat * 2 ^ (t.sb - 1) + (cutFrac num den (t.sb - 1)).1
          else (cutFrac num den t.sb).1)
    | _ => none

/-! ## The load check (R214 to R217) -/

def isFinite (w : Word) : Bool := match f32v w with | .fin _ _ _ => true | _ => false

/-- Check 1: reserved values, ranges, fields of another form, RSVD bits. -/
def Tbl.badFormat (t : Tbl) : Bool :=
  let w := t.h 0
  decide (5 ≤ t.form) || decide (t.mono = 3) || decide (fld w 31 28 ≠ 0) ||
  (t.hdr.drop 7).any (fun x => decide (x ≠ 0)) ||
  (if t.form = 0 then
    decide (t.nb = 0) || decide (64 < t.nb) || decide (t.ebase = 0) || decide (254 < t.ebase) || decide (t.sb ≠ 0) ||
      decide (255 < t.ebase + t.nb)
   else decide (fld w 24 5 ≠ 0) || decide (6 < t.sb) || (decide (t.form = 4) && decide (t.sb = 0))) ||
  decide (t.segs = 0) || decide (64 < t.segs)

/-- Check 2. EXP2's SAT may be +Infinity, as R216 and table 0 of R224 have it (entry 20). -/
def Tbl.badValue (t : Tbl) : Bool :=
  (t.coef.take (4 * t.segs)).any (fun c => !isFinite c) || !isFinite t.z0 || !isFinite t.z1 ||
  !(isFinite t.sat || (decide (t.form = 1) && decide (t.sat = f32PosInf))) ||
  f32IsNaN t.lowCut || f32IsNaN t.highCut || f32Lt t.highCut t.lowCut ||
  (t.coef.drop (4 * t.segs)).any (fun c => decide (c ≠ 0))

/-- Check 4. -/
def Tbl.badSymmetry (t : Tbl) : Bool :=
  if t.form = 0 then
    (decide (t.sym = 1) && !fvIsZero (f32v t.z0)) || (decide (t.sym = 2) && !fvIsZero (f32v t.z1)) ||
      (decide (t.sym = 2) && decide (t.mono ≠ 0)) || (t.passHi && decide (t.mono = 2))
  else decide (t.mono ≠ 0) && decide (t.mono ≠ (if t.form ≤ 2 then 1 else 2))

/-- A derivative value of the wrong sign for the direction wanted. -/
def wrongSign (up : Bool) (v : FVal) : Bool := !fvIsZero v && decide (fvNegative v = up)

/-- Check 5 for one segment: p' at 0, at 1 and at its extremum, in exact arithmetic (R215). -/
def Tbl.slopeBad (t : Tbl) (s : Nat) (up : Bool) : Bool :=
  let c1 := f32v (t.c s 1)
  let c2 := f32v (t.c s 2)
  let c3 := f32v (t.c s 3)
  let two := fvMul (pow2 1) c2
  let three := fvAdd (fvMul (pow2 1) c3) c3
  let at1 := fvAdd c1 (fvAdd two three)
  -- u* = -c2 / (3 c3): with both signs turned so that the divisor is positive
  let neg := fvNegative three
  let d := fvAbs three
  let n := if neg then c2 else fvNeg c2
  let inside := !fvIsZero c3 && fvLt (.fin false 0 0) n && fvLt n d
  -- p'(u*) = (3 c1 c3 - c2²) / (3 c3)
  let num := fvAdd (fvMul c1 three) (fvNeg (fvMul c2 c2))
  let ext := if neg then fvNeg num else num
  wrongSign up c1 || wrongSign up at1 || (inside && wrongSign up ext)

/-- The first piece whose slope is wrong. -/
def Tbl.badSlope (t : Tbl) : Option Nat :=
  (List.range t.pieces).find? (fun p =>
    let up := decide (t.mono = 1)
    match t.pieceSeg p with
    | some s => t.slopeBad s (up != t.reversed s)
    | none => wrongSign up (f32v t.z1))

/-- The order sequence of R216, each value with the seam that SEG names for it (entry 20). -/
def Tbl.sequence (t : Tbl) : List (Word × Nat) :=
  let pos := (List.range (t.pieces + 1)).map (fun i => (t.seam i, i))
  let neg := if t.sym = 1 ∨ t.sym = 3 then ((pos.drop 1).map (fun p => (t.mirror p.1, p.2))).reverse else []
  (if isFinite t.lowCut then [(0, 0)] else []) ++ neg ++ pos ++ (if isFinite t.highCut then [(t.sat, t.pieces)] else [])

/-- The first value of a sequence that is out of order after its predecessor. -/
def firstBreak (up : Bool) : List (Word × Nat) → Option Nat
  | a :: b :: r => if (if up then f32Lt b.1 a.1 else f32Lt a.1 b.1) then some b.2 else firstBreak up (b :: r)
  | _ => none

/-- Check 6. R216 builds a sequence in DIRECT form only, but R213 promises the order of the pieces in every form: the seams of the
other forms are checked too (DEDUCED, entry 20). -/
def Tbl.badSeam (t : Tbl) : Option Nat :=
  if t.form = 0 then firstBreak (decide (t.mono = 1)) t.sequence
  else match firstBreak (decide (t.mono = 1)) ((List.range (t.pieces + 1)).map (fun i => (t.seam i, i))) with
  | some i => some i
  | none =>
    let lowOk := decide (t.lowCut = f32NegInf) || decide (t.form = 1)
    let highOk := decide (t.highCut = f32PosInf) || (decide (t.form = 1) && decide (t.sat = f32PosInf))
    if lowOk && highOk then none else some 0

/-- Check 7 (R217): the seam that fails. -/
def Tbl.badPeriod (t : Tbl) : Option Nat :=
  let v0 := f32v (t.seam 0)
  let vn := f32v (t.seam t.pieces)
  let pos := fvLt (.fin false 0 0) v0
  let at' (ok : Bool) (i : Nat) : Option Nat := if ok then none else some i
  if t.form = 1 then (at' pos 0).or (at' (fvLe vn (fvMul (pow2 1) v0)) t.pieces)
  else if t.form = 2 then at' (fvLe vn (fvAdd v0 (pow2 0))) t.pieces
  else if t.form = 3 ∨ t.form = 4 then (at' pos 0).or (at' (fvLe (fvMul (pow2 (-1)) v0) vn) t.pieces)
  else at' (!t.passHi || fvLe vn t.bHi) t.pieces

/-- The first failing check of an image: REASON and SEG; none when it passes. -/
def Tbl.check (t : Tbl) (poisoned : Bool) : Option (Nat × Nat) :=
  if t.badFormat then some (1, 0) else if t.badValue then some (2, 0) else if poisoned then some (3, 0)
  else if t.badSymmetry then some (4, 0)
  else if t.mono = 0 then none
  else match t.badSlope with
    | some p => some (5, p)
    | none => match t.badSeam with
      | some p => some (6, p)
      | none => t.badPeriod.map (fun i => (7, i))

/-! ## Built-in tables (R224; entry 10) -/

/-- Header words 0 to 3 of a built-in table. -/
def builtinHdr (i : Fin 11) : List Word :=
  let direct (sym pass mb nb eb mono : Nat) : Word :=
    BitVec.ofNat 32 (8 * mono + 2 ^ 5 * sym + 2 ^ 7 * pass + 2 ^ 8 * mb + 2 ^ 10 * nb + 2 ^ 17 * eb)
  let formed (f mono : Nat) : Word := BitVec.ofNat 32 (f + 8 * mono + 2 ^ 25 * 6)
  let none' := [f32NegInf, f32PosInf, 0]
  let num (i : Int) : Word := f32 (fvalOfInt i)
  match i.val with
  | 0 => [formed 1 1, num (-150), num 128, f32PosInf]
  | 1 => formed 2 1 :: none'
  | 2 => formed 3 2 :: none'
  | 3 => formed 4 2 :: none'
  | 4 => [direct 3 0 2 15 117 1, num (-104), f32 (.fin false 35 (-1)), f32One]
  | 5 => direct 1 0 2 16 115 1 :: none'
  | 6 => direct 0 1 1 16 114 0 :: none'
  | 7 => direct 0 1 1 16 116 0 :: none'
  | 8 => [direct 0 1 1 16 116 1, num (-104), f32PosInf, 0]
  | 9 => direct 1 0 2 14 115 0 :: none'
  | _ => direct 2 0 2 14 115 0 :: none'

/-- What a built-in table's Z0, Z1 and coefficients would be with all slopes flat: a table of its header that passes the load
check. -/
def builtinFlat (i : Fin 11) : List Word × List Word :=
  let t0 : Tbl := ⟨builtinHdr i, []⟩
  let c0 : Word := if i.val = 0 ∨ i.val = 2 ∨ i.val = 3 then f32One else if i.val = 4 then f32 (pow2 (-1)) else 0
  ([if i.val = 4 then c0 else 0, 0], (List.range t0.segs).flatMap (fun _ => [c0, 0, 0, 0]))

/-- A built-in table's Z0, Z1 and coefficients as chip data without a stated value: Z0 of an odd table and Z1 of an even one are 0
(R214), and c0 of segment 0 is what makes tables 0 to 3 exact where R224 has them so. -/
def builtinData (i : Fin 11) : List Word × List Word :=
  let t0 : Tbl := ⟨builtinHdr i, []⟩
  let zero (w : Nat) (b : Bool) : Word := if b then 0 else Config.builtinWord i w
  (if t0.form = 0 then [zero 4 (decide (t0.sym = 1)), zero 5 (decide (t0.sym = 2))] else [0, 0],
   (List.range (4 * t0.segs)).map (fun k => if k = 0 ∧ t0.form ≠ 0 then (if i.val = 1 then 0 else f32One)
     else Config.builtinWord i (96 + k)))

def tblOf (h : List Word) (d : List Word × List Word) : Tbl :=
  ⟨h ++ d.1 ++ List.replicate 10 0, d.2 ++ List.replicate (256 - d.2.length) 0⟩

/-- A built-in table: its header is stated, its data are free among those that pass the load check (R213, R214, R224; entry
10). -/
def builtinTbl (i : Fin 11) : Tbl :=
  let t := tblOf (builtinHdr i) (builtinData i)
  if (t.check false).isNone then t else tblOf (builtinHdr i) (builtinFlat i)

/-! ## Banks (R210, R218) -/

def FtSlot.bank (f : FtSlot) (b : Bool) : FtBank := if b then f.bank1 else f.bank0
def FtSlot.setBank (f : FtSlot) (b : Bool) (x : FtBank) : FtSlot := if b then { f with bank1 := x } else { f with bank0 := x }
def FtSlot.activeBank (f : FtSlot) : FtBank := f.bank f.active
def FtSlot.inactiveBank (f : FtSlot) : FtBank := f.bank (!f.active)

/-- The table in a bank. -/
def FtBank.tbl (b : FtBank) : Tbl :=
  match b.builtin with
  | some i => builtinTbl i
  | none => ⟨fread zeroWord b.words 0 16, fread zeroWord b.words 96 256⟩

/-- Word k of a bank's 352 (R210). -/
def FtBank.word (b : FtBank) (k : Nat) : Word :=
  match b.builtin with
  | some i =>
    let t := builtinTbl i
    if k < 16 then t.hdr.getD k 0 else if k < 82 then (if k - 16 ≤ t.pieces then t.seam (k - 16) else 0)
    else if k < 96 then 0 else t.coef.getD (k - 96) 0
  | none => fget zeroWord b.words k

def ftSlot (s : State) (t : TileId) (f : Nat) : FtSlot := vat s.tiles[t].ftb f ftSlotEmpty
def setFtSlot (t : TileId) (f : Nat) (x : FtSlot) (s : State) : State :=
  modTile t (fun y => { y with ftb := vput y.ftb f x }) s

/-- The slot is empty: its active bank holds no table. -/
def slotEmpty (s : State) (t : TileId) (f : Nat) : Bool := !(ftSlot s t f).activeBank.live

/-- The line of a bank that holds a piece's coefficients; the lines of its seam values (R210). -/
def pieceLines (tb : Tbl) (p : Nat) : List Nat :=
  (match tb.pieceSeg p with | some s => [6 + s / 4] | none => []) ++
    (if tb.mono = 0 then [] else [(64 + 4 * p) / 64, (68 + 4 * p) / 64])

/-- The bank lines that a lookup reads: the header, and its piece's. -/
def lookupLines (tb : Tbl) (x : Word) : List Nat :=
  0 :: (match tb.pieceOf x with | some p => pieceLines tb p | none => [(64 + 4 * tb.pieces) / 64, 1])

/-- A failing line that a lookup read, and the segment looked up, if it was one. -/
abbrev FtLine := Nat × Option Nat

/-- A lookup of a slot's active bank: its result, and the failing line it read. -/
def slotEval (b : FtBank) (x : Word) : Word × Option FtLine :=
  let tb := b.tbl
  (tb.eval x, if b.badLines.isEmpty then none else
    ((lookupLines tb x).find? (fun l => fget falseAt b.badLines l)).map (fun l => (l, (tb.pieceOf x).bind tb.pieceSeg)))

/-- Failing lines found by lookups on a bank are reported, each line once, with the segment of the first lookup that met it (R222,
R427); where that lookup used none, the segment in DETAIL is free (entry 41). -/
def reportTable (t : TileId) (item f : Nat) (bank : Bool) (lines : List FtLine) (s : State) : State :=
  (lines.map (·.1)).eraseDups.foldl (fun a l =>
    let x := ftSlot a t f
    let b := x.bank bank
    if fget falseAt b.reported l then a
    else
      let a := setFtSlot t f (x.setBank bank { b with reported := fset falseAt b.reported l true }) a
      let (n, a) := match (lines.find? (fun x => x.1 == l)).bind (·.2) with | some g => (g, a) | none => takeFree a
      raiseFault (.tile t .ftb) 0x19 0 item (f + 8 * b2n bank + 16 * (n % 64)) a) s

/-- The instructions in flight on a bank of a slot: stage chains, and a FOLD that has started and waits for its tag (R218). -/
def bankRefs (s : State) (t : TileId) (f : Nat) (bank : Bool) : Nat :=
  ((ftSlot s t f).bank bank).inflight +
    (s.tiles[t].vec.queue.filter (fun e => decide (e.folded.bind (·.bank) = some (f, bank)))).length

/-! ## Loading and swapping (R219 to R221) -/

/-- A slot named in a committed FTB_GEN_SWAP that has not yet switched. -/
def genSwapPending (s : State) (t : TileId) (f : Nat) : Bool :=
  (hdr s (.tile t .ftb)).genPend && bitOf (stagedReg s (.tile t .ftb) Off.ftbGenSwap) f

/-- A write to FTB_LOAD (R219): the answer, and the load begun. -/
def startLoad (t : TileId) (bySeq : Bool) (v : Word) (s : State) : Nat × State :=
  let f := fld v.toNat 2 0
  let x := ftSlot s t f
  let builtin := bitOf v.toNat 3
  if builtin && decide (11 ≤ fld v.toNat 7 4) then (eFormat, s)
  else if !builtin && decide (memBytes .amem < 64 * fld v.toNat 23 8 + 1088) then (eExtent, s)
  else if x.inactive = .loading ∨ genSwapPending s t f then (eDenied, s)
  else (stDone, setFtSlot t f { x with inactive := .loading, load := some (v, bySeq) } s)

/-- The banks of a slot exchanged; the former active bank is READY (R220). -/
def swapBanks (x : FtSlot) : FtSlot :=
  { x with active := !x.active, inactive := .ready }

/-- Bank lines that FLT_INJECT MODE 2 armed: byte b of bank k of slot f lies at 2048 (2 f + k) + b (entry 17). -/
def armLoad (t : TileId) (f : Nat) (bank : Bool) (s : State) : List Nat × State :=
  let lo := 2048 * (2 * f + b2n bank)
  match armedAt s (.tile t .ftb) (fun a => decide (lo ≤ a) && decide (a < lo + 1408)) with
  | some a => ([(a.2.1.toNat - lo) / 64], disarm a s)
  | none => ([], s)

/-- FTB_LOAD_STAT (R235). -/
def loadStat (f : Nat) (bank : Bool) (r : Option (Nat × Nat)) : Nat :=
  f + 8 * b2n bank + match r with | some (reason, seg) => 16 * reason + 2 ^ 8 * eTableReject + 2 ^ 16 * (seg % 64) | none => 0

/-- A load completes: the image is read and checked, and the inactive bank becomes READY or REJECTED (R219). -/
def finishLoad (t : TileId) (f : Nat) (v : Word) (s : State) : State :=
  let x := ftSlot s t f
  let bank := !x.active
  if bitOf v.toNat 3 then
    let id : Fin 11 := ⟨fld v.toNat 7 4 % 11, Nat.mod_lt _ (by decide)⟩
    let (bad, s) := armLoad t f bank s
    let b : FtBank := ⟨true, some id, [], bad.foldl (fun m l => fset falseAt m l true) [], [], 0⟩
    s |> setFtSlot t f { x.setBank bank b with inactive := .ready, load := none }
      |> setReg (.tile t .ftb) Off.ftbLoadStat (loadStat f bank none)
  else
    let view : MemView := ⟨t, .amem, .tile t .ftb, 0, false, false⟩
    let (d, s) := lineRead view (64 * fld v.toNat 23 8) 1088 s
    let ws := wordsOfBytes 272 d.1
    let tb : Tbl := ⟨ws.take 16, ws.drop 16⟩
    let r := tb.check (d.2.any (fun b => b))
    let seams := (List.range 66).map (fun i => if i ≤ tb.pieces then tb.seam i else 0)
    let words := tb.hdr ++ (if r.isNone || tb.badFormat == false then seams else List.replicate 66 0) ++
      List.replicate 14 0 ++ tb.coef
    let (bad, s) := armLoad t f bank s
    let b : FtBank := ⟨r.isNone, none, fwrite zeroWord [] 0 words, bad.foldl (fun m l => fset falseAt m l true) [], [], 0⟩
    s |> setFtSlot t f { x.setBank bank b with inactive := if r.isNone then .ready else .rejected, load := none }
      |> setReg (.tile t .ftb) Off.ftbLoadStat (loadStat f bank r)

/-- FTB_LOAD by the tile's own sequencer (R219); the owner's write goes through the control space. With a must-be-0 bit set it is
refused and counted in DEV_DENIED_CNT, as R10 has it of every such write; refused under R219 it is not counted, since no access
to the control space is answered (DESIGN CHOICE, entry 33). -/
def seqFtbLoad (t : TileId) (v : Word) (s : State) : State :=
  if s.flt.safe then s
  else if fld v.toNat 31 24 ≠ 0 then bump32 .own Off.devDeniedCnt s
  else (startLoad t true v s).2

/-- FTB_LOAD_COMPLETE: the loader waits until no instruction is in flight on the bank. -/
def execFtbLoadComplete (t : TileId) (slot : Fin 8) (s : State) : Res :=
  .next (match (ftSlot s t slot.val).load with
    | some (v, _) => if bankRefs s t slot.val (!(ftSlot s t slot.val).active) = 0 then viaPort t (finishLoad t slot.val v) s else s
    | none => s)

end Sys2Proof.Machine
end

