-- ==== Sys2Proof/Machine/VecTable.lean ====
section
/-! DEFINITION. VTFN, VFTSWAP, the row statistics and the soft maximum (R205, R220, R226 to R233). -/

namespace Sys2Proof.Machine
open Sys2Proof

/-! ## VTFN -/

/-- Lanes looked up in a slot: the results, and the failing lines by lane. -/
def lookupLanes (b : FtBank) (xs : List Word) : List (Word × Option FtLine) := xs.map (slotEval b)

def vtfnBody (t : TileId) (i : Item) (v : VIns) (s : State) : State :=
  vecChecked t i v [(aUnused v useA, eProgram), (decide (v.fmt ≠ 0), eFormat), (slotEmpty s t v.sub, eTableEmpty)]
    (fun s =>
      let s := checkRegs t i.key.item.toNat [v.va] s
      let a := vregRaw s.tiles[t].vec v.va
      let rs := lookupLanes (ftSlot s t v.sub).activeBank a.lanes
      let ps := (a.poison.zip ((chunksOf 16 64 rs).map (fun l => l.any (·.2.isSome)))).map (fun p => p.1 || p.2)
      s |> reportTable t i.key.item.toNat v.sub (ftSlot s t v.sub).active (rs.filterMap (·.2))
        |> writeReg t v.vd ⟨rs.map (·.1), ps⟩ |> notePoison i.key ps |> vecDone t i 4) s

def execVtfn (t : TileId) (s : State) : Res := .next (vecRow 0x48 vtfnBody t s)

/-! ## VFTSWAP (R220) -/

def vftswapBody (t : TileId) (i : Item) (v : VIns) (s : State) : State :=
  let x := ftSlot s t v.sub
  vecChecked t i v [(!noRegs v || decide (fld v.x 31 23 ≠ 0) || decide (fld v.x 19 0 ≠ 0), eProgram),
      (genSwapPending s t v.sub, eSlot), (decide (x.inactive = .rejected), eTableReject),
      (decide (x.inactive = .empty), eTableEmpty)] (fun s =>
    if x.inactive = .ready ∧ bankRefs s t v.sub (!x.active) = 0 then vecDone t i 0 (setFtSlot t v.sub (swapBanks x) s)
    else s) s

def execVftswap (t : TileId) (s : State) : Res := .next (vecRow 0x49 vftswapBody t s)

/-! ## VRSTAT (R232, R233) -/

/-- The X fields that VRSTAT and SMAX_STEP share: ACT and NR. -/
def actOf (v : VIns) : Nat := fld v.x 15 14
def nrOf (v : VIns) : Nat := fld v.x 13 9

/-- A row's lanes over consecutive registers, the columns from `valid` on ignored. -/
def rowLanes (regs : List VReg) (r valid : Nat) : List (List Word) :=
  regs.zipIdx.map (fun g => (rowOf g.1.lanes r).zipIdx.map (fun x => if 64 * g.2 + x.2 < valid then x.1 else 0))

/-- Register sums by the tree of R183, added in ascending register order. -/
def sumRegs (gs : List (List Word)) : Word :=
  match gs.map (reduceList 0 6) with
  | [] => 0
  | x :: xs => xs.foldl f32Add x

/-- The running state of a row: mean or sum of squares, M2, count. -/
structure RowStat where
  a : Word
  m2 : Word
  n : Word
  deriving DecidableEq, Repr

/-- FOLD of one row block into the state (R233). -/
def foldRow (mode1 : Bool) (gs : List (List Word)) (valid : Nat) (st : RowStat) : RowStat :=
  let nb := f32OfNat valid
  if mode1 then
    ⟨gs.foldl (fun a g => f32Add a (reduceList 3 6 g)) st.a, 0, f32Add st.n nb⟩
  else
    let mb := f32Div (sumRegs gs) nb
    let dev := gs.zipIdx.map (fun g => g.1.zipIdx.map (fun x =>
      if 64 * g.2 + x.2 < valid then (let d := f32Sub x.1 mb; f32Mul d d) else 0))
    let qb := sumRegs dev
    if fvIsZero (f32v st.n) then ⟨mb, qb, f32Add st.n nb⟩
    else
      let nt := f32Add st.n nb
      let d := f32Sub mb st.a
      ⟨f32Add st.a (f32Mul d (f32Div nb nt)),
        f32Add (f32Add st.m2 qb) (f32Mul (f32Mul d d) (f32Div (f32Mul st.n nb) nt)), nt⟩

/-- FINAL of one row; a count of 0 gives NaN. -/
def finalRow (mode1 : Bool) (st : RowStat) : RowStat :=
  if fvIsZero (f32v st.n) then ⟨f32NaN, f32NaN, st.n⟩
  else if mode1 then ⟨f32Div st.a st.n, st.m2, st.n⟩ else ⟨st.a, f32Div st.m2 st.n, st.n⟩

/-- A register whose every row holds one value, with poison by row. -/
def rowReg (xs : List Word) (ps : List Bool) : VReg :=
  ⟨xs.flatMap (List.replicate 64), ps.flatMap (List.replicate 4)⟩

/-- A row of registers has a poisoned line among its valid columns. -/
def rowPoison (regs : List VReg) (r valid : Nat) : Bool :=
  regs.zipIdx.any (fun g => (List.range 4).any (fun m => decide (64 * g.2 + 16 * m < valid) && g.1.poison.getD (4 * r + m) false))

/-- Valid columns: the scalar, or all of them for 0. -/
def validCols (v : VIns) : Nat :=
  let n := (v.scalar (fld v.x 31 28)).toNat
  if n = 0 then 64 * (nrOf v + 1) else n

def vrstatEff (t : TileId) (i : Item) (v : VIns) (s : State) : State :=
  let mode1 := bitOf v.x 16
  let final := decide (actOf v = 2)
  let first := decide (actOf v = 1)
  let ds := if final then [] else (List.range (nrOf v + 1)).map (v.va + ·)
  let ss := if first then [] else [v.vd, v.vd + 1, v.vd + 2]
  let s := checkRegs t i.key.item.toNat (ds ++ ss) s
  let regs := ds.map (vregRaw s.tiles[t].vec)
  let stR := ss.map (vregRaw s.tiles[t].vec)
  let valid := validCols v
  let rows := (List.range 16).map (fun r =>
    let el (k : Nat) : Word := (stR.getD k ⟨[], []⟩).lanes.getD (64 * r) 0
    let st : RowStat := if first then ⟨0, 0, 0⟩ else ⟨el 0, el 1, el 2⟩
    (if final then finalRow mode1 st else foldRow mode1 (rowLanes regs r valid) valid st,
      rowPoison regs r valid || stR.any (fun g => (List.range 4).any (fun m => g.poison.getD (4 * r + m) false))))
  let ps := rows.map (·.2)
  let s := writeReg t v.vd (rowReg (rows.map (·.1.a)) ps) s
  let s := if final && mode1 then s else writeReg t (v.vd + 1) (rowReg (rows.map (·.1.m2)) ps) s
  let s := if final then s else writeReg t (v.vd + 2) (rowReg (rows.map (·.1.n)) ps) s
  s |> notePoison i.key ps
    |> vecDone t i (if final then 2 else if mode1 then 2 * (nrOf v + 1) + 2 else 4 * (nrOf v + 1) + 6)

def vrstatBody (t : TileId) (i : Item) (v : VIns) (s : State) : State :=
  let final := decide (actOf v = 2)
  vecChecked t i v [
      (decide (actOf v = 3) || decide (fld v.x 27 17 ≠ 0) || decide (fld v.x 8 0 ≠ 0) || decide (v.vb ≠ 0) ||
        decide (v.vc ≠ 0) || (final && (decide (v.va ≠ 0) || decide (nrOf v ≠ 0))), eProgram),
      (decide (v.fmt ≠ 0), eFormat)] (fun s =>
    if v.scalarPoisoned (fld v.x 31 28) && !final then vecPoisonStop t i s
    else vecChecked t i v [
        (beyond v.vd 3 || (!final && (beyond v.va (nrOf v + 1) || clash v.vd 3 v.va (nrOf v + 1) ||
          decide (64 * (nrOf v + 1) < validCols v))), eShape)] (vrstatEff t i v) s) s

def execVrstat (t : TileId) (s : State) : Res := .next (vecRow 0x50 vrstatBody t s)

/-! ## SMAX_STEP (R226 to R231) -/

/-- The soft-maximum record and the settings that travel in s[SV]. -/
structure SmaxArgs where
  state : Nat
  obase : Nat
  n : Nat
  lanes : Nat
  v : Nat
  row0 : Nat
  adv : Bool
  deriving DecidableEq, Repr

def smaxArgs (v : VIns) (ws : List Word) : SmaxArgs :=
  let w (k : Nat) : Nat := (ws.getD k 0).toNat
  let sv := (v.scalar (fld v.x 27 24)).toNat
  ⟨fld (w 0) 20 0, fld (w 1) 20 0, fld (w 2) 10 0, fld (w 2) 24 16, fld sv 7 0, fld sv 17 8, bitOf sv 18⟩

/-- Where O(i, c) lies. -/
def SmaxArgs.oAddr (a : SmaxArgs) (i c : Nat) : Nat := a.obase + 1024 * ((i + c) % a.n) + 4 * c

def pmemView (t : TileId) (i : Item) : MemView := ⟨t, .pmem, vecB t, i.key.item.toNat, true, false⟩

/-- One row's O elements through f, with their poison; `bad` poisons them all. -/
def rescaleO (w : MemView) (a : SmaxArgs) (i : Nat) (f : Word → Word) (bad : Bool) (s : State) : Bool × State :=
  (List.range a.lanes).foldl (fun x c =>
    let ad := a.oAddr i c
    let (d, s) := viewRead w 1 ad 4 x.2
    let p := bad || d.2.any (fun b => b)
    (x.1 || p, viewWrite w 1 ad (bytesOfNat 4 (f (BitVec.ofNat 32 (wordOf d.1))).toNat) (List.replicate 4 p) s)) (false, s)

/-- FIRST's writes of one row of O: zero, times the rescale factor where the maximum rose. -/
def firstO (w : MemView) (a : SmaxArgs) (i : Nat) (f : Option Word) (bad : Bool) (s : State) : State :=
  let v : Word := match f with | some x => f32Mul 0 x | none => 0
  (List.range a.lanes).foldl (fun x c => viewWrite w 1 (a.oAddr i c) (bytesOfNat 4 v.toNat)
    (List.replicate 4 (bad && f.isSome)) x) s

/-- A row's scores, and its running maximum and sum. -/
structure SmaxRow where
  p : List (List Word)
  m : Word
  l : Word
  /-- the rescale factor, when the maximum rose -/
  a : Option Word
  tables : List FtLine
  /-- lines of each register whose lookups met a failing line, and whether the factor's did (R222) -/
  lineBad : List (List Bool)
  aBad : Bool
  deriving DecidableEq, Repr

/-- FIRST and FOLD of one row (R228). -/
def smaxRow (b : FtBank) (gs : List (List Word)) (m l : Word) : SmaxRow :=
  let mt := match gs.map (reduceList 1 6) with | [] => m | x :: xs => xs.foldl f32Max x
  let mn := f32Max m mt
  let ninf := decide (mn = f32NegInf)
  let es := gs.map (fun g => g.map (fun x => if ninf then (0, none) else slotEval b (f32Sub x mn)))
  let p := es.map (fun g => g.map (·.1))
  let ps := sumRegs p
  let bad := es.flatMap (fun g => g.filterMap (·.2))
  let lines := es.map (fun g => (chunksOf 16 4 g).map (fun c => c.any (·.2.isSome)))
  if f32Lt m mn then
    let (a, e) := slotEval b (f32Sub m mn)
    ⟨p, mn, f32Fma l a ps, some a, bad ++ e.toList, lines, e.isSome⟩
  else ⟨p, mn, f32Add l ps, none, bad, lines, false⟩

/-- The arithmetic part of FIRST and FOLD: P and the state; each row's factor, where its maximum rose, and the factor's poison. A
poisoned score or maximum reaches all of its row, a failing bank line what its lookups feed, a poisoned sum itself (R222, R229,
R230). -/
def smaxScores (t : TileId) (i : Item) (v : VIns) (a : SmaxArgs) (s : State) : List (Nat × Option Word × Bool) × State :=
  let first := decide (actOf v = 1)
  let nr := nrOf v + 1
  let s := checkRegs t i.key.item.toNat ((List.range nr).map (v.va + ·)) s
  let regs := (List.range nr).map (fun k => vregRaw s.tiles[t].vec (v.va + k))
  let bank := (ftSlot s t v.sub).activeBank
  let w := pmemView t i
  let lo := a.state + 8 * a.row0
  let (st, s) := if first then (([], []), s) else lineRead w lo 128 s
  let word (k : Nat) : Word := BitVec.ofNat 32 (wordOf (st.1.drop (4 * k)))
  let bads (k : Nat) : Bool := ((st.2.drop (4 * k)).take 4).any (fun b => b)
  let rows := (List.range 16).map (fun r =>
    let row := smaxRow bank (rowLanes regs r (64 * nr)) (if first then f32NegInf else word (2 * r))
      (if first then 0 else word (2 * r + 1))
    let pm := rowPoison regs r (64 * nr) || bads (2 * r)
    (row, pm, pm || bads (2 * r + 1) || !row.tables.isEmpty))
  let s := reportTable t i.key.item.toNat v.sub (ftSlot s t v.sub).active (rows.flatMap (·.1.tables)) s
  let s := (List.range nr).foldl (fun x k =>
    writeReg t (v.vd + k) ⟨rows.flatMap (fun r => r.1.p.getD k []),
      rows.flatMap (fun r => (r.1.lineBad.getD k []).map (· || r.2.1))⟩ x) s
  let s := lineWrite w lo (rows.flatMap (fun r => bytesOfNat 4 r.1.m.toNat ++ bytesOfNat 4 r.1.l.toNat))
    (rows.flatMap (fun r => List.replicate 4 r.2.1 ++ List.replicate 4 r.2.2)) s
  (rows.zipIdx.map (fun r => (a.row0 + r.2, r.1.1.a, r.1.2.1 || r.1.1.aBad)), notePoison i.key (rows.map (·.2.2)) s)

/-- O of FIRST's and FOLD's rows: written, or rescaled where the maximum rose. -/
def smaxRescale (t : TileId) (i : Item) (first : Bool) (a : SmaxArgs) (rows : List (Nat × Option Word × Bool)) (s : State) :
    State :=
  let w := pmemView t i
  let (bad, s) := rows.foldl (fun x r =>
    if first then (x.1, firstO w a r.1 r.2.1 r.2.2 x.2)
    else match r.2.1 with
      | some f =>
        let (b, s) := rescaleO w a r.1 (fun o => f32Mul o f) r.2.2 x.2
        (x.1 || b, s)
      | none => x) (false, s)
  notePoison i.key [bad] s

/-- FINAL: O divided by l, or zeroed in an all-masked row (R228, R230). -/
def smaxFinal (t : TileId) (i : Item) (a : SmaxArgs) (s : State) : State :=
  let w := pmemView t i
  let (st, s) := lineRead w (a.state + 8 * a.row0) 128 s
  let word (k : Nat) : Word := BitVec.ofNat 32 (wordOf (st.1.drop (4 * k)))
  let bads (k : Nat) : Bool := ((st.2.drop (4 * k)).take 4).any (fun b => b)
  let (bad, s) := (List.range 16).foldl (fun x r =>
    let masked := decide (word (2 * r) = f32NegInf)
    let p := bads (2 * r) || bads (2 * r + 1)
    let (b, s) := rescaleO w a (a.row0 + r) (fun o => if masked then 0 else f32Div o (word (2 * r + 1))) p x.2
    (x.1 || b, if masked then itemFlags i.key 128 s else s)) (false, s)
  notePoison i.key [bad] s

/-- The tag that FOLD and FINAL wait for (R229). -/
def tagReady (s : State) (t : TileId) (ti v : Nat) : Bool :=
  decide ((vat s.tiles[t].mnt.rtag ti 0).toNat = (v + 255) % 256)

/-- What the SMAX_STEP at the head of the queue keeps while it waits for its tag. -/
def heldStep (s : State) (t : TileId) : Option FoldHold := (s.tiles[t].vec.queue.head?).bind (·.folded)

/-- Beats of the arithmetic unit in SMAX_STEP (R231). -/
def smaxBeats (v : VIns) : Nat := if actOf v = 2 then 2 else 8 * (nrOf v + 1) + 2

/-- A FOLD whose arithmetic part has run, or a FINAL, waits for its tag at the head of the queue; the beats of what has run are
credited (R202, R229). -/
def holdStep (t : TileId) (i : Item) (beats : Nat) (h : FoldHold) (s : State) : State :=
  s |> modVec t (fun x => { x with queue := match x.queue with
      | e :: q => { e with folded := some h } :: q
      | [] => [] })
    |> bump (vecB t) Off.vecBeats beats |> modItem i.key (fun x => { x with beatsVector := x.beatsVector + beats })

/-- SMAX_STEP once its wait, if any, is over; `rows` are FIRST's or FOLD's, `beats` those not credited yet. -/
def smaxEff (t : TileId) (i : Item) (v : VIns) (a : SmaxArgs) (rows : List (Nat × Option Word × Bool)) (beats : Nat) (s : State) :
    State :=
  let ti := fld v.x 19 16
  let s := if actOf v = 2 then smaxFinal t i a s else smaxRescale t i (decide (actOf v = 1)) a rows s
  let s := if a.adv then modMnt t (fun m => { m with rtag := vput m.rtag ti (BitVec.ofNat 8 a.v) }) s else s
  vecDoneMem t i beats s

/-- An RSVD bit of the record is set (R227, R231). -/
def smaxRsvd (ws : List Word) : Bool :=
  let w (k : Nat) : Nat := (ws.getD k 0).toNat
  decide (fld (w 0) 31 21 ≠ 0) || decide (fld (w 1) 31 21 ≠ 0) || decide (fld (w 2) 15 11 ≠ 0) || decide (fld (w 2) 31 25 ≠ 0) ||
    (ws.drop 3).any (fun x => decide (x ≠ 0))

/-- The checks of R231 that follow E_FORMAT; `ok` says that the record itself can be read. -/
def smaxChecks (s : State) (t : TileId) (v : VIns) (a : SmaxArgs) (ok : Bool) : List (Bool × Nat) :=
  let final := decide (actOf v = 2)
  [((!final && (beyond v.va (nrOf v + 1) || beyond v.vd (nrOf v + 1) || clash v.vd (nrOf v + 1) v.va (nrOf v + 1))) ||
      decide (a.row0 % 16 ≠ 0) ||
      (ok && (!(a.n = 256 ∨ a.n = 512 ∨ a.n = 1024) || decide (a.n < a.row0 + 16) || decide (a.lanes = 0) ||
        decide (256 < a.lanes))), eShape),
   (slotEmpty s t v.sub, eTableEmpty),
   (decide (amemScalar v % 64 ≠ 0) || (ok && (decide (a.state % 64 ≠ 0) || decide (a.obase % 1024 ≠ 0))), eAlign),
   (!ok || decide (a.state < 0x1F0000) || decide (memBytes .pmem < a.state + 8 * a.row0 + 128) ||
      decide (memBytes .pmem < a.obase + 1024 * a.n), eExtent)]

/-- SMAX_STEP that starts: its record is read once, checked, and its arithmetic part runs. -/
def smaxStart (t : TileId) (i : Item) (v : VIns) (s : State) : State :=
  let final := decide (actOf v = 2)
  let sv := (v.scalar (fld v.x 27 24)).toNat
  let base := amemScalar v
  let ok := decide (base % 64 = 0) && decide (base + 64 ≤ memBytes .amem)
  vecChecked t i v [
      (decide (actOf v = 3) || bitOf v.x 23 || decide (fld v.x 8 0 ≠ 0) || decide (fld sv 31 19 ≠ 0) ||
        decide (v.vb ≠ 0) || decide (v.vc ≠ 0) ||
        (final && (decide (v.va ≠ 0) || decide (v.vd ≠ 0) || decide (nrOf v ≠ 0))), eProgram)] (fun s =>
    if v.scalarPoisoned (fld v.x 31 28) || v.scalarPoisoned (fld v.x 27 24) then
      vecChecked t i v [(decide (v.fmt ≠ 0), eFormat)] (vecPoisonStop t i) s
    else
      let (d, s1) := if ok then lineRead (amemView t i) base 64 s else (([], []), s)
      if d.2.any (fun b => b) then vecPoisonStop t i s1
      else
        let ws := wordsOfBytes 16 d.1
        let a := smaxArgs v ws
        let cs := [(ok && smaxRsvd ws, eProgram), (decide (v.fmt ≠ 0), eFormat)] ++ smaxChecks s t v a ok
        let ready := tagReady s t (fld v.x 19 16) a.v
        match firstFail cs with
        | some c => vecFail t i v c s1
        | none =>
          if final then (if ready then smaxEff t i v a [] (smaxBeats v) s1 else holdStep t i 0 ⟨ws, none, []⟩ s1)
          else
            let (rows, s2) := smaxScores t i v a s1
            if decide (actOf v = 1) || ready then smaxEff t i v a rows (smaxBeats v) s2
            else holdStep t i (smaxBeats v) ⟨ws, some (v.sub, (ftSlot s t v.sub).active), rows⟩ s2) s

/-- SMAX_STEP: one that waits for its tag goes on with what it has read and formed (R229). -/
def smaxBody (t : TileId) (i : Item) (v : VIns) (s : State) : State :=
  match heldStep s t with
  | none => smaxStart t i v s
  | some h =>
    let a := smaxArgs v h.record
    if tagReady s t (fld v.x 19 16) a.v then smaxEff t i v a h.rows (if actOf v = 2 then smaxBeats v else 0) s else s

def execSmaxStep (t : TileId) (s : State) : Res := .next (vecRow 0x51 smaxBody t s)

end Sys2Proof.Machine
end

