-- ==== Sys2Proof/Machine/VecScan.lean ====
section
/-! DEFINITION. The scan network and the sequence slots (R191 to R197). -/

namespace Sys2Proof.Machine
open Sys2Proof

/-! ## The operators (R191) -/

/-- A position of a scan: its segment-start flag and its pair; a single-valued operator uses the b-part. -/
structure ScanPos where
  flag : Bool
  a : Word
  b : Word
  deriving DecidableEq, Repr

/-- x ∘ y. -/
def scanOp (op : Nat) (x y : Word × Word) : Word × Word :=
  if op = 0 then (0, f32Add x.2 y.2) else if op = 1 then (0, f32Max x.2 y.2) else if op = 2 then (0, f32Min x.2 y.2)
  else if op = 3 then (0, f32Mul x.2 y.2) else (f32Mul x.1 y.1, f32Fma y.1 x.2 y.2)

def scanIdentity (op : Nat) : Word × Word :=
  if op = 1 then (0, f32NegInf) else if op = 2 then (0, f32PosInf) else if op = 3 then (0, f32One)
  else if op = 4 then (f32One, 0) else (0, 0)

/-- The segmented form (R192). -/
def scanJoin (op : Nat) (x y : ScanPos) : ScanPos :=
  if y.flag then ⟨true, y.a, y.b⟩
  else let r := scanOp op (x.a, x.b) (y.a, y.b); ⟨x.flag, r.1, r.2⟩

/-- Level l of the network, all positions at once. -/
def scanLevel (op l : Nat) (xs : List ScanPos) : List ScanPos :=
  xs.zipIdx.map (fun x => if bitOf x.2 l
    then scanJoin op (xs.getD (x.2 / 2 ^ (l + 1) * 2 ^ (l + 1) + 2 ^ l - 1) ⟨false, 0, 0⟩) x.1 else x.1)

/-- The prefixes of a sequence of 2 ^ n positions. -/
def scanPrefix (op : Nat) : Nat → List ScanPos → List ScanPos
  | 0, xs => xs
  | n + 1, xs => scanLevel op n (scanPrefix op n xs)

/-- The results of one sequence with carry c. -/
def scanResults (op n : Nat) (c : Word × Word) (xs : List ScanPos) : List (Word × Word) :=
  (scanPrefix op n xs).map (fun p => if p.flag then (p.a, p.b) else scanOp op c (p.a, p.b))

/-! ## The slots (R193, R194) -/

def seqSlot (s : State) (t : TileId) (k : Nat) : SeqSlot := vat s.tiles[t].vec.slots k seqSlotFree
def setSeqSlot (t : TileId) (k : Nat) (x : SeqSlot) (s : State) : State :=
  modVec t (fun v => { v with slots := vput v.slots k x }) s

/-- A slot's first n lines of slot memory written with it. -/
def writeSlot (t : TileId) (k n : Nat) (x : SeqSlot) (s : State) : State :=
  goodLines t (2048 + 8 * k) n (setSeqSlot t k x s)

/-- The first n lines of a slot checked before they are read: a failing one poisons the slot (R163, R196). -/
def checkSlot (t : TileId) (item k n : Nat) (s : State) : State :=
  checkLines t item (2048 + 8 * k) n (fun _ a => setSeqSlot t k { seqSlot a t k with poison := true } a) s

/-- The lines that a scan's carries take: entries 0 to 15, or all 64 (R193). -/
def scanSlotLines (dir : Bool) : Nat := if dir then 8 else 2

/-- The job of an item as a slot's owner. -/
def itemOwner (i : Item) : Option (Fin 4 × BitVec 6) := some (i.key.part, i.job)

def slotCarry (x : SeqSlot) (e : Nat) : Word × Word := (fget zeroWord x.carry (2 * e), fget zeroWord x.carry (2 * e + 1))
/-- A carry set: the b-part, and the a-part of a linear recurrence. -/
def setCarry (op e : Nat) (c : Word × Word) (m : FMap Word) : FMap Word :=
  let m := fset zeroWord m (2 * e + 1) c.2
  if op = 4 then fset zeroWord m (2 * e) c.1 else m

/-! ## VSCAN -/

/-- Class S fields. -/
structure SArgs where
  slot : Nat
  use : Bool
  op : Nat
  dir : Bool
  seg : Bool
  outa : Bool
  act : Nat
  deriving DecidableEq, Repr

def sArgs (v : VIns) : SArgs :=
  ⟨fld v.x 5 0, bitOf v.x 6, fld v.x 9 7, bitOf v.x 10, bitOf v.x 11, bitOf v.x 12, fld v.x 14 13⟩

/-- The lane of position p of sequence q. -/
def scanLane (dir : Bool) (q p : Nat) : Nat := if dir then 64 * p + q else 64 * q + p

/-- Lines that contribute to line j: itself and those before it along the scan. A segment start between them is not looked at, for
which R162 has no word: DESIGN CHOICE (entry 14). -/
def scanLines (dir : Bool) (j : Nat) : List Nat :=
  if dir then (List.range (j / 4 + 1)).map (fun r => 4 * r + j % 4) else (List.range (j % 4 + 1)).map (j / 4 * 4 + ·)

/-- Lanes in register order from a table of sequences. -/
def scanLanes (dir : Bool) (rows : List (List Word)) : List Word :=
  (List.range 1024).map (fun k => if dir then (rows.getD (k % 64) []).getD (k / 64) 0
    else (rows.getD (k / 64) []).getD (k % 64) 0)

def vscanEff (t : TileId) (i : Item) (v : VIns) (s : State) : State :=
  let a := sArgs v
  let rec4 := decide (a.op = 4)
  let srcs := [v.va] ++ (if rec4 then [v.vb] else []) ++ (if a.seg then [v.vc] else [])
  let s := checkRegs t i.key.item.toNat srcs s
  let s := if a.use then checkSlot t i.key.item.toNat a.slot (scanSlotLines a.dir) s else s
  let ve := s.tiles[t].vec
  let va := vregRaw ve v.va
  let vb := vregRaw ve v.vb
  let vc := vregRaw ve v.vc
  let n := if a.dir then 4 else 6
  let slot := seqSlot s t a.slot
  let res := (List.range (if a.dir then 64 else 16)).map (fun q =>
    let xs := (List.range (2 ^ n)).map (fun p =>
      let k := scanLane a.dir q p
      (⟨a.seg && decide (vc.lanes.getD k 0 ≠ 0), if rec4 then va.lanes.getD k 0 else 0,
        if rec4 then vb.lanes.getD k 0 else va.lanes.getD k 0⟩ : ScanPos))
    scanResults a.op n (if a.use then slotCarry slot q else scanIdentity a.op) xs)
  let sp := a.use && slot.poison
  -- lines poisoned where one of these registers contributes a poisoned line: VB contributes to no a-part (R191)
  let linesBad (rs : List Nat) : List Bool :=
    let src := rs.map (vregRaw ve)
    (List.range 64).map (fun j => sp || (scanLines a.dir j).any (fun x => src.any (fun r => r.poison.getD x false)))
  let ps := linesBad srcs
  let any := ps.any (fun b => b)
  let carry := res.zipIdx.foldl (fun m r => setCarry a.op r.2 (r.1.getLastD (0, 0)) m) slot.carry
  let s := if a.use then writeSlot t a.slot (scanSlotLines a.dir) { slot with carry := carry, poison := slot.poison || any } s else s
  let s := if rec4 && a.outa then writeReg t (v.vd + 1) ⟨scanLanes a.dir (res.map (·.map (·.1))), linesBad ([v.va] ++ if a.seg then [v.vc] else [])⟩ s else s
  s |> writeReg t v.vd ⟨scanLanes a.dir (res.map (·.map (·.2))), ps⟩ |> notePoison i.key ps
    |> vecDone t i (if rec4 then 4 else 2)

def vscanBody (t : TileId) (i : Item) (v : VIns) (s : State) : State :=
  let a := sArgs v
  let slot := seqSlot s t a.slot
  let nd := if a.op = 4 ∧ a.outa then 2 else 1
  vecChecked t i v [
    (decide (4 < a.op) || decide (fld v.x 27 15 ≠ 0) || (decide (a.op ≠ 4) && decide (v.vb ≠ 0)) ||
      (!a.seg && decide (v.vc ≠ 0)), eProgram),
    (decide (v.fmt ≠ 0), eFormat),
    (beyond v.vd nd || clash v.vd nd v.va 1 || (decide (a.op = 4) && clash v.vd nd v.vb 1) ||
      (a.seg && clash v.vd nd v.vc 1), eShape),
    (a.use && (decide (slot.owner ≠ itemOwner i) || decide (slot.op ≠ a.op) || decide (slot.dir ≠ a.dir)), eSlot)]
    (vscanEff t i v) s

def execVscan (t : TileId) (s : State) : Res := .next (vecRow 0x40 vscanBody t s)

/-! ## VSLOT (R195, R196) -/

/-- INIT: every carry becomes the identity. -/
def slotInit (t : TileId) (i : Item) (a : SArgs) (s : State) : State :=
  let x := seqSlot s t a.slot
  let carry := (List.range 64).foldl (fun m e => setCarry a.op e (scanIdentity a.op) m) x.carry
  writeSlot t a.slot 8 ⟨itemOwner i, a.op, a.dir, false, carry⟩ s

/-- The 576-byte record of a slot. -/
def slotRecord (x : SeqSlot) : List Byte :=
  let job := match x.owner with | some (p, j) => jobByte p j | none => 0
  bytesOfNat 4 (job + 2 ^ 8 * x.op + 2 ^ 11 * b2n x.dir + 2 ^ 12 * b2n x.poison) ++ List.replicate 60 0 ++
    (List.range 128).flatMap (fun k => bytesOfNat 4 (fget zeroWord x.carry k).toNat)

def slotSave (t : TileId) (i : Item) (v : VIns) (s : State) : State :=
  let s := checkSlot t i.key.item.toNat (sArgs v).slot 8 s
  let x := seqSlot s t (sArgs v).slot
  s |> lineWrite (amemView t i) (amemScalar v) (slotRecord x) (clean 576) |> notePoison i.key [x.poison]
    |> vecDoneLsu t i

/-- RESTORE: the record's header is checked first (E_SLOT). -/
def slotRestore (t : TileId) (i : Item) (v : VIns) (s : State) : State :=
  let a := sArgs v
  let (d, s1) := lineRead (amemView t i) (amemScalar v) 576 s
  let h := wordOf d.1
  if fld h 7 0 ≠ jobByte i.key.part i.job ∨ 4 < fld h 10 8 ∨ fld h 31 13 ≠ 0 ∨
      ((d.1.drop 4).take 60).any (fun b => decide (b ≠ 0)) then
    notePoison i.key (d.2.take 64) (vecFail t i v eSlot s1)
  else
    let bad := d.2.any (fun b => b)
    s1 |> writeSlot t a.slot 8 ⟨itemOwner i, fld h 10 8, bitOf h 11, bitOf h 12 || bad,
          fwrite zeroWord [] 0 (wordsOfBytes 128 (d.1.drop 64))⟩
       |> notePoison i.key [bad] |> vecDoneLsu t i

/-- VSLOT. The record of SAVE and RESTORE must lie on a 64-byte boundary, E_ALIGN otherwise: PRESUMED from R178's and R187's records,
since neither R195 nor R256 lists this one (entry 14). -/
def vslotBody (t : TileId) (i : Item) (v : VIns) (s : State) : State :=
  let a := sArgs v
  let x := seqSlot s t a.slot
  let mem := decide (a.act = 1 ∨ a.act = 2)
  vecChecked t i v [(!noRegs v || decide (fld v.x 27 15 ≠ 0) || (decide (a.act = 0) && decide (4 < a.op)), eProgram)]
    (fun s =>
      if mem && v.scalarPoisoned (fld v.x 31 28) then vecPoisonStop t i s
      else vecChecked t i v ([
          (if a.act = 0 ∨ a.act = 2 then x.owner.isSome && decide (x.owner ≠ itemOwner i)
           else decide (x.owner ≠ itemOwner i), eSlot)] ++ (if mem then recordChecks v 576 else []))
        (if a.act = 0 then (fun s => vecDone t i 1 (slotInit t i a s))
         else if a.act = 1 then slotSave t i v else if a.act = 2 then slotRestore t i v
         else (fun s => vecDone t i 1 (setSeqSlot t a.slot seqSlotFree s))) s) s

def execVslot (t : TileId) (s : State) : Res := .next (vecRow 0x41 vslotBody t s)

end Sys2Proof.Machine
end

