-- ==== Sys2Proof/Machine/VecProg.lean ====
section
/-! DEFINITION. Element programs: VPLD with its check, VPRG and VPRGM (R185 to R190). -/

namespace Sys2Proof.Machine
open Sys2Proof

/-! ## The image (R185) -/

/-- A micro-operation (R186). -/
structure Uop where
  op : Nat
  ed : Nat
  ea : Nat
  eb : Nat
  ec : Nat
  imm : Nat
  deriving DecidableEq, Repr

def uopOf (w : Word) : Uop :=
  let n := w.toNat
  ⟨fld n 31 26, fld n 25 22, fld n 21 18, fld n 17 14, fld n 13 10, fld n 9 0⟩

/-- A program image of 64 words. -/
structure Prog where
  words : List Word
  deriving DecidableEq, Repr

def Prog.w (p : Prog) (k : Nat) : Nat := (p.words.getD k 0).toNat
def Prog.nuop (p : Prog) : Nat := fld (p.w 0) 5 0
def Prog.nin (p : Prog) : Nat := fld (p.w 0) 8 6
def Prog.nout (p : Prog) : Nat := fld (p.w 0) 10 9
def Prog.ctx (p : Prog) : Nat := fld (p.w 0) 13 11
def Prog.const (p : Prog) (k : Nat) : Word := p.words.getD (8 + k) 0
def Prog.uops (p : Prog) : List Uop := ((p.words.drop 16).take p.nuop).map uopOf

/-- The weight of a micro-operation; none for a reserved UOP. -/
def uopWeight (op : Nat) : Option Nat :=
  if op = 0x00 then some 0 else if 0x01 ≤ op ∧ op ≤ 0x07 then some 1 else if 0x10 ≤ op ∧ op ≤ 0x1B then some 1
  else if op = 0x20 ∨ op = 0x22 then some 1 else if op = 0x21 then some 4 else if 0x30 ≤ op ∧ op ≤ 0x33 then some 0
  else none

/-- W of R189. -/
def Prog.weight (p : Prog) : Nat := (p.uops.map (fun u => (uopWeight u.op).getD 0)).sum

/-- A format that CAST takes. -/
def castFmtOk (n : Nat) : Bool := n == 3 || n == 4 || n == 7 || n == 8

/-- The fields that a micro-operation leaves unused are 0, and its own values are defined (R188). -/
def Uop.ok (u : Uop) (nin nout : Nat) : Bool :=
  let z (n : Nat) : Bool := decide (n = 0)
  let d := z u.ed
  let a := z u.ea
  let b := z u.eb
  let c := z u.ec
  let m := z u.imm
  if u.op = 0x00 then d && a && b && c && m
  else if u.op = 0x03 ∨ u.op = 0x07 then m
  else if u.op = 0x06 ∨ u.op = 0x19 then c && decide (u.imm < 7)
  else if (0x01 ≤ u.op ∧ u.op ≤ 0x05) ∨ (0x10 ≤ u.op ∧ u.op ≤ 0x15) then c && m
  else if 0x16 ≤ u.op ∧ u.op ≤ 0x18 then
    c && z (fld u.imm 8 5) && (if bitOf u.imm 9 then b else z (fld u.imm 4 0))
  else if u.op = 0x1A ∨ u.op = 0x1B then b && c && m
  else if u.op = 0x20 then b && c && z (fld u.imm 9 5) && castFmtOk (fld u.imm 3 0)
  else if u.op = 0x21 then b && c && decide (u.imm < 8)
  else if u.op = 0x22 then a && b && c && decide (u.imm < 256)
  else if u.op = 0x30 then a && b && c && decide (u.imm < 4) && decide (u.imm < nin)
  else if u.op = 0x31 then d && b && c && decide (u.imm < 2) && decide (u.imm < nout)
  else if u.op = 0x32 then a && b && c && decide (u.imm < 8)
  else if u.op = 0x33 then a && b && c && m
  else false

/-- The check of R188. -/
def Prog.ok (p : Prog) : Bool :=
  decide (1 ≤ p.nuop) && decide (p.nuop ≤ 48) && decide (p.nin ≤ 4) && decide (p.nout ≤ 2) &&
  decide (fld (p.w 0) 31 14 = 0) && ((p.words.drop 1).take 7).all (fun w => decide (w = 0)) &&
  p.uops.all (fun u => u.ok p.nin p.nout) && (p.words.drop (16 + p.nuop)).all (fun w => decide (w = 0)) &&
  (List.range p.nout).all (fun k => decide ((p.uops.filter (fun u => u.op == 0x31 && u.imm == k)).length = 1))

/-- The function slots that LUT names; whether a draw of the job's generator is made. -/
def Prog.luts (p : Prog) : List Nat := (p.uops.filter (fun u => u.op == 0x21)).map (·.imm)
def Prog.draws (p : Prog) : Bool := p.uops.any (fun u => u.op == 0x22 || (u.op == 0x20 && bitOf u.imm 4))

/-- The lines of program slot p among the vector engine's (R163). -/
def progLine (p : Nat) : Nat := 2560 + 4 * p

/-- A program slot checked before it is run: a failing line is poisoned. -/
def checkProg (t : TileId) (item p : Nat) (s : State) : State :=
  checkLines t item (progLine p) 4 (fun k a => modVec t (fun x => { x with poison := fset falseAt x.poison k true }) a) s

/-- A program slot holds a poisoned line. -/
def progPoisoned (s : State) (t : TileId) (p : Nat) : Bool := (fread falseAt s.tiles[t].vec.poison (progLine p) 4).any (fun b => b)

/-- VPLD: a failed check leaves the slot empty, and so does an image that arrives poisoned, without E_PROGRAM: DESIGN CHOICE (entry
41), since R188 does not speak of poison. -/
def vpldBody (t : TileId) (i : Item) (v : VIns) (s : State) : State :=
  vecChecked t i v [(!noRegs v || decide (fld v.x 27 22 ≠ 0) || decide (fld v.x 18 0 ≠ 0), eProgram)] (fun s =>
    if v.scalarPoisoned (fld v.x 31 28) then vecPoisonStop t i s
    else vecChecked t i v (recordChecks v 256) (fun s =>
      let (d, s) := lineRead (amemView t i) (amemScalar v) 256 s
      let p : Prog := ⟨wordsOfBytes 64 d.1⟩
      let bad := d.2.any (fun b => b)
      let s := modVec t (fun x => { x with
        progs := vput x.progs (fld v.x 21 19) (if p.ok && !bad then some p.words else none)
        poison := fclear x.poison (progLine (fld v.x 21 19)) 4 }) s
      let s := goodLines t (progLine (fld v.x 21 19)) 4 s
      let s := notePoison i.key d.2 s
      if p.ok || bad then vecDoneLsu t i s else vecFail t i v eProgram s) s) s

def execVpld (t : TileId) (s : State) : Res := .next (vecRow 0x07 vpldBody t s)

/-! ## Running a program on one element (R186, R190) -/

/-- What a program sees beside its element: the job's seed, the context, the function banks. -/
structure ProgEnv where
  prog : Prog
  seed : Nat
  ctx : CastCtx
  banks : List FtBank
  deriving DecidableEq, Repr

/-- An element in progress: temporaries, outputs, casts made, failing bank lines by slot. -/
structure ElemRun where
  e : List Word
  outs : List Word
  counts : CastCounts
  lines : List (Nat × FtLine)
  deriving DecidableEq, Repr


/-- A shift amount: IMM [4:0] with IMM [9], else the low five bits of eb. -/
def shiftAmt (u : Uop) (b : Word) : Nat := if bitOf u.imm 9 then fld u.imm 4 0 else b.toNat % 32

/-- Rounding an FP32 value to a format and back (CAST). -/
def castBack (f : Fmt) (rnd : Rnd) (x : Word) : Word × CastCounts :=
  let r := castElem f rnd (f32v x)
  (f32 (decodeElem f r.bits), countCasts [r])

/-- One micro-operation on an element of index n with inputs `ins`. -/
def runUop (env : ProgEnv) (n : Nat) (ins : List Word) (r : ElemRun) (u : Uop) : ElemRun :=
  let a := r.e.getD u.ea 0
  let b := r.e.getD u.eb 0
  let c := r.e.getD u.ec 0
  let put (x : Word) : ElemRun := { r with e := r.e.set u.ed x }
  let ones (x : Bool) : Word := BitVec.ofNat 32 (onesIf 0 x)
  if u.op = 0x01 then put (f32Add a b)
  else if u.op = 0x02 then put (f32Mul a b)
  else if u.op = 0x03 then put (f32Fma a b c)
  else if u.op = 0x04 then put (f32Min a b)
  else if u.op = 0x05 then put (f32Max a b)
  else if u.op = 0x06 then put (ones (condF u.imm (f32v a) (f32v b)))
  else if u.op = 0x07 then put (if c ≠ 0 then a else b)
  else if u.op = 0x10 then put (a + b)
  else if u.op = 0x11 then put (a - b)
  else if u.op = 0x12 then put (a * b)
  else if u.op = 0x13 then put (a &&& b)
  else if u.op = 0x14 then put (a ||| b)
  else if u.op = 0x15 then put (a ^^^ b)
  else if u.op = 0x16 then put (a <<< shiftAmt u b)
  else if u.op = 0x17 then put (a >>> shiftAmt u b)
  else if u.op = 0x18 then put (a.sshiftRight (shiftAmt u b))
  else if u.op = 0x19 then put (ones (condI u.imm a b))
  else if u.op = 0x1A then put (int32ToF32 a)
  else if u.op = 0x1B then put (f32ToInt32 a)
  else if u.op = 0x20 then
    let (x, k) := castBack ((fmtOfCode (fld u.imm 3 0)).getD .fp32) (ctxRnd (bitOf u.imm 4) env.seed env.ctx n) a
    { put x with counts := r.counts.add k }
  else if u.op = 0x21 then
    let (x, l) := slotEval (env.banks.getD u.imm ftBankEmpty) a
    { put x with lines := r.lines ++ (l.map (fun y => (u.imm, y))).toList }
  else if u.op = 0x22 then
    put (BitVec.ofNat 32 (philoxWord env.seed env.ctx.tensor.toNat env.ctx.step.toNat n (0x524E0000 + fld u.imm 7 0)))
  else if u.op = 0x30 then put (ins.getD u.imm 0)
  else if u.op = 0x31 then { r with outs := r.outs.set u.imm a }
  else if u.op = 0x32 then put (env.prog.const u.imm)
  else if u.op = 0x33 then put (BitVec.ofNat 32 n)
  else r

/-- The whole program on one element; every temporary starts at zero. -/
def runElem (env : ProgEnv) (n : Nat) (ins : List Word) : ElemRun :=
  env.prog.uops.foldl (runUop env n ins) ⟨List.replicate 16 0, [0, 0], noCasts, []⟩

/-- The program's surroundings in a state. -/
def progEnv (s : State) (t : TileId) (i : Item) (p : Prog) : ProgEnv :=
  ⟨p, itemSeed s i, vat s.tiles[t].vec.ctx p.ctx castCtxZero, s.tiles[t].ftb.toList.map (·.activeBank)⟩

/-- An element read from a stream as a temporary's bits: a packed or 16-bit format unpacks to FP32. -/
def unpackElem (f : Fmt) (bits : Nat) : Word :=
  if f = .fp32 ∨ f = .int32 then BitVec.ofNat 32 bits else f32 (decodeElem f bits)

/-- An output written to a stream: to nearest even. -/
def packElem (f : Fmt) (x : Word) : CastRes :=
  if f = .fp32 ∨ f = .int32 then ⟨x.toNat, false, false, false⟩ else castElem f .rne (f32v x)

/-- Elements of one run: results per output stream with poison, the counts of its CASTs and of its outputs, and the failing bank
lines. The outputs of a poisoned program are all poisoned. -/
def runElems (env : ProgEnv) (bad : Bool) (idx : Nat → Nat) (ins : List (List Elem)) (fIn fOut : Nat → Fmt) (count : Nat) :
    List (List Elem) × (CastCounts × CastCounts) × List (Nat × FtLine) :=
  let rs := (List.range count).map (fun j =>
    let xs := ins.map (fun l => l.getD j (0, false))
    let r := runElem env (idx j) (xs.zipIdx.map (fun x => unpackElem (fIn x.2) x.1.1))
    (r, bad || xs.any (·.2) || !r.lines.isEmpty))
  let out (k : Nat) : List (CastRes × Bool) := rs.map (fun r => (packElem (fOut k) (r.1.outs.getD k 0), r.2))
  let outs := (List.range env.prog.nout).map out
  (outs.map (fun l => l.map (fun x => (x.1.bits, x.2 || x.1.poison))),
   (rs.foldl (fun a r => a.add r.1.counts) noCasts, outs.foldl (fun a l => a.add (countCasts (l.map (·.1)))) noCasts),
   rs.flatMap (·.1.lines))

/-- The counts of a run: those of its CASTs under the layer of the program's context, those of its outputs under the item's
(R167). -/
def recordRun (t : TileId) (i : Item) (env : ProgEnv) (cnt : CastCounts × CastCounts) (s : State) : State :=
  s |> recordCasts t i.key env.ctx.layer.toNat cnt.1 |> recordCasts t i.key i.layer.toNat cnt.2

/-- Failing bank lines reported slot by slot. -/
def reportLines (t : TileId) (item : Nat) (ls : List (Nat × FtLine)) (s : State) : State :=
  (List.range 8).foldl (fun a f => reportTable t item f (ftSlot a t f).active ((ls.filter (fun x => x.1 == f)).map (·.2)) a) s

/-! ## VPRG (R187, R189) -/

/-- The register bases of a run: inputs and outputs that the program uses. -/
def progIns (v : VIns) (p : Prog) : List Nat := [v.va, v.vb, v.vc, fld v.x 26 22].take p.nin
def progOuts (v : VIns) (p : Prog) : List Nat := [v.vd, fld v.x 31 27].take p.nout
def runLen (v : VIns) : Nat := fld v.x 18 14 + 1

/-- A register's source lines poison the same lines of the outputs (R162). -/
def vprgReg (t : TileId) (i : Item) (v : VIns) (env : ProgEnv) (bad : Bool) (k : Nat) (s : State) : State :=
  let ins := progIns v env.prog
  let s := checkRegs t i.key.item.toNat (ins.map (· + k)) s
  let cols := regCols v.fmt
  let regs := ins.map (fun r => vregRaw s.tiles[t].vec (r + k))
  let f := fmtOfReg v.fmt
  let idx (j : Nat) : Nat := elemIndex env.ctx (16 * k + j / cols) (j % cols) 0
  let (outs, cnt, ls) := runElems env bad idx (regs.map (elemsOfReg v.fmt)) (fun _ => f) (fun _ => f) (16 * cols)
  let s := (outs.zip (progOuts v env.prog)).foldl (fun a o => writeReg t (o.2 + k) (regOfElems v.fmt o.1) a) s
  s |> reportLines t i.key.item.toNat ls |> recordRun t i env cnt
    |> notePoison i.key (bad :: outs.flatMap (fun l => l.map (·.2)) ++ regs.flatMap (·.poison))

/-- The checks that a program adds: its draws and its function slots. -/
def progChecks (s : State) (t : TileId) (i : Item) (p : Option Prog) : List (Bool × Nat) :=
  match p with
  | none => [(true, eSlot)]
  | some p => [(p.draws && (itemJob s i).seed.isNone, eNoseed), (p.luts.any (slotEmpty s t), eTableEmpty)]

def progSlot (s : State) (t : TileId) (v : VIns) : Option Prog := (vat s.tiles[t].vec.progs (fld v.x 21 19) none).map (⟨·⟩)

def vprgBody (t : TileId) (i : Item) (v : VIns) (s : State) : State :=
  let p := progSlot s t v
  let n := runLen v
  let shape : Bool := match p with
    | none => false
    | some p => (progIns v p ++ progOuts v p).any (fun r => beyond r n) ||
        (progOuts v p).any (fun d => (progIns v p).any (fun a => clash d n a n))
  vecChecked t i v ([(decide (fld v.x 13 0 ≠ 0), eProgram), (decide (3 < v.fmt), eFormat), (shape, eShape)] ++
    progChecks s t i p) (fun s =>
      match p with
      | none => s
      | some p =>
        let env := progEnv s t i p
        let s := checkProg t i.key.item.toNat (fld v.x 21 19) s
        let bad := progPoisoned s t (fld v.x 21 19)
        (List.range n).foldl (fun a k => vprgReg t i v env bad k a) s
          |> vecDone t i (n * max 1 p.weight * (if packedFmt v.fmt then 2 else 1))) s

def execVprg (t : TileId) (s : State) : Res := .next (vecRow 0x58 vprgBody t s)

/-! ## VPRGM -/

/-- A stream of a binding record. -/
structure Stream where
  base : Nat
  mem : Nat
  fmt : Nat
  stride : Nat
  deriving DecidableEq, Repr

def bindStream (ws : List Word) (k : Nat) : Stream :=
  let a := (ws.getD (2 + 2 * k) 0).toNat
  let b := (ws.getD (3 + 2 * k) 0).toNat
  ⟨fld a 21 0, fld a 23 22, fld a 27 24, fld b 15 0⟩

def Stream.width (x : Stream) : Nat := if x.fmt = 7 ∨ x.fmt = 8 then 2 else 4
def Stream.f (x : Stream) : Fmt := (fmtOfCode x.fmt).getD .fp32
def Stream.view (x : Stream) (t : TileId) (i : Item) : MemView :=
  ⟨t, (memOfIndex x.mem).getD .amem, vecB t, i.key.item.toNat, true, false⟩
def Stream.beyond (x : Stream) (count : Nat) : Bool :=
  decide (0 < count) && decide (memBytes ((memOfIndex x.mem).getD .amem) < x.base + (count - 1) * x.stride * x.width + x.width)

/-- The streams that a program uses: inputs, then outputs. -/
def progStreams (p : Prog) (ws : List Word) : List Stream × List Stream :=
  ((List.range p.nin).map (bindStream ws), (List.range p.nout).map (fun k => bindStream ws (4 + k)))

def bindChecks (ins outs : List Stream) (count : Nat) : List (Bool × Nat) × List (Bool × Nat) :=
  ([(ins.any (fun x => decide (x.mem = 3)) || outs.any (fun x => decide (2 ≤ x.mem)), eProgram),
    ((ins ++ outs).any (fun x => decide (x.fmt < 7) || decide (10 < x.fmt)), eFormat)],
   [((ins ++ outs).any (fun x => decide (x.base % x.width ≠ 0)), eAlign),
    ((ins ++ outs).any (fun x => x.beyond count), eExtent)])

def vprgmRun (t : TileId) (i : Item) (p : Prog) (slot : Nat) (ws : List Word) (s : State) : State :=
  let s := checkProg t i.key.item.toNat slot s
  let bad := progPoisoned s t slot
  let count := (ws.getD 0 0).toNat
  let (ins, outs) := progStreams p ws
  let env := progEnv s t i p
  let (els, s) := ins.foldl (fun a x =>
    let (es, s) := rowRead (x.view t i) false x.width x.stride count x.base a.2
    (a.1 ++ [es], s)) (([] : List (List Elem)), s)
  let (res, cnt, ls) := runElems env bad (fun j => env.ctx.indexBase.toNat + j) els
    (fun k => (ins.getD k ⟨0, 0, 9, 0⟩).f) (fun k => (outs.getD k ⟨0, 0, 9, 0⟩).f) count
  let s := (res.zip outs).foldl (fun a x => rowWrite (x.2.view t i) x.2.width x.2.stride x.2.base x.1 a) s
  let s := (res.zip outs).zipIdx.foldl (fun a x => tapValues t i.key i.layer.toNat
    (if x.2 = 0 then .out0 else .out1) (x.1.1.map (fun e => (decodeElem x.1.2.f e.1, e.2))) a) s
  s |> reportLines t i.key.item.toNat ls |> recordRun t i env cnt
    |> notePoison i.key (bad :: res.flatMap (fun l => l.map (·.2)) ++ els.flatMap (fun l => l.map (·.2)))
    |> vecDoneMem t i ((count + 1023) / 1024 * max 1 p.weight)

/-- VPRGM. A poisoned binding record ends the item DONE_POISONED, as a poisoned scalar used as an address does: DESIGN CHOICE (entry
41), since R187 does not speak of poison. -/
def vprgmBody (t : TileId) (i : Item) (v : VIns) (s : State) : State :=
  let p := progSlot s t v
  let base := amemScalar v
  let ok := decide (base % 64 = 0) && decide (base + 64 ≤ memBytes .amem)
  vecChecked t i v [(!noRegs v || decide (fld v.x 27 22 ≠ 0) || decide (fld v.x 18 0 ≠ 0), eProgram)] (fun s =>
    if v.scalarPoisoned (fld v.x 31 28) then vecPoisonStop t i s
    else
      let (d, s1) := if ok then lineRead (amemView t i) base 64 s else (([], []), s)
      if d.2.any (fun b => b) then vecPoisonStop t i s1
      else
        let ws := wordsOfBytes 16 d.1
        let bound : List (Bool × Nat) × List (Bool × Nat) := match p with
          | some p => bindChecks (progStreams p ws).1 (progStreams p ws).2 (ws.getD 0 0).toNat
          | none => ([], [])
        let pre := if ok then bound.1 else []
        let post := if ok then bound.2 else []
        vecChecked t i v (pre ++ progChecks s t i p ++ recordChecks v 64 ++ post) (fun s1 =>
          match p with
          | some p => vprgmRun t i p (fld v.x 21 19) ws s1
          | none => s1) s1) s

def execVprgm (t : TileId) (s : State) : Res := .next (vecRow 0x59 vprgmBody t s)

end Sys2Proof.Machine
end

