-- ==== Sys2Proof/Machine/StageChain.lean ====
section
/-! DEFINITION. Stage-chain mode (R198 to R201, R203). -/

namespace Sys2Proof.Machine
open Sys2Proof

/-! ## Settings -/

/-- The settings of a chain, as GO takes them from VEC_SC_CTRL to VEC_SC_FILL. -/
structure ScCfg where
  ctrl : Nat
  src : Nat
  dst : Nat
  lines : Nat
  scale : Word
  add : Word
  lo : Word
  hi : Word
  fill : Nat
  deriving DecidableEq, Repr

def scCfgOf (r : List Nat) : ScCfg :=
  let g (k : Nat) : Nat := r.getD k 0
  ⟨g 0, g 1, g 2, g 3, BitVec.ofNat 32 (g 4), BitVec.ofNat 32 (g 5), BitVec.ofNat 32 (g 6), BitVec.ofNat 32 (g 7), g 8⟩

def ScCfg.fillSrc (c : ScCfg) : Bool := bitOf c.ctrl 2
def ScCfg.smem (c : ScCfg) : Nat := fld c.ctrl 4 3
def ScCfg.dmem (c : ScCfg) : Nat := fld c.ctrl 6 5
def ScCfg.wmode (c : ScCfg) : Nat := fld c.ctrl 8 7
def ScCfg.tfn (c : ScCfg) : Bool := bitOf c.ctrl 11
def ScCfg.tslot (c : ScCfg) : Nat := fld c.ctrl 14 12
def ScCfg.ifmt (c : ScCfg) : Nat := fld c.ctrl 19 16
def ScCfg.ofmt (c : ScCfg) : Nat := fld c.ctrl 23 20
def ScCfg.raw (c : ScCfg) : Bool := c.ifmt == 15

/-- Bytes of an element of a chain format; RAW moves words. -/
def scWidth (f : Nat) : Nat := if f = 7 ∨ f = 8 then 2 else 4
/-- Source bytes behind one destination line. -/
def ScCfg.srcLine (c : ScCfg) : Nat := 64 / scWidth c.ofmt * scWidth c.ifmt

def scFmtOk (f : Nat) : Bool := f == 7 || f == 8 || f == 9 || f == 15

/-- The checks of R201. -/
def ScCfg.checks (c : ScCfg) (empty : Bool) : List (Bool × Nat) :=
  [(!scFmtOk c.ifmt || !scFmtOk c.ofmt || decide (c.wmode = 3) || decide (c.raw ≠ (c.ofmt == 15)) ||
      (c.raw && (bitOf c.ctrl 9 || bitOf c.ctrl 10 || c.tfn || bitOf c.ctrl 15)), eFormat),
   (c.tfn && empty, eTableEmpty),
   (decide (c.src % 64 ≠ 0) || decide (c.dst % 64 ≠ 0), eAlign),
   ((!c.fillSrc && (match memOfIndex c.smem with
        | some m => decide (memBytes m < c.src + c.lines * c.srcLine) | none => true)) ||
     (decide (c.wmode ≠ 2) && (match memOfIndex c.dmem with
        | some m => decide (memBytes m < c.dst + 64 * c.lines) | none => true)), eExtent)]

/-! ## One line -/

/-- The stages between decode and cast. -/
def ScCfg.stages (c : ScCfg) (b : FtBank) (x : Word) : Word × Option FtLine :=
  let x := if bitOf c.ctrl 9 then f32Mul x c.scale else x
  let x := if bitOf c.ctrl 10 then f32Add x c.add else x
  let (x, l) := if c.tfn then slotEval b x else (x, none)
  (if bitOf c.ctrl 15 && !f32IsNaN x then f32Min (f32Max x c.lo) c.hi else x, l)

/-- A destination line from its source bytes, and the bank lines that failed. -/
def ScCfg.lineOut (c : ScCfg) (b : FtBank) (src : List Byte) : List Byte × List FtLine :=
  if c.raw then (src, [])
  else
    let wi := scWidth c.ifmt
    let wo := scWidth c.ofmt
    let fi := (fmtOfCode c.ifmt).getD .fp32
    let fo := (fmtOfCode c.ofmt).getD .fp32
    let rs := (chunksOf wi (64 / wo) src).map (fun e => c.stages b (f32 (decodeElem fi (natOfBytes e))))
    (rs.flatMap (fun r => bytesOfNat wo (packElem fo r.1).bits), rs.filterMap (·.2))

def scView (t : TileId) (m : Nat) : MemView := ⟨t, (memOfIndex m).getD .amem, vecB t, 0, true, false⟩

/-- Destination line d: read, staged, and written, compared or discarded. -/
def scLine (t : TileId) (c : ScCfg) (sel : Bool) (bank : FtBank) (d : Nat) (s : State) : State :=
  let (src, s) := if c.fillSrc
    then ((List.flatten (List.replicate (c.srcLine / 4) (bytesOfNat 4 c.fill)), clean c.srcLine), s)
    else lineRead (scView t c.smem) (c.src + d * c.srcLine) c.srcLine s
  let (out, ls) := c.lineOut bank src.1
  let s := reportTable t 0 c.tslot sel ls s
  let bad := src.2.any (fun b => b) || !ls.isEmpty
  let at' := c.dst + 64 * d
  let s := if c.wmode = 0 then lineWrite (scView t c.dmem) at' out (List.replicate 64 bad) s
    else if c.wmode = 1 then
      let (old, s) := lineRead (scView t c.dmem) at' 64 s
      if old.1 = out ∧ !bad ∧ !(old.2.any (fun b => b)) then s
      else
        let s := if reg s (vecB t) Off.vecScMismatch = 0 then setReg (vecB t) Off.vecScFirst at' s else s
        bump32 (vecB t) Off.vecScMismatch s
    else s
  setReg (vecB t) Off.vecScDone (reg s (vecB t) Off.vecScDone + 1) s

/-- Lines [0, n) of a chain. -/
def scLines (t : TileId) (c : ScCfg) (sel : Bool) (bank : FtBank) (n : Nat) (s : State) : State :=
  (List.range n).foldl (fun a d => scLine t c sel bank d a) s

/-! ## Start, completion, abort (R199) -/

def scStat (t : TileId) (state code : Nat) (s : State) : State := setReg (vecB t) Off.vecScStat (state + 2 ^ 8 * code) s

/-- GO: refused unless the block is OFF, DRAINED or FENCED and no chain runs; a failed check is recorded. -/
def scGo (t : TileId) (s : State) : Nat × State :=
  let st := pgState s (vecB t)
  if !(st = 0 ∨ st = 4 ∨ st = 5) ∨ s.tiles[t].vec.sc.running then (eDenied, s)
  else
    let cfg := (List.range 9).map (fun k => reg s (vecB t) (Off.vecScCtrl + 4 * k))
    let c := scCfgOf cfg
    let s := s |> setReg (vecB t) Off.vecScDone 0 |> setReg (vecB t) Off.vecScMismatch 0
      |> setReg (vecB t) Off.vecScFirst 0
    match firstFail (c.checks (slotEmpty s t c.tslot)) with
    | some e => (stDone, scStat t 3 e s)
    | none =>
      let x := ftSlot s t c.tslot
      let s := if c.tfn then setFtSlot t c.tslot (x.setBank x.active
        { x.activeBank with inflight := x.activeBank.inflight + 1 }) s else s
      (stDone, s |> modVec t (fun v => { v with sc := ⟨true, false, x.active, cfg⟩ }) |> scStat t 1 0)

/-- A finished chain that fills every line of one memory is reported to the root of trust (R485). -/
def noteWipe (t : TileId) (c : ScCfg) (n : Nat) (s : State) : State :=
  match memOfIndex c.dmem with
  | some m => if s.rot.partSet && c.fillSrc && decide (c.wmode = 0) && decide (c.dst = 0) && decide (memBytes m ≤ 64 * n) then
      modTile t (fun x => { x with wiped := maskSet x.wiped (memIndex m) }) s else s
  | none => s

/-- The chain ends after `n` lines with a state and a code. -/
def scEnd (t : TileId) (n state code : Nat) (s : State) : State :=
  let sc := s.tiles[t].vec.sc
  let c := scCfgOf sc.cfg
  let x := ftSlot s t c.tslot
  let s := scLines t c sc.bank (x.bank sc.bank) n s
  let s := noteWipe t c n s
  let x := ftSlot s t c.tslot
  let b := x.bank sc.bank
  let s := if c.tfn then setFtSlot t c.tslot (x.setBank sc.bank { b with inflight := b.inflight - 1 }) s else s
  s |> modVec t (fun v => { v with sc := ⟨false, false, false, []⟩ }) |> scStat t state code

/-- The owner's chain runs. -/
def ownerChain (s : State) (t : TileId) : Bool := s.tiles[t].vec.sc.running && !s.tiles[t].vec.sc.byRot

/-- ABORT: the owner's chain stops after its current line; how far it has come by then is free (entry 7),
but not past a line whose report the fault port does not take (R429). -/
def scAbort (t : TileId) (s : State) : State :=
  if ownerChain s t && !s.flt.safe then
    let (n, s) := takeFree s
    let u := viaPort t (scEnd t (n % ((scCfgOf s.tiles[t].vec.sc.cfg).lines + 1)) 3 stCancelled) s
    if ownerChain u t then scEnd t 0 3 stCancelled s else u
  else s

/-- SC_COMPLETE: the remaining lines are processed and the chain is done. The root of trust's chains end with its test
(R498); in the safe state no chain goes on (R439). -/
def execScComplete (t : TileId) (s : State) : Res :=
  .next (if ownerChain s t && !s.flt.safe then viaPort t (scEnd t (scCfgOf s.tiles[t].vec.sc.cfg).lines 2 0) s else s)

end Sys2Proof.Machine
end

