-- ==== Sys2Proof/Machine/Faults.lean ====
section
/-! DEFINITION. The fault collector (R421 to R441): classes, the log, fencing, wedged blocks, the safe state, router
stalls and the drain probe (R24, R434, R435), and factory fault injection (R440). -/

namespace Sys2Proof.Machine
open Sys2Proof

/-! ## Classes (R422, R423) -/

def clsCorrected : Nat := 0
def clsPoisoned : Nat := 1
def clsFenced : Nat := 2
def clsFatal : Nat := 3

/-- The blocks of R436, which are never fenced. -/
def neverFenced (b : Block) : Bool := b == .dev || b == .own || b == .flt || b == .rot

/-- The block in DETAIL of HANDSHAKE_STALL. -/
def stallBlock (m : FMsg) : Option Block := blockOfId (fld m.detail.toNat 11 0)

def classOf (m : FMsg) : Nat :=
  let k := m.kind.toNat
  let d := m.detail.toNat
  if k = 0x02 ∨ k = 0x04 ∨ k = 0x10 ∨ k = 0x20 ∨ k = 0x48 then clsCorrected
  else if k = 0x01 ∨ k = 0x03 ∨ k = 0x05 ∨ k = 0x08 ∨ k = 0x18 ∨ k = 0x19 then clsPoisoned
  else if k = 0x11 ∨ k = 0x21 then clsFenced
  else if k = 0x28 then (if fld d 7 0 = eLinkDown then clsFenced else clsCorrected)
  else if k = 0x30 then (match stallBlock m with
    | some b => if neverFenced b then clsFatal else clsFenced
    | none => clsFenced)
  else if k = 0x38 then (if bitOf d 4 then clsFatal else clsCorrected)
  else clsFatal

/-- The kinds of R422. -/
def faultKinds : List Nat :=
  [0x01, 0x02, 0x03, 0x04, 0x05, 0x08, 0x10, 0x11, 0x18, 0x19, 0x20, 0x21, 0x28, 0x30, 0x38, 0x39, 0x3A, 0x40, 0x41, 0x48]

/-- A message with an unlisted KIND is taken as COLLECTOR_SELF. -/
def normalKind (m : FMsg) : FMsg := if faultKinds.contains m.kind.toNat then m else { m with kind := 0x40 }

/-- Word k of a message with its class (R421). -/
def msgWord (m : FMsg) (cls k : Nat) : Word :=
  let n := m.source.toNat + 2 ^ 12 * m.kind.toNat + 2 ^ 20 * cls + 2 ^ 23 * m.addr.toNat + 2 ^ 71 * m.item.toNat +
    2 ^ 87 * m.seq.toNat + 2 ^ 103 * m.detail.toNat
  BitVec.ofNat 32 (n / 2 ^ (32 * k))

/-! ## Fencing (R430, R357, R381) -/

/-- A port that fences takes its link DOWN. -/
def stopPort (b : Block) (s : State) : State :=
  match b with
  | .gwp p => if s.ports[p].link = .up ∨ s.ports[p].link = .training then settleAll (linkDown p none s) else s
  | .cam h => if s.cams[h].link = .up ∨ s.cams[h].link = .training then camLinkDown h false s else s
  | _ => s

def isFenced (s : State) (b : Block) : Bool := decide ((hdr s b).mode = .fenced)

def fence (b : Block) (s : State) : State := if tileRetired s b then s else stopPort b (fenceBlock b s)

/-- A block recorded wedged (R435). -/
def wedge (b : Block) (s : State) : State :=
  if isWedged s b then s else modFlt (fun f => { f with wedged := f.wedged ++ [BitVec.ofNat 12 (blockId b)] }) s

/-- The blocks that a Fenced message fences. -/
def fenceTargets (m : FMsg) : List Block :=
  match blockOfId m.source.toNat with
  | none => if m.kind = 0x30 then (stallBlock m).toList else []
  | some b =>
    if m.kind = 0x30 then (stallBlock m).toList
    else if m.kind = 0x11 then (match b with | .tile t _ => tileUnits.map (Block.tile t) | _ => [b])
    else [b]

/-- A new fault meets a block that is FENCED: a pending REARM is dropped (R434); a stall marks it wedged (R435). -/
def fencedAgain (m : FMsg) (b : Block) (s : State) : State :=
  let s := modHdr b (fun h => { h with rearmReq := false }) s
  if m.kind = 0x30 then wedge b s else s

/-- The reaction to a Fenced message (R430, R434, R435, R438): a block that is not fenced yet is fenced, but where the
reporter is itself FENCED. -/
def fencedReaction (m : FMsg) (s : State) : State :=
  let silent := match blockOfId m.source.toNat with | some b => isFenced s b | none => false
  (fenceTargets m).foldl (fun s b =>
    if isFenced s b then fencedAgain m b s else if silent then s else fence b s) s

/-! ## The safe state (R439) -/

/-- Every item in flight ends FENCED: its record is posted where its completion queue takes it. -/
def endAllFenced (s : State) : State :=
  let s := fenceItems .flt (s.items.map (·.key)) s
  let s := s.items.foldl (fun s i => if cqTakes s i.key.part i.cq then postRecord i.cq (itemRecord i) s else s) s
  { s with items := [] }

/-- The owner's chain issues nothing further: it has written a free number of lines, and the write that it has issued, if any, lands
with POISON set (entry 7). -/
def stopChain (t : TileId) (s : State) : State :=
  if !ownerChain s t then s
  else
    let sc := s.tiles[t].vec.sc
    let c := scCfgOf sc.cfg
    let (n, s) := takeFree s
    let k := n / 2 % (c.lines + 1)
    let s := scLines t c sc.bank ((ftSlot s t c.tslot).bank sc.bank) k s
    let s := if n % 2 = 1 ∧ k < c.lines ∧ c.wmode = 0 then
      lineWrite (scView t c.dmem) (c.dst + 64 * k) (List.replicate 64 0) (List.replicate 64 true) s else s
    modVec t (fun v => { v with sc := ⟨false, false, false, []⟩ }) s

/-- Work streams, completion streams and engines of a tile hold nothing further. -/
def stopTile (t : TileId) (s : State) : State :=
  s |> stopChain t |> modTile t (fun x => { x with
    work := spillEmpty, comp := spillEmpty, taps := Vector.replicate 4 none
    vec := { x.vec with queue := [] }
    mov := { x.mov with queue := [], active := [] }
    mnt := { x.mnt with gang := { gangIdle with pos64 := x.mnt.gang.pos64 }, watches := [], disturbed := [] }
    seq := { x.seq with running := none, waiting := none, issued := 0, issueMask := 0, tokens := Vector.replicate 32 none } })

/-- An image being applied is abandoned (R438, R509): its target's blocks leave UPDATING, and the meter runs on. -/
def abandonImage (s : State) : State :=
  let s := if s.rot.applying.any (fun x => x.1 == 0x18) then modMtr (fun m => { m with updating := false }) s else s
  let s := modRot (fun r => { r with applying := [] }) s
  { s with hdrs := s.hdrs.map (fun e => (e.1, if e.2.mode = .updating then { e.2 with mode := .drained } else e.2)) }

/-- What waits for a Gwetre port to send it: a write of this chip lands with POISON set, and a read of this chip is not sent (R439
steps 4 and 6). -/
def stopWaiting (own : Nat) (w : GwWait) : Option GwWait :=
  let h := gwHdrOf w.header
  if h.schip ≠ own then some w
  else if h.opc = gwRead then none
  else if h.opc = gwWrite ∧ tagPoison h.tag = false then some { w with header := gwWords { h with tag := h.tag + 2 ^ 17 } }
  else some w
def stopIssued (s : State) : State :=
  { s with ports := s.ports.map (fun g => { g with waiting := g.waiting.filterMap (stopWaiting (ownChip s)) }) }

/-- The safe-state notice and what every block does on it; the reset mark; the audit entry, signed. Requests that stand at a port are
answered as in the safe state. -/
def safeNotice (byTamper : Bool) (note : List Byte) (s : State) : State :=
  let s := modFlt (fun f => { f with safe := true, byTamper := byTamper }) s
  let s := allTiles.foldl (fun s t => stopTile t s) (endAllFenced s)
  let s := serveAll (stopIssued { abandonImage s with fabReqs := [] })
  auditNote evSafe note true (sendMark markReset 0 0 0 s)

/-- An injected message carries DETAIL [24] (R440). -/
def injected (m : FMsg) : Bool := bitOf m.detail.toNat 24

/-- Entry to the safe state on a Fatal message; a second one leaves FLT_FATAL_REC. A TAMPER entry wipes, where the event that it
reports has not done so already: an injected one. -/
def enterSafe (m : FMsg) (s : State) : State :=
  if s.flt.safe then s
  else
    let s := modFlt (fun f => { f with fatalRec := some (m, clsFatal) }) s
    let s := if m.kind = 0x3A ∧ injected m then tamperWipe s else s
    safeNotice (m.kind == 0x3A) [] (irqSystem 64 s)

/-! ## Taking a message (R424, R425) -/

def logRoom (s : State) (cls : Nat) : Bool :=
  let free := 4096 - s.flt.log.length
  if cls = clsCorrected then decide (256 < free) else if cls = clsPoisoned then decide (64 < free) else decide (0 < free)

def logMessage (m : FMsg) (cls : Nat) (s : State) : State :=
  if logRoom s cls then modFlt (fun f => { f with log := f.log ++ [(m, cls)] }) s else bump .flt Off.fltLogDrop 1 s

/-- PG_FAULT of the source: the class's bit and the kind. -/
def markFault (m : FMsg) (cls : Nat) (s : State) : State :=
  match blockOfId m.source.toNat with
  | some b => modHdr b (fun h => { h with faultBits := maskSet h.faultBits cls, faultKind := m.kind }) s
  | none => s

def takeMessage (m : FMsg) (s : State) : State :=
  let m := normalKind m
  let cls := classOf m
  let s := bump .flt (Off.fltKind + 8 * m.kind.toNat) 1 s
  let s := bump .flt (Off.fltClass + 8 * cls) 1 s
  let s := markFault m cls (logMessage m cls s)
  let s := if cls = clsFenced then fencedReaction m s else if cls = clsFatal then enterSafe m s else s
  if bitOf (reg s .flt Off.fltIrqMask) cls then irqSystem 64 s else s

/-- FAULT_MESSAGE (R425): the collector takes the oldest message of a source, in the source's order (R37, R41). -/
def execFaultMessage (src : Block) (s : State) : Res :=
  .next (match s.flt.inflight.find? (fun m => decide (m.source.toNat = blockId src)) with
    | none => s
    | some m => takeMessage m (modFlt (fun f => { f with inflight := f.inflight.erase m }) s))

/-! ## Router stalls and the drain probe (R24, R434 to R436) -/

/-- The tile whose router watches a block (R434). -/
def watcher (s : State) (b : Block) : TileId :=
  match b with
  | .tile t _ => t
  | _ => match ownerQuad s b with
    | some q => headTile q
    | none => 0

/-- The stall on a block is over for a router: its count starts anew (R24). -/
def dropStall (t : TileId) (b : Block) (s : State) : State :=
  modTile t (fun x => { x with stalls := x.stalls.filter (fun e => decide (e.1 ≠ b)) }) s

/-- The stall on a block is reported, or still the same one, at a count of beats. -/
def noteStall (t : TileId) (b : Block) (beats : Nat) (s : State) : State :=
  modTile t (fun x => { x with stalls := x.stalls.filter (fun e => decide (e.1 ≠ b)) ++ [(b, beats)] }) s

/-- The request to the block is still the one whose stall has been reported: its count has only grown. A lower count has been
reset by an acknowledge since. -/
def sameStall (s : State) (t : TileId) (b : Block) (beats : Nat) : Bool :=
  s.tiles[t].stalls.any (fun e => e.1 == b && decide (e.2 < beats))

/-- A drain probe raised: the watching router's count starts anew. -/
def sendProbe (b : Block) (s : State) : State :=
  let t := watcher s b
  s |> modHdr b (fun h => { h with probe := true })
    |> dropStall t b

/-- A message's four words with its class, as bytes. -/
def msgBytes (m : FMsg) (cls : Nat) : List Byte := bytesOfWords ((List.range 4).map (msgWord m cls))

/-- A stall on the collector itself (R436): the root of trust sends the safe-state notice, records the message in the audit log, and
writes FLT_FATAL_REC if the collector still takes register writes, which is free here (entry 4); else it reads 0. -/
def collectorStalled (m : FMsg) (s : State) : State :=
  if s.flt.safe then s
  else
    let (n, s) := takeFree s
    safeNotice false (msgBytes m clsFatal)
      (modFlt (fun f => { f with fatalRec := if n % 2 = 1 then some (m, clsFatal) else none }) s)

/-- HANDSHAKE_STALL (R24, R64): the count reaches TL_HS_LIMIT, once per stall. A count below the limit is a request that
waits anew: an earlier stall on the neighbour has been acknowledged. -/
def execHandshakeStall (t : TileId) (nbr : Block) (beats : Nat) (s : State) : Res :=
  .next (let lim := fld (reg s (.tile t .tl) Off.tlHsLimit) 23 0
    if lim = 0 then s
    else if beats < lim then dropStall t nbr s
    else if sameStall s t nbr beats then noteStall t nbr beats s
    else
      let s := bump32 (.tile t .tl) Off.tlHsStallCnt (noteStall t nbr beats s)
      if nbr = .flt then
        let (n, s) := emit (.tile t .tl) s
        collectorStalled ⟨BitVec.ofNat 12 (blockId (.tile t .tl)), 0x30, 0, 0, BitVec.ofNat 16 n, BitVec.ofNat 25 (blockId nbr)⟩ s
      else raiseFault (.tile t .tl) 0x30 0 0 (blockId nbr) s)

/-! ## Factory fault injection (R440) -/

/-- FLT_INJECT: a message of the written KIND as if TARGET had reported it, with DETAIL [24]; or code corruption armed
for TARGET's next write. From a TARGET that is no block the collector takes the message at once, with a free SEQ (entry 26). -/
def inject (v : Nat) (s : State) : Eff :=
  let mode := fld v 1 0
  let target := fld v 13 2
  let bits := fld v 23 22
  if !s.rot.factory then denied s
  else if mode = 1 then
    match blockOfId target with
    | none =>
      let (n, s) := takeFree s
      ok (takeMessage ⟨BitVec.ofNat 12 target, BitVec.ofNat 8 (fld v 21 14), 0, 0, BitVec.ofNat 16 n, BitVec.ofNat 25 (2 ^ 24)⟩ s)
    | some b => ok (raiseFault b (fld v 21 14) 0 0 (2 ^ 24) s)
  else if mode = 3 then (eFormat, s)
  else if mode = 2 ∧ bits ≠ 0 then
    ok (modFlt (fun f => { f with armed := f.armed ++ [(BitVec.ofNat 12 target, BitVec.ofNat 48 (reg s .flt Off.fltInjectAddr), bits)] }) s)
  else ok s

/-- FLT_LOG_POP read by a master (R441): word 0 of the oldest message, which moves into the master's holding register;
an empty log returns 0 and clears it. -/
def popLog (m : Fin 3) (s : State) : Nat × State :=
  match s.flt.log with
  | [] => (0, modFlt (fun f => { f with hold := f.hold.set m none }) s)
  | (x, c) :: rest => ((msgWord x c 0).toNat, modFlt (fun f => { f with log := rest, hold := f.hold.set m (some (x, c)) }) s)

/-- FLT_LOG1 to FLT_LOG3. -/
def heldWord (s : State) (m : Fin 3) (k : Nat) : Nat :=
  match s.flt.hold[m] with
  | some (x, c) => (msgWord x c k).toNat
  | none => 0

/-- FLT_STAT, FLT_WEDGED, FLT_UNREVOKED (R441). -/
def fltStat (s : State) : Nat :=
  b2n s.flt.safe + 2 * b2n s.flt.resetNeeded + 4 * b2n s.rot.factory + 2 ^ 8 * s.flt.log.length
def fltWedged (s : State) : Nat :=
  s.flt.wedged.foldl (fun m b => min m b.toNat) 0xFFF + 2 ^ 16 * s.flt.wedged.length
def fltUnrevoked (s : State) : Nat :=
  (match s.flt.unrevoked with | some (b, l) => b.toNat + 2 ^ 12 * b2n l | none => 0xFFF) + 2 ^ 16 * s.flt.unrevokedCnt

end Sys2Proof.Machine
end

