-- ==== Sys2Proof/Machine/Train.lean ====
section
/-! DEFINITION. Training statistics and the survival engine (R442 to R466): tap packets, step marks, secure points by
mirror and parity, their commit, restoring and verifying. Places that the spec does not give a byte or a chip of are
named in entry 29. -/

namespace Sys2Proof.Machine
open Sys2Proof

/-! ## Taps and banks (R445 to R449) -/

/-- TAP_PACKET (R446, R447): the unit accepts the oldest packet, a new one not while it drains; one of the served job adds into the REPORT layer's
open bank. -/
def execTapPacket (q : QuadId) (s : State) : Res :=
  .next (match s.quads[q].stat.taps with
    | [] => s
    | x :: xs => if x.late && blockStops s (.qstat q) then s else
      let key := 4 * fld (tapEntry s q x.layer.toNat) 27 16 + x.quantity
      let s := if served s x.key.part x.job.toNat then
          modQuad q (fun y => { y with stat := { y.stat with opened := { y.stat.opened with
            sums := fset (fun _ => 0) y.stat.opened.sums key (fget (fun _ => 0) y.stat.opened.sums key + x.sum)
            flags := fset (fun _ => 0) y.stat.opened.flags key (fget (fun _ => 0) y.stat.opened.flags key |||
              (1 + 2 * b2n x.nonfinite + 4 * b2n x.poison)) } } }) s
        else s
      s |> modQuad q (fun y => { y with stat := { y.stat with taps := xs } })
        |> modItem x.key (fun i => { i with taps := i.taps - 1 }))

/-- A quadrant's banks at a step mark (R448). -/
def closeBanks (v : Word) (q : QuadId) (s : State) : State :=
  modQuad q (fun y => { y with stat := { y.stat with
    closed := y.stat.opened, opened := ⟨[], [], []⟩, closedStep := v, marks := y.stat.marks + 1 } }) s

/-- MANT and EXP of a sum in units of 2⁻²⁹⁸: MANT × 2^(EXP − 31), to nearest even, bit 31 set unless the sum is 0
(R450). -/
def mantExp (n : Nat) : Nat × Int :=
  if n = 0 then (0, 0)
  else
    let l := Nat.log2 n
    let m := if l ≤ 31 then n * 2 ^ (31 - l) else roundTo .rne n 0 ((l : Int) - 31)
    if m = 2 ^ 32 then (2 ^ 31, (l : Int) + 1 - 298) else (m, (l : Int) - 298)

/-- STAT_RD_G, W or U (quantity 1 to 3) of a layer in a bank (R449, R450). -/
def readNorm (s : State) (q : QuadId) (bank : StatBank) (opened : Bool) (layer quantity : Nat) : Nat :=
  let key := 4 * layer + quantity
  let f := fget (fun _ => 0) bank.flags key
  let (m, e) := mantExp (fget (fun _ => 0) bank.sums key)
  let marks := s.quads[q].stat.marks
  let na := decide (marks = 0) || !bitOf f 0 || bitOf f 2 || (decide (quantity = 3) && decide (marks = 1) && !opened)
  m + 2 ^ 32 * (e % 2 ^ 16).toNat + 2 ^ 48 * b2n na + 2 ^ 49 * b2n (bitOf f 1) + 2 ^ 50 * b2n (bitOf f 2)

/-- The statistics unit's readout at an offset of its page (R450). -/
def statReadout (s : State) (q : QuadId) (off : Nat) : Nat :=
  let sel := reg s (.qstat q) Off.statRdSel
  let layer := fld sel 11 0
  let x := s.quads[q].stat
  let opened := bitOf sel 12
  let bank := if opened then x.opened else x.closed
  if off = Off.statRdStep then x.closedStep.toNat
  else if off = Off.statRdG then readNorm s q bank opened layer 1
  else if off = Off.statRdW then readNorm s q bank opened layer 2
  else if off = Off.statRdU then readNorm s q bank opened layer 3
  else fget (fun _ => 0) bank.counts (8 * layer + (off - Off.statRdCast) / 8)

/-! ## Dirty bits (R339, R456 step 3) -/

/-- A block's dirty bit, by the walk of its address. -/
def blockDirty (p : Fin 4) (va : Nat) (s : State) : Bool × State :=
  match translate (srvReq s p) va false s with
  | (.error _, s) => (false, s)
  | (.ok e, s) =>
    let b := entryBlock e va
    let (d, s) := hbmRead (hbmReqOf 0) (e.dirtyAt + b / 8) 1 s
    (maskHas (d.1.headD 0) (b % 8), s)

/-- The bit cleared at the slice, and in every translation cache of the partition. -/
def clearDirty (p : Fin 4) (va : Nat) (s : State) : State :=
  match translate (srvReq s p) va false s with
  | (.error _, s) => s
  | (.ok e, s) =>
    let b := entryBlock e va
    let (d, s) := hbmRead (hbmReqOf 0) (e.dirtyAt + b / 8) 1 s
    let s := hbmWrite (hbmReqOf 0) (e.dirtyAt + b / 8) [maskClear (d.1.headD 0) (b % 8)] d.2 s
    allXAgents.foldl (fun s a => if (xlateOf s a).tlb.any (entryHits p va) then
        modXlate a (fun x => { x with tlb := x.tlb.map (fun y => if entryHits p va y
          then { y with dirty := y.dirty.filter (fun k => decide (k ≠ b)) } else y) }) s
      else s) s

/-! ## Taking a point (R455, R456) -/

/-- The method of R455: 1 mirror, 2 parity. -/
def chooseMethod (e : TEnt) (c : Int) (small change : Int) : Nat :=
  if e.id = 0xFFFF then 1
  else if e.method = 1 ∨ e.method = 2 then e.method
  else if e.chosen = 0 then 1
  else if (e.blocks : Int) ≤ small then 1
  else if e.chosen = 2 ∧ change + 16 < c then 1
  else if e.chosen = 1 ∧ c < change - 16 then 2
  else e.chosen

/-- The changed fraction after a point at which d of 256 have changed. -/
def nextC (e : TEnt) (d : Nat) : Int := if e.chosen = 0 then 256 else (e.c : Int) + ((d : Int) - (e.c : Int)) / 4

/-- A block into the pending set, ascending by VA. -/
def insertBlock (b : PendBlock) : List PendBlock → List PendBlock
  | [] => [b]
  | x :: xs => if b.va ≤ x.va then b :: x :: xs else x :: insertBlock b xs

/-- The blocks of a tensor that a point must stream (R456 step 3), from the method of the committed point to the method
chosen, with the blocks changed in between. -/
def pendingOf (e : TEnt) (before want : Nat) (changed : List Nat) : List PendBlock :=
  let all := List.range e.blocks
  let mk (mirror : Bool) (change : Nat) (j : Nat) : PendBlock := ⟨e.idx, j, e.blockVa j, mirror, change⟩
  if want = 1 then all.map (mk true (if before = 2 then 2 else 0))
  else if before = 2 then (all.filter (fun j => changed.contains (e.blockVa j))).map (mk false 0)
  else all.map (mk false 1)

/-- Steps 2 and 3 for one tensor; one that is protected no more leaves parity, where it was in it (R459). -/
def takeTensor (p : Fin 4) (r : List Word) (s : State) (e : TEnt) : State :=
  if e.method = 3 then
    modSrv (leadQuad s p) (fun v => if fget (fun _ => 0) v.methods e.idx ≠ 2 then v else { v with
      pending := ((List.range e.blocks).map (fun j => (⟨e.idx, j, e.blockVa j, false, 2⟩ : PendBlock))).foldl
        (fun l b => insertBlock b l) v.pending }) s
  else
    let q := leadQuad s p
    let thr := reg s (.srv q) Off.srvThresh
    let (dirty, s) := (List.range e.blocks).foldl (fun (a : List Nat × State) j =>
      let (b, s) := blockDirty p (e.blockVa j) a.2
      (if b then a.1 ++ [e.blockVa j] else a.1, if b then clearDirty p (e.blockVa j) s else s)) ([], s)
    let c := nextC e (if e.blocks = 0 then 0 else dirty.length * 256 / e.blocks)
    let want := chooseMethod e c (fld thr 15 0) (fld thr 24 16)
    let w0 := hword e.words 0
    let s := putEntWord p r e.idx 0 (w0 % 2 ^ 18 + 2 ^ 18 * want + 2 ^ 20 * c.toNat + fld w0 31 29 * 2 ^ 29) s
    modSrv q (fun v =>
      let changed := v.changed ++ dirty.filter (fun a => !v.changed.contains a)
      let before := fget (fun _ => 0) v.methods e.idx
      { v with
        changed := changed, chosen := fset (fun _ => 0) v.chosen e.idx want
        pending := (pendingOf e before want changed).foldl (fun l b => insertBlock b l) v.pending }) s

/-! ### Sequence slots (R195, R454; entry 29) -/

/-- The tiles whose slots a partition's engine secures, in order. -/
def slotTiles (s : State) (p : Fin 4) : List TileId := (quadsOf s p).flatMap quadTiles

/-- The served job's owned slots, each SAVEd: its lines are checked as they are read. -/
def ownedSlots (p : Fin 4) (job : BitVec 6) (s : State) : List (TileId × Nat × SeqSlot) × State :=
  ((slotTiles s p).flatMap (fun t => (List.range 64).map (fun k => (t, k)))).foldl
    (fun (a : List (TileId × Nat × SeqSlot) × State) x =>
      if (seqSlot a.2 x.1 x.2).owner = some (p, job) then
        let s := checkSlot x.1 0 x.2 8 a.2
        (a.1 ++ [(x.1, x.2, seqSlot s x.1 x.2)], s)
      else a) ([], s)

/-- The engine's own tensor: a record of 576 bytes for each slot of each tile, which RESTORE would refuse where the slot is not the
job's. -/
def slotImage (s : State) (p : Fin 4) (slots : List (TileId × Nat × SeqSlot)) : List Byte :=
  (slotTiles s p).flatMap (fun t => (List.range 64).flatMap (fun k =>
    match slots.find? (fun x => decide (x.1 = t) && decide (x.2.1 = k)) with
    | some x => slotRecord x.2.2
    | none => bytesOfNat 4 (2 ^ 31) ++ List.replicate 572 0))

/-- Its number in the pending set, beyond every index of the table, and its blocks: nine for each quadrant, after every tensor's. -/
def slotTensor : Nat := 0x10000
def slotBlocks (s : State) (p : Fin 4) : List PendBlock :=
  (List.range (9 * (quadsOf s p).length)).map (fun j => ⟨slotTensor, j, 2 ^ 48 + kib64 * j, true, 0⟩)

/-- The buffers of a point: k/N mod 2, but never those of the last committed point (R458, R460; entry 29). -/
def pointBuf (v : SrvSt) (k n : Nat) : Nat := if v.committed = 0xFFFFFFFF#32 then k / n % 2 else 1 - v.buf

/-- A point is taken at the mark of step k (R456 steps 2 to 4). -/
def takePoint (p : Fin 4) (k n : Nat) (s : State) : State :=
  let q := leadQuad s p
  let job := BitVec.ofNat 6 (fld (reg s (.srv q) Off.srvJob) 5 0)
  let (r, s) := survRec p s
  let (es, s) := readTable p r s
  let s := modSrv q (fun v => { v with
    pending := [], staged := [], toShadow := [], folded := [], chosen := [], bytesFabric := 0
    bytesLocal := 0, broken := false, newBuf := pointBuf v k n }) s
  let s := es.foldl (takeTensor p r) s
  let (slots, s) := ownedSlots p job s
  modSrv q (fun v => { v with
    taken := BitVec.ofNat 32 k, state := .streaming, newSlots := slots, pending := v.pending ++ slotBlocks s p }) s

/-! ## Streaming (R457 to R459) -/

/-- Packets of at most 63 sectors (R351; entry 29). -/
def fabPieces (len : Nat) : List (Nat × Nat) := piecesOf (63 * 64) 0 len

/-- Bytes to a fabric address of another chip; poisoned as a whole (R463). -/
def fabWrites (chip : BitVec 16) (part : Fin 4) (addr : Nat) (bs : List Byte) (bad : Bool) :
    List (FabWork × SrvDest × Bool) :=
  (fabPieces bs.length).map (fun x =>
    (⟨false, chip, part, BitVec.ofNat 48 (addr + x.1), x.2 / 64, (bs.drop x.1).take x.2, bad⟩, .va 0, false))

/-- A 64 KiB block read from a fabric address of another chip. -/
def fabReads (chip : BitVec 16) (part : Fin 4) (addr : Nat) (dest : Nat → SrvDest) (xor : Bool) :
    List (FabWork × SrvDest × Bool) :=
  (fabPieces kib64).map (fun x =>
    (⟨true, chip, part, BitVec.ofNat 48 (addr + x.1), x.2 / 64, [], false⟩, dest x.1, xor))

/-- Requests added to the engine's list, and as many made as slots allow. -/
def queueFab (q : QuadId) (ws : List (FabWork × SrvDest × Bool)) (s : State) : State :=
  pumpSrv q 64 (modSrv q (fun v => { v with todo := v.todo ++ ws }) s)

def addBytes (q : QuadId) (fabric local_ : Nat) (s : State) : State :=
  modSrv q (fun v => { v with bytesFabric := v.bytesFabric + fabric, bytesLocal := v.bytesLocal + local_ }) s

/-- The first pending block leaves the list, and its staging slot too where the commit does not need it. -/
def donePending (q : QuadId) (b : PendBlock) (keep : Bool) (s : State) : State :=
  modSrv q (fun v => { v with
    pending := v.pending.drop 1, staged := if keep then v.staged else v.staged.filter (fun e => decide (e.1 ≠ b.va)) }) s

def stagedSlot (s : State) (q : QuadId) (va : Nat) : Option Nat :=
  (s.quads[q].srv.staged.find? (fun e => decide (e.1 = va))).map (·.2)

/-- A block's point content: from staging, else from live memory. -/
def pointContent (p : Fin 4) (r : List Word) (va : Nat) (s : State) : Except Nat (List Byte × List Bool) × State :=
  match stagedSlot s (leadQuad s p) va with
  | some k => vaRead (srvReq s p) (stageAddr r k) kib64 s
  | none => vaRead (srvReq s p) va kib64 s

def anyBad (d : List Byte × List Bool) : Bool := d.2.any (fun b => b)

/-- The mirror copy of a block leaves for a block of the mirror buffer (R458). -/
def streamMirror (p : Fin 4) (r : List Word) (off : Nat) (d : List Byte × List Bool) (s : State) : State :=
  let q := leadQuad s p
  s |> addBytes q kib64 kib64
    |> queueFab q (fabWrites (BitVec.ofNat 16 (hword r 0)) (recPpart r)
        (mirrorAddr r s.quads[q].srv.newBuf off) d.1 (anyBad d))

/-- A delta and its header leave for the ring on the block's holder (R459 step 3). -/
def streamDelta (p : Fin 4) (r : List Word) (blk : Nat) (d : List Byte) (bad : Bool) (s : State) : State :=
  let q := leadQuad s p
  let h := blk % recG r
  let n := fget (fun _ => 0) s.quads[q].srv.sent h
  let head := bytesOfNat 4 blk ++ bytesOfNat 4 s.quads[q].srv.taken.toNat ++ bytesOfNat 4 (recPos r) ++ List.replicate 52 0
  let chip := recChip r 32 h
  let a := ringAddr r (recPos r) (n % 64)
  s |> addBytes q (kib64 + 64) 0 |> modSrv q (fun v => { v with sent := fset (fun _ => 0) v.sent h (n + 1) })
    |> queueFab q (fabWrites chip p (a + 64) d bad ++ fabWrites chip p a head false)

/-- The ring on a holder is known to have a free slot: fewer than 64 of its deltas are not consumed. CONSUMED shows four holders, those of
the current batch; which batch is current is free where there are more than four (R453, R459; entry 29). -/
def ringFree (q : QuadId) (r : List Word) (h : Nat) (s : State) : Bool × State :=
  let n := (recG r + 3) / 4
  let (x, s) := if 1 < n then takeFree s else (0, s)
  (decide (x % n = h / 4) && decide ((fget (fun _ => 0) s.quads[q].srv.sent h + 256 -
    fld (hword r 23) (8 * (h % 4) + 7) (8 * (h % 4))) % 256 < 64), s)

/-- The delta of a block entering or staying in parity: its content staged, XOR the shadow (R459 steps 1 and 2). -/
def parityDelta (p : Fin 4) (r : List Word) (e : TEnt) (b : PendBlock) (d : List Byte × List Bool) (s : State) :
    Except Nat (List Byte × Bool) × State :=
  if b.change = 1 then (.ok (d.1, anyBad d), s)
  else match vaRead (srvReq s p) (shadowAddr r (e.poff + b.block)) kib64 s with
    | (.error c, s) => (.error c, s)
    | (.ok sh, s) => (.ok (xorBytes d.1 sh.1, anyBad d || anyBad sh), addBytes (leadQuad s p) 0 kib64 s)

/-- A block leaving parity: its delta is the shadow (R459 step 2). -/
def leaveParity (p : Fin 4) (r : List Word) (b : PendBlock) (blk : Nat) (s : State) : State :=
  let q := leadQuad s p
  match vaRead (srvReq s p) (shadowAddr r blk) kib64 s with
  | (.error _, s) => srvBroken q s
  | (.ok sh, s) => donePending q b false (streamDelta p r blk sh.1 (anyBad sh) (addBytes q 0 kib64 s))

/-- One pending block streamed; where the engine must wait (staging or the ring is full) nothing changes but the free value of
ringFree. -/
def streamBlock (p : Fin 4) (b : PendBlock) (s0 s : State) : State :=
  let q := leadQuad s p
  let (r, s) := survRec p s
  if b.tensor = slotTensor then
    let bs := fitBytes kib64 ((slotImage s p s.quads[q].srv.newSlots).drop (kib64 * b.block))
    donePending q b false (streamMirror p r (Config.slotTensorBlock + b.block) (bs, clean kib64) s)
  else
  let (e, s) := readEnt p r b.tensor s
  let blk := e.poff + b.block
  let parity := !b.mirror || decide (b.change = 2)
  let (free, s) := if parity && decide (recG r ≠ 0) then ringFree q r (blk % recG r) s else (true, s)
  if parity && decide (recG r = 0) then modSrv q (fun v => { v with broken := true }) s0
  else if !free then { s0 with nfree := s.nfree }
  else if b.mirror then
    match pointContent p r b.va s with
    | (.error _, s) => srvBroken q s
    | (.ok d, s) =>
      let s := streamMirror p r (e.moff + b.block) d s
      if b.change ≠ 2 then donePending q b false s else leaveParity p r b blk s
  else if b.change = 2 then leaveParity p r b blk s
  else
    match (match stagedSlot s q b.va with
      | some k => ((Except.ok k : Except Bool Nat), s)
      | none => stageCopy p b.va s) with
    | (.error false, _) => s0
    | (.error true, s) => srvBroken q s
    | (.ok k, s) =>
      match vaRead (srvReq s p) (stageAddr r k) kib64 s with
      | (.error _, s) => srvBroken q s
      | (.ok d, s) =>
        match parityDelta p r e b d s with
        | (.error _, s) => srvBroken q s
        | (.ok x, s) =>
          s |> streamDelta p r blk x.1 x.2 |> modSrv q (fun v => { v with toShadow := v.toShadow ++ [(k, blk)] })
            |> donePending q b true

/-- SECURE_POINT_STREAM (R456 step 5): the lead's engine streams its next block; writes that stand at a port for want of that are tried
again. -/
def execSecurePointStream (q : QuadId) (s : State) : Res :=
  .next (let v := s.quads[q].srv
    if v.state ≠ .streaming ∨ v.broken = true ∨ !v.todo.isEmpty = true then s
    else match v.pending with
      | [] => s
      | b :: _ => serveAll (unlessHeld (fun s => streamBlock (partOf s q) b s s) s))

/-- The header of a ring slot of a source: parity block, point, source position. -/
def deltaHead (p : Fin 4) (r : List Word) (src slot : Nat) (s : State) : List Word :=
  match (vaRead (srvReq s p) (ringAddr r src slot) 64 s).1 with
  | .ok d => wordsOfBytes 3 d.1
  | .error _ => []

/-- A ring slot holds a delta of the point being taken, for a block that this chip holds, not folded yet (R459). -/
def deltaNew (v : SrvSt) (r : List Word) (src : Nat) (h : List Word) : Bool :=
  let hg := fld (hword r 15) 4 0
  !h.isEmpty && decide (src < hg) && decide (hword h 0 % hg = fld (hword r 15) 9 5) && decide (hword h 1 = v.taken.toNat) &&
    decide (hword h 2 = src) && !v.folded.contains (src, hword h 0)

/-- The holder's report of consumption to a source's CONSUMED: one sector for the source's chip, whose address and content the spec does
not give and are free (R453, R459; entry 29). -/
def reportConsumed (p : Fin 4) (r : List Word) (src : Nat) (s : State) : State :=
  let (a, s) := takeFree s
  let (bs, s) := freeBytes 64 s
  queueFab (leadQuad s p) (fabWrites (recChip r 40 src) p (a % 2 ^ 42 * 64) bs false) s

/-- A new block starts from the old buffer's; the slot is consumed, which the holder reports to the source. -/
def foldDelta (p : Fin 4) (r : List Word) (src blk : Nat) (d : List Byte × List Bool) (s : State) : State :=
  let q := leadQuad s p
  let v := s.quads[q].srv
  let j := blk / fld (hword r 15) 4 0
  let touched := v.folded.any (fun f => decide (f.2 = blk))
  match vaRead (srvReq s p) (parityAddr r (if touched then v.newBuf else 1 - v.newBuf) j) kib64 s with
  | (.error _, s) => srvBroken q s
  | (.ok old, s) =>
    s |> srvPut p (parityAddr r v.newBuf j) (xorBytes old.1 d.1) ((old.2.zip d.2).map (fun x => x.1 || x.2))
      |> modSrv q (fun v => { v with
          folded := v.folded ++ [(src, blk)]
          consumed := fset (fun _ => 0) v.consumed src ((fget (fun _ => 0) v.consumed src + 1) % 256) })
      |> reportConsumed p r src

/-- DELTA_FOLD (R459): a holder folds the delta of a source's ring slot into its new parity buffer. -/
def execDeltaFold (q : QuadId) (src : Fin 16) (slot : Fin 64) (s : State) : Res :=
  .next (unlessHeld (fun s =>
    let p := partOf s q
    let v := s.quads[q].srv
    if v.state ≠ .streaming then s
    else
      let (r, s1) := survRec p s
      match vaRead (srvReq s1 p) (ringAddr r src.val slot.val) (kib64 + 64) s1 with
      | (.error _, _) => s
      | (.ok d, s1) =>
        let h := wordsOfBytes 3 d.1
        if deltaNew v r src.val h then foldDelta p r src.val (hword h 0) (d.1.drop 64, d.2.drop 64) s1 else s) s)

/-- A delta of the point being taken has arrived in a ring and is not folded yet. -/
def deltaWaits (p : Fin 4) (s : State) : Bool :=
  let v := s.quads[leadQuad s p].srv
  let (r, s) := survRec p s
  (List.range (fld (hword r 15) 4 0)).any (fun x => (List.range 64).any (fun n => deltaNew v r x (deltaHead p r x n s)))

/-- SECURE_POINT_COMPLETE (R456 step 6, R460): the engine's own streaming is acknowledged, and as a holder it has folded the
deltas of the point from every member (entry 29). -/
def execSecurePointComplete (q : QuadId) (s : State) : Res :=
  .next (let v := s.quads[q].srv
    if v.state = .streaming ∧ v.pending.isEmpty ∧ v.todo.isEmpty ∧ !v.broken ∧ !srvWaits s (partOf s q) ∧
        !deltaWaits (partOf s q) s then
      modSrv q (fun v => { v with state := .complete }) s
    else s)

/-! ## The SRV_ page's commands (R443, R460, R462, R465) -/

/-- The lead quadrant's page acts for its partition; any other page's registers are refused (R442). -/
def isLead (s : State) (q : QuadId) : Bool := leadQuad s (partOf s q) == q

/-- The replay log mirrored at a mark, into the buffer that is not the committed point's (R454, R464; entry 29). -/
def mirrorLog (p : Fin 4) (s : State) : State :=
  let q := leadQuad s p
  let (r, s) := survRec p s
  let (es, s) := readTable p r s
  match es.find? (fun e => decide (e.id = 0xFFFF)) with
  | none => s
  | some e =>
    match vaRead (srvReq s p) (recWide r 16) 0x4000 s with
    | (.error _, s) => s
    | (.ok d, s) =>
      let buf := 1 - s.quads[q].srv.buf
      queueFab q (fabWrites (BitVec.ofNat 16 (hword r 0)) (recPpart r) (mirrorAddr r buf e.moff) d.1 (anyBad d))
        (modSrv q (fun v => { v with logBuf := some buf }) s)

/-- The head tile's SQC_ block, or the engine's own, is drained: the survival engine takes no new work (R501, R503). -/
def srvStops (s : State) (q : QuadId) : Bool := blockStops s (sqc (headTile q)) || blockStops s (.srv q)

/-- SRV_STEP (R443, R448, R456, R461): without a served job a mark changes nothing (entry 29). -/
def stepMark (q : QuadId) (k : Word) (s : State) : Eff :=
  let p := partOf s q
  let v := s.quads[q].srv
  let n := reg s (.srv q) Off.srvPeriod
  if !isLead s q || decide (v.state = .restoring) then denied s
  else if !bitOf (reg s (.srv q) Off.srvJob) 6 then ok s
  else match (match v.step with | some x => decide (x + 1 ≠ k) | none => false) with
    | true => denied s
    | false =>
      let s := (quadsOf s p).foldl (fun s x => closeBanks k x s) s
      let s := modSrv q (fun v => { v with step := some k }) s
      let s := mirrorLog p s
      let due := decide (n ≠ 0) && decide (k.toNat % n = 0)
      if !due then ok s
      else if v.state = .streaming ∨ v.state = .complete ∨ srvStops s q = true then ok (bump (.srv q) Off.srvLate 1 s)
      else ok (takePoint p k.toNat n s)


/-- Staging copied into the shadow at a commit (R460). -/
def commitShadow (p : Fin 4) (r : List Word) (s : State) (x : Nat × Nat) : State :=
  match vaRead (srvReq s p) (stageAddr r x.1) kib64 s with
  | (.error _, s) => s
  | (.ok d, s) => addBytes (leadQuad s p) 0 (2 * kib64) (srvPut p (shadowAddr r x.2) d.1 d.2 s)

/-- SRV_COMMIT (R460, R461): S is the step in which the commit falls, counted from the point. -/
def commitPoint (q : QuadId) (k : Word) (s : State) : Eff :=
  let p := partOf s q
  let v := s.quads[q].srv
  if !isLead s q || decide (v.state ≠ .complete) || decide (v.taken ≠ k) then denied s
  else
    let lag := (v.step.getD 0 + 1 - v.taken).toNat
    let (r, s) := survRec p s
    let s := v.toShadow.foldl (commitShadow p r) s
    let x := s.quads[q].srv
    let s := s |> bump (.srv q) Off.srvPoints 1 |> setReg (.srv q) Off.srvBytesFabric (min x.bytesFabric (2 ^ 48 - 1))
      |> setReg (.srv q) Off.srvBytesLocal (min x.bytesLocal (2 ^ 48 - 1)) |> setReg (.srv q) Off.srvStreamSteps lag
    ok (serveAll (modSrv q (fun v => { v with
      state := .idle, noPoint := false, committed := k, commitLag := some lag, staged := [], toShadow := [], changed := []
      folded := [], methods := v.chosen, buf := v.newBuf, newSlots := [], lostChips := [] }) s))

/-- SRV_CMD ABORT (R460): the uncommitted point is dropped. -/
def abortPoint (q : QuadId) (s : State) : State :=
  let v := s.quads[q].srv
  if v.state ≠ .streaming ∧ v.state ≠ .complete then s
  else modSrv q (fun v => { v with
    state := .idle, pending := [], staged := [], toShadow := [], folded := [], chosen := [], newSlots := [], todo := []
    broken := false }) s

/-- The bound of R461: P + S − 1, or all ones until a commit. -/
def lossBound (s : State) (q : QuadId) : Nat :=
  let n := reg s (.srv q) Off.srvPeriod
  match s.quads[q].srv.commitLag with
  | none => 0xFFFFFFFF
  | some l => if n = 0 then 0xFFFFFFFF else (n * ((l + n - 1) / n) + l - 1) % 2 ^ 32

/-! ### Verifying (R464, R465) -/

/-- The replay comparison's verdict for step k + 1: 1 pass, 2 fail, 3 no reference. Without REPLAY_VALID the spec states
no verdict, so it is free (entry 29). -/
def replayVerdict (p : Fin 4) (k tol : Word) (s : State) : Nat × State :=
  let (r, s) := survRec p s
  let n := k + 1
  match vaRead (srvReq s p) (recWide r 16 + 64 * (n.toNat % 256)) 64 s with
  | (.error _, s) => (3, s)
  | (.ok d, s) =>
    let w := wordsOfBytes 6 d.1
    let flags := hword w 3
    let loss := w.getD 4 0
    let replay := w.getD 5 0
    let diff := fvAbs (fvAdd (f32v loss) (fvNeg (f32v replay)))
    let bound := fvMul (f32v tol) (fvAbs (f32v loss))
    if hword w 0 ≠ n.toNat ∨ !bitOf flags 9 then (3, s)
    else if !bitOf flags 10 then let (x, s) := takeFree s; (x % 5, s)
    else if bitOf flags 8 then (if loss = replay then 1 else 2, s)
    else (if fvLe diff bound then 1 else 2, s)

/-- The digest of a tensor's content at some addresses written into its entry. -/
def writeDigest (p : Fin 4) (r : List Word) (e : TEnt) (at_ : Nat → Nat) (s : State) : State :=
  let (c, s) := tensorBytes p e.blocks at_ s
  let (d, s) := digestOf c s
  putDigest p r e.idx d s

/-- The digests of the tensors as they stand, once restored. -/
def writeDigests (p : Fin 4) (s : State) : State :=
  let (r, s) := survRec p s
  let (es, s) := readTable p r s
  es.foldl (fun s e => if e.method = 3 then s else writeDigest p r e e.blockVa s) s

/-- The digests of the secured copies: a parity tensor's from the shadow; a mirror tensor's copy is read back from the partner first. -/
def startCheck (p : Fin 4) (s : State) : State :=
  let q := leadQuad s p
  let (r, s) := survRec p s
  let (es, s) := readTable p r s
  let v := s.quads[q].srv
  let m (e : TEnt) : Nat := if e.method = 3 then 0 else fget (fun _ => 0) v.methods e.idx
  let s := es.foldl (fun s e => if m e = 2 then writeDigest p r e (fun j => shadowAddr r (e.poff + j)) s else s) s
  let mirrors := es.filter (fun e => decide (m e = 1) && decide (e.blocks ≠ 0))
  if mirrors.isEmpty then modSrv q (fun v => { v with verdict := 4 }) s
  else
    let reads := mirrors.flatMap (fun e => (List.range e.blocks).flatMap (fun j =>
      fabReads (BitVec.ofNat 16 (hword r 0)) (recPpart r) (mirrorAddr r v.buf (e.moff + j))
        (fun o => .check e.idx (kib64 * j + o)) false))
    settleCheck q (queueFab q reads (modSrv q (fun v => { v with verdict := 0, checking := mirrors.map (·.idx), checkMem := [] })
      (dropCheck q s)))

/-- SRV_CMD CHECK (R465). -/
def checkPoint (q : QuadId) (s : State) : State :=
  let p := partOf s q
  let mode := fld (reg s (.srv q) Off.srvVerify) 1 0
  if mode = 1 then
    let (n, s) := replayVerdict p s.quads[q].srv.committed (BitVec.ofNat 32 (reg s (.srv q) Off.srvTol)) s
    modSrv q (fun v => { v with verdict := n }) s
  else if mode = 2 then startCheck p s
  else s

/-- A write of SRV_CMD: ABORT, then CHECK; ROLE is kept for the next SRV_RESTORE. -/
def srvCmd (q : QuadId) (v : Nat) (s : State) : Eff :=
  if !isLead s q || decide (8 ≤ v) then denied s
  else
    let s := if bitOf v 0 then serveAll (abortPoint q s) else s
    let s := if bitOf v 1 then checkPoint q s else s
    ok (modSrv q (fun x => { x with role := bitOf v 2 }) s)

/-! ### Restoring (R462, R463) -/

/-- The method that secures a tensor at the point restored: as committed here, else as its entry says. -/
def restoreMethod (v : SrvSt) (e : TEnt) : Nat :=
  let m := fget (fun _ => 0) v.methods e.idx
  if e.method = 3 then 0 else if v.role ∨ m = 0 then e.chosen else m

/-- A block of memory copied locally. -/
def copyBlock (p : Fin 4) (src dst : Nat) (s : State) : State :=
  match vaRead (srvReq s p) src kib64 s with
  | (.error _, s) => srvBroken (leadQuad s p) s
  | (.ok d, s) => srvPut p dst d.1 d.2 s

/-- A block set to zero, into which the parity reads then add. -/
def zeroBlock (p : Fin 4) (va : Nat) (s : State) : State := srvPut p va (List.replicate kib64 0) (clean kib64) s

/-- The members that take part in a stripe: every other chip chooses for itself, and nothing stated tells this one, so it is free
(R455, R462; entry 29). -/
def participants (is : List Nat) (s : State) : List Nat × State :=
  let (n, s) := takeFree s
  (is.filter (fun i => bitOf n i), s)

/-- Reads added by XOR into a block of zeros. -/
def xorReads (p : Fin 4) (va : Nat) (ws : List (FabWork × SrvDest × Bool)) (s : State) : State :=
  modSrv (leadQuad s p) (fun v => { v with todo := v.todo ++ ws }) (zeroBlock p va s)

/-- Parity block b of the own group rebuilt at an address: its holder's block and the shadows of the other participants. -/
def rebuildBlock (p : Fin 4) (r : List Word) (buf b va : Nat) (s : State) : State :=
  let g := recG r
  let (is, s) := participants ((List.range g).filter (fun i => decide (i ≠ recPos r))) s
  xorReads p va (fabReads (recChip r 32 (b % g)) p (parityAddr r buf (b / g)) (fun o => .va (va + o)) true ++
    is.flatMap (fun i => fabReads (recChip r 24 i) p (shadowAddr r b) (fun o => .va (va + o)) true)) s

/-- A block of a tensor read back from a mirror buffer of the partner. -/
def mirrorReads (r : List Word) (buf off : Nat) (dest : Nat → SrvDest) : List (FabWork × SrvDest × Bool) :=
  fabReads (BitVec.ofNat 16 (hword r 0)) (recPpart r) (mirrorAddr r buf off) dest false

def addReads (p : Fin 4) (ws : List (FabWork × SrvDest × Bool)) (s : State) : State :=
  modSrv (leadQuad s p) (fun v => { v with todo := v.todo ++ ws }) s

/-- One tensor's restore started (R462 steps 5 and 6); the replay log comes from the buffer that the last mark wrote (R464). -/
def restoreTensor (p : Fin 4) (r : List Word) (buf logBuf : Nat) (s : State) (e : TEnt) : State :=
  let q := leadQuad s p
  let v := s.quads[q].srv
  let m := restoreMethod v e
  let from_ := if e.id = 0xFFFF then logBuf else buf
  (List.range e.blocks).foldl (fun s j =>
    if m = 1 then addReads p (mirrorReads r from_ (e.moff + j) (fun o => .va (e.blockVa j + o))) s
    else if m = 2 then
      if v.role then (if recG r = 0 then srvBroken q s else rebuildBlock p r buf (e.poff + j) (e.blockVa j) s)
      else copyBlock p (shadowAddr r (e.poff + j)) (e.blockVa j) s
    else s) s

/-- The parity slot that the spare holds, rebuilt from its members' shadows (R462 step 6). -/
def restoreHeld (p : Fin 4) (r : List Word) (buf : Nat) (s : State) : State :=
  let hg := fld (hword r 15) 4 0
  if hg = 0 then s
  else (List.range (hword r 7)).foldl (fun s j =>
    let va := parityAddr r buf j
    let b := j * hg + fld (hword r 15) 9 5
    let (is, s) := participants (List.range hg) s
    xorReads p va (is.flatMap (fun i => fabReads (recChip r 40 i) p (shadowAddr r b) (fun o => .va (va + o)) true)) s) s

/-- A slot's record that has come back restored (R195): none of a slot that was not the job's; E_SLOT of another job, or where another
job owns the slot, breaks the restore (entry 29). -/
def restoreSlot (p : Fin 4) (job : BitVec 6) (s : State) (x : TileId × Nat × Nat) : State :=
  let q := leadQuad s p
  let v := s.quads[q].srv
  let rec_ := fread (fun _ => (0 : Byte)) v.slotMem (576 * x.2.2) 576
  let bad := (fread (fun _ => false) v.slotBad (576 * x.2.2) 576).any (fun b => b)
  let h := wordOf rec_
  let owner := (seqSlot s x.1 x.2.1).owner
  if bitOf h 31 && !bad then s
  else if fld h 7 0 ≠ jobByte p job ∨ 4 < fld h 10 8 ∨ fld h 31 13 ≠ 0 ∨ (owner.isSome = true ∧ owner ≠ some (p, job)) then srvBroken q s
  else writeSlot x.1 x.2.1 8 ⟨some (p, job), fld h 10 8, bitOf h 11, bitOf h 12 || bad,
    fwrite zeroWord [] 0 (wordsOfBytes 128 (rec_.drop 64))⟩ s

/-- The sequence slots of the point restored. -/
def restoreSlots (p : Fin 4) (s : State) : State :=
  let job := BitVec.ofNat 6 (fld (reg s (.srv (leadQuad s p)) Off.srvJob) 5 0)
  let xs := (slotTiles s p).flatMap (fun t => (List.range 64).map (fun k => (t, k)))
  (xs.zipIdx.map (fun y => (y.1.1, y.1.2, y.2))).foldl (restoreSlot p job) s

/-- SRV_RESTORE (R462 steps 4 to 6, R463): the local copies are made and the remote reads start. Which buffers hold the point is free
where this chip has not committed it itself (entry 29). Refused while the engine takes no new work (R503; entry 29). -/
def startRestore (q : QuadId) (k : Word) (s : State) : Eff :=
  let p := partOf s q
  let v := s.quads[q].srv
  if !isLead s q || decide (v.state = .streaming) || srvStops s q then denied s
  else
    let (n, s) := if v.committed = k then (v.buf, s) else takeFree s
    let (m, s) := match v.logBuf with | some b => (b, s) | none => takeFree s
    let (r, s) := survRec p s
    let (es, s) := readTable p r s
    let s := modSrv q (fun v => { v with
      state := .restoring, restoring := k, verdict := 0, broken := false, failCode := 0, pending := [], staged := [], toShadow := []
      folded := [], todo := [], checking := [], checkMem := [], slotMem := [], slotBad := [], buf := n % 2 }) s
    let s := es.foldl (restoreTensor p r (n % 2) (m % 2)) s
    let s := (slotBlocks s p).foldl (fun s b =>
      addReads p (mirrorReads r (n % 2) (Config.slotTensorBlock + b.block) (fun o => .slots (kib64 * b.block + o))) s) s
    let s := if v.role then restoreHeld p r (n % 2) s else s
    ok (pumpSrv q 64 s)

/-- A restored tensor: its dirty bits cleared, and on a spare its shadow set (R462). -/
def settleTensor (p : Fin 4) (r : List Word) (s : State) (e : TEnt) : State :=
  let q := leadQuad s p
  let v := s.quads[q].srv
  let m := restoreMethod v e
  if m = 0 then s
  else
    let s := (List.range e.blocks).foldl (fun s j =>
      let s := clearDirty p (e.blockVa j) s
      if v.role ∧ m = 2 then copyBlock p (e.blockVa j) (shadowAddr r (e.poff + j)) s else s) s
    modSrv q (fun v => { v with methods := fset (fun _ => 0) v.methods e.idx m }) s

/-- A mirror tensor of a chip whose partner was lost is unsecured: nothing of it is secured yet (R462 step 7, R455; entry 29). -/
def unsecure (p : Fin 4) (r : List Word) (s : State) (e : TEnt) : State :=
  let q := leadQuad s p
  if e.method = 3 ∨ fget (fun _ => 0) s.quads[q].srv.methods e.idx ≠ 1 then s
  else
    let w0 := hword e.words 0
    modSrv q (fun v => { v with methods := fset (fun _ => 0) v.methods e.idx 0 })
      (putEntWord p r e.idx 0 (w0 % 2 ^ 18 + fld w0 31 20 * 2 ^ 20) s)

/-- A restore ends FAILED, that of a spare with E_REMOTE (R463). -/
def failRestore (q : QuadId) (s : State) : State :=
  modSrv q (fun v => { v with state := .failed, failCode := if v.role then eRemote else 0, role := false, todo := [] }) s

/-- Everything has come: slots, dirty bits, shadows, what is unsecured, the digests. -/
def settleRestore (q : QuadId) (s : State) : State :=
  let p := partOf s q
  let s := restoreSlots p s
  if s.quads[q].srv.broken then failRestore q s
  else
    let (r, s) := survRec p s
    let (es, s) := readTable p r s
    let s := es.foldl (settleTensor p r) s
    let lost := s.quads[q].srv.lostChips.contains (BitVec.ofNat 16 (hword r 0))
    let s := if lost then es.foldl (unsecure p r) s else s
    let s := modSrv q (fun v => { v with
      state := .restored, role := false, committed := v.restoring, taken := v.restoring, step := some v.restoring
      changed := [], slotMem := [], slotBad := [], noPoint := lost }) s
    if fld (reg s (.srv q) Off.srvVerify) 1 0 = 2 then
      modSrv q (fun v => { v with verdict := 4 }) (writeDigests p s)
    else s

/-- RESTORE_COMPLETE (R462, R463, R465): RESTORED once everything has come; FAILED otherwise. The step count goes on
from the point (entry 29). -/
def execRestoreComplete (q : QuadId) (good : Bool) (s : State) : Res :=
  .next (let p := partOf s q
    let v := s.quads[q].srv
    if v.state ≠ .restoring then s
    else if !good then failRestore q s
    else if !v.todo.isEmpty || srvWaits s p then s
    else if v.broken then failRestore q s
    else unlessHeld (settleRestore q) s)

end Sys2Proof.Machine
end

