-- ==== Sys2Proof/Machine/Gen.lean ====
section
/-! DEFINITION. Staged registers and generations (R45, R59 to R64): the checks of a commit, the switch of each block with
what it adopts, and the repartitioning of R485. -/

namespace Sys2Proof.Machine
open Sys2Proof

/-! ## Staged registers (R42, R45) -/

/-- The addresses of a block's RWS registers. The fabric page of every port is one page, kept under G0 (R375). -/
def rwsAddrs (b : Block) : List Nat :=
  (pagesOf b).flatMap (fun i =>
    let base := match b, i with
      | .gwp _, 2 => pageBase (.gwp 0) 2
      | _, _ => pageBase b i
    match pageAt (base / 4096) with
    | none => []
    | some p => ((pageRows p.kind).filter (fun r => r.acc == .rws)).flatMap
        (fun r => (List.range r.count).map (fun j => base + r.off + j * r.stride)))

def stagedAt (s : State) (a : Nat) : Nat := regAt s (a + 0x800)

/-- A block's staged copies become live. -/
def adoptStaged (b : Block) (s : State) : State := (rwsAddrs b).foldl (fun s a => setRegAt a (stagedAt s a) s) s

/-! ## The checks of a commit (R59) -/

/-- The partition of a quadrant under the map that a commit makes live. -/
def commitMap (s : State) : Byte := if s.rot.mapPending then s.rot.mapStaged else s.rot.map
def mapPart (m : Byte) (q : QuadId) : Nat := fld m.toNat (2 * q.val + 1) (2 * q.val)

/-- A staged root lies in its partition's main memory (R345); every affected quadrant is wiped (R485). -/
def devAccepts (s : State) : Bool :=
  (List.finRange 4).all (fun p =>
    let r := stagedAt s (pageBase .dev 0 + Off.devPtRoot + 8 * p.val)
    !bitOf r 0 || decide (mapPart (commitMap s) (quadOfPa (fld r 38 21 * 2 ^ 21)) = p.val)) &&
  (!s.rot.mapPending || allQuads.all (fun q => !maskHas s.rot.affected q.val ||
    (quadTiles q).all (fun t => s.tiles[t].retired || decide (s.tiles[t].wiped = 7))))

/-- R409, R419. -/
def pwrAccepts (s : State) : Bool :=
  let lim := fld (stagedReg s .pwr Off.pwrLimit) 10 0
  let win := fld (stagedReg s .pwr Off.pwrWindow) 3 0
  let gain := fld (stagedReg s .pwr Off.pwrGain) 7 0
  let warn := fld (stagedReg s .pwr Off.pwrTwarn) 9 0
  let share := (allQuads.map (fun q => fld (stagedReg s .pwr (Off.pwrShare + 4 * q.val)) 8 0)).sum
  decide (100 ≤ lim) && decide (lim ≤ Config.limitMax) && decide (share ≤ 256) && decide (1 ≤ win) && decide (8 ≤ gain) &&
    decide (gain ≤ 128) && decide (200 ≤ warn) && decide (warn ≤ 440)

/-- R346. -/
def hbmAccepts (s : State) (k : StackId) : Bool := decide (256 ≤ fld (stagedReg s (.hbm k) Off.hbmAge) 15 0)

/-- Two ranges overlap. -/
def overlaps (x y : Nat × Nat) : Bool := decide (x.1 < y.1 + y.2) && decide (y.1 < x.1 + x.2)

/-- No two entries of a list stand in a relation. -/
def noPair {α : Type} (f : α → α → Bool) : List α → Bool
  | [] => true
  | x :: xs => xs.all (fun y => !f x y) && noPair f xs

/-- The staged reduce windows that are enabled: partition, base, bytes (R366). -/
def stagedRdw (s : State) : List (Nat × Nat × Nat) :=
  (List.range 16).filterMap (fun k =>
    let b := stagedAt s (pageBase (.gwp 0) 2 + Off.gwpRdwBase + 16 * k)
    let z := stagedAt s (pageBase (.gwp 0) 2 + Off.gwpRdwSize + 16 * k)
    if bitOf b 50 then some (fld b 49 48, fld b 47 0, 4096 * z) else none)

def gwpAccepts (s : State) : Bool :=
  let ws := stagedRdw s
  ws.all (fun w => decide (w.2.1 % 4096 = 0) && decide (w.2.2 ≠ 0)) &&
    noPair (fun x y => decide (x.1 = y.1) && overlaps x.2 y.2) ws

/-- The staged windows of a Cammos port (R390): base and size registers of device or host window k. -/
def stagedDwin (s : State) (h : HostId) (k : Nat) : Nat × Nat :=
  (stagedReg s (.cam h) (Off.camDwinBase + 16 * k), fld (stagedReg s (.cam h) (Off.camDwinSize + 16 * k)) 27 0)
def stagedHwin (s : State) (h : HostId) (k : Nat) : Nat × Nat :=
  (stagedReg s (.cam h) (Off.camHwinBase + 16 * k), fld (stagedReg s (.cam h) (Off.camHwinSize + 16 * k)) 27 0)
def liveDwin (s : State) (h : HostId) (k : Nat) : Nat × Nat :=
  (reg s (.cam h) (Off.camDwinBase + 16 * k), fld (reg s (.cam h) (Off.camDwinSize + 16 * k)) 27 0)
def liveHwin (s : State) (h : HostId) (k : Nat) : Nat × Nat :=
  (reg s (.cam h) (Off.camHwinBase + 16 * k), fld (reg s (.cam h) (Off.camHwinSize + 16 * k)) 27 0)

/-- A partition has an ACTIVE session on a port. -/
def sessActive (s : State) (h : HostId) (p : Nat) : Bool :=
  decide ((s.cams[h].sess.toList.getD p sessNone).state = .active)

def camAccepts (s : State) (h : HostId) : Bool :=
  let ds := ((List.range 8).map (stagedDwin s h)).filter (fun w => bitOf w.1 50)
  let hs := ((List.range 8).map (stagedHwin s h)).filter (fun w => bitOf w.1 0)
  let live (p : Nat) : Bool := allQuads.any (fun q => decide (mapPart (commitMap s) q = p))
  ds.all (fun w => decide (w.2 ≠ 0) && decide (fld w.1 47 0 % 4096 = 0) && live (fld w.1 49 48)) &&
  hs.all (fun w => decide (w.2 ≠ 0)) &&
  noPair (fun x y => overlaps (fld x.1 47 0, 4096 * x.2) (fld y.1 47 0, 4096 * y.2)) ds &&
  noPair (fun x y => overlaps (4096 * fld x.1 63 12, 4096 * x.2) (4096 * fld y.1 63 12, 4096 * y.2)) hs &&
  (List.range 8).all (fun k =>
    (decide (stagedDwin s h k = liveDwin s h k) ||
      !(sessActive s h (fld (stagedDwin s h k).1 49 48) || sessActive s h (fld (liveDwin s h k).1 49 48))) &&
    (decide (stagedHwin s h k = liveHwin s h k) ||
      !(sessActive s h (fld (stagedHwin s h k).1 4 3) || sessActive s h (fld (liveHwin s h k).1 4 3))))

/-- R17, R19, R131 and the ramp length. -/
def mntAccepts (s : State) (t : TileId) : Bool :=
  let c := stagedGang s t
  let q := quadOf t
  let ms := gangMembers c t
  let len := fld (stagedReg s (.tile t .mnt) Off.mntRamp) 6 0
  let own := if c.mode = 1 then decide (c.id / 4 = q.val) && ms.contains t
    else if c.mode = 2 then decide (c.id = q.val) else true
  let agree := decide (c.mode ≠ 1 ∧ c.mode ≠ 2) || ms.all (fun m => decide (stagedGang s m = c))
  let retired := (s.tiles[t].retired && decide (c.mode ≠ 3)) ||
    (decide (c.mode = 2) && (quadTiles q).any (fun x => s.tiles[x].retired))
  own && agree && !retired && decide (len % 4 = 0) && decide (16 ≤ len) && decide (len ≤ 64)

/-- R155. A THR of −0.0 counts as negative (DESIGN CHOICE, entry 40: the spec asks for zero or positive). -/
def pruneAccepts (s : State) (t : TileId) (k : Nat) : Bool :=
  let base := pageBase (.tile t .vec) 1
  let nm := fld (stagedAt s (base + Off.vecPrune + 8 * k)) 2 0
  let thr := stagedAt s (base + Off.vecPruneThr + 8 * k)
  decide (nm ≤ 4) && !bitOf thr 31 && decide (fld thr 30 23 ≠ 255)

/-- R221. -/
def ftbAccepts (s : State) (t : TileId) : Bool :=
  let m := fld (stagedReg s (.tile t .ftb) Off.ftbGenSwap) 7 0
  (List.range 8).all (fun k => !bitOf m k || decide ((s.tiles[t].ftb.toList.getD k ftSlotEmpty).inactive = .ready))

/-- A block accepts its staged values. -/
def accepts (s : State) : Block → Bool
  | .dev => devAccepts s
  | .pwr => pwrAccepts s
  | .hbm k => hbmAccepts s k
  | .gwp _ => gwpAccepts s
  | .cam h => camAccepts s h
  | .tile t .mnt => mntAccepts s t
  | .tile t .vec => (List.range 4).all (pruneAccepts s t)
  | .tile t .ftb => ftbAccepts s t
  | .tile t .sqc => decide (fld (stagedReg s (.tile t .sqc) Off.sqcProgBase) 5 0 ≤ 47)
  | .tile t .dmv => decide (8 ≤ fld (stagedReg s (.tile t .dmv) Off.dmvAge) 7 0)
  | _ => true

def firstRefuser (s : State) : Option Block := allBlocks.find? (fun b => !accepts s b)

/-! ## Repartitioning at the device page's switch (R485) -/

/-- A quadrant's main memory filled with zeros under a valid code (R68, R485). -/
def zeroFill (q : QuadId) (s : State) : State :=
  let fresh (x : HbmSt) : HbmSt := { x with cache := [], lostChans := 0, onDie := [], marked := [] }
  { s with
    hbm := s.hbm.filter (fun c => decide (quadOfPa c.1 ≠ q)), hbmErr := s.hbmErr.filter (fun c => decide (quadOfPa (32 * c.1) ≠ q))
    hbmStacks := (s.hbmStacks.set (quadStack q false) (fresh s.hbmStacks[quadStack q false])).set
      (quadStack q true) (fresh s.hbmStacks[quadStack q true]) }

/-- Vector registers, cast contexts, program slots and function tables of a tile (R163, R223, R485). -/
def clearTile (t : TileId) (s : State) : State :=
  modTile t (fun x => { x with
    vec := { x.vec with
      regs := [], poison := [], badLines := [], ctx := Vector.replicate 8 castCtxZero, progs := Vector.replicate 8 none }
    ftb := Vector.replicate 8 ftSlotEmpty }) s

/-- The quadrants of a partition under a map, as QMASK. -/
def mapMask (m : Byte) (p : Nat) : Nat := (allQuads.map (fun q => if mapPart m q = p then 2 ^ q.val else 0)).sum

/-- The partitions whose quadrants a new map changes. -/
def affectedParts (old new : Byte) : List (Fin 4) :=
  (List.finRange 4).filter (fun p => decide (mapMask old p.val ≠ mapMask new p.val))

/-- The quadrants of those partitions under either map. -/
def affectedQuads (old new : Byte) : BitVec 4 :=
  (affectedParts old new).foldl (fun m p => m ||| BitVec.ofNat 4 (mapMask old p.val ||| mapMask new p.val)) 0

/-- Key epochs of some partitions advanced by 1 (R479). -/
def advance (ps : List (Fin 4)) (v : Vector Word 4) : Vector Word 4 :=
  ps.foldl (fun (a : Vector Word 4) (p : Fin 4) => a.set p (a[p] + 1)) v

/-- The new map and encryption become live: epochs, keys, tiles, PART_MAP marks, and the zero fill of a quadrant whose
partition is not encrypted. What memory holds is read through the new setting of its partition. -/
def adoptMap (s : State) : State :=
  if !s.rot.mapPending then s
  else
    let ps := affectedParts s.rot.map s.rot.mapStaged
    let aff := s.rot.affected
    let rekeyed (q : QuadId) : Bool := maskHas aff q.val ||
      maskHas s.rot.enc (partOf s q).val != maskHas s.rot.encStaged (partOf s q).val
    let s := allQuads.foldl (fun s q => if rekeyed q then dropSlices q s else s) s
    let s := modRot (fun r => { r with
      map := r.mapStaged, enc := r.encStaged, mapPending := false, affected := 0
      epochs := advance ps r.epochs }) s
    let s := allQuads.foldl (fun s q => if !maskHas aff q.val then s
      else
        let s := (quadTiles q).foldl (fun s t => clearTile t s) s
        if maskHas s.rot.enc (partOf s q).val then s
        else modRot (fun r => { r with zeroing := maskSet r.zeroing q.val }) s) s
    let s := allXAgents.foldl (fun s a => ps.foldl (fun s p => dropEntries p a s) s) s
    sendPartMaps s

/-! ## The switch (R62) -/

/-- A Gwetre port trains its link, and presents this chip's certificates and a new nonce (R480); where the life cycle keys it, its keys are being derived meanwhile (R374, R480; entry 22). -/
def startTraining (p : PortId) (s : State) : State :=
  let (n, s) := takeFree s
  let nonce := BitVec.ofNat 256 n
  modPort p (fun g => { g with link := .training, keying := lcKeyed s, nonce := nonce })
    { s with out := s.out ++ [.gwCerts p (certificate 1) (certificate 2) nonce] }

/-- What a block does at its switch beside adopting its staged copies. A tile's translation cache takes the new roots with the
mover that uses it (R340; entry 12). A tile's array descriptors that wait for the switch go
with it to the input of its new gang (R123). -/
def switchEffect (b : Block) (s : State) : State :=
  match b with
  | .dev => adoptMap s
  | .tile t .dmv => adoptRoots (.tile t) s
  | .gwp p =>
    let was := bitOf (reg s b Off.gwpCfg) 0
    let s := adoptStaged b s
    let rdw := (List.range 16).foldl (fun m k =>
      let a := pageBase (.gwp 0) 2 + 16 * k
      fset (fun _ => (0 : DWord)) (fset (fun _ => (0 : DWord)) m (2 * k) (BitVec.ofNat 64 (regAt s (a + Off.gwpRdwBase))))
        (2 * k + 1) (BitVec.ofNat 64 (regAt s (a + Off.gwpRdwSize)))) []
    let s := if s.rot.imageStaged then modRot (fun r => { r with chipId := r.chipStaged, routesSet := true }) s else s
    let s := modPort p (fun g => { g with routes := s.rot.routesStaged, rdw := rdw }) (adoptRoots (.port p) s)
    let now := bitOf (reg s b Off.gwpCfg) 0
    if now && !was then startTraining p s
    else if was && !now then modPort p (fun g => { g with link := .disabled }) (settleAll (linkDown p none s)) else s
  | .cam h =>
    let was := bitOf (reg s b Off.camCfg) 0
    let s := adoptRoots (.cam h) (adoptStaged b s)
    let now := bitOf (reg s b Off.camCfg) 0
    let s := if now && !was then modCam h (fun c => { c with link := .training }) s
      else if was && !now then modCam h (fun c => { c with link := .disabled }) (camLinkDown h false s) else s
    pumpAll s
  | .srv q =>
    let was := reg s b Off.srvJob
    let s := adoptStaged b s
    if reg s b Off.srvJob = was ∨ !isLead s q then s
    else (quadsOf s (partOf s q)).foldl (fun s x => modQuad x (fun y => { y with stat := { y.stat with marks := 0 } }) s)
      (modQuad q (fun x => { x with srv := srvIdle }) s)
  | .pwr => modPwr (fun p => { p with next := (rwsAddrs b).map (fun a => (a, stagedAt s a)) }) s
  | .tile t .ftb =>
    let m := fld (stagedReg s b Off.ftbGenSwap) 7 0
    let s := modTile t (fun x => { x with ftb := Vector.ofFn (fun k : Fin 8 => if bitOf m k.val then swapBanks x.ftb[k] else x.ftb[k]) }) s
    setRegAt (pageBase b 0 + Off.ftbGenSwap + 0x800) 0 s
  | .tile t .mnt =>
    let was := liveGang s t
    let old := liveLeader s t
    let mine := s.tiles[old].mnt.gang.input.filter (fun d => decide (d.issuer = t))
    let s := adoptStaged b s
    if liveGang s t = was then s
    else
      let left (g : GangSt) : List ArrDesc := g.input.filter (fun d => decide (d.issuer ≠ t))
      s |> modMnt old (fun m => { m with gang :=
            if old = t then { gangIdle with pos64 := m.gang.pos64, input := left m.gang } else { m.gang with input := left m.gang } })
        |> modMnt (liveLeader s t) (fun m => { m with gang := { m.gang with input := m.gang.input ++ mine } })
  | _ => s

/-- A block switches (R62). -/
def switchBlock (b : Block) (s : State) : State :=
  if !(hdr s b).genPend then s
  else
    let s := switchEffect b s
    let s := match b with | .pwr => s | .tile _ .ftb => s | .gwp _ => s | .cam _ => s | _ => adoptStaged b s
    releaseHeld b (switchHdr b s)

def tileSwitched (s : State) (t : TileId) : Bool := tileUnits.all (fun u => !(hdr s (.tile t u)).genPend)

/-- When a quadrant's last tile has switched, its prefetch walker takes the new roots (R340). -/
def tileRoots (t : TileId) (s : State) : State :=
  if (quadTiles (quadOf t)).all (fun x => tileSwitched s x) then adoptRoots (.walker (quadOf t)) s else s

/-- The peripheral blocks on the data path (R62 step 8), and the blocks of step 9. -/
def pathBlocks : List Block :=
  allStacks.map .hbm ++ allPorts.map .gwp ++ allHosts.map .cam ++ allQuads.map .qstat ++ allQuads.map .srv
def systemBlocks : List Block := [.dev, .own, .pwr, .flt, .mtr, .rot]

/-- A tile's marker reaches every peripheral block, in one packet for each, from the tile's router or from the device page on
its behalf (R62 steps 6 and 7). -/
def sendMarker (src : Block) (t : TileId) (s : State) : State :=
  if maskHas s.dev.routerSent t.val then s
  else
    let s := emitN src pathBlocks.length s
    let s := modDev (fun d => { d with routerSent := maskSet d.routerSent t.val }) s
    pathBlocks.foldl (fun s b => modHdr b (fun h => if h.genPend then { h with markers := maskSet h.markers t.val } else h) s) s

/-- Step 7 for a tile: its blocks switch and its marker is sent on its behalf. -/
def switchTile (t : TileId) (s : State) : State :=
  sendMarker .dev t (tileRoots t (tileUnits.foldl (fun s u => switchBlock (.tile t u) s) s))

/-- Step 7 for a quadrant that failed start-up: its blocks switch at once (R62, R497). -/
def switchFailed (q : QuadId) (s : State) : State :=
  let s := modQuad q (fun x => { x with notice := false, placed := true, stampGen := s.dev.genTarget }) s
  let s := [Block.qdsp q, .qque q, .qstat q, .srv q, .hbm (quadStack q false), .hbm (quadStack q true)].foldl
    (fun s b => switchBlock b s) s
  (quadTiles q).foldl (fun s t => switchTile t s) s

/-- A commit starts (R62 steps 2 and 3); the notices to the four dispatchers are packets of the device page. -/
def startCommit (s : State) : State :=
  let g := s.dev.genTarget + 1
  let s := modDev (fun d => { d with genTarget := g, genPend := true, routerSent := 0 }) s
  let s := allBlocks.foldl (fun s b => modHdr b (fun h => { h with genStaged := g, genPend := true, markers := 0 }) s) s
  let s := emitN .dev 4 s
  let s := allQuads.foldl (fun s q => modQuad q (fun x => { x with notice := true, placed := false, marked := 0 }) s) s
  allQuads.foldl (fun s q => if quadFailed s q then switchFailed q s else s) s

/-- A commit refused: BLOCK names who refused. -/
def refuseCommit (b : Block) (s : State) : State :=
  modDev (fun d => { d with genRefused := true, genBlock := BitVec.ofNat 12 (blockId b) }) s

/-- Step 10: every block has switched; a queued commit starts, or is dropped where a block refuses (R61). -/
def finishCommit (s : State) : State :=
  if !s.dev.genPend || allBlocks.any (fun b => (hdr s b).genPend) then s
  else
    let s := modDev (fun d => { d with genLive := d.genTarget, genPend := false }) s
    if !s.dev.genQueued then s
    else
      let s := modDev (fun d => { d with genQueued := false }) s
      match firstRefuser s with
      | some b => refuseCommit b s
      | none => startCommit s

/-- What follows a switch or a placement: retired tiles whose quadrant's markers are placed, then step 10. -/
def settleGen (s : State) : State :=
  if !s.dev.genPend then s
  else
    let s := allTiles.foldl (fun s t => if s.tiles[t].retired && s.quads[quadOf t].placed && !maskHas s.dev.routerSent t.val
      then switchTile t s else s) s
    finishCommit s

/-- DEV_GEN_COMMIT written by the owner (R59, R61). -/
def commitGen (v : Nat) (s : State) : Eff :=
  if 256 ≤ v ∨ v ≠ (s.dev.genTarget + 1).toNat ∨ s.dev.genQueued then denied (refuseCommit .dev s)
  else if s.dev.genPend then ok (modDev (fun d => { d with genQueued := true, genRefused := false }) s)
  else match firstRefuser s with
    | some b => denied (refuseCommit b s)
    | none => ok (settleGen (startCommit (modDev (fun d => { d with genRefused := false, genBlock := 0xFFF }) s)))

/-- DEV_GEN_STAT (R64). -/
def genStat (s : State) : Nat :=
  let d := s.dev
  let b := if d.genPend then (match allBlocks.find? (fun b => (hdr s b).genPend) with | some b => blockId b | none => 0xFFF)
    else if d.genRefused then d.genBlock.toNat else 0xFFF
  d.genLive.toNat + 2 ^ 8 * d.genTarget.toNat + 2 ^ 16 * b2n d.genPend + 2 ^ 17 * b2n d.genQueued +
    2 ^ 18 * b2n d.genRefused + 2 ^ 20 * b

/-! ## The commands -/

/-- GENMARK (R308): a marker for each named tile, with what the completed placement brings. -/
def execSqGenmark (t : TileId) (s : State) : Res := .next (settleGen (seqRow 0x24 seqGenmarkBody t s))

/-- DISPATCHER_MARKER_PLACE (R62 step 4): the dispatcher that holds a commit notice places a marker in the work stream of
every working tile of its quadrant, as soon as each has room for it (R321). -/
def execDispatcherMarkerPlace (q : QuadId) (s : State) : Res :=
  .next (if !s.quads[q].notice then s
    else unlessHeld (fun s =>
      let ks := (List.finRange 16).filter (fun k => !s.tiles[quadTile q k].retired && !maskHas s.quads[q].marked k.val &&
        queRoom s (.work (quadTile q k)) 2)
      let s := ks.foldl (fun s k => placeMarker s.dev.genTarget (quadTile q k) s) s
      let s := modQuad q (fun x => { x with marked := ks.foldl (fun m k => maskSet m k.val) x.marked }) s
      settleGen (finishPlacement q s)) s)

/-- The sequencer takes the marker at the head of its work stream: it reaches every block of the tile. -/
def takeMarker (t : TileId) (s : State) : State :=
  let w := queOf s (.work t)
  match w.pkts with
  | ⟨.marker _, _⟩ :: _ =>
    if s.tiles[t].seq.running.isSome then s
    else viaPort t (fun s => match tileHeadBad t (.work t) s with
      | (true, s) => rewindHead (.work t) s
      | (false, s) => tileUnits.foldl (fun s u => modHdr (.tile t u) (fun h => if h.genPend then { h with markers := 1 } else h) s)
          (takeTileHead t (.work t) s)) s
  | _ => s

def execMarkerTake (t : TileId) (s : State) : Res := .next (takeMarker t s)

/-- No item of the block's live generation is in progress in it, nor, for the function tables, on their tile (R221); a block that is
OFF or FENCED does not wait (R62, R430). -/
def oldItemsDone (s : State) (b : Block) : Bool :=
  decide ((hdr s b).mode = .off) || decide ((hdr s b).mode = .fenced) ||
  ((itemsIn s b).all (fun k => match findItem s k with | some i => decide (i.gen ≠ (hdr s b).genLive) | none => true) &&
    (match b with
     | .tile t .ftb => (tileItems s t).all (fun i => decide (i.gen ≠ (hdr s b).genLive) || decide (i.state = .queued) ||
         decide (i.state = .ended))
     | _ => true))

/-- TILE_BLOCK_GEN_SWITCH (R62 step 5). -/
def execTileBlockGenSwitch (t : TileId) (u : TileUnit) (s : State) : Res :=
  .next (let b := Block.tile t u
    let h := hdr s b
    if h.genPend ∧ h.markers ≠ 0 ∧ oldItemsDone s b then settleGen (tileRoots t (switchBlock b s)) else s)

/-- ROUTER_MARKER_SEND (R62 step 6). -/
def execRouterMarkerSend (t : TileId) (s : State) : Res :=
  .next (if s.dev.genPend && tileSwitched s t then sendMarker (.tile t .tl) t s else s)

/-- The generations of the items whose packets a peripheral block still holds: a statistics unit's taps, and this chip's requests
that wait at a port or in its retry buffer. Every other block acts on a packet as it comes. -/
def pathGens (s : State) : Block → List Byte
  | .qstat q => s.quads[q].stat.taps.map (·.gen)
  | .gwp p => (((s.ports[p].waiting.map (·.header)) ++ (s.ports[p].retry.map (·.tx.header))).filter (fun ws =>
      gwIsRequest (gwHdrOf ws).opc && decide ((gwHdrOf ws).schip = ownChip s) && decide (tagJob (gwHdrOf ws).tag ≠ 0))).map
      (fun ws => BitVec.ofNat 8 (tagGen (gwHdrOf ws).tag))
  | _ => []

/-- No item of the block's live generation is in progress in it; a block that is OFF or FENCED does not wait (R62). -/
def oldPathDone (s : State) (b : Block) : Bool :=
  decide ((hdr s b).mode = .off) || decide ((hdr s b).mode = .fenced) || !(pathGens s b).contains (hdr s b).genLive

/-- PERIPHERAL_GEN_SWITCH (R62 step 8). -/
def execPeripheralGenSwitch (b : Block) (s : State) : Res :=
  .next (if pathBlocks.contains b && (hdr s b).genPend && decide ((hdr s b).markers = BitVec.allOnes 64) && oldPathDone s b then
      settleGen (switchBlock b s) else s)

/-- SYSTEM_BLOCK_GEN_SWITCH (R62 step 9). -/
def execSystemBlockGenSwitch (b : Block) (s : State) : Res :=
  .next (if systemBlocks.contains b && (hdr s b).genPend && allQuads.all (fun q => s.quads[q].placed) then
      settleGen (switchBlock b s) else s)

/-- PARTITION_ZERO_FILL_COMPLETE (R485): the quadrants of the partition hold zeros; its dispatchers go on. -/
def execPartitionZeroFillComplete (p : Fin 4) (s : State) : Res :=
  .next ((quadsOf s p).foldl (fun s q => if maskHas s.rot.zeroing q.val then
      modRot (fun r => { r with zeroing := maskClear r.zeroing q.val }) (zeroFill q s) else s) s)

end Sys2Proof.Machine
end

