-- ==== Sys2Proof/Machine/Reset.lean ====
section
/-! DEFINITION. Full reset and start-up (R65 to R71, R495 to R500, R511), loss of power and of a reference clock
(R523, R525), the self-test's results and tile retirement (R498, R499). PHASE shows n on entering step n + 3 of R495
(entry 28). -/

namespace Sys2Proof.Machine
open Sys2Proof

/-- A new challenge is drawn (R473). -/
def newChallenge (s : State) : State :=
  let (n, s) := takeFree s
  modRot (fun r => { r with challenge := BitVec.ofNat 128 n }) s

/-! ## What a full reset leaves (R66 to R71) -/

/-- A tile with what its fuses and the field-repair record give it (R129, R495 step 4); its memories keep what they held
until the wipe of the self-test. -/
def tileAfterReset (r : RotSt) (t : TileId) (x : TileSt) : TileSt :=
  { tileReset with
    retired := r.repairTiles.contains t, amem := x.amem, pmem := x.pmem, wmem := x.wmem
    mnt := { mntReset with
      fused := x.mnt.fused, field := (r.repairCols.filter (fun e => decide (e.1 = t))).map (·.2) } }

/-- The channels of a stack that the field-repair record retires. -/
def retiredChans (r : RotSt) (k : StackId) : Word :=
  r.repairChans.foldl (fun m e => if e.1 = k then maskSet m e.2.toNat else m) 0

def stackAfterReset (retain : Bool) (r : RotSt) (k : StackId) (x : HbmSt) : HbmSt :=
  ⟨[], false, false, [], none, 0, retiredChans r k, x.lostChans, if retain then x.onDie else [], [], retain, []⟩

/-- An action in progress ends with the reset; regions of retired channels stay in use, and with retain every region that holds data
(R342, R343; entry 12). -/
def evacAfterReset (retain : Bool) (r : RotSt) (q : QuadId) (e : EvacSt) : EvacSt :=
  ⟨0, false, 0, false, 0, 0, false, e.regions.filter (fun x => r.repairChans.contains (quadStack q x.1, x.2.1) || retain)⟩

/-- A quadrant's power state: the rails stand as set; voltage tables and weights applied stay. -/
def pwrAfterReset (x : PwrQuad) : PwrQuad :=
  { pwrQuadReset with
    vdd := x.vdd, vddm := x.vddm, vddGoal := x.vdd, vddmGoal := x.vddm, tables := x.tablesTo, weights := x.weightsTo, tablesTo := x.tablesTo, weightsTo := x.weightsTo }

/-- Dirty sectors of a stack's slice that are not written back read as markers (R67, R510). -/
def loseLines (k : StackId) (s : State) : State :=
  s.hbmStacks[k].cache.foldl (fun s l => [0, 1].foldl (fun s i => if maskHas l.dirty i then
    markCw (markCw s (4 * l.line + 2 * i)) (4 * l.line + 2 * i + 1) else leaveSector (2 * l.line + i) s) s) s

/-- The write-back before a reset with retain (R67): the stacks that lose dirty lines. Whether a controller completes its
write-back is free (entry 4); without its reference clock none does (R525). -/
def writeBackAll (s : State) : Nat × State :=
  let (n, s) := takeFree s
  let lost : Nat := if s.rot.lostClks.contains .hbm then 0xFF
    else (allStacks.map (fun k => if s.hbmStacks[k].cache.any (fun l => decide (l.dirty ≠ 0)) && bitOf n k.val
      then 2 ^ k.val else 0)).sum
  (lost, allStacks.foldl (fun s k => if bitOf lost k.val then loseLines k s
    else s.hbmStacks[k].cache.foldl (fun s l => writeBackLine k l s) s) s)

/-- Operator keys kept across a reset: those of partitions that map 0x00 does not change (R485; entry 31). -/
def keysAfterReset (r : RotSt) : FMap (Option (List Byte)) :=
  let ps := affectedParts r.map 0
  r.opKeys.filter (fun e => !ps.any (fun p => decide (e.1 / 4 = p.val)))

/-- The secure SRAM survives, but for what a reset ends (R66, R473, R482, R486, R487, R500). -/
def rotAfterReset (retain : Bool) (r : RotSt) : RotSt :=
  { r with
    slots := Vector.replicate 3 [], waiting := 0, rsp := Vector.replicate 3 ⟨0, 0, false, []⟩, factory := false
    opKeys := keysAfterReset r, epochs := if retain then r.epochs else r.epochs.map (· + 1), map := 0, mapStaged := 0
    enc := 0, encStaged := 0, mapPending := false, partSet := false, affected := 0, zeroing := 0, applying := [], routesStaged := []
    routesSet := false, chipId := 0, imageStaged := false, chipStaged := 0 }

/-- The registers after a reset: MNT_GANG of a retired tile holds MODE 3, live and staged (R135). -/
def regsAfterReset (r : RotSt) : FMap DWord :=
  r.repairTiles.foldl (fun m t =>
    let a := pageBase (.tile t .mnt) 0 + Off.mntGang
    let z (k : Nat) : DWord := BitVec.ofNat 64 (regReset k)
    fset z (fset z m a 3) (a + 0x800) 3) []

/-- The state that a full reset leaves, before start-up goes on. -/
def resetState (cause : Nat) (retain : Bool) (lost : Nat) (s : State) : State :=
  { s with
    regs := regsAfterReset s.rot
    hdrs := if retain then (s.hdrs.filter (fun e => maskHas e.2.faultBits 3)).map
        (fun e => (e.1, { hdrReset with faultBits := 8 })) else []
    masters := s.masters.map (fun x => { x with holdAddr := none, holdHigh := 0 }), items := []
    tiles := Vector.ofFn (fun t : TileId => tileAfterReset s.rot t s.tiles[t]), quads := Vector.replicate 4 quadReset
    hbmStacks := Vector.ofFn (fun k : StackId => stackAfterReset retain s.rot k s.hbmStacks[k])
    evac := Vector.ofFn (fun q : QuadId => evacAfterReset retain s.rot q s.evac[q])
    portXlate := Vector.replicate 24 xlateReset, camXlate := Vector.replicate 2 xlateReset
    walkXlate := Vector.replicate 4 xlateReset, ports := Vector.replicate 24 gwpReset
    fabQs := Vector.replicate 24 dataEmpty, teleQs := Vector.replicate 4 dataEmpty, fabReqs := [], fabEpochs := []
    cams := Vector.replicate 2 camReset
    pwr := { s.pwr with
      quads := s.pwr.quads.map pwrAfterReset, histSys := [], temps := List.replicate 72 0, twarn := false
      meterLost := false, frac := [], next := [], ran := [] }
    mtr := { s.mtr with link := false, updating := false, window := [] }
    flt := { inflight := [], log := [], hold := Vector.replicate 3 none, q := spillEmpty, safe := false,
             resetNeeded := false, wedged := [], unrevoked := none, unrevokedCnt := 0,
             fatalRec := if retain then s.flt.fatalRec else none, armed := [], byTamper := false }
    rot := rotAfterReset retain s.rot
    waited := []
    dev := { State.reset.dev with
      slotB := s.dev.slotB, cause := cause, retained := retain, lost := BitVec.ofNat 8 lost, fromSafe := s.flt.safe
      tamper := s.flt.byTamper, resetLow := s.dev.resetLow, retain := retain, powered := s.dev.powered } }

/-- A clock that start-up needs is lost, or every quadrant has failed: it halts (R497, R525). A start-up that has halted stays as it
is. -/
def haltBoot (s : State) : State :=
  modDev (fun d => if d.halt then d else { d with phase := 15, halt := true, code := eInternal }) s

/-- A field-repair record that fails authentication is replaced by an empty one, with an entry in the audit log whose event code is not
stated. Whether the record in the boot flash passes is free (R518; entry 31). -/
def readRepair (s : State) : State :=
  let (n, s) := takeFree s
  if n % 2 = 0 then s
  else
    let s := modRot (fun r => { r with repairCols := [], repairTiles := [], repairChans := [] }) s
    let (d, s) := freeBytes 33 s
    auditAppend (d.headD 0).toNat 0 0 0 (d.drop 1) false { s with
      regs := regsAfterReset s.rot
      tiles := Vector.ofFn (fun t : TileId => tileAfterReset s.rot t s.tiles[t])
      hbmStacks := Vector.ofFn (fun k : StackId => stackAfterReset s.dev.retain s.rot k s.hbmStacks[k])
      evac := Vector.ofFn (fun q : QuadId => evacAfterReset s.dev.retain s.rot q s.evac[q]) }

/-- A firmware slot of the root of trust (false A, true B) holds an image that fails verification. -/
def slotFails (s : State) (b : Bool) : Bool := maskHas s.rot.badSlots (b2n b)

/-- Steps 3 to 5 of R495: the root of trust boots from its active firmware slot, else from the other; with neither, start-up
halts in PHASE 0 (R497). It boots with a BOOT entry, at power-up with epochs drawn at random, and the
power controller sets the rails. -/
def startBoot (s : State) : State :=
  if slotFails s s.dev.slotB && slotFails s (!s.dev.slotB) then modDev (fun d => { d with halt := true, code := eDenied }) s
  else
  let s := if slotFails s s.dev.slotB then modDev (fun d => { d with slotB := !d.slotB }) s else s
  let s := newChallenge s
  let s := auditEvent evBoot false (if s.dev.cause = 0 then drawEpochs s else s)
  let s := readRepair s
  if s.rot.lostClks.contains .hbm || s.rot.lostClks.contains .pwr then haltBoot s
  else bootRails (modDev (fun d => { d with phase := 2 }) s)

/-- An input's bit in the free value of its return. -/
def clkBit : RefClk → Nat
  | .fab => 0 | .host => 1 | .hbm => 2 | .pwr => 3

/-- Whether an input that was lost has returned by a full reset is free (R525; entry 4). -/
def clocksBack (s : State) : State :=
  if s.rot.lostClks.isEmpty then s
  else
    let (n, s) := takeFree s
    modRot (fun r => { r with lostClks := r.lostClks.filter (fun c => bitOf n (clkBit c)) }) s

/-- A full reset (R65, R66): the meter's notice, the audit entry, the new state; start-up goes on unless RESET_N is low.
A root of trust wiped by a tamper event keeps nothing that would decrypt (R439). -/
def fullReset (cause : Nat) (retain : Bool) (s : State) : State :=
  let s := sendMark markReset 0 0 0 s
  let s := auditEvent evReset false s
  let (lost, s) := if retain then writeBackAll s else (if s.rot.lostClks.contains .hbm then 0xFF else 0, s)
  let s := resetState cause retain lost s
  if s.dev.resetLow then s else startBoot (clocksBack s)

/-- A reset is in progress until READY (R69). -/
def resetRuns (s : State) : Bool := !s.dev.ready

/-! ## RESET_N and power -/

/-- RESET_N_ASSERT (R65, R69, R523). -/
def execResetNAssert (retain : Bool) (s : State) : Res :=
  .next (if !s.dev.powered || s.dev.resetLow then s
    else fullReset 1 retain (modDev (fun d => { d with resetLow := true }) s))

/-- RESET_N_DEASSERT (R495 step 1, R523): the board has the rails up, and every reference clock within R524. -/
def execResetNDeassert (s : State) : Res :=
  .next (if !s.dev.resetLow then s
    else startBoot (modRot (fun r => { r with lostClks := [] })
      (modDev (fun d => { d with resetLow := false, powered := true }) s)))

/-- What package power carries away (R343, R469, R483, R488, R523): all but fuses, the boot flash, the audit of none, and
the meter's non-volatile registers. -/
def coldState (s : State) : State :=
  { State.reset with
    pending := s.pending, out := s.out, nfree := s.nfree, regs := regsAfterReset s.rot
    tiles := Vector.ofFn (fun t : TileId => { tileAfterReset s.rot t s.tiles[t] with
      amem := tmemZero, pmem := tmemZero, wmem := tmemZero })
    hbmStacks := Vector.ofFn (fun k : StackId => { stackAfterReset false s.rot k s.hbmStacks[k] with lostChans := 0 })
    evac := Vector.ofFn (fun q : QuadId => evacAfterReset false s.rot q s.evac[q])
    pwr := { State.reset.pwr with
      quads := s.pwr.quads.map (fun x => { pwrQuadReset with
        tables := x.tablesTo, weights := x.weightsTo, tablesTo := x.tablesTo, weightsTo := x.weightsTo }) }
    mtr := { s.mtr with marks := [], waitMarks := [], link := false, updating := false, window := [] }
    rot := { State.reset.rot with
      lc := s.rot.lc, instKeys := s.rot.instKeys, instActive := s.rot.instActive, comps := s.rot.comps
      floors := s.rot.floors, badSlots := s.rot.badSlots, repairCols := s.rot.repairCols, repairTiles := s.rot.repairTiles
      repairChans := s.rot.repairChans, lostClks := s.rot.lostClks }
    dev := { State.reset.dev with slotB := s.dev.slotB, powered := false } }

/-- POWER_LOSS (R523): the device stops as one without package power; a loss of VDD_SYS stops the meter too, at its last
commit. RSEQ and EVENT never go back (R416, R417). -/
def execPowerLoss (vddSys : Bool) (s : State) : Res :=
  .next (let t := coldState s
    if vddSys then modMtr (fun m => { m with
        now := { m.nv with rseq := m.now.rseq, event := m.now.event }, running := false, jobs := [], quads := #v[0xF, 0, 0, 0], lastMseq := none }) t
    else t)

/-! ## The self-test (R498, R499) -/

/-- Every line of a tile's memories is written with 0 by the last chains, which report their fills to the root of trust (R485), and no
chain runs there any more. The chain of which memory is the last, and so VEC_SC_DONE, is free (entry 28). -/
def wipeTile (t : TileId) (s : State) : State :=
  let b := Block.tile t .vec
  let s := modTile t (fun x => { x with
    amem := tmemZero, pmem := tmemZero, wmem := tmemZero, vec := { x.vec with sc := ⟨false, false, false, []⟩ }
    wiped := if s.rot.partSet then 7 else x.wiped }) s
  let (n, s) := takeFree s
  s |> setReg b Off.vecScStat 2 |> setReg b Off.vecScDone ((if n % 3 = 0 then memBytes .amem else memBytes .wmem) / 64)
    |> setReg b Off.vecScMismatch 0 |> setReg b Off.vecScFirst 0

/-- A chain of the owner that still runs in the tile: the root of trust's chains follow it, so that it has come to its end (R199;
entry 28). -/
def endOwnerChain (t : TileId) (s : State) : State :=
  if ownerChain s t then scEnd t (scCfgOf s.tiles[t].vec.sc.cfg).lines 2 0 s else s

/-- A tile is retired: its blocks stay OFF and the field-repair record names it; what waits for it is cancelled
(entry 28). The retirement is reported with the first failing column, or 0 where no column failed (R129; entry 28). -/
def retireTile (t : TileId) (column : Byte) (s : State) : State :=
  let s := raiseFault (.tile t .mnt) 0x11 0 0 column.toNat s
  let s := flushWork t s
  let s := modTile t (fun x => { x with retired := true }) s
  let s := tileUnits.foldl (fun s u => modHdr (.tile t u) (fun h => { h with
    en := false, mode := .off, drainReq := false, rearmReq := false, enPend := false }) s) s
  modRot (fun r => { r with repairTiles := if r.repairTiles.contains t then r.repairTiles else r.repairTiles ++ [t] }) s

/-- A failing column that is not bypassed yet becomes a field bypass (R129). -/
def addBypass (t : TileId) (s : State) (c : Byte) : State :=
  if (shownCols s t).contains c || decide (8 ≤ (shownCols s t).length) then s
  else
    s |> modMnt t (fun m => { m with fresh := m.fresh ++ [c] }) |> raiseFault (.tile t .mnt) 0x10 0 0 c.toNat
      |> modRot (fun r => { r with repairCols := r.repairCols ++ [(t, c)] })

/-- New failing columns of a segment, each once. -/
def newColumns (s : State) (t : TileId) (cs : List (BitVec 8)) : List Byte :=
  (cs.filter (fun c => !(shownCols s t).contains c)).eraseDups

/-- A tile's results applied: bypasses, or retirement by a ninth one or by a memory line (R499). The number of bypasses
added is the third component. -/
def applyTest (r : TileTest) (s : State) : State × Bool × Nat :=
  let t := r.tile
  let new := newColumns s t r.columns
  let full := decide (8 < (shownCols s t).length + new.length)
  let before := (shownCols s t).length
  let s := new.foldl (addBypass t) s
  let added := (shownCols s t).length - before
  let s := r.badLines.foldl (fun s x => raiseFault (.tile t .tmem) 0x03 (64 * x.2) 0 (memIndex x.1) s) s
  let s := wipeTile t s
  if full || !r.badLines.isEmpty then (retireTile t (new.headD 0) s, true, added)
  else (s, false, added)

/-- Tiles of the quadrants that start-up has not failed. -/
def releasedTiles (s : State) : List TileId := allTiles.filter (fun t => !quadFailed s (quadOf t))

/-- The MNT_ block of every member of a tile's live gang reads DRAINED (R129). -/
def gangDrained (s : State) (t : TileId) : Bool :=
  (liveMembers s t).all (fun m => decide ((hdr s (.tile m .mnt)).mode = .drained))

/-- SELFTEST_COMPLETE: at start-up every released tile's results, with the wipe of all of them (R495 step 6); in service
the tile that DEV_SELFTEST named, once every member of its live gang is DRAINED (R129, R512). -/
def execSelftestComplete (results : List TileTest) (s : State) : Res :=
  .next (if s.flt.safe then s
    else if s.dev.phase = 3 then
      let rs := results.filter (fun r => (releasedTiles s).contains r.tile && !s.tiles[r.tile].retired)
      let s := (releasedTiles s).foldl (fun s t => wipeTile t s) (rs.foldl (fun s r => (applyTest r s).1) s)
      modDev (fun d => { d with phase := 4 }) s
    else if s.dev.selftest = 1 ∧ gangDrained s s.dev.selftestTile then
      match results.find? (fun r => decide (r.tile = s.dev.selftestTile)) with
      | none => s
      | some r =>
        let (s, gone, n) := applyTest r s
        modDev (fun d => { d with selftest := 2, selftestAdded := n, selftestRetired := gone }) s
    else s)

/-- DEV_SELFTEST (R512): the checks, then the test or the retirement. -/
def selftestRefused (s : State) (t : TileId) : Bool :=
  decide (s.dev.selftest = 1) || tileUnits.any (fun u => decide ((hdr s (.tile t u)).mode ≠ .drained) && u != .que) ||
    !gangDrained s t

def selftest (v : Nat) (s : State) : Eff :=
  let t : TileId := ⟨fld v 5 0 % 64, by omega⟩
  if fld v 15 8 ≠ 0x96 ∨ bitOf v 7 ∨ fld v 31 16 ≠ 0 then denied s
  else if selftestRefused s t then denied (modDev (fun d => if d.selftest = 1 then d else { d with selftest := 3 }) s)
  else if bitOf v 6 then
    ok (modDev (fun d => { d with selftest := 2, selftestTile := t, selftestAdded := 0, selftestRetired := true })
      (retireTile t 0 (wipeTile t (endOwnerChain t s))))
  else ok (modDev (fun d => { d with selftest := 1, selftestTile := t, selftestAdded := 0, selftestRetired := false })
    (rotChain t (endOwnerChain t s)))

/-- DEV_SELFTEST_STAT (R512). -/
def selftestStat (s : State) : Nat :=
  s.dev.selftest + 4 * (s.dev.selftestAdded % 16) + 2 ^ 6 * b2n s.dev.selftestRetired + 2 ^ 8 * s.dev.selftestTile.val

/-! ## HBM training, the fill, the links (R495 steps 7 and 8, R497) -/

def liveStacks (s : State) : List StackId := allStacks.filter (fun k => !quadFailed s (quadOfStack k))

/-- Step 8: the Cammos ports train, unless their clock is lost; step 9 follows when neither trains any more. -/
def startCamTraining (s : State) : State :=
  let s := modDev (fun d => { d with phase := 5 }) s
  if s.rot.lostClks.contains .host then modDev (fun d => { d with phase := 6 }) s
  else allHosts.foldl (fun s h => modCam h (fun c => { c with link := .training }) s) s

/-- Step 7 has ended when every stack is trained and, without retain, filled. -/
def hbmDone (s : State) : State :=
  if s.dev.phase = 4 ∧ !s.flt.safe ∧ (liveStacks s).all (fun k => s.hbmStacks[k].trained && (s.dev.retain || s.hbmStacks[k].filled)) then
    startCamTraining s
  else s

/-- A quadrant is in QFAIL; with every quadrant there start-up halts. -/
def failQuad (q : QuadId) (s : State) : State :=
  let s := modDev (fun d => { d with qfail := maskSet d.qfail q.val }) s
  if s.dev.qfail = 0xF then haltBoot s else s

/-- What a channel held is lost: its sectors read as markers (R497). -/
def loseChannel (k : StackId) (c : Nat) (s : State) : State :=
  let inChan (pa : Nat) : Bool := stackOfPa pa == k && chanOfPa pa == c
  { s with
    hbm := s.hbm.filter (fun e => !inChan e.1), hbmErr := s.hbmErr.filter (fun e => !inChan (32 * e.1))
    hbmStacks := s.hbmStacks.set k { s.hbmStacks[k] with lostChans := maskSet s.hbmStacks[k].lostChans c }
    dev := { s.dev with lost := maskSet s.dev.lost k.val } }

/-- A channel that fails training is retired into the next region; a fifth of its quadrant fails the quadrant. -/
def failChannel (k : StackId) (s : State) (c : Nat) : State :=
  let q := quadOfStack k
  if 4 ≤ channelsRetired s q then failQuad q s
  else
    let s := if s.dev.retain then loseChannel k c s else s
    retireChan q (decide (k.val % 2 = 1)) (BitVec.ofNat 5 c)
      (modEvac q (fun e => { e with regions := e.regions ++ [(decide (k.val % 2 = 1), BitVec.ofNat 5 c, true)] }) s)

/-- HBM_TRAINING_COMPLETE (R331, R495 step 7, R497). -/
def execHbmTrainingComplete (k : StackId) (trained : Word) (s : State) : Res :=
  .next (if s.dev.phase ≠ 4 ∨ s.hbmStacks[k].trained ∨ quadFailed s (quadOfStack k) then s
    else
      let bad := (List.range 32).filter (fun c => !maskHas trained c && !maskHas s.hbmStacks[k].retired c)
      let s := setPhyReg k Off.hbmTrainStat trained.toNat (modStack k (fun x => { x with trained := true, selfRefresh := false }) s)
      hbmDone (bad.foldl (failChannel k) s))

/-- HBM_ZERO_FILL_COMPLETE (R68, R495 step 7): a quadrant whose stacks are both filled reads as zeros. -/
def execHbmZeroFillComplete (k : StackId) (s : State) : Res :=
  .next (if s.dev.phase ≠ 4 ∨ !s.hbmStacks[k].trained ∨ s.dev.retain then s
    else
      let q := quadOfStack k
      let s := modStack k (fun x => { x with filled := true }) s
      hbmDone (if s.hbmStacks[quadStack q false].filled && s.hbmStacks[quadStack q true].filled then zeroFill q s else s))

/-- CAM_TRAIN_COMPLETE (R376, R381): the port is UP; held transactions and fetches go on. -/
def camsDone (s : State) : State :=
  if s.dev.phase = 5 ∧ !s.flt.safe ∧ allHosts.all (fun h => decide (s.cams[h].link ≠ .training)) then modDev (fun d => { d with phase := 6 }) s
  else s

def execCamTrainComplete (h : HostId) (lanes : Byte) (s : State) : Res :=
  .next (if s.cams[h].link ≠ .training then s else camsDone (pumpAll (camLinkUp h lanes s)))

/-- CAM_LINK_DOWN (R379, R381, R497): the lanes lose alignment, a flit has failed its eighth replay, or training ends
without a link. -/
def execCamLinkDown (h : HostId) (lostAlignment : Bool) (s : State) : Res :=
  .next (let c := s.cams[h]
    if c.link = .training then camsDone (modCam h (fun c => { c with link := .down }) s)
    else if c.link = .up ∧ (lostAlignment || c.flits.any (fun f => decide (9 ≤ f.fails)) || decide (9 ≤ c.rxFails)) then
      pumpAll (camLinkDown h true s)
    else s)

/-! ## Firmware, claims, READY (R225, R495 steps 9 to 11) -/

/-- The built-in table of each slot at start-up. -/
def bootTables : List (Fin 11) := [0, 4, 3, 2, 5, 6, 7, 1]

/-- Bank 0 holds the slot's table and is active; bank 1 is EMPTY. -/
def bootSlots : Vector FtSlot 8 :=
  Vector.ofFn (fun k : Fin 8 => { ftSlotEmpty with bank0 := ⟨true, bootTables[k.val]?, [], [], [], 0⟩ })

/-- The blocks that start-up enables: those of working tiles and of quadrants that are up, and the rest of the die. -/
def workingBlock (s : State) (b : Block) : Bool :=
  match b with
  | .tile t _ => !s.tiles[t].retired && !quadFailed s (quadOf t)
  | .qdsp q => !quadFailed s q
  | .qstat q => !quadFailed s q
  | .srv q => !quadFailed s q
  | .qque q => !quadFailed s q
  | .hbm k => !quadFailed s (quadOfStack k)
  | _ => true

/-- TILE_FIRMWARE_LOADED (R495 steps 9 to 11): tables, EN of every working block; the ownership
page opens and READY is set, but never in state SCRAPPED (R486), and nothing of it in the safe state (R497). -/
def execTileFirmwareLoaded (s : State) : Res :=
  .next (if s.dev.phase ≠ 6 ∨ s.flt.safe then s
    else
      let s := allBlocks.foldl (fun s b => if workingBlock s b then modHdr b (fun h => { h with en := true, mode := .on }) s else s) s
      let s := allTiles.foldl (fun s t => if workingBlock s (.tile t .que) then
          adoptBypasses t (modTile t (fun x => { x with ftb := bootSlots }) s)
        else s) s
      if s.rot.lc = 4 then modDev (fun d => { d with phase := 7 }) s
      else modDev (fun d => { d with phase := 8, ready := true }) s)

/-! ## Reference clocks (R525) -/

/-- REFCLK_LOSS. A lost input that returns changes nothing until its port is re-armed, or until a full reset. -/
def execRefclkLoss (c : RefClk) (s : State) : Res :=
  .next (if s.rot.lostClks.contains c && (c == .hbm || c == .pwr) then s
    else
      let s := modRot (fun r => { r with lostClks := if r.lostClks.contains c then r.lostClks else r.lostClks ++ [c] }) s
      if s.dev.resetLow || !s.dev.powered then s
      else match c with
        | .fab => settleAll (allPorts.foldl (fun s p =>
            if s.ports[p].link = .up ∨ s.ports[p].link = .training then linkDown p (some true) s else s) s)
        | .host => camsDone (pumpAll (allHosts.foldl (fun s h =>
            if s.cams[h].link = .up then camLinkDown h true s
            else if s.cams[h].link = .training then modCam h (fun c => { c with link := .down }) s else s) s))
        | .hbm => if s.dev.ready then raiseFault .rot 0x41 0 0 0x80 s else haltBoot s
        | .pwr => if s.dev.ready then raiseFault .rot 0x41 0 0 0x81 s else haltBoot s)

/-- ROT_SENSOR_SAMPLE (R507, R525): the root of trust samples while the power controller cannot; the trip stays armed. -/
def execRotSensorSample (temps : List (BitVec 10)) (s : State) : Res :=
  .next (if s.dev.powered && !pwrRuns s then takeTemps (fitTemps temps) s else s)

end Sys2Proof.Machine
end

