-- ==== Sys2Proof/Machine/Enable.lean ====
section
/-! DEFINITION. PG_CTRL (R47, R434, R501, R506, R530, R531): enabling, draining and re-arming a block, the drain probe's
acknowledge and what completes after it. -/

namespace Sys2Proof.Machine
open Sys2Proof

/-- PG_CTRL as it reads. -/
def pgCtrl (s : State) (b : Block) : Nat :=
  let h := hdr s b
  b2n h.en + 2 * b2n h.drainReq + 4 * b2n h.rearmReq

/-- The quadrant whose failure in start-up keeps a block OFF (R497, R530). -/
def blockFailed (s : State) (b : Block) : Bool :=
  match b with
  | .hbm k => quadFailed s (quadOfStack k)
  | .qdsp q => quadFailed s q | .qstat q => quadFailed s q | .srv q => quadFailed s q | .qque q => quadFailed s q
  | .tile t _ => quadFailed s (quadOf t)
  | _ => false

/-- Neither enabled nor re-armed: a retired tile's block, a wedged block, the safe state (R434, R530). -/
def stuckBlock (s : State) (b : Block) : Bool := tileRetired s b || isWedged s b || s.flt.safe

/-- The new voltages of a quadrant are not confirmed yet (R506). -/
def tableWaits (s : State) (b : Block) : Bool :=
  match ownerQuad s b with
  | some q => (pq s q).tableNew && !(decide ((pq s q).tables = (pq s q).tablesTo) && railsMatch s q)
  | none => false

/-- A write of a new value to EN that is refused (R530). -/
def enRefused (s : State) (b : Block) (v : Bool) : Bool :=
  let h := hdr s b
  if v then stuckBlock s b || blockFailed s b
  else !(decide (h.mode = .drained) || (decide (h.mode = .fenced) && !busy s b))

/-- A new value of EN taken. -/
def setEn (b : Block) (v : Bool) (s : State) : State :=
  if v then
    let off := decide ((hdr s b).mode = .off)
    let s := modHdr b (fun h => { h with en := true, enPend := off }) s
    if off then sendProbe b s else s
  else modHdr b (fun h => { h with en := false, mode := .off, enPend := false, rearmReq := false }) s

/-- DRAIN accepted: the block takes no new item (R501). -/
def startDrain (b : Block) (s : State) : State :=
  sendProbe b (modHdr b (fun h => { h with drainReq := true, mode := if h.mode = .on then .draining else h.mode }) s)

/-- REARM (R434, R506): only of a DRAINED or FENCED block. -/
def startRearm (b : Block) (s : State) : State :=
  let h := hdr s b
  if !(decide (h.mode = .drained) || decide (h.mode = .fenced)) || stuckBlock s b || tableWaits s b then s
  else sendProbe b (modHdr b (fun h => { h with rearmReq := true }) s)

/-- PG_CTRL written: EN, DRAIN, REARM. A refused field leaves the whole write without effect. -/
def writePgCtrl (b : Block) (v : Nat) (s : State) : Eff :=
  let new := decide (bitOf v 0 ≠ (hdr s b).en)
  if (new && enRefused s b (bitOf v 0)) || (bitOf v 1 && !drainable b) then denied s
  else
    let s := if new then setEn b (bitOf v 0) s else s
    let s := if bitOf v 1 then startDrain b s else s
    ok (if bitOf v 2 then startRearm b s else s)

/-- A port that returns to IDLE trains its link, if its configuration enables it (R376, R381, R357). -/
def retrain (b : Block) (s : State) : State :=
  match b with
  | .gwp p =>
    if !bitOf (reg s b Off.gwpCfg) 0 then s
    else
      let s := if s.ports[p].link = .up then settleAll (linkDown p none s) else s
      startTraining p s
  | .cam h =>
    if !bitOf (reg s b Off.camCfg) 0 then s
    else
      let s := if s.cams[h].link = .up then camLinkDown h false s else s
      pumpAll (modCam h (fun c => { c with link := .training }) s)
  | _ => s

/-- The block reads IDLE: DRAIN and REARM read 0 (R47); bypasses added meanwhile take effect (R129). Packets that stand at a port for
want of it are tried again, and so are a survival engine's requests (entry 22). -/
def goIdle (b : Block) (s : State) : State :=
  let s := match b with
    | .tile t .mnt => adoptBypasses t s
    | _ => s
  let s := retrain b (modHdr b (fun h => { h with mode := .on, drainReq := false, rearmReq := false, enPend := false }) s)
  serveAll (match b with
    | .tile t .tl => (match headOf t with | some q => pumpSrv q 64 s | none => s)
    | _ => s)

/-- An enable or a re-arm whose probe is acknowledged ends once no item is in progress in the block. -/
def settleBlock (b : Block) (s : State) : State :=
  let h := hdr s b
  if h.probe || busy s b || isWedged s b then s
  else if h.enPend || h.rearmReq then goIdle b s else s

/-- DRAIN_PROBE_ACK (R434): the control interface takes the probe; the watching router stops counting. An enabled block
without items reads IDLE at once (R530). -/
def execDrainProbeAck (b : Block) (s : State) : Res :=
  .next (if !(hdr s b).probe then s
    else
      let s := modHdr b (fun h => { h with probe := false }) s
      let s := dropStall (watcher s b) b s
      if (hdr s b).enPend then settleBlock b s else s)

/-- DRAIN_COMPLETE (R501): a DRAINING block without items reads DRAINED. -/
def execDrainComplete (b : Block) (s : State) : Res :=
  .next (if (hdr s b).mode = .draining ∧ !(hdr s b).probe ∧ !busy s b then modHdr b (fun h => { h with mode := .drained }) s else s)

/-- REARM_COMPLETE (R434): as for an enable that waited for an item. -/
def execRearmComplete (b : Block) (s : State) : Res := .next (settleBlock b s)

end Sys2Proof.Machine
end

