-- ==== Sys2Proof/Machine/Rot.lean ====
section
/-! DEFINITION. The root-of-trust mailbox (R467 to R488, R494): how a submitted command is taken, checked and answered,
and the commands on ownership, reset, partitions, power, keys, life cycle, repair and sessions; tamper events. Where the
spec gives a body's fields without their places, they lie at the places that entry 32 names. -/

namespace Sys2Proof.Machine
open Sys2Proof

/-! ## Checks (R475) -/

def roleOperator : Nat := 0
def roleInstaller : Nat := 1
def roleMaker : Nat := 2
def roleUnsigned : Nat := 3

/-- The opcodes of R474. -/
def opcKnown (o : Nat) : Bool :=
  [0x01, 0x02, 0x03, 0x04, 0x05, 0x06, 0x07, 0x10, 0x11, 0x12, 0x20, 0x21, 0x30, 0x31, 0x32, 0x33].contains o

/-- A header against its format: the roles of its opcode, LEN, RSVD bits, a zero challenge where unsigned. -/
def cmdBad (c : RotCmd) (roles : List Nat) : Bool :=
  !roles.contains c.role || decide (1600 < c.len) || decide (fld (headWord c 0) 31 28 ≠ 0) ||
    (List.range 11).any (fun k => decide (headWord c (5 + k) ≠ 0)) ||
    (decide (c.role = roleUnsigned) && decide (c.challenge ≠ 0))

/-- The signer's key slot holds a key in use (R477, R483, R486). -/
def keyHeld (s : State) (c : RotCmd) : Bool :=
  if c.role = roleMaker then true
  else if c.role = roleInstaller then decide (c.kslot = s.rot.instActive) && decide (c.kslot < s.rot.instKeys.length)
  else decide (c.kslot < 4) && (fget (fun _ => none) s.rot.opKeys (4 * c.part.val + c.kslot)).isSome

/-- The life-cycle state accepts the command (R486). -/
def lcAccepts (s : State) (c : RotCmd) : Bool :=
  if s.rot.lc = 4 then c.opc = 0x30 ∨ c.opc = 0x31 ∨ c.opc = 0x32
  else if s.rot.lc = 0 ∨ s.rot.lc = 3 then c.role = roleMaker ∨ c.role = roleUnsigned
  else true

/-- A partition of the live map. -/
def partLive (s : State) (p : Nat) : Bool := allQuads.any (fun q => decide ((partOf s q).val = p))

/-! ## Taking and answering (R473, R476, R488, R494) -/

/-- The root of trust runs and takes commands: not before its boot, not while its firmware is replaced (R508). -/
def rotTakes (s : State) : Bool :=
  s.dev.powered && !s.dev.resetLow && decide ((hdr s .rot).mode ≠ .updating)

/-- Master m's command is the next one: waiting, with no lower master waiting. -/
def rotTurn (s : State) (m : Fin 3) : Bool :=
  rotTakes s && maskHas s.rot.waiting m.val && (List.range m.val).all (fun k => !maskHas s.rot.waiting k)

/-- The next command is master m's, of this opcode. -/
def rotNext (s : State) (m : Fin 3) (opc : Nat) : Bool := rotTurn s m && decide ((cmdOf s m).opc = opc)

/-- Commands on the audit log: the installer's and the maker's, and every FORCE_TAKE. -/
def audited (c : RotCmd) : Bool := c.role = roleInstaller ∨ c.role = roleMaker ∨ c.opc = 0x01

/-- The entry of a command: KSLOT in the lowest byte, and the key generation, which the spec does not state, free above it
(entry 32). -/
def auditCmd (c : RotCmd) (status : Nat) (sign : Bool) (s : State) : State :=
  if audited c then
    let (g, s) := takeFree s
    auditAppend c.opc (c.role + 4 * c.master.val + 16 * c.part.val) status (c.kslot + 2 ^ 8 * (g % 2 ^ 24))
      (fitBytes 32 (Config.shake256 (bytesOfWords c.head ++ c.body ++ (if c.role = roleUnsigned then [] else c.sig)) 32)) sign s
  else s

/-- What a command does once its checks have passed: a status and response data, with the state so far. -/
abbrev RotAct := RotCmd → State → (Nat × List Byte) × State

def done (s : State) : (Nat × List Byte) × State := ((stDone, []), s)
def refuse (code : Nat) (s : State) : (Nat × List Byte) × State := ((code, []), s)

/-- The checks of R475 in order; a signature that verifies replaces the challenge. -/
def checked (roles : List Nat) (bodyBad : RotCmd → Bool) (perPart : Bool) (sigOk : Bool) (act : RotAct) : RotAct :=
  fun c s =>
    if cmdBad c roles || bodyBad c then refuse eFormat s
    else
      let signed := decide (c.role ≠ roleUnsigned)
      if signed && (decide (c.challenge ≠ s.rot.challenge.toNat) || !keyHeld s c || !sigOk) then refuse eDenied s
      else
        let s := if signed then newChallenge s else s
        if !lcAccepts s c then refuse eDenied s
        else if perPart && !partLive s c.part.val then refuse ePartition s
        else act c s

/-- Commands of reserved opcodes are answered when their turn comes. -/
def takeReserved (s : State) : State :=
  (List.finRange 3).foldl (fun s m =>
    let c := cmdOf s m
    if rotTurn s m && !opcKnown c.opc then
      respond m c.opc eFormat [] (auditCmd c eFormat false (modRot (fun r => { r with waiting := maskClear r.waiting m.val }) s))
    else s) s

/-- A command runs to its response: checks, effect, audit entry, response, and what follows the response of a command
that was executed. -/
def runCmd (opc : Nat) (act : RotAct) (sign : Bool) (after : RotCmd → State → State) (m : Fin 3) (s : State) : State :=
  if !rotNext s m opc then s
  else
    let c := cmdOf s m
    let s := modRot (fun r => { r with waiting := maskClear r.waiting m.val }) s
    let (r, s) := act c s
    let s := respond m opc r.1 r.2 (auditCmd c r.1 (sign && decide (r.1 = stDone)) s)
    takeReserved (if r.1 = stDone then after c s else s)

/-- A command whose effect ends with its response. -/
def runPlain (opc : Nat) (act : RotAct) (m : Fin 3) (s : State) : State := runCmd opc act false (fun _ s => s) m s

/-- The bits of the body beyond `bits` are reserved, and the body holds at least those. -/
def bitsBad (bits : Nat) (c : RotCmd) : Bool :=
  decide (8 * c.len < bits) || decide (2 ^ bits ≤ natOfBytes c.body)

/-- The body is of at least n bytes. -/
def shortBody (n : Nat) (c : RotCmd) : Bool := decide (c.len < n)

/-! ## Ownership and reset (R57, R65) -/

/-- FORCE_TAKE (R57): the named master becomes the owner, once the take is on the audit log. -/
def forceTakeAct : RotAct := fun c s => if (masterOf (c.num 0 1)).isNone then refuse eDenied s else done s

def forceOwner (c : RotCmd) (s : State) : State :=
  modDev (fun d => { d with owner := masterOf (c.num 0 1), forced := true, handover := none }) s

def execForceTake (m : Master) (sigOk : Bool) (s : State) : Res :=
  .next (runCmd 0x01 (checked [roleInstaller] (bitsBad 2) false sigOk forceTakeAct) false forceOwner (masterIdx m) s)

/-- RESET (R65, R69, R511): refused while a reset is in progress; answered before the reset starts. -/
def execRotReset (m : Master) (sigOk : Bool) (s : State) : Res :=
  .next (runCmd 0x02
    (checked [roleInstaller] (bitsBad 1) false sigOk (fun _ s => if resetRuns s then refuse eDenied s else done s))
    false (fun c s => fullReset 3 (c.num 0 1 % 2 == 1) s) (masterIdx m) s)

/-! ## Sessions and operator keys (R481 to R483) -/

/-- An operator credential set or removed; a credential that goes ends the sessions it opened. -/
def setOpKey (p : Fin 4) (k : Nat) (key : Option (List Byte)) (s : State) : State :=
  endAllSessions (fun q x => decide (q = p) && decide (x.opSlot = k))
    (modRot (fun r => { r with opKeys := fset (fun _ => none) r.opKeys (4 * p.val + k) key }) s)

/-- ENROLL (R474, R483): partition, slot, REVOKE, public key. -/
def enrollBad (c : RotCmd) : Bool :=
  shortBody 3 c || decide (3 < c.num 0 1) || decide (3 < c.num 1 1) || decide (1 < c.num 2 1) ||
    (decide (c.num 2 1 = 0) && shortBody 60 c)

def enrollAct : RotAct := fun c s =>
  let p : Fin 4 := ⟨c.num 0 1 % 4, by omega⟩
  if !partLive s p.val then refuse ePartition s
  else done (setOpKey p (c.num 1 1) (if c.num 2 1 = 1 then none else some (c.bytes 3 57)) s)

def execEnroll (m : Master) (sigOk : Bool) (s : State) : Res :=
  .next (runPlain 0x06 (checked [roleInstaller] enrollBad false sigOk enrollAct) (masterIdx m) s)

/-- INST_ROTATE (R483): the next installer slot is fused and becomes the active one. -/
def rotateAct : RotAct := fun c s =>
  if 4 ≤ s.rot.instKeys.length then refuse eDenied s
  else done (modRot (fun r => { r with instKeys := r.instKeys ++ [c.bytes 0 57], instActive := r.instKeys.length }) s)

def execInstRotate (m : Master) (sigOk : Bool) (s : State) : Res :=
  .next (runPlain 0x07 (checked [roleInstaller] (shortBody 57) false sigOk rotateAct) (masterIdx m) s)

/-- A staged map changes the partition's quadrants (R481, R485). -/
def reassigned (s : State) (p : Fin 4) : Bool := s.rot.mapPending && (affectedParts s.rot.map s.rot.mapStaged).contains p

/-- The bytes that the device signs (R481): challenge, p, h, guest key, device key, session id, live generation,
life-cycle state. -/
def transcript (s : State) (c : RotCmd) (h : HostId) (dev : List Byte) (id : BitVec 16) : List Byte :=
  bytesOfNat 16 c.challenge ++ [BitVec.ofNat 8 c.part.val, BitVec.ofNat 8 h.val] ++ c.bytes 1 56 ++ dev ++
    bytesOfNat 2 id.toNat ++ [s.dev.genLive, BitVec.ofNat 8 s.rot.lc]

/-- The key of a direction of a session (R478): the shared secret of the two ephemeral keys, the transcript and the direction. -/
def sessionKey (k : List Byte) (c : RotCmd) (transcript : List Byte) (dir : String) : List Byte :=
  fitBytes 32 (Config.shake256 (x448Of k (c.bytes 1 56) ++ transcript ++ asciiBytes dir) 32)

/-- SESSION_OPEN (R433, R481), with HOLDER0 of the port 0x010 while the keys are derived: the id differs from the last one of the port; the key and the id are drawn (entry 4). -/
def openAct : RotAct := fun c s =>
  let h : HostId := ⟨c.num 0 1 % 2, by omega⟩
  if decide (s.cams[h].sess[c.part].state ≠ .none) || reassigned s c.part || isFenced s (camB h) then refuse eDenied s
  else
    let (n, s) := takeFree s
    let (e, s) := takeFree s
    let id := s.rot.sessIds[h] + 1 + BitVec.ofNat 16 (n % 65535)
    let k := clamp448 (bytesOfNat 56 e)
    let dev := x448Public k
    let t := transcript s c h dev id
    let s := modRot (fun r => { r with sessIds := r.sessIds.set h id }) s
    let s := modCam h (fun x => { x with keying := true }) s
    let s := modSess h c.part (fun z => { z with keyIn := sessionKey k c t "G2D", keyOut := sessionKey k c t "D2G" }) s
    let sig := fitBytes 114 (Config.sign roleIdentity t)
    let s := modSess h c.part (fun z => { z with state := .active, id := id, inCtr := 0, outCtr := 0, opSlot := c.kslot }) s
    ((stDone, dev ++ bytesOfNat 2 id.toNat ++ sig), pumpAll (modCam h (fun x => { x with keying := false }) s))

def openBad (c : RotCmd) : Bool := shortBody 57 c || decide (1 < c.num 0 1)

/-- An operator's command whose signature verifies under the key of its own partition, or under one of another partition: that one is
answered E_PARTITION (R475). -/
def opChecked (bodyBad : RotCmd → Bool) (sig : OpSig) (act : RotAct) : RotAct := fun c s =>
  match sig with
  | .fails => checked [roleOperator] bodyBad true false act c s
  | .verifies => checked [roleOperator] bodyBad true true act c s
  | .otherPart p =>
    let held := (fget (fun _ => none) s.rot.opKeys (4 * p.val + c.kslot)).isSome
    checked [roleOperator] bodyBad true held (fun c s => if p = c.part then act c s else refuse ePartition s) c s

def execSessionOpen (m : Master) (sig : OpSig) (s : State) : Res :=
  .next (runPlain 0x20 (opChecked openBad sig openAct) (masterIdx m) s)

/-- SESSION_CLOSE (R396, R482). -/
def closeAct : RotAct := fun c s =>
  done (endSessions ⟨c.num 0 1 % 2, by omega⟩ (fun p _ => decide (p = c.part)) s)

def execSessionClose (m : Master) (sig : OpSig) (s : State) : Res :=
  .next (runPlain 0x21 (opChecked (bitsBad 1) sig closeAct) (masterIdx m) s)

/-! ## Partitions (R484, R485) -/

def mapAccepted (m : Byte) : Bool := m = 0x00 ∨ m = 0x50 ∨ m = 0x44 ∨ m = 0xE4

/-- The blocks of a quadrant. -/
def quadBlocks (s : State) (q : QuadId) : List Block :=
  [.qdsp q, .qstat q, .srv q, .qque q, .hbm (quadStack q false), .hbm (quadStack q true)] ++
    (quadTiles q).flatMap (fun t => (tileUnits.filter (fun u => u != .que)).map (Block.tile t)) ++
    (allPorts.filter (fun p => decide (portQuad s p = q))).map .gwp ++
    (allHosts.filter (fun h => decide (ownerQuad s (.cam h) = some q))).map .cam

/-- PART_SET's preconditions: an accepted map, no failed quadrant, no commit pending, every drainable block of an affected
quadrant DRAINED or OFF, no job but job 0 granted in an affected partition. -/
def partRefused (s : State) (map : Byte) : Bool :=
  let aff := affectedQuads s.rot.map map
  !mapAccepted map || decide (s.dev.qfail ≠ 0) || s.dev.genPend ||
    allQuads.any (fun q => maskHas aff q.val && (quadBlocks s q).any (fun b =>
      decide ((hdr s b).mode ≠ .drained) && decide ((hdr s b).mode ≠ .off))) ||
    (affectedParts s.rot.map map).any (fun p => partLive s p.val && decide (s.quads[leadQuad s p].granted ≠ 1))

/-- Operator keys of some partitions dropped. -/
def dropKeys (ps : List (Fin 4)) (m : FMap (Option (List Byte))) : FMap (Option (List Byte)) :=
  m.filter (fun e => !ps.any (fun p => decide (e.1 / 4 = p.val)))

/-- PART_SET (R484, R485). -/
def partSetAct : RotAct := fun c s =>
  let map := BitVec.ofNat 8 (c.num 0 2)
  let ps := affectedParts s.rot.map map
  if partRefused s map then refuse eDenied s
  else
    let s := endAllSessions (fun p _ => ps.contains p) s
    let s := { s with tiles := s.tiles.map (fun x => { x with wiped := 0 }) }
    done (modRot (fun r => { r with
      opKeys := dropKeys ps r.opKeys, mapStaged := map, encStaged := BitVec.ofNat 4 (fld (c.num 0 2) 11 8)
      mapPending := true, partSet := true, affected := affectedQuads r.map map }) s)

def execPartSet (m : Master) (sigOk : Bool) (s : State) : Res :=
  .next (runPlain 0x03 (checked [roleInstaller] (bitsBad 12) false sigOk partSetAct) (masterIdx m) s)

/-! ## Power limits (R409) -/

/-- The pairs of a PWR_SET body: offset and value. -/
def pwrPairs (c : RotCmd) : List (Nat × Nat) := (List.range (c.len / 8)).map (fun k => (c.num (8 * k) 4, c.num (8 * k + 4) 4))

/-- The staged copy that an offset names, with the bits a write sets. -/
def pwrStagedAt (o : Nat) : Option (Nat × Nat) :=
  let x := if o < 0x800 then o else o - 0x800
  match findRow .pwr x with
  | some (r, y) => if r.acc = .rws ∧ y = x then some (pageBase .pwr 0 + x + 0x800, r.mask) else none
  | none => none

def pwrSetBad (c : RotCmd) : Bool :=
  decide (c.len % 8 ≠ 0) || decide (c.len = 0) || decide (256 < c.len) || (pwrPairs c).any (fun x => decide (0xFFF < x.1))

/-- PWR_SET: every pair names a staged register, or nothing is written; not while a commit is pending (R475). -/
def pwrSetAct : RotAct := fun c s =>
  if s.dev.genPend || (pwrPairs c).any (fun x => (pwrStagedAt x.1).isNone) then refuse eDenied s
  else done ((pwrPairs c).foldl (fun s x => match pwrStagedAt x.1 with
    | some (a, mask) => setRegAt a (x.2 &&& mask) s
    | none => s) s)

def execPwrSet (m : Master) (sigOk : Bool) (s : State) : Res :=
  .next (runPlain 0x04 (checked [roleInstaller] pwrSetBad false sigOk pwrSetAct) (masterIdx m) s)

/-! ## Life cycle, factory mode, repair record (R486, R487, R129) -/

/-- The transitions of R486. -/
def lcStep (from_ dest : Nat) : Bool :=
  (from_ == 0 && dest == 1) || (from_ == 3 && dest == 1) || (from_ == 1 && dest == 2) || (from_ == 2 && dest == 3) || dest == 4

def lcBad (c : RotCmd) : Bool :=
  shortBody 1 c || decide (4 < c.num 0 1) || (decide (c.num 0 1 = 1) && shortBody 58 c)

def lcAct : RotAct := fun c s =>
  let dest := c.num 0 1
  if !lcStep s.rot.lc dest || (decide (dest = 1) && decide (4 ≤ s.rot.instKeys.length)) then refuse eDenied s else done s

/-- The fuses of a transition, the wipe, every key epoch advanced, and a full reset without retain, which advances them again (R479). -/
def changeLc (c : RotCmd) (s : State) : State :=
  let dest := c.num 0 1
  let s := wipeSecure (denyWaiting s)
  let s := modRot (fun r => { r with
    lc := dest, epochs := r.epochs.map (· + 1)
    instKeys := if dest = 1 then r.instKeys ++ [c.bytes 1 57] else r.instKeys
    instActive := if dest = 1 ∨ dest = 3 then r.instKeys.length else r.instActive }) s
  fullReset 4 false s

/-- LC_SET (R486, R487); the audit head is signed before it. -/
def execLcSet (m : Master) (sigOk : Bool) (s : State) : Res :=
  .next (runCmd 0x10 (checked [roleMaker] lcBad false sigOk lcAct) true changeLc (masterIdx m) s)

/-- FACTORY (R486): refused in DEPLOYED. -/
def factoryAct : RotAct := fun c s =>
  if s.rot.lc = 2 then refuse eDenied s else done (modRot (fun r => { r with factory := c.num 0 1 % 2 == 1 }) s)

def execFactory (m : Master) (sigOk : Bool) (s : State) : Res :=
  .next (runPlain 0x11 (checked [roleMaker] (bitsBad 1) false sigOk factoryAct) (masterIdx m) s)

/-- An entry of REPAIR_CLEAR: kind 0 bypass, 1 retired tile, 2 retired channel; the tile or stack; the column or channel. -/
def clearRepair (e : Nat) (r : RotSt) : RotSt :=
  let t : TileId := ⟨fld e 13 8 % 64, by omega⟩
  let k : StackId := ⟨fld e 10 8 % 8, by omega⟩
  let kind := fld e 1 0
  if kind = 0 then { r with repairCols := r.repairCols.filter (fun x => decide (x ≠ (t, BitVec.ofNat 8 (fld e 23 16)))) }
  else if kind = 1 then { r with repairTiles := r.repairTiles.filter (fun x => decide (x ≠ t)) }
  else { r with repairChans := r.repairChans.filter (fun x => decide (x ≠ (k, BitVec.ofNat 5 (fld e 20 16)))) }

def repairEntries (c : RotCmd) : List Nat := (List.range (c.len / 4)).map (fun k => c.num (4 * k) 4)
def repairBad (c : RotCmd) : Bool :=
  decide (c.len = 0) || decide (c.len % 4 ≠ 0) || (repairEntries c).any (fun e => decide (fld e 1 0 = 3))

/-- REPAIR_CLEAR (R129, R467): what the record no longer names is gone at the next start-up. -/
def repairAct : RotAct := fun c s => done (modRot (fun r => (repairEntries c).foldl (fun r e => clearRepair e r) r) s)

def execRepairClear (m : Master) (sigOk : Bool) (s : State) : Res :=
  .next (runPlain 0x12 (checked [roleMaker] repairBad false sigOk repairAct) (masterIdx m) s)

/-! ## Tamper (R439, R487) -/

/-- TAMPER: misuse of the test port counts outside factory test mode only. Secrets are wiped at once, in hardware, links go DOWN, and
the report follows. The detectors act while RESET_N is low too (R508, R522; entry 31). -/
def execTamper (detector : Fin 3) (s : State) : Res :=
  .next (if !s.dev.powered || (detector == 2 && s.rot.factory) then s
    else raiseFault .rot 0x3A 0 0 detector.val (tamperWipe s))

end Sys2Proof.Machine
end

