-- ==== Sys2Proof/Machine/RotReport.lean ====
section
/-! DEFINITION. What the root of trust reports (R478, R488, R492, R493): certificates, the audit log, the measurement list
and the attestation report. -/

namespace Sys2Proof.Machine
open Sys2Proof

/-! ## Certificates (R478) -/

def certBad (c : RotCmd) : Bool := shortBody 1 c || decide (2 < natOfBytes c.body)

/-- CERT. -/
def execCert (m : Master) (s : State) : Res :=
  .next (runPlain 0x32 (checked [roleUnsigned] certBad false true (fun c s => ((stDone, certificate (c.num 0 1 + 1)), s)))
    (masterIdx m) s)

/-! ## The measurement list (R493) -/

/-- The instances of a component on this device (R490). -/
def instances (s : State) (comp : Nat) : List Nat :=
  if comp = 0x02 ∨ comp = 0x03 then (allTiles.filter (fun t => !s.tiles[t].retired)).map (·.val)
  else if comp = 0x05 then List.range 8 else if comp = 0x06 then List.range 24 else if comp = 0x07 then List.range 2
  else if comp = 0x10 ∨ comp = 0x11 then List.range 4 else [0]

/-- What an instance holds: what an image installed, else what it was made with. -/
def installed (s : State) (comp target : Nat) : Component :=
  match s.rot.comps.find? (fun x => x.id.toNat == comp && x.target == target) with
  | some x => x
  | none => ⟨BitVec.ofNat 16 comp, target, decide (comp = 1) && s.dev.slotB, Config.factoryVersion comp,
      fitBytes 32 (Config.factoryDigest comp)⟩

/-- The components installed, in ascending order; a route image counts once one has been applied. -/
def components (s : State) : List Nat :=
  [1, 2, 3, 4, 5, 6, 7, 0x10, 0x11, 0x18] ++ (if s.rot.comps.any (fun x => x.id == 0x20) then [0x20] else [])

/-- A component's entry of 40 bytes: the lowest instance, with flags bit 0 where the instances differ. -/
def measureEntry (s : State) (comp : Nat) : List Byte :=
  match (instances s comp).map (installed s comp) with
  | [] => []
  | x :: xs =>
    let mixed := xs.any (fun y => decide (y.version ≠ x.version) || decide (y.digest ≠ x.digest))
    bytesOfNat 2 comp ++ [BitVec.ofNat 8 (b2n x.slot), BitVec.ofNat 8 (b2n mixed)] ++ bytesOfNat 4 x.version.toNat ++
      fitBytes 32 x.digest

def measureList (s : State) : List Byte := (components s).flatMap (measureEntry s)

/-- A command without a body. -/
def bodyless (c : RotCmd) : Bool := decide (c.len ≠ 0)

/-- MEASURE. -/
def execMeasure (m : Master) (s : State) : Res :=
  .next (runPlain 0x31 (checked [roleUnsigned] bodyless false true (fun _ s => ((stDone, measureList s), s))) (masterIdx m) s)

/-! ## Attestation (R492) -/

/-- Bytes 0 to 175 of the report. -/
def reportBody (s : State) (nonce : List Byte) : List Byte :=
  bytesOfNat 4 1 ++ serialBytes ++ nonce ++
    [BitVec.ofNat 8 s.rot.lc, s.dev.genLive, s.rot.map, BitVec.ofNat 8 (s.rot.enc.toNat + 16 * b2n s.rot.factory)] ++
    bytesOfNat 4 (s.rot.auditNext - 1) ++ fitBytes 32 s.rot.auditHead ++
    fitBytes 32 (Config.shake256 (measureList s) 32) ++ meterName ++ bytesOfNat 4 s.mtr.swVersion.toNat ++
    bytesOfNat 4 s.mtr.now.event.toNat ++ meterDigestNow s

def attestAct : RotAct := fun c s =>
  let b := reportBody s (c.bytes 0 32)
  ((stDone, b ++ fitBytes 114 (Config.sign roleIdentity b)), s)

/-- ATTEST. -/
def execAttest (m : Master) (s : State) : Res :=
  .next (runPlain 0x30 (checked [roleUnsigned] (fun c => decide (c.len ≠ 32)) false true attestAct) (masterIdx m) s)

/-! ## The audit log (R488) -/

/-- The newest signed batch: INDEX, H, signature. -/
def signedBatch (s : State) : List Byte :=
  let b := bytesOfNat 4 s.rot.signedAt ++ fitBytes 32 s.rot.signedHead
  b ++ fitBytes 114 (Config.sign roleIdentity b)

/-- AUDIT_READ: up to six entries from the named index, in 288 bytes, then the batch; the head is signed when the newest
entry is among them. -/
def auditReadAct : RotAct := fun c s =>
  let i := c.num 0 4
  let first := s.rot.auditNext - s.rot.audit.length
  if i < first ∨ s.rot.auditNext ≤ i then refuse eExtent s
  else
    let es := (s.rot.audit.drop (i - first)).take 6
    let s := if s.rot.auditNext ≤ i + 6 then
      modRot (fun r => { r with signedAt := r.auditNext - 1, signedHead := r.auditHead }) s else s
    ((stDone, fitBytes 288 (es.flatMap auditBytes) ++ signedBatch s), s)

def execAuditRead (m : Master) (s : State) : Res :=
  .next (runPlain 0x33 (checked [roleUnsigned] (fun c => decide (c.len ≠ 4)) false true auditReadAct) (masterIdx m) s)

/-! ## Registers of the mailbox page (R494) -/

/-- Every working tile of a quadrant is wiped (R485). -/
def quadWiped (s : State) (q : QuadId) : Bool :=
  s.rot.partSet && (quadTiles q).all (fun t => s.tiles[t].retired || decide (s.tiles[t].wiped = 7))

/-- ROT_PART. -/
def rotPart (s : State) : Nat :=
  let r := s.rot
  r.map.toNat + 2 ^ 8 * (if r.mapPending then r.mapStaged else r.map).toNat + 2 ^ 16 * r.enc.toNat +
    2 ^ 20 * (allQuads.map (fun q => if quadWiped s q then 2 ^ q.val else 0)).sum + 2 ^ 24 * b2n r.mapPending +
    2 ^ 25 * b2n (decide (r.zeroing ≠ 0))

/-- A word of page 0 of the mailbox, by its offset. -/
def rotReg (s : State) (o : Nat) : Nat :=
  let r := s.rot
  if o = Off.rotStat then 2 * r.waiting.toNat + 16 * b2n r.factory
  else if o = Off.rotLc then r.lc + 8 * (r.instActive % 4)
  else if o = Off.rotPart then rotPart s
  else if Off.rotChallenge ≤ o ∧ o < Off.rotChallenge + 16 then fld r.challenge.toNat (8 * (o - Off.rotChallenge) + 31) (8 * (o - Off.rotChallenge))
  else if o = Off.rotAuditIdx then r.auditNext - 1
  else if Off.rotRsp ≤ o ∧ o < Off.rotRsp + 12 then
    let x := vat r.rsp ((o - Off.rotRsp) / 4) ⟨0, 0, false, []⟩
    x.status + 2 ^ 8 * b2n x.valid + 2 ^ 16 * x.opc
  else if Off.rotRspData ≤ o ∧ o < Off.rotRspData + 0x600 then
    let x := vat r.rsp ((o - Off.rotRspData) / 0x200) ⟨0, 0, false, []⟩
    if x.valid then natOfBytes ((x.data.drop ((o - Off.rotRspData) % 0x200)).take 4) else 0
  else 0

end Sys2Proof.Machine
end

