-- ==== Sys2Proof/Machine/Operands.lean ====
section
/-! DEFINITION. The operands of a control-space access (R10, R42, R43, R45, R49, R375): the page and the register that an
address names, the half of a wide register, staged copies, and the bits that a write must leave 0. -/

namespace Sys2Proof.Machine
open Sys2Proof

/-- The master of a host port (R51). -/
def hostMaster (h : HostId) : Fin 3 := ⟨h.val, by omega⟩

/-- The owner's master id; 3 when there is none (R51). -/
def ownerId (s : State) : Nat :=
  match s.dev.owner with
  | some m => (masterIdx m).val
  | none => 3

/-- Accesses of any other width or alignment are refused with E_ALIGN (R43). -/
def accessBad (bytes addr : Nat) : Bool := decide (bytes ≠ 4) || decide (addr % 4 ≠ 0)

/-- The byte address that a page's registers are kept under: the device-wide fabric page stands under G0 (R375). -/
def homeBase (p : PageRef) : Nat :=
  match p.kind with
  | .fab => pageBase (.gwp 0) 2
  | _ => pageBase p.block p.index

/-- An offset in the staged region, and the register it mirrors (R42). -/
def stagedOff (o : Nat) : Bool := decide (0x800 ≤ o)
def liveOff (o : Nat) : Nat := if stagedOff o then o - 0x800 else o

/-- The register that an offset of a page names; in the staged region only RWS registers have a copy. -/
def regNamed (p : PageRef) (o : Nat) : Option (RegRow × Nat) :=
  match findRow p.kind (liveOff o) with
  | some (r, b) => if stagedOff o && r.acc != .rws then none else some (r, b)
  | none => none

/-- The high word of a wide register (R43). -/
def highHalf (o base : Nat) : Bool := decide (liveOff o ≠ base)
def getHalf (x : Nat) (high : Bool) : Nat := if high then x / 2 ^ 32 % 2 ^ 32 else x % 2 ^ 32
def putHalf (old v : Nat) (wide high : Bool) : Nat :=
  if !wide then v % 2 ^ 32
  else if high then old % 2 ^ 32 + v % 2 ^ 32 * 2 ^ 32
  else old / 2 ^ 32 * 2 ^ 32 + v % 2 ^ 32

/-- The value of a register after a write of one word: RSVD bits ignore it (R10). -/
def rowValue (r : RegRow) (old v : Nat) (high : Bool) : Nat := Nat.land (putHalf old v r.wide high) r.mask

/-- The RSVD bits of a WO register that must be 0 (R10). DEV_CLAIM and DEV_GEN_COMMIT follow their own rules. -/
def mustBeZero (k : PageKind) (o : Nat) : Nat :=
  match k with
  | .dev => if o = Off.devSelftest then 0xFFFF0080 else 0
  | .own => if o = Off.devReset then 0xFFFF00FE else 0
  | .rotSlot => if o = Off.rotSubmit then 0xFFFFFFFE else 0
  | .flt => if o = Off.fltInject then 0xFF000000 else 0
  | .hbm => if o = Off.hbmChanCtrl then 0xFFFFFF00 else 0
  | .fab => if o = Off.gwpAbandon then 0xFF000000 else 0
  | .cam => if o = Off.camAbandon then 0xFFFF00FF else 0
  | .camSess => if o = Off.camSessClose then 0xFFFFFFF0 else 0
  | .srv => if o = Off.srvCmd then 0xFFFFFFF8 else 0
  | .subQue => if o = Off.queSqDb then 0xFFFF0000 else 0
  | .mnt => if o = Off.mntDrainRel then 0xFFFF0000 else 0
  | .ftb => if o = Off.ftbLoad then 0xFF000000 else 0
  | _ => 0

/-- The queue of a QUE_ page (R49, R324, R441). -/
def queueOfPage (p : PageRef) : Option QueueId :=
  match p.block with
  | .qque q => if p.index < 16 then some (.sq q ⟨p.index % 16, by omega⟩) else some (.cq q ⟨p.index % 16, by omega⟩)
  | .tile t .que => if p.index = 0 then some (.work t) else some (.comp t)
  | .flt => if p.index = 1 then some .fault else none
  | _ => none

/-- The doorbell or head register of a queue assigned to the master (R52). -/
def assignedReg (s : State) (m : Fin 3) (p : PageRef) (o : Nat) : Bool :=
  match queueOfPage p with
  | some (.sq q k) => decide (o = Off.queSqDb) && decide (ringMaster s (.sq q k) = m.val)
  | some (.cq q k) => decide (o = Off.queCqHead) && decide (ringMaster s (.cq q k) = m.val)
  | _ => false

/-- The master's own command slot (R471). -/
def ownSlot (m : Fin 3) (p : PageRef) : Bool := p.block == .rot && decide (p.index = m.val + 1)

/-- A write that ownership permits, or that is exempt from it (R52, R471). -/
def mayWrite (s : State) (m : Fin 3) (p : PageRef) (o : Nat) : Bool :=
  if p.kind = .rotSlot then ownSlot m p
  else decide (ownerId s = m.val) || (p.kind == .own && decide (o = Off.devClaim)) || assignedReg s m p o

/-- Writes that the safe state still takes (R439 step 7). -/
def safeTakes (m : Fin 3) (p : PageRef) : Bool := p.kind == .own || ownSlot m p

/-- The staged copies of a page are frozen from a commit until its block has switched; the fabric page until every port
has (R60, R375). -/
def frozen (s : State) (p : PageRef) : Bool :=
  match p.kind with
  | .fab => allPorts.any (fun g => (hdr s (.gwp g)).genPend)
  | _ => (hdr s p.block).genPend

end Sys2Proof.Machine
end

