-- ==== Sys2Proof/Machine/Flags.lean ====
section
/-! DEFINITION. What the registers of the control space read: the common header (R47), status and information registers
computed from the state they show, and counters (R41, R64, R88, R135, R203, R204, R235, R295, R327 to R329, R345 to R347,
R374, R375, R398, R399, R419, R420, R441, R450, R466, R494, R512). -/

namespace Sys2Proof.Machine
open Sys2Proof

/-! ## The common header (R47) -/

/-- A word of the header, on the page it is read from. -/
def hdrWord (s : State) (p : PageRef) (o : Nat) : Nat :=
  let b := p.block
  let h := hdr s b
  if o = 0x00 then p.index + 2 ^ 7 * b2n p.secure + 2 ^ 8 * blockId b + 2 ^ 20 * blockType b
  else if o = 0x04 then 0x100
  else if o = 0x08 then b2n (hasStaged b) + 2 * b2n (drainable b) + 4 * b2n (lockable b)
  else if o = 0x0C then pgCtrl s b
  else if o = 0x10 then pgState s b
  else if o = 0x14 then h.faultBits.toNat + 2 ^ 8 * h.faultKind.toNat
  else if o = 0x18 then h.genLive.toNat
  else if o = 0x1C then (if h.genPend then h.genStaged else h.genLive).toNat + 2 ^ 8 * b2n h.genPend
  else if o = 0x20 then (locksOf s b).1 + 2 ^ 16 * (locksOf s b).2
  else if o = 0x24 then ownerId s
  else if o = 0x28 then h.seq.toNat
  else 0

/-! ## The device (R57, R64, R68, R345, R512) -/

/-- A bit for each element of a list, from bit 0 on. -/
def bitsOf (l : List Bool) : Nat := ((List.range l.length).map (fun i => if l.getD i false then 2 ^ i else 0)).sum

/-- Bytes [4k, 4k + 4) as a word, little-endian; 0 beyond the end. -/
def byteWord (bs : List Byte) (k : Nat) : Nat := natOfBytes ((bs.drop (4 * k)).take 4)

def devVal (s : State) (o : Nat) : Option Nat :=
  let d := s.dev
  if o = Off.devGenStat then some (genStat s)
  else if o = Off.devBootStat then
    some (d.phase + 2 ^ 4 * b2n d.ready + 2 ^ 5 * b2n d.halt + 2 ^ 6 * b2n d.slotB + 2 ^ 8 * d.code + 2 ^ 16 * d.qfail.toNat)
  else if o = Off.devSelftestStat then some (selftestStat s)
  else if o = Off.devPtInval then some (d.ptBusy.toNat + 2 ^ 4 * d.ptBusy.toNat)
  else none

def ownVal (s : State) (o : Nat) : Option Nat :=
  let d := s.dev
  if o = Off.devOwner then some (ownerId s + 4 * b2n d.forced)
  else if o = Off.devHandover then some (match d.handover with | some m => (masterIdx m).val | none => 3)
  else if o = Off.devResetStat then
    some (d.cause + 2 ^ 3 * b2n d.retained + 2 ^ 4 * d.lost.toNat + 2 ^ 12 * b2n d.fromSafe + 2 ^ 13 * b2n d.tamper)
  else none

/-! ## Faults, power, the meter (R419, R420, R441) -/

def fltVal (s : State) (m : Fin 3) (o : Nat) : Option Nat :=
  if o = Off.fltStat then some (fltStat s)
  else if o = Off.fltLog1 then some (heldWord s m 1)
  else if o = Off.fltLog2 then some (heldWord s m 2)
  else if o = Off.fltLog3 then some (heldWord s m 3)
  else if o = Off.fltWedged then some (fltWedged s)
  else if o = Off.fltUnrevoked then some (fltUnrevoked s)
  else if Off.fltFatalRec ≤ o ∧ o < Off.fltFatalRec + 16 then
    some (match s.flt.fatalRec with
      | some (x, c) => (msgWord x c ((o - Off.fltFatalRec) / 4)).toNat
      | none => 0)
  else none

def pwrQuadAt (s : State) (k : Nat) : PwrQuad := vat s.pwr.quads k pwrQuadReset

def pwrVal (s : State) (o : Nat) : Option Nat :=
  if o = Off.pwrLimitMax then some (Config.limitMax % 2 ^ 11)
  else if o = Off.pwrStat then
    some (b2n (pwrCold s) + 2 * b2n s.pwr.twarn + 4 * b2n s.pwr.meterLost + 8 * b2n (meterHold s))
  else if Off.pwrQstat ≤ o ∧ o < Off.pwrQstat + 16 then
    let q : QuadId := ⟨(o - Off.pwrQstat) / 4 % 4, by omega⟩
    let x := pq s q
    some (x.fa % 64 + 2 ^ 6 * (x.fv % 64) + 2 ^ 12 * x.point + 2 ^ 15 * b2n x.vcap + 2 ^ 16 * quadAvg s q)
  else if Off.pwrVolt ≤ o ∧ o < Off.pwrVolt + 16 then
    let x := pwrQuadAt s ((o - Off.pwrVolt) / 4)
    some (x.vdd % 2 ^ 10 + 2 ^ 16 * (x.vddm % 2 ^ 10))
  else if Off.pwrTemp ≤ o ∧ o < Off.pwrTemp + 16 then some ((pwrQuadAt s ((o - Off.pwrTemp) / 4)).hot % 2 ^ 10)
  else none

def mtrVal (s : State) (o : Nat) : Option Nat :=
  let x := s.mtr
  if o = Off.mtrStat then some (b2n x.link + 2 * b2n x.updating)
  else if o = Off.mtrEvent then some x.now.event.toNat
  else if o = Off.mtrSwVersion then some x.swVersion.toNat
  else if o = Off.mtrRseqLast then some (if x.window.isEmpty then 0 else x.now.rseq)
  else if Off.mtrSwDigest ≤ o ∧ o < Off.mtrSwDigest + 32 then some (byteWord (meterDigestNow s) ((o - Off.mtrSwDigest) / 4))
  else if Off.mtrSwName ≤ o ∧ o < Off.mtrSwName + 12 then some (byteWord meterName ((o - Off.mtrSwName) / 4))
  else if Off.mtrPubkey ≤ o ∧ o < Off.mtrPubkey + 60 then some (Config.meterPubkey ((o - Off.mtrPubkey) / 4)).toNat
  else none

/-- A word of the record window, on page `index` of the mailbox (R420). -/
def windowWord (s : State) (index o : Nat) : Nat :=
  let a := 4096 * (index - 1) + o
  byteWord (fget (fun _ => []) s.mtr.window (a / 256)) (a % 256 / 4)

/-! ## Main memory and the links (R346, R374, R375, R398, R399) -/

def hbmVal (s : State) (k : StackId) (o : Nat) : Option Nat :=
  let e := s.evac[quadOfStack k]
  if o = Off.hbmChanStat then
    some (e.chan.toNat + 2 ^ 5 * b2n e.stackBit + 2 ^ 6 * e.phase + 2 ^ 16 * e.progress + 2 ^ 24 * e.code)
  else if o = Off.hbmRetired then some s.hbmStacks[k].retired.toNat
  else if o = Off.hbmSubFree then some (b2n e.confirmed + 2 * e.regions.length)
  else none

/-- LINK: 3 while the live EN is 0. -/
def linkBits (en : Bool) : Link → Nat
  | .down => if en then 0 else 3
  | .training => if en then 1 else 3
  | .up => if en then 2 else 3
  | .disabled => 3

def gwpVal (s : State) (p : PortId) (o : Nat) : Option Nat :=
  let g := s.ports[p]
  if o = Off.gwpStat then
    some (linkBits (bitOf (reg s (.gwp p) Off.gwpCfg) 0) g.link + 2 ^ 2 * g.lanes.toNat + 2 ^ 6 * b2n g.keyed + 2 ^ 8 * g.peer.toNat)
  else none

/-- The device-wide page through port p: the route entry is that of the port's live bank, or of the staged one. -/
def fabVal (s : State) (p : PortId) (o : Nat) : Option Nat :=
  if o = Off.gwpChipId then some (s.rot.chipId.toNat + 2 ^ 16 * b2n s.rot.routesSet)
  else if o = Off.gwpRouteData then
    let sel := regAt s (pageBase (.gwp 0) 2 + Off.gwpRouteSel)
    let bank := if bitOf sel 16 then s.rot.routesStaged else s.ports[p].routes
    some (fget (fun _ => (0 : Byte)) bank (fld sel 15 0)).toNat
  else none

def camVal (s : State) (h : HostId) (o : Nat) : Option Nat :=
  let c := s.cams[h]
  if o = Off.camStat then some (linkBits (bitOf (reg s (.cam h) Off.camCfg) 0) c.link + 2 ^ 2 * c.lanes.toNat)
  else if o = Off.camOutst then
    some (c.reads.length + 2 ^ 9 * (c.rx.filter (fun x => camClassOf (camHdrOf x.header).ttype == some .nonPosted)).length)
  else none

def camSessVal (s : State) (h : HostId) (o : Nat) : Option Nat :=
  if Off.camSess ≤ o ∧ o < Off.camSess + 16 then
    let z := vat s.cams[h].sess ((o - Off.camSess) / 4) sessNone
    some ((match z.state with | .none => 0 | .active => 1 | .failed => 2) + 2 ^ 16 * z.id.toNat)
  else none

/-! ## The quadrant (R328, R329, R441, R450, R466) -/

def qdspVal (s : State) (q : QuadId) (o : Nat) : Option Nat :=
  if o = Off.qdspJobs then some s.quads[leadQuad s (partOf s q)].granted.toNat
  else if o = Off.qdspInflight then some (s.items.filter (fun i => decide (quadOf i.tile = q))).length
  else none

def qstatVal (s : State) (q : QuadId) (o : Nat) : Option Nat :=
  if o = Off.statMapData then some (fget (fun _ => (0 : Word)) s.quads[q].stat.map (reg s (.qstat q) Off.statMapSel)).toNat
  else if Off.statRdStep ≤ o then some (statReadout s q o)
  else none

def srvStateCode : SrvState → Nat
  | .idle => 0 | .streaming => 1 | .complete => 2 | .restoring => 3 | .restored => 4 | .failed => 5

def srvVal (s : State) (q : QuadId) (o : Nat) : Option Nat :=
  let v := s.quads[q].srv
  if o = Off.srvStat then some (srvStateCode v.state + 2 ^ 3 * b2n v.noPoint + 2 ^ 4 * v.verdict)
  else if o = Off.srvPointTaken then some v.taken.toNat
  else if o = Off.srvPointCommitted then some v.committed.toNat
  else if o = Off.srvLoss then some (lossBound s q)
  else none

def queVal (s : State) (id : QueueId) (o : Nat) : Option Nat :=
  if o = Off.queCtrl then some (b2n (queEn s id))
  else if o = Off.queStat then some (queStat s id)
  else if o = Off.quePktCnt then some (quePktCnt s id)
  else if o = Off.queWords then some (queWordCnt s id)
  else none

/-! ## The tile (R41, R88, R135, R203, R204, R235, R295, R327) -/

/-- TL_DUTY: the edge duties of the tile's place in its live gang. -/
def tileDuty (s : State) (t : TileId) : Nat :=
  let c := liveGang s t
  let n := gangSide c.mode
  if n = 0 then 2 ^ 3 + 2 ^ 4 * 3
  else
    let nw := leaderOf c t
    let i := (t.val / 8 + 8 - nw.val / 8) % 8
    let j := (t.val % 8 + 8 - nw.val % 8) % 8
    let a := decide (j = 0)
    let b := decide (i = 0)
    let d := decide (i + 1 = n)
    b2n a + 2 * b2n b + 4 * b2n d + 8 * b2n (!(a || b || d)) + 2 ^ 4 * c.mode +
      2 ^ 6 * (if c.mode = 0 then 0 else c.id) + 2 ^ 10 * i + 2 ^ 12 * j

def tlVal (s : State) (t : TileId) (o : Nat) : Option Nat :=
  if o = Off.tlLoc then
    some (t.val + 2 ^ 6 * (t.val / 8) + 2 ^ 9 * (t.val % 8) + 2 ^ 12 * (quadOf t).val +
      2 ^ 14 * b2n (decide (headTile (quadOf t) = t)) + 2 ^ 15 * b2n s.tiles[t].retired)
  else if o = Off.tlDuty then some (tileDuty s t)
  else none

def sqcVal (s : State) (t : TileId) (o : Nat) : Option Nat :=
  let q := s.tiles[t].seq
  if o = Off.sqcState then
    some (b2n q.running.isSome + 2 * min (tileItems s t).length 63 +
      2 ^ 16 * (match q.running with | some k => k.item.toNat | none => 0))
  else if o = Off.sqcPc then some (q.pc.toNat % 2 ^ 16)
  else if o = Off.sqcTokens then some (bitsOf (q.tokens.toList.map Option.isSome))
  else none

/-- VEC_STATE; which units are occupied at the moment of the read is free while instructions wait (entry 7). -/
def vecVal (s : State) (t : TileId) (o : Nat) : Option Nat :=
  let v := s.tiles[t].vec
  if o = Off.vecState then
    some (v.queue.length + 2 ^ 6 * (if v.queue.isEmpty then 0 else Config.free s.nfree % 4) + 2 ^ 8 * b2n v.sc.running)
  else if o = Off.vecProgValid then some (bitsOf (v.progs.toList.map Option.isSome))
  else if o = Off.vecScCtrl then some (reg s (.tile t .vec) o + b2n v.sc.running)
  else none

def vec2Reg (s : State) (t : TileId) (o : Nat) : Nat := regAt s (pageBase (.tile t .vec) 1 + o)

def vec2Val (s : State) (t : TileId) (o : Nat) : Option Nat :=
  let j := jobParam s t (vec2Reg s t Off.vecJobSel)
  if o = Off.vecJobParam then some (j.promoMax + 2 ^ 16 * b2n j.seed.isSome)
  else if o = Off.vecJobQerr then some j.qerr.toNat
  else if o = Off.vecJobSeed then some (j.seed.getD 0).toNat
  else if o = Off.vecSlotInfo then
    let x := vat s.tiles[t].vec.slots (vec2Reg s t Off.vecSlotSel) seqSlotFree
    some (b2n x.owner.isSome + 2 * b2n x.poison + 2 ^ 2 * x.op + 2 ^ 5 * b2n x.dir +
      (match x.owner with | some (p, job) => 2 ^ 8 * job.toNat + 2 ^ 14 * p.val | none => 0))
  else none

def bankCode : BankState → Nat
  | .empty => 0 | .loading => 1 | .ready => 2 | .rejected => 3

def ftbVal (s : State) (t : TileId) (o : Nat) : Option Nat :=
  let fs := s.tiles[t].ftb.toList
  if o = Off.ftbSlotStat then
    some ((List.range 8).map (fun f =>
      let x := fs.getD f ftSlotEmpty
      2 ^ (4 * f) * (bankCode x.inactive + 4 * b2n x.active + 8 * b2n (if x.active then x.bank1.live else x.bank0.live)))).sum
  else if o = Off.ftbRefs then
    some (bitsOf ((List.range 8).flatMap (fun f => [decide (0 < bankRefs s t f false), decide (0 < bankRefs s t f true)])))
  else if Off.ftbWin ≤ o then
    let sel := reg s (.tile t .ftb) Off.ftbSel
    let x := fs.getD (fld sel 2 0) ftSlotEmpty
    some ((x.bank (bitOf sel 3)).word ((o - Off.ftbWin) / 4)).toNat
  else none

def mntVal (s : State) (t : TileId) (o : Nat) : Option Nat :=
  let c := liveGang s t
  let n := gangSide c.mode
  let l := leaderOf c t
  let x := s.tiles[t].mnt
  let g := s.tiles[l].mnt.gang
  let cols := shownCols s t
  let col (k : Nat) : Nat := (cols.getD k 0).toNat * 2 ^ (8 * (k % 4))
  if o = Off.mntWidth then some (if gangUnusable s t then 0 else gangWidth s l n + 2 ^ 16 * (256 * n))
  else if o = Off.mntWidthCol then
    some ((List.range n).map (fun b => bypassOf s l n b % 256 * 2 ^ (8 * b))).sum
  else if o = Off.mntBypass then some (x.fused.length + 2 ^ 4 * (x.field.length + x.fresh.length))
  else if o = Off.mntBypassCol0 then some ((List.range 4).map col).sum
  else if o = Off.mntBypassCol1 then some ((List.range 4).map (fun k => col (4 + k))).sum
  else if o = Off.mntState then
    some (b2n (decide (n ≠ 0) && decide (l = t)) + 2 * b2n g.runOpen + 2 ^ 2 * g.ramp.kind + 2 ^ 4 * g.descs.length +
      2 ^ 7 * b2n (gangUnusable s t))
  else if o = Off.mntDrainCnt then some (x.ring.drained % 2 ^ 24)
  else if o = Off.mntDrainReld then some (x.ring.released % 2 ^ 24)
  else if Off.mntRtag ≤ o ∧ o < Off.mntRtag + 16 then some (byteWord x.rtag.toList ((o - Off.mntRtag) / 4))
  else none

def dmvVal (s : State) (t : TileId) (o : Nat) : Option Nat :=
  let x := s.tiles[t].mov
  if o = Off.dmvState then
    some (x.active.length + 2 ^ 4 * min x.queue.length 63 +
      2 ^ 10 * min (s.fabReqs.filter (fun r => decide (r.tile = t) && r.moveSerial.isSome)).length 64)
  else if o = Off.dmvStrmInfo then
    some (match streamAt s (quadOf t) (reg s (.tile t .dmv) Off.dmvStrmSel) with
      | some y => 1 + 2 * b2n y.stopped + 4 * b2n y.done + 2 ^ 4 * y.job.toNat + 2 ^ 10 * y.part.val + 2 ^ 12 * y.tile.val
      | none => 0)
  else none

/-! ## Counters that only time drives (entry 7) -/

/-- The stall causes that an engine counts by time (R202, R293, R326, R344, R373, R397). The array's are exact. -/
def stallCauses : PageKind → List Nat
  | .vec => [10, 11, 9, 12, 2, 3, 0]
  | .dmv => [10, 4, 6, 5, 0, 2, 3, 12]
  | .sqc => [10, 11, 1, 2, 3, 12]
  | .hbm => [10, 2, 3, 12]
  | .gwp => [10, 6, 5, 2]
  | .cam => [10, 6, 4, 5]
  | _ => []

/-- Whether the counter at offset o of a page may have moved since it was last cleared: HBM_CYCLES always; the others once their
engine has had work (R202, R293, R326, R344, R373, R397). -/
def mayHaveWaited (s : State) (p : PageRef) (o : Nat) : Bool :=
  (p.kind == .hbm && decide (o = Off.hbmCycles)) ||
    fget (fun _ => false) s.waited (blockId p.block + if p.kind = .cam ∧ o = Off.camRdlatMax then 4096 else 0)

/-- Counters that only time drives: their value is free where they may have moved. -/
def timeDriven (k : PageKind) (o : Nat) : Bool :=
  (decide (0x180 ≤ o) && decide (o < 0x200) && (stallCauses k).contains ((o - 0x180) / 8)) ||
    (k == .hbm && decide (o = Off.hbmCycles)) || (k == .dmv && decide (o = Off.dmvBeats)) ||
    (k == .gwp && (decide (o = Off.gwpFecCorr) || decide (o = Off.gwpFecUncorr))) ||
    (k == .cam && decide (o = Off.camRdlatMax))

/-! ## Open-drain pins (R404, R519) -/

/-- SAFE_N: low from step 1 of the safe state's entry and while start-up is halted, until a full reset begins. -/
def safeN (s : State) : Bool := !(s.flt.safe || s.dev.halt)

/-- THERM_N: low while PWR_STAT.TWARN reads 1. -/
def thermN (s : State) : Bool := !s.pwr.twarn

/-! ## Every register -/

/-- The value that a page computes for a register, if it does. -/
def shownVal (s : State) (m : Fin 3) (p : PageRef) (o : Nat) : Option Nat :=
  match p.kind, p.block with
  | .dev, _ => devVal s o
  | .own, _ => ownVal s o
  | .rot, _ => some (rotReg s o)
  | .flt, _ => fltVal s m o
  | .pwr, _ => pwrVal s o
  | .mtr, _ => mtrVal s o
  | .hbm, .hbm k => hbmVal s k o
  | .gwp, .gwp g => gwpVal s g o
  | .fab, .gwp g => fabVal s g o
  | .cam, .cam h => camVal s h o
  | .camSess, .cam h => camSessVal s h o
  | .qdsp, .qdsp q => qdspVal s q o
  | .qstat, .qstat q => qstatVal s q o
  | .srv, .srv q => srvVal s q o
  | .tl, .tile t _ => tlVal s t o
  | .sqc, .tile t _ => sqcVal s t o
  | .vec, .tile t _ => vecVal s t o
  | .vec2, .tile t _ => vec2Val s t o
  | .ftb, .tile t _ => ftbVal s t o
  | .mnt, .tile t _ => mntVal s t o
  | .dmv, .tile t _ => dmvVal s t o
  | _, _ => match queueOfPage p with
    | some id => queVal s id o
    | none => none

/-- The value of the register at offset o of a page: what the page computes, else what is kept. -/
def regValue (s : State) (m : Fin 3) (p : PageRef) (o : Nat) : Nat :=
  match shownVal s m p o with
  | some v => v
  | none => regAt s (homeBase p + o)

end Sys2Proof.Machine
end

