-- ==== Sys2Proof/Machine/Scrub.lean ====
section
/-! DEFINITION. The scrubber of a tile (R257 to R259) and the crossbar's promotions (R243, R290). -/

namespace Sys2Proof.Machine
open Sys2Proof

/-- The scrubbed memories, in the order of SCRB_RATE's fields. -/
def scrubIndex : MemSel → Nat
  | .wmem => 0 | .amem => 1 | .pmem => 2

def scrubPosOff (m : MemSel) : Nat := Off.scrbPosW + 4 * scrubIndex m

def creditOf (c : ScrubSt) : MemSel → Nat
  | .wmem => c.creditW | .amem => c.creditA | .pmem => c.creditP
def setCredit (m : MemSel) (n : Nat) (c : ScrubSt) : ScrubSt :=
  match m with
  | .wmem => { c with creditW := n } | .amem => { c with creditA := n } | .pmem => { c with creditP := n }

/-- SCRB_RATE's field of a memory (R262). -/
def scrubRate (s : State) (t : TileId) (m : MemSel) : Nat :=
  fld (reg s (.tile t .scrb) Off.scrbRate) (8 * scrubIndex m + 7) (8 * scrubIndex m)

/-- One memory's rate added to its credit; the excess over 256 is dropped and counted (R258). -/
def addCredit (t : TileId) (s : State) (m : MemSel) : State :=
  let n := creditOf s.tiles[t].scrub m + scrubRate s t m
  let s := modTile t (fun x => { x with scrub := setCredit m (min n 256) x.scrub }) s
  if 256 < n then bump (.tile t .scrb) Off.scrbDropped (n - 256) s else s

/-- SCRUB_CREDIT (R258): 1,024 bank beats have passed. -/
def execScrubCredit (t : TileId) (s : State) : Res :=
  .next (if (hdr s (.tile t .scrb)).mode = .off then s
    else [MemSel.wmem, .amem, .pmem].foldl (addCredit t) s)

/-- The lines of a tile memory. -/
def memLines (m : MemSel) : Nat := memBytes m / 64

/-- The walk advances one line, and counts a completed walk (R257, R262). -/
def advanceWalk (t : TileId) (m : MemSel) (s : State) : State :=
  let p := reg s (.tile t .scrb) (scrubPosOff m)
  let l := fld p 15 0 + 1
  setReg (.tile t .scrb) (scrubPosOff m)
    (if memLines m ≤ l then fld (fld p 31 16 + 1) 15 0 * 2 ^ 16 else l + fld p 31 16 * 2 ^ 16) s

/-- The next line of a walk read, checked whole and repaired in place (R245, R247, R249, R257). -/
def scrubOne (t : TileId) (m : MemSel) (s : State) : State :=
  let line := fld (reg s (.tile t .scrb) (scrubPosOff m)) 15 0
  let s := modTile t (fun x => { x with scrub := setCredit m (creditOf x.scrub m - 1) x.scrub }) s
  let s := grantAccess ⟨t, m, .tile t .scrb, 0, false, 1⟩ (64 * line) 64 s
  let (kind, word, bits, words, mk, m') := readLine m (tmem s t m) line (64 * line) 64
  let s := if kind = 0 then s
    else setTmem t m m' s |> tmemReport t m true false 0 line kind word bits words
      |> bump (.tile t .scrb) Off.scrbFixed 1
  let s := if mk then bump (.tile t .tmem) Off.tmemMark 1 s else s
  advanceWalk t m (bump (.tile t .scrb) Off.scrbLines 1 s)

/-- SCRUB_LINE (R257): a scrubber that runs, with a rate other than 0 and credit left, scrubs the next line, unless it must wait
for the fault port (R429). -/
def execScrubLine (t : TileId) (mem : MemSel) (s : State) : Res :=
  .next (if decide ((hdr s (.tile t .scrb)).mode ≠ .on) || decide (scrubRate s t mem = 0) ||
      decide (creditOf s.tiles[t].scrub mem = 0) then s
    else viaPort t (scrubOne t mem) s)

/-- TMEM_AGING_PROMOTE (R240, R290): a request that has waited DMV_AGE.TMEM bank beats is promoted. -/
def execTmemAgingPromote (t : TileId) (r : Requester) (mem : MemSel) (bank : BitVec 6) (waited : Nat) (s : State) :
    Res :=
  .next (if decide (waited < fld (reg s (.tile t .dmv) Off.dmvAge) 7 0) || decide (memBanks mem ≤ bank.toNat) ||
      s.tiles[t].promoted.contains (r, mem, bank) then s
    else modTile t (fun x => { x with promoted := x.promoted ++ [(r, mem, bank)] }) s)

/-- WIDE_RESERVE (R243): a wide access that has waited 16 bank beats reserves its 32 banks; other accesses to them wait until it has
been served. -/
def execWideReserve (t : TileId) (mem : MemSel) (row : BitVec 11) (waited : Nat) (s : State) : Res :=
  .next (if decide (waited < 16) || decide (memBytes mem ≤ 2048 * row.toNat) ||
      s.tiles[t].wideReserved.isSome || !wideWaits s then s
    else modTile t (fun x => { x with wideReserved := some (mem, row) }) s)

end Sys2Proof.Machine
end

