-- ==== Sys2Proof/Machine/Control.lean ====
section
/-! DEFINITION. The control space as a whole (R43 to R46, R50 to R56, R60, R65, R69, R116, R199, R262, R340, R342, R368,
R393, R396, R409, R439 to R442, R471, R476): what a read of an address answers and what a write does, for every master. -/

namespace Sys2Proof.Machine
open Sys2Proof

/-! ## Writes with a rule of their own -/

/-- DEV_CLAIM (R54, R56, R496): a valid claim takes a free device, or follows a handover; none before ownership opens. -/
def claim (m : Fin 3) (v : Nat) (s : State) : Eff :=
  let valid := decide (fld v 15 8 = 0xC5) && decide (fld v 1 0 = m.val) && decide (fld v 7 2 = 0) && decide (fld v 31 16 = 0)
  if s.dev.phase < 7 ∨ s.dev.halt ∨ !valid then denied s
  else if ownerId s = m.val then ok s
  else if ownerId s = 3 ∨ s.dev.handover = masterOf m.val then
    ok (modDev (fun d => { d with owner := masterOf m.val, forced := false, handover := none }) s)
  else denied s

/-- DEV_RESET (R65, R69): accepted, or refused for its key or while a reset is in progress. The reset follows the answer. -/
def resetWrite (v : Nat) (s : State) : Eff := if fld v 15 8 ≠ 0x3C ∨ resetRuns s then denied s else ok s

/-- VEC_SC_CTRL (R199, R203): the settings, then GO, then ABORT; a refused GO leaves the whole write without effect. -/
def scCtrl (t : TileId) (v : Nat) (s : State) : Eff :=
  let s1 := setReg (.tile t .vec) Off.vecScCtrl (Nat.land v 0xFFFFFC) s
  if bitOf v 0 then
    let (st, s2) := scGo t s1
    if st ≠ stDone then (st, s) else ok (if bitOf v 1 then scAbort t s2 else s2)
  else ok (if bitOf v 1 then scAbort t s1 else s1)

/-- SCRB_RESTART (R262): the named walks start again at line 0; completed walks stay counted. -/
def restartWalks (t : TileId) (v : Nat) (s : State) : State :=
  [(0, MemSel.wmem), (1, MemSel.amem), (2, MemSel.pmem)].foldl (fun s x =>
    if bitOf v x.1 then
      setReg (.tile t .scrb) (scrubPosOff x.2) (fld (reg s (.tile t .scrb) (scrubPosOff x.2)) 31 16 * 2 ^ 16) s
    else s) s

/-- HBM_CHAN_CTRL (R342): a reserved ACTION has a reserved field's status (R317). -/
def chanCtrl (q : QuadId) (v : Nat) (s : State) : Eff :=
  let act := fld v 7 6
  let b := bitOf v 5
  let c := fld v 4 0
  if act = 0 ∨ act = 3 then (eFormat, s)
  else if chanRefused s q b c then denied s
  else ok (startChan q b c (decide (act = 2)) s)

/-- GWP_ABANDON (R368, R462): every request to the chip ends with E_LINK_DOWN; the survival engines know it lost. -/
def abandonWrite (v : Nat) (s : State) : Eff :=
  if fld v 23 16 ≠ 0xA5 then denied s
  else
    let chip := fld v 15 0
    let s := settleAll (abandonChip chip s)
    ok (allQuads.foldl (fun s q => pumpSrv q 64 (if isLead s q then
      modSrv q (fun x => { x with lostChips := x.lostChips ++ [BitVec.ofNat 16 chip] }) s else s)) s)

/-- CAM_ABANDON (R393). -/
def camAbandonWrite (h : HostId) (v : Nat) (s : State) : Eff :=
  if fld v 15 8 ≠ 0x5A then denied s else ok (endReads h s)

/-- CAM_SESS_CLOSE (R396). -/
def closeSessions (h : HostId) (v : Nat) (s : State) : State := endSessions h (fun p _ => bitOf v p.val) s

/-- STAT_MAP_DATA (R445): the selected entry; its RSVD bits stay 0. -/
def writeTapMap (q : QuadId) (v : Nat) (s : State) : State :=
  let k := reg s (.qstat q) Off.statMapSel
  modQuad q (fun x => { x with stat := { x.stat with
    map := fset (fun _ => (0 : Word)) x.stat.map k (BitVec.ofNat 32 (Nat.land v 0x0FFF01FF)) } }) s

/-- An engine that has work at this moment, in which it may wait. -/
def hasWork (s : State) (b : Block) : Bool :=
  match b with
  | .tile t .vec => !s.tiles[t].vec.queue.isEmpty
  | .tile t .dmv => !s.tiles[t].mov.queue.isEmpty || !s.tiles[t].mov.active.isEmpty
  | .tile t .sqc => s.tiles[t].seq.running.isSome
  | .gwp p => !s.ports[p].waiting.isEmpty || !s.ports[p].held.isEmpty || !(hdr s b).held.isEmpty
  | .cam h => !s.cams[h].rx.isEmpty || !s.cams[h].later.isEmpty || !s.cams[h].waiting.isEmpty || !(hdr s b).held.isEmpty
  | _ => false

/-- The counters of a page that its CLEAR bit clears; those of waiting count on where the engine has work. The largest time of an outbound
read counts from the next CPL on (R398). -/
def clearCounters (p : PageRef) (s : State) : State :=
  let k := blockId p.block
  let w := fset (fun _ => false) s.waited k (hasWork s p.block)
  let s := { s with waited := fset (fun _ => false) w (4096 + k) false }
  match p.kind with
  | .flt => clearRegs (homeBase p) 0x100 0x400 s
  | .pwr => clearRegs (homeBase p) 0x100 0x200 (modPwr (fun x => { x with frac := [] }) s)
  | _ => clearRegs (homeBase p) 0x100 0x200 s

/-- PG_FAULT (R47, R71, R441): each 1 clears its bit; the collector's FATAL takes the kept message with it. -/
def clearFaults (p : PageRef) (v : Nat) (s : State) : State :=
  let s := modHdr p.block (fun h => { h with faultBits := h.faultBits &&& ~~~ BitVec.ofNat 4 v }) s
  if p.block = .flt ∧ bitOf v 3 then modFlt (fun f => { f with fatalRec := none }) s else s

/-! ## A master's command slot (R471, R474, R476) -/

/-- GO: refused while the master's last command waits; else the response is cleared and the command waits. A command of a reserved
opcode is answered once its turn has come. -/
def submit (m : Fin 3) (v : Nat) (s : State) : Eff :=
  if !bitOf v 0 then ok s
  else if maskHas s.rot.waiting m.val then denied s
  else
    let s := modRot (fun r => { r with rsp := r.rsp.set m { r.rsp[m] with valid := false, data := [] } }) s
    ok (takeReserved (modRot (fun r => { r with waiting := maskSet r.waiting m.val }) s))

/-- A write to a master's own slot. -/
def slotWrite (m : Fin 3) (o v : Nat) (s : State) : Eff :=
  if 0x80 ≤ o ∧ o < 0x780 then
    ok (modRot (fun r => { r with slots := r.slots.set m (fset (fun _ => (0 : Word)) r.slots[m] ((o - 0x80) / 4) (BitVec.ofNat 32 v)) }) s)
  else if o = Off.rotSubmit then (if Nat.land v (mustBeZero .rotSlot o) ≠ 0 then denied s else submit m v s)
  else ok s

/-! ## The header and the registers -/

/-- A write to the common header (R47). -/
def writeHdr (p : PageRef) (o v : Nat) (s : State) : Eff :=
  if o = 0x0C then writePgCtrl p.block v s
  else if o = 0x14 then ok (clearFaults p v s)
  else ok s

/-- A write to a queue page's register (R329). -/
def writeQue (id : QueueId) (o v : Nat) (s : State) : Eff :=
  if o = Off.queCtrl then writeQueCtrl id v s
  else if o = Off.queRingCfg then writeRingCfg id v s
  else if o = Off.queSpillSize then writeSpillSize id v s
  else if o = Off.queSpillBase ∨ o = Off.queRingBase then writeQueBase id o v s
  else match id with
    | .sq q k => if o = Off.queSqDb then doorbell q k v s else ok s
    | .cq q k => if o = Off.queCqHead then setCqHead q k (fld v 15 0) s else ok s
    | _ => ok s

/-- Registers whose write has an effect of its own: the register at offset o, and its new value in whole. -/
def writeOwn (m : Fin 3) (p : PageRef) (o v : Nat) (s : State) : Option Eff :=
  match p.kind, p.block with
  | .dev, _ =>
    if o = Off.devGenCommit then some (commitGen v s)
    else if o = Off.devSelftest then some (selftest v s)
    else if o = Off.devPtInval then some (ok (invalidate (fld v 3 0) s)) else none
  | .own, _ =>
    if o = Off.devClaim then some (claim m v s)
    else if o = Off.devHandover then some (ok (modDev (fun d => { d with handover := masterOf (fld v 1 0) }) s))
    else if o = Off.devReset then some (resetWrite v s) else none
  | .flt, _ => if o = Off.fltInject then some (inject v s) else none
  | .hbm, .hbm k =>
    if o = Off.hbmChanCtrl then some (chanCtrl (quadOfStack k) v s)
    else if o = Off.hbmSubFree then
      some (ok (if bitOf v 0 then modEvac (quadOfStack k) (fun e => { e with confirmed := true }) s else s))
    else none
  | .fab, _ => if o = Off.gwpAbandon then some (abandonWrite v s) else none
  | .cam, .cam h => if o = Off.camAbandon then some (camAbandonWrite h v s) else none
  | .camSess, .cam h => if o = Off.camSessClose then some (ok (closeSessions h v s)) else none
  | .qstat, .qstat q => if o = Off.statMapData then some (ok (writeTapMap q v s)) else none
  | .srv, .srv q =>
    if o = Off.srvStep then some (stepMark q (BitVec.ofNat 32 v) s)
    else if o = Off.srvCommit then some (commitPoint q (BitVec.ofNat 32 v) s)
    else if o = Off.srvRestore then some (startRestore q (BitVec.ofNat 32 v) s)
    else if o = Off.srvCmd then some (srvCmd q v s) else none
  | .vec, .tile t _ => if o = Off.vecScCtrl then some (scCtrl t v s) else none
  | .ftb, .tile t _ => if o = Off.ftbLoad then some (startLoad t false (BitVec.ofNat 32 v) s) else none
  | .mnt, .tile t _ => if o = Off.mntDrainRel then some (ok (releaseRows t (fld v 15 0) s)) else none
  | .dmv, .tile t _ =>
    if o = Off.dmvPredClr then
      some (ok (if bitOf v 0 then clearRegs (pageBase (.tile t .dmv) 0) Off.dmvPredRgFetch 0x428 s else s))
    else none
  | .scrb, .tile t _ => if o = Off.scrbRestart then some (ok (restartWalks t v s)) else none
  | _, _ => match queueOfPage p with
    | some id => some (writeQue id o v s)
    | none => none

/-- A write to the staged copy of an RWS register (R45, R60, R409). -/
def writeStaged (p : PageRef) (r : RegRow) (base : Nat) (high : Bool) (v : Nat) (s : State) : Eff :=
  let a := homeBase p + base + 0x800
  if frozen s p || p.kind == .pwr then denied s
  else ok (setRegAt a (rowValue r (regAt s a) v high) s)

/-- The survival engine of a quadrant that is not its partition's lead takes only the counters' clear (R442). -/
def leadRefused (s : State) (p : PageRef) (o : Nat) : Bool :=
  match p.kind, p.block with
  | .srv, .srv q => !isLead s q && decide (liveOff o ≠ Off.srvCntClr)
  | _, _ => false

/-- A write to a block register or a staged copy (R42, R45). Reserved addresses and RO registers ignore it. -/
def writeRow (m : Fin 3) (p : PageRef) (o v : Nat) (s : State) : Eff :=
  if leadRefused s p o then denied s
  else match regNamed p o with
    | none => ok s
    | some (r, base) =>
      let high := highHalf o base
      if Nat.land v (mustBeZero p.kind base) ≠ 0 then denied s
      else match r.acc with
        | .ro => ok s
        | .pop => ok s
        | .rws => writeStaged p r base high v s
        | _ =>
          let a := homeBase p + base
          let x := if r.wide then rowValue r (regAt s a) v high else v
          match writeOwn m p base x s with
          | some e => e
          | none =>
            if r.acc = .rw then ok (setRegAt a (rowValue r (regAt s a) v high) s)
            else if base = 0xC0 ∧ bitOf v 0 then ok (clearCounters p s)
            else ok s

/-- A write to an address of the control space by a master, before its denial is counted. -/
def writeAt (m : Fin 3) (bytes addr v : Nat) (s : State) : Eff :=
  let o := addr % 4096
  if accessBad bytes addr then (eAlign, s)
  else match pageAt (addr / 4096) with
    | none => if ownerId s = m.val ∧ !s.flt.safe then ok s else denied s
    | some p =>
      if !mayWrite s m p o || (s.flt.safe && !safeTakes m p) then denied s
      else if p.kind = .rotSlot then slotWrite m o v s
      else if p.kind = .mtrWin ∨ p.secure then ok s
      else if o < 0x80 then writeHdr p o v s
      else writeRow m p o v s

/-- Every access answered E_DENIED is counted (R52, R57). -/
def countDenied (st : Nat) (s : State) : State := if st = eDenied then bump32 .own Off.devDeniedCnt s else s

/-- A write by a master: its status and the state after it. -/
def ctlWrite (m : Fin 3) (bytes addr v : Nat) (s : State) : Eff :=
  let r := writeAt m bytes addr v s
  (r.1, countDenied r.1 r.2)

/-- What follows the answer of a write: the reset that DEV_RESET asked for (R69). -/
def afterWrite (addr v status : Nat) (s : State) : State :=
  if addr = pageBase .own 0 + Off.devReset ∧ status = stDone then fullReset 2 (bitOf v 0) s else s

/-! ## Reads -/

/-- A wide register read by halves through the master's holding register (R43). -/
def readHalf (m : Fin 3) (addr : Nat) (r : RegRow) (high : Bool) (x : Nat) (s : State) : Nat × State :=
  if !r.wide then (x % 2 ^ 32, s)
  else if !high then
    (x % 2 ^ 32, modMaster m (fun k => { k with holdAddr := some addr, holdHigh := BitVec.ofNat 32 (x / 2 ^ 32) }) s)
  else if s.masters[m].holdAddr = some (addr - 4) then
    (s.masters[m].holdHigh.toNat, modMaster m (fun k => { k with holdAddr := none, holdHigh := 0 }) s)
  else (x / 2 ^ 32 % 2 ^ 32, s)

/-- A read of a block register or a staged copy (R42, R45). -/
def readReg (m : Fin 3) (p : PageRef) (addr : Nat) (s : State) : Nat × State :=
  let o := addr % 4096
  match regNamed p o with
  | none => (0, s)
  | some (r, base) =>
    let high := highHalf o base
    if stagedOff o then readHalf m addr r high (regAt s (homeBase p + base + 0x800)) s
    else if timeDriven p.kind base && mayHaveWaited s p base then
      let (n, s) := takeFree s
      readHalf m addr r high (n % 2 ^ 48) s
    else
      let s := match p.block with
        | .hbm k => if p.kind = .hbm ∧ base = Off.hbmChanStat then noteChan (quadOfStack k) s else s
        | _ => s
      let x := regValue s m p base
      let s := if p.kind = .vec ∧ base = Off.vecState then (takeFree s).2 else s
      readHalf m addr r high x s

/-- A read of an address of the control space by a master: status, value, state (R43, R46, R50, R52, R471). -/
def readAt (m : Fin 3) (bytes addr : Nat) (s : State) : Nat × Nat × State :=
  let o := addr % 4096
  if accessBad bytes addr then (eAlign, 0, s)
  else match pageAt (addr / 4096) with
    | none => (stDone, 0, s)
    | some p =>
      if p.secure then (if ownerId s = m.val then (stDone, 0, s) else (eDenied, 0, s))
      else if p.kind = .mtrWin then (stDone, windowWord s p.index o, s)
      else if o < 0x80 then (stDone, hdrWord s p o, s)
      else if p.kind = .flt ∧ o = Off.fltLogPop then
        (if ownerId s = m.val then
          let r := popLog m s
          (stDone, r.1, r.2)
        else (eDenied, 0, s))
      else
        let r := readReg m p addr s
        (stDone, r.1, r.2)

def ctlRead (m : Fin 3) (bytes addr : Nat) (s : State) : Nat × Nat × State :=
  let r := readAt m bytes addr s
  (r.1, r.2.1, countDenied r.1 r.2.2)

/-! ## Accesses as commands -/

/-- The control space answers once the rails are up and RESET_N is high. -/
def ctlRuns (s : State) : Bool := s.dev.powered && !s.dev.resetLow

/-- The answer that a master gets. -/
def answered (m : Fin 3) (status value : Nat) (s : State) : State :=
  modMaster m (fun x => { x with status := status, value := BitVec.ofNat 32 value }) s

/-- A write carried out and answered. -/
def writeCmd (m : Master) (bytes addr v : Nat) (s : State) : State :=
  if !ctlRuns s then s
  else
    let r := ctlWrite (masterIdx m) bytes addr v s
    afterWrite addr v r.1 (answered (masterIdx m) r.1 0 r.2)

/-- A read carried out and answered. -/
def readCmd (m : Master) (bytes addr : Nat) (s : State) : State :=
  if !ctlRuns s then s
  else
    let r := ctlRead (masterIdx m) bytes addr s
    answered (masterIdx m) r.1 r.2.1 r.2.2

/-- A word written to a register of a block's first page. -/
def writeBlock (m : Master) (b : Block) (off v : Nat) (s : State) : State := writeCmd m 4 (pageBase b 0 + off) v s

end Sys2Proof.Machine
end

