-- ==== Sys2Proof/Machine/CamCmds.lean ====
section
/-! DEFINITION. What arrives at a Cammos port (R378 to R380, R384 to R388, R391, R393 to R396, R439): flits,
acknowledgements and credits, and the inbound transactions as they are executed. -/

namespace Sys2Proof.Machine
open Sys2Proof

/-! ## The link word (R378, R379) -/

/-- An acknowledgement of FSEQ `ack` covers an FSEQ. -/
def camCovers (ack : Nat) (fseq : BitVec 12) : Bool := decide ((ack + 4096 - fseq.toNat) % 4096 < 2048)

/-- Flits that an acknowledgement covers are gone, and the transactions whose last flit it covers. -/
def camAcked (h : HostId) (ack : Nat) (s : State) : State :=
  let rest := s.cams[h].flits.dropWhile (fun f => camCovers ack f.fseq)
  if rest.length = s.cams[h].flits.length then s
  else camFlush h (modCam h (fun c => { c with
    flits := rest, retry := c.retry.dropWhile (fun e => camCovers ack e.1) }) s)

/-- A NAK: the flit that it names has failed, and the retry buffer is replayed from it, in order (R379). -/
def camReplay (h : HostId) (n : Nat) (s : State) : State :=
  let s := modCam h (fun c => { c with flits := c.flits.map (fun f =>
    if f.fseq.toNat = n then { f with fails := f.fails + 1 } else f) }) s
  let fs := s.cams[h].flits.filter (fun f => decide ((f.fseq.toNat + 4096 - n) % 4096 < 2048))
  bump (camB h) Off.camFlitTx fs.length { s with out := s.out ++ fs.map (camDataFlit h) }

/-- What a link word says of the reverse direction. -/
def camLinkWord (h : HostId) (link : Nat) (s : State) : State :=
  if bitOf link 25 then camReplay h (fld link 23 12) s
  else if bitOf link 24 then camAcked h (fld link 23 12) s else s

/-- Credits that the adapter returns. -/
def camCredits (h : HostId) (w1 w2 : Nat) (s : State) : State :=
  modCam h (fun c => { c with
    creditsP := c.creditsP + fld w1 11 0, creditsNP := c.creditsNP + fld w1 23 12, creditsCpl := c.creditsCpl + fld w2 11 0 }) s

/-- The word at byte n of a flit's stream. -/
def streamWord (f : CamFlit) (n : Nat) : Nat := natOfBytes (fitBytes 4 (f.stream.drop n))

/-- CAM_CONTROL_FLIT (R378): credits, an acknowledgement, or a NAK; one with a failing CRC is dropped. -/
def execCamControlFlit (h : HostId) (f : CamFlit) (s : State) : Res :=
  .next (if !camUp s h || !f.crcOk || !bitOf f.link.toNat 26 then s
    else camFlush h (camLinkWord h f.link.toNat (camCredits h (streamWord f 0) (streamWord f 4) s)))

/-! ## Answers and refusals (R385) -/

/-- A CPL to an inbound request, sealed for a partition's session where the request was (R394). -/
def camComplete (h : HostId) (p : Option (Fin 4)) (tagid status : Nat) (ws : List Word) (bad : Bool) (s : State) : State :=
  let x : CamTx := ⟨camWords ⟨ttCpl, ws.length, tagid, status, 0, p.isSome, bad⟩,
    fitBytes ((4 * ws.length + 7) / 8 * 8) (bytesOfWords ws), []⟩
  match p with
  | some p =>
    let (x, s) := sealTx h p x s
    camSend h x s
  | none => camSend h x s

/-- The window that a transaction names, for CAM_LAST_ERR. -/
def winOf (hd : CamHdr) : Nat := if hd.ttype = ttMemRd ∨ hd.ttype = ttMemWr then fld hd.addr 47 45 else 0

/-- A refused inbound transaction counted, and noted in CAM_LAST_ERR (R398). -/
def camNote (h : HostId) (hd : CamHdr) (code : Nat) (s : State) : State :=
  setReg (camB h) Off.camLastErr (code + 2 ^ 8 * hd.ttype + 2 ^ 13 * winOf hd) (bump (camB h) Off.camInRefused 1 s)

/-- A refused inbound transaction: counted and noted; a non-posted one answered, a posted one reported. -/
def camRefuse (h : HostId) (hd : CamHdr) (p : Option (Fin 4)) (code : Nat) (s : State) : State :=
  let s := camNote h hd code s
  match camClassOf hd.ttype with
  | some .nonPosted => camComplete h p hd.tagid code [] false s
  | some .completion => s
  | _ => raiseFault (camB h) 0x28 hd.addr 0 (code + 2 ^ 8 * hd.ttype) s

/-! ## The transaction stream (R378, R382, R383) -/

/-- The whole transactions at the front of a stream, and what is left: padding is skipped at a boundary. -/
def parseCam : Nat → List Byte → List CamTx × List Byte
  | 0, bs => ([], bs)
  | n + 1, bs =>
    if bs.length < 8 then ([], bs)
    else if natOfBytes (bs.take 4) = 0 then parseCam n (bs.drop 8)
    else if bs.length < 16 then ([], bs)
    else
      let ws := wordsOfBytes 4 (bs.take 16)
      let hd := camHdrOf ws
      let k := 16 + camPayload hd
      if bs.length < camBytes hd then ([], bs)
      else
        let (xs, rest) := parseCam n (bs.drop (camBytes hd))
        (⟨ws, (bs.take k).drop 16, (bs.take (camBytes hd)).drop k⟩ :: xs, rest)

/-- A whole transaction received: it waits its turn, a memory access or doorbell at a port that drains until the re-arm (R501); a TTYPE that is reserved or outbound only is refused. -/
def camAdmit (h : HostId) (s : State) (x : CamTx) : State :=
  let hd := camHdrOf x.header
  if camClassOf hd.ttype = none ∨ hd.ttype = ttIntr then camRefuse h hd none eFormat (returnCredit h x s)
  else if blockStops s (camB h) && (hd.ttype == ttMemRd || hd.ttype == ttMemWr || hd.ttype == ttDb) then
    modCam h (fun c => { c with later := c.later ++ [x] }) (noteWork (blockId (camB h)) s)
  else modCam h (fun c => { c with rx := c.rx ++ [x] }) (noteWork (blockId (camB h)) s)

/-- The 120 stream bytes of an accepted flit. -/
def camStream (h : HostId) (f : CamFlit) (s : State) : State :=
  let (xs, rest) := parseCam 2048 (s.cams[h].partBytes ++ fitBytes 120 f.stream)
  xs.foldl (camAdmit h) (modCam h (fun c => { c with partBytes := rest }) s)

/-- A flit that passes, in sequence: acknowledged, and its stream taken. -/
def camAccept (h : HostId) (f : CamFlit) (s : State) : State :=
  s |> camLinkWord h f.link.toNat
    |> modCam h (fun c => { c with rxSeq := c.rxSeq + 1, nakSent := false, rxFails := 0 })
    |> bump (camB h) Off.camFlitRx 1
    |> camControl h (fld f.link.toNat 11 0) true false 0 0 0
    |> camStream h f

/-- A flit that fails or is out of sequence: counted, with a NAK naming the FSEQ expected; one that comes after a NAK
and is no replay of that FSEQ is discarded. -/
def camReject (h : HostId) (fseq : Nat) (s : State) : State :=
  let c := s.cams[h]
  if c.nakSent && decide (fseq ≠ c.rxSeq.toNat) then s
  else
    s |> bump (camB h) Off.camRetry 1 |> modCam h (fun c => { c with nakSent := true, rxFails := c.rxFails + 1 })
      |> camControl h c.rxSeq.toNat false true 0 0 0

/-- CAM_DATA_FLIT (R379). -/
def execCamDataFlit (h : HostId) (f : CamFlit) (s : State) : Res :=
  .next (let fseq := fld f.link.toNat 11 0
    if !camUp s h || bitOf f.link.toNat 26 then s
    else if f.crcOk && decide (fseq = s.cams[h].rxSeq.toNat) then camAccept h f s
    else camReject h fseq s)

/-! ## Taking a transaction (R386) -/

/-- The oldest transaction of a type's class, where it is of that type and its turn has come: a REG_RD, REG_WR, DB or
MEM_RD after every earlier MEM_WR, a sealed one after every earlier sealed one. Its credit goes back. -/
def camTake (h : HostId) (ttype : Nat) (s : State) : Option (CamTx × State) :=
  let rx := s.cams[h].rx
  let typeOf (x : CamTx) : Nat := (camHdrOf x.header).ttype
  let confOf (x : CamTx) : Bool := (camHdrOf x.header).conf
  let before := rx.takeWhile (fun x => camClassOf (typeOf x) != camClassOf ttype)
  match rx.drop before.length with
  | [] => none
  | x :: rest =>
    let behind := decide (ttype ≠ ttMemWr ∧ ttype ≠ ttCpl) && before.any (fun y => typeOf y == ttMemWr)
    if !ctlRuns s || typeOf x != ttype || behind || (confOf x && before.any confOf) then none
    else some (x, returnCredit h x (modCam h (fun c => { c with rx := before ++ rest }) s))

/-! ## Register access through a port (R384, R385) -/

def regChecks (x : CamTx) : Option Nat :=
  let hd := camHdrOf x.header
  firstFail [(camReserved x.header || decide (hd.len ≠ 1), eFormat), (decide (hd.addr % 4 ≠ 0), eAlign),
    (decide (2 ^ 25 ≤ hd.addr), eExtent), (hd.conf, eBounce)]

/-- A register read in the service of a transaction, which CAM_OUTST counts meanwhile (R398). -/
def readServed (h : HostId) (x : CamTx) (addr : Nat) (s : State) : Nat × Nat × State :=
  let r := ctlRead (hostMaster h) 4 addr (modCam h (fun c => { c with rx := x :: c.rx }) s)
  (r.1, r.2.1, modCam h (fun c => { c with rx := s.cams[h].rx }) r.2.2)

/-- A register access that the control space refused (R398). -/
def noteRefused (h : HostId) (hd : CamHdr) (code : Nat) (s : State) : State := if code = stDone then s else camNote h hd code s

/-- REG_RD: the register's word in a CPL. -/
def regReadTx (h : HostId) (x : CamTx) (s : State) : State :=
  let hd := camHdrOf x.header
  match regChecks x with
  | some c => camRefuse h hd none c s
  | none =>
    let r := readServed h x hd.addr s
    camComplete h none hd.tagid r.1 [BitVec.ofNat 32 r.2.1] false
      (noteRefused h hd r.1 (answered (hostMaster h) r.1 r.2.1 r.2.2))

def execRegRd (h : HostId) (s : State) : Res :=
  .next (match camTake h ttRegRd s with
    | some (x, s) => regReadTx h x s
    | none => s)

/-- The first word of a transaction's payload. -/
def payloadWord (bs : List Byte) : Nat := natOfBytes (fitBytes 4 bs)

/-- REG_WR: its status in a CPL; the reset that DEV_RESET asks for follows the answer. -/
def regWriteTx (h : HostId) (x : CamTx) (s : State) : State :=
  let hd := camHdrOf x.header
  match regChecks x with
  | some c => camRefuse h hd none c s
  | none =>
    let r := ctlWrite (hostMaster h) 4 hd.addr (payloadWord x.payload) s
    afterWrite hd.addr (payloadWord x.payload) r.1
      (camComplete h none hd.tagid r.1 [] false (noteRefused h hd r.1 (answered (hostMaster h) r.1 0 r.2)))

def execRegWr (h : HostId) (s : State) : Res :=
  .next (match camTake h ttRegWr s with
    | some (x, s) => regWriteTx h x s
    | none => s)

/-! ## Confidential checks (R394, R396) -/

/-- Inbound traffic of partition p: `held` where it must be sealed. -/
def confCheck (z : SessState) (held conf : Bool) (windowConf : Bool) : Option Nat :=
  firstFail [(decide (z = .failed), eDenied), (conf && !(windowConf && decide (z = .active)), eBounce),
    (!conf && held, eDenied)]

/-- The payload of a transaction that passed: opened where it is sealed; none where its tag fails. -/
def openPayload (h : HostId) (p : Fin 4) (x : CamTx) (s : State) : Option (List Byte) × State :=
  if (camHdrOf x.header).conf then openTx h p x s else (some x.payload, s)

/-! ## Device windows (R385, R387, R388) -/

/-- A live device window of a port. -/
structure DevWindow where
  base : Nat
  part : Fin 4
  en : Bool
  rd : Bool
  wr : Bool
  conf : Bool
  size : Nat
  deriving DecidableEq, Repr

def devWindow (s : State) (h : HostId) (k : Nat) : DevWindow :=
  let b := reg s (camB h) (Off.camDwinBase + 16 * k)
  ⟨fld b 47 0, ⟨fld b 49 48 % 4, by omega⟩, bitOf b 50, bitOf b 51, bitOf b 52, bitOf b 53,
    4096 * fld (reg s (camB h) (Off.camDwinSize + 16 * k)) 27 0⟩

/-- The fabric address of an offset in a window, with the kind that its BASE gives it. -/
def winTile (w : DevWindow) : Bool := decide (fld w.base 47 40 = 0xFF)
def winAddr (w : DevWindow) (off : Nat) : Nat := (w.base + off) % 2 ^ 48

/-- The tile of a window address, its memory, and its byte address. -/
def winTileOf (a : Nat) : TileId := ⟨fld a 37 32 % 64, by omega⟩

/-- A range of tile memory that R363 refuses: reserved bits or memory, beyond the memory, or a retired tile; and a W-mem
write of less than whole lines. -/
def tileRangeBad (s : State) (a len : Nat) (wr : Bool) : Bool :=
  decide (fld a 47 38 ≠ 0x3FC ∨ fld a 31 24 ≠ 0) || s.tiles[winTileOf a].retired ||
    match memOfIndex (fld a 23 22) with
    | none => true
    | some m => decide (memBytes m < fld a 21 0 + len) || (wr && m == .wmem && decide (a % 64 ≠ 0 ∨ len % 64 ≠ 0))

/-- The checks of a memory transaction before it is opened. -/
def memChecks (s : State) (h : HostId) (x : CamTx) (w : DevWindow) (wr : Bool) : Option Nat :=
  let hd := camHdrOf x.header
  let off := fld hd.addr 39 0
  let len := 4 * hd.len
  let early := firstFail [(camReserved x.header || decide (hd.len = 0 ∨ 128 < hd.len), eFormat),
    (decide (hd.addr % 4 ≠ 0) || decide (4096 < hd.addr % 4096 + len), eAlign),
    (!w.en || decide (fld hd.addr 44 40 ≠ 0) || decide (w.size < off + len) ||
      (winTile w && tileRangeBad s (winAddr w off) len wr), eExtent)]
  match early with
  | some c => some c
  | none => confCheck s.cams[h].sess[w.part].state w.conf hd.conf w.conf

/-- The permission and partition checks, and where the access goes; translation is the access's own. -/
def memPlace (s : State) (w : DevWindow) (off : Nat) (wr : Bool) : Except Nat Place :=
  let a := winAddr w off
  if !(if wr then w.wr else w.rd) then .error ePerm
  else if !winTile w then (if (quadsOf s w.part).isEmpty then .error ePartition else .ok (.va a))
  else if partOfTile s (winTileOf a) ≠ w.part then .error ePartition
  else match memOfIndex (fld a 23 22) with
    | some m => .ok (.mem (winTileOf a) m (fld a 21 0))
    | none => .error eExtent

/-- The access of a port for a partition (R387). -/
def camReq (h : HostId) (p : Fin 4) : VaReq := ⟨.cam h, p, 0xFFFF, 0, camB h⟩

/-- The tag with which a memory access travels on the die (R387): that of a fabric arrival, with the port's own SEQ. -/
def camTag (h : HostId) (p : Fin 4) (hd : CamHdr) (s : State) : Nat × State :=
  let (n, s) := emit (camB h) s
  (tagOf p.val 0 (hdr s (camB h)).genLive.toNat 0 0xFFFF 1 hd.poison false n, s)

/-- A MEM_RD carried out once its payload and place stand. -/
def memReadAt (h : HostId) (hd : CamHdr) (p : Option (Fin 4)) (r : VaReq) (x : Place) (s : State) : State :=
  match readFab r x (4 * hd.len) s with
  | (.error c, s) => camRefuse h hd p c s
  | (.ok d, s) =>
    let bad := d.2.any (fun b => b)
    camComplete h p hd.tagid (if bad then stPoisoned else stDone) (wordsOfBytes hd.len d.1) bad s

/-- A memory transaction in its window: in the safe state refused, else checked, opened, and carried out. -/
def memTx (h : HostId) (x : CamTx) (wr : Bool)
    (act : CamHdr → Option (Fin 4) → Nat → Place → List Byte → State → State) (s : State) : State :=
  let hd := camHdrOf x.header
  let w := devWindow s h (fld hd.addr 47 45)
  if s.flt.safe then camRefuse h hd none stFenced s
  else match memChecks s h x w wr with
    | some c => camRefuse h hd none c s
    | none =>
      match openPayload h w.part x s with
      | (none, s) => camRefuse h hd none eDenied s
      | (some bs, s) =>
        let p := if hd.conf then some w.part else none
        match memPlace s w (fld hd.addr 39 0) wr with
        | .error c => camRefuse h hd p c s
        | .ok x =>
          let (t, s) := camTag h w.part hd s
          act hd p t x bs s

def execMemRd (h : HostId) (s : State) : Res :=
  .next (unlessHeld (fun s => match camTake h ttMemRd s with
    | some (x, s) => memTx h x false (fun hd p t x _ s => memReadAt h hd p (camReq h (tagPartOf t)) x s) s
    | none => s) s)

/-- A MEM_WR carried out; one held by R457 stays at the port, which stands for it as it was. -/
def memWriteAt (s0 : State) (h : HostId) (hd : CamHdr) (t : Nat) (x : Place) (bs : List Byte) (s : State) : State :=
  match writeFab (camReq h (tagPartOf t)) x (fitBytes (4 * hd.len) bs, List.replicate (4 * hd.len) (tagPoison t)) s with
  | (.ok (), s) => s
  | (.error c, s) => if c = waitCode then s0 else camRefuse h hd none c s

def execMemWr (h : HostId) (s0 : State) : Res :=
  .next (unlessHeld (fun s0 => match camTake h ttMemWr s0 with
    | some (x, s) => memTx h x true (fun hd _ t x bs s => memWriteAt s0 h hd t x bs s) s
    | none => s0) s0)

/-! ## Doorbells (R391) -/

/-- The submission queue that a DB names. -/
def dbQueue (n : Nat) : QuadId × Fin 16 := cqOfNat n

/-- DB: the doorbell write that it stands for; a refusal is reported, as that of any posted transaction. -/
def dbTx (h : HostId) (x : CamTx) (s : State) : State :=
  let hd := camHdrOf x.header
  let id := QueueId.sq (dbQueue hd.addr).1 (dbQueue hd.addr).2
  let p := ringPart s id
  let z := s.cams[h].sess[p].state
  if s.flt.safe then camRefuse h hd none stFenced s
  else match firstFail [(camReserved x.header || decide (hd.len ≠ 1), eFormat), (decide (64 ≤ hd.addr), eExtent)] with
    | some c => camRefuse h hd none c s
    | none =>
      match confCheck z (decide (z = .active)) hd.conf true with
      | some c => camRefuse h hd none c s
      | none =>
        match openPayload h p x s with
        | (none, s) => camRefuse h hd none eDenied s
        | (some bs, s) =>
          let r := ctlWrite (hostMaster h) 4 (queAddr id Off.queSqDb) (payloadWord bs) s
          if r.1 = stDone then r.2 else camRefuse h hd none r.1 r.2

def execDb (h : HostId) (s : State) : Res :=
  .next (match camTake h ttDb s with
    | some (x, s) => dbTx h x s
    | none => s)

/-! ## Completions of outbound reads (R385, R393) -/

/-- A CPL dropped. -/
def cplDropped (h : HostId) (s : State) : State := bump (camB h) Off.camInRefused 1 s

/-- What the queue that asked learns: the words, or why there are none; a poisoned entry has vanished (R314). -/
def cplEntry (hd : CamHdr) (ws : List Word) : Nat × List Word :=
  if hd.status = stPoisoned ∨ hd.poison then (eInternal, []) else if hd.status = stDone then (0, ws) else (hd.status, [])

/-- CPL: the read in its slot is answered; one of another epoch is dropped. -/
def cplTx (h : HostId) (x : CamTx) (s : State) : State :=
  let hd := camHdrOf x.header
  let slot := fld hd.tagid 7 0
  let c := s.cams[h]
  if fget (fun _ => 0) c.epochs slot ≠ fld hd.tagid 9 8 then cplDropped h s
  else match c.reads.find? (fun r => decide (r.slot.toNat = slot)) with
    | none => camRefuse h hd none eFormat s
    | some r =>
      let words := if hd.status = stDone ∨ hd.status = stPoisoned then r.words else 0
      if camReserved x.header || hd.conf || decide (hd.len ≠ words) then camRefuse h hd none eFormat s
      else
        let s := modCam h (fun c => { c with reads := c.reads.filter (fun y => decide (y.slot.toNat ≠ slot)) })
          (noteWork (4096 + blockId (camB h)) s)
        match r.target with
        | some (q, k) =>
          let e := cplEntry hd (wordsOfBytes hd.len x.payload)
          setFetched q k e.1 e.2 s
        | none => s

def execCpl (h : HostId) (s : State) : Res :=
  .next (match camTake h ttCpl s with
    | some (x, s) => cplTx h x s
    | none => s)

/-! ## A consumer takes what its queue holds (R316, R320, R322) -/

/-- The dispatcher takes a record of a tile's completion stream into the completion queue that its item names; records wait there while
the head tile's SQC_ or the tile's router stops (R503). -/
def takeRecord (t : TileId) (s : State) : State :=
  if blockStops s (sqc (headTile (quadOf t))) || routerStops s t then s
  else match (queOf s (.comp t)).pkts with
  | [] => s
  | p :: _ =>
    let took (s : State) : State := takeTileHead t (.comp t) s
    let go (s : State) : State := match recordBody p.body with
      | none => took s
      | some ws =>
        match findItem s (recordKey ws) with
        | none => took s
        | some i => if queRoom s (.cq (cqOfNat i.cq).1 (cqOfNat i.cq).2) 4 then
            let s := took s
            postRecord i.cq ws { s with items := s.items.filter (fun j => decide (j.key ≠ i.key)) }
          else s
    viaPort t (fun s => match tileHeadBad t (.comp t) s with
    | (true, s) => rewindHead (.comp t) s
    | (false, s) => go s) s

/-- The sequencer takes the head of its work stream: an item, a marker, or a packet that is neither. -/
def takeWork (t : TileId) (s : State) : State :=
  if s.flt.safe || meterHold s || s.tiles[t].seq.running.isSome || decide ((hdr s (sqc t)).mode ≠ .on) then s
  else match (queOf s (.work t)).pkts with
    | ⟨.item k, _⟩ :: _ =>
      (match findItem s k with
       | some i => if i.tile = t ∧ i.state = .queued then takeItem t i s else s
       | none => s)
    | ⟨.marker _, _⟩ :: _ => takeMarker t s
    | _ :: _ => viaPort t (fun s => match tileHeadBad t (.work t) s with
      | (true, s) => rewindHead (.work t) s
      | (false, s) => takeTileHead t (.work t) s) s
    | [] => s

/-- QUEUE_PACKET_TAKE (R322, R323): the consumer takes the packet at the head, or the queue rewinds it where a word of it fails
its check; a data queue's consumer takes a word. The fault queue's consumer takes a message as FAULT_MESSAGE says. -/
def execQueuePacketTake (id : QueueId) (bad : Bool) (s : State) : Res :=
  .next (if dataQueue id then takeData id bad s
    else if bad then rewindQue id s
    else match id with
    | .sq q _ => dispatchRow (fun _ => true) q s
    | .cq q k => unlessHeld (writeRecord q k) s
    | .work t => takeWork t s
    | .comp t => takeRecord t s
    | .fault | .fab _ | .tele _ => s)

end Sys2Proof.Machine
end

