-- ==== Sys2Proof/Machine/ControlCmds.lean ====
section
/-! DEFINITION. The commands that are accesses of the control space: each is a read or a write, by a master, of the register
that its row names, carried out by Machine/Control.lean. -/

namespace Sys2Proof.Machine
open Sys2Proof

/-! ## Any register -/

/-- REGISTER_WRITE (R43, R45, R52, R60). -/
def execRegisterWrite (m : Master) (bytes : Nat) (addr : BitVec 25) (v : Word) (s : State) : Res :=
  .next (writeCmd m bytes addr.toNat v.toNat s)

/-- LOW_WORD_READ (R43, R45). -/
def execLowWordRead (m : Master) (bytes : Nat) (addr : BitVec 25) (s : State) : Res :=
  .next (readCmd m bytes addr.toNat s)

/-- SECURE_PAGE_READ (R50, R471). -/
def execSecurePageRead (m : Master) (page : Fin 16) (off : BitVec 12) (s : State) : Res :=
  .next (readCmd m 4 (pageBase .rot page.val + off.toNat) s)

/-- COUNTER_CLEAR: CLEAR of the block's counter-clear register at 0x0C0. -/
def execCounterClear (m : Master) (b : Block) (s : State) : Res := .next (writeBlock m b 0xC0 1 s)

/-! ## PG_CTRL (R434, R501, R530, R531) -/

def execPgEnSet (m : Master) (b : Block) (s : State) : Res := .next (writeBlock m b 0x0C 1 s)
def execPgEnClear (m : Master) (b : Block) (s : State) : Res := .next (writeBlock m b 0x0C 0 s)
/-- DRAIN and REARM leave EN as it is. -/
def execDrain (m : Master) (b : Block) (s : State) : Res := .next (writeBlock m b 0x0C (b2n (hdr s b).en + 2) s)
def execRearm (m : Master) (b : Block) (s : State) : Res := .next (writeBlock m b 0x0C (b2n (hdr s b).en + 4) s)

/-! ## The device and ownership pages (R54, R56, R59, R65, R340, R512) -/

def execDevClaim (m : Master) (v : Word) (s : State) : Res := .next (writeBlock m .own Off.devClaim v.toNat s)
def execDevHandover (m : Master) (v : Word) (s : State) : Res := .next (writeBlock m .own Off.devHandover v.toNat s)
def execDevGenCommit (m : Master) (v : Word) (s : State) : Res := .next (writeBlock m .dev Off.devGenCommit v.toNat s)
def execDevReset (m : Master) (v : Word) (s : State) : Res := .next (writeBlock m .own Off.devReset v.toNat s)
def execPtInval (m : Master) (v : Word) (s : State) : Res := .next (writeBlock m .dev Off.devPtInval v.toNat s)
def execDevSelftest (m : Master) (v : Word) (s : State) : Res := .next (writeBlock m .dev Off.devSelftest v.toNat s)
/-- TILE_RETIRE: DEV_SELFTEST with RETIRE. -/
def execTileRetire (m : Master) (v : Word) (s : State) : Res :=
  .next (writeBlock m .dev Off.devSelftest (v ||| 0x40).toNat s)

/-! ## The tile (R116, R199, R203, R219, R262) -/

def execMntDrainRel (m : Master) (t : TileId) (v : Word) (s : State) : Res :=
  .next (writeBlock m (.tile t .mnt) Off.mntDrainRel v.toNat s)
/-- SC_GO: VEC_SC_CTRL with the settings and GO. -/
def execScGo (m : Master) (t : TileId) (v : Word) (s : State) : Res :=
  .next (writeBlock m (.tile t .vec) Off.vecScCtrl ((v &&& ~~~ 2) ||| 1).toNat s)
/-- SC_ABORT: ABORT, with the settings as they stand. -/
def execScAbort (m : Master) (t : TileId) (s : State) : Res :=
  .next (writeBlock m (.tile t .vec) Off.vecScCtrl (Nat.land (reg s (.tile t .vec) Off.vecScCtrl) 0xFFFFFC + 2) s)
/-- FTB_LOAD by a master, or by the tile's own sequencer. -/
def execFtbLoad (src : Option Master) (t : TileId) (v : Word) (s : State) : Res :=
  .next (match src with
    | some m => writeBlock m (.tile t .ftb) Off.ftbLoad v.toNat s
    | none => seqFtbLoad t v s)
def execScrbRestart (m : Master) (t : TileId) (v : Word) (s : State) : Res :=
  .next (writeBlock m (.tile t .scrb) Off.scrbRestart v.toNat s)

/-! ## Queues (R312, R320, R325, R532) -/

/-- A word written to a queue's page. -/
def writeQuePage (m : Master) (id : QueueId) (off v : Nat) (s : State) : State := writeCmd m 4 (queAddr id off) v s

def execSqDoorbell (m : Master) (q : QuadId) (k : Fin 16) (v : Word) (s : State) : Res :=
  .next (writeQuePage m (.sq q k) Off.queSqDb v.toNat s)
def execCqHead (m : Master) (q : QuadId) (k : Fin 16) (v : Word) (s : State) : Res :=
  .next (writeQuePage m (.cq q k) Off.queCqHead v.toNat s)
def execQueEnable (m : Master) (id : QueueId) (s : State) : Res := .next (writeQuePage m id Off.queCtrl 1 s)
def execQueDisable (m : Master) (id : QueueId) (s : State) : Res := .next (writeQuePage m id Off.queCtrl 0 s)
/-- QUE_FLUSH leaves EN as it is. -/
def execQueFlush (m : Master) (id : QueueId) (s : State) : Res :=
  .next (writeQuePage m id Off.queCtrl (b2n (queEn s id) + 2) s)
def execQueRingCfg (m : Master) (id : QueueId) (v : Word) (s : State) : Res :=
  .next (writeQuePage m id Off.queRingCfg v.toNat s)
def execQueSpillSize (m : Master) (id : QueueId) (v : Word) (s : State) : Res :=
  .next (writeQuePage m id Off.queSpillSize v.toNat s)

/-! ## Main memory, fabric, host ports (R342, R368, R393, R396) -/

/-- HBM_CHAN_CTRL with an ACTION. -/
def writeChan (m : Master) (k : StackId) (action : Nat) (v : Word) (s : State) : State :=
  writeBlock m (.hbm k) Off.hbmChanCtrl ((v &&& ~~~ 0xC0) ||| BitVec.ofNat 32 (64 * action)).toNat s
def execHbmRetrain (m : Master) (k : StackId) (v : Word) (s : State) : Res := .next (writeChan m k 1 v s)
def execHbmRetire (m : Master) (k : StackId) (v : Word) (s : State) : Res := .next (writeChan m k 2 v s)
def execHbmSubConfirm (m : Master) (k : StackId) (s : State) : Res := .next (writeBlock m (.hbm k) Off.hbmSubFree 1 s)
/-- GWP_ABANDON stands on the fabric page, through any port's page 2. -/
def execGwpAbandon (m : Master) (p : PortId) (v : Word) (s : State) : Res :=
  .next (writeCmd m 4 (pageBase (.gwp p) 2 + Off.gwpAbandon) v.toNat s)
def execCamAbandon (m : Master) (h : HostId) (v : Word) (s : State) : Res :=
  .next (writeBlock m (.cam h) Off.camAbandon v.toNat s)
def execCamSessClose (m : Master) (h : HostId) (v : Word) (s : State) : Res :=
  .next (writeCmd m 4 (pageBase (.cam h) 1 + Off.camSessClose) v.toNat s)

/-! ## Faults (R440, R441) -/

def execFltLogPop (m : Master) (s : State) : Res := .next (readCmd m 4 (pageBase .flt 0 + Off.fltLogPop) s)
/-- FLT_INJECT with a MODE. -/
def writeInject (m : Master) (mode : Nat) (v : Word) (s : State) : State :=
  writeBlock m .flt Off.fltInject ((v &&& ~~~ 3) ||| BitVec.ofNat 32 mode).toNat s
def execFltInjectMessage (m : Master) (v : Word) (s : State) : Res := .next (writeInject m 1 v s)
def execFltInjectCode (m : Master) (v : Word) (s : State) : Res := .next (writeInject m 2 v s)

/-! ## Training (R443, R460, R462, R465) -/

def execSrvStep (m : Master) (q : QuadId) (v : Word) (s : State) : Res := .next (writeBlock m (.srv q) Off.srvStep v.toNat s)
def execSrvCommit (m : Master) (q : QuadId) (v : Word) (s : State) : Res := .next (writeBlock m (.srv q) Off.srvCommit v.toNat s)
def execSrvAbort (m : Master) (q : QuadId) (s : State) : Res := .next (writeBlock m (.srv q) Off.srvCmd 1 s)
def execSrvCheck (m : Master) (q : QuadId) (s : State) : Res := .next (writeBlock m (.srv q) Off.srvCmd 2 s)
def execSrvRestore (m : Master) (q : QuadId) (v : Word) (s : State) : Res := .next (writeBlock m (.srv q) Off.srvRestore v.toNat s)

end Sys2Proof.Machine
end

