-- ==== Sys2Proof/Machine/Packets.lean ====
section
/-! DEFINITION. A tagged packet that reaches a block (R27, R31, R33, R34, R63, R430). -/

namespace Sys2Proof.Machine
open Sys2Proof

/-- The partition that a block is assigned to; the ports and the blocks of VDD_SYS serve every partition. -/
def assignedPart (s : State) : Block → Option (Fin 4)
  | .tile t _ => some (partOfTile s t)
  | .hbm k => some (partOf s (quadOfStack k))
  | .qdsp q => some (partOf s q) | .qstat q => some (partOf s q) | .srv q => some (partOf s q)
  | .qque q => some (partOf s q)
  | _ => none

/-- The item that a tag names. -/
def tagKey (tag : DWord) : ItemKey := ⟨⟨tagPart tag.toNat % 4, by omega⟩, BitVec.ofNat 16 (tagItem tag.toNat)⟩

/-- The item that sent a discarded packet fails with a status. -/
def failSender (k : ItemKey) (code : Nat) (b : Block) (s : State) : State :=
  match findItem s k with
  | some i => failItem k i.tile code b s
  | none => s

/-- A command-class packet with POISON set (R34). -/
def poisonedCommand (tag : DWord) : Bool := decide (tagClass tag.toNat = 0) && tagPoison tag.toNat

/-- The block is assigned to another partition than the packet's (R31). -/
def wrongPart (s : State) (dst : Block) (tag : DWord) : Bool :=
  match assignedPart s dst with
  | some p => decide (p.val ≠ tagPart tag.toNat)
  | none => false

/-- A fabric arrival: JOB 0 and ITEM 0xFFFF (R364, R387). -/
def fabricArrival (tag : DWord) : Bool := decide (tagJob tag.toNat = 0) && decide (tagItem tag.toNat = 0xFFFF)

/-- The packets of one source and class at a block, as `Hdr.last` names them. -/
def flowKey (src : Block) (tag : DWord) : Nat := 4 * blockId src + tagClass tag.toNat

/-- Which of its source's packets a SEQ names: fewer than 32,768 are outstanding, so a SEQ that PG_SEQ precedes is one of the
next, and any other one of those emitted before (R36). -/
def packetNo (h : Hdr) (q : Nat) : Nat :=
  let back := (h.sent + 65536 - q % 65536) % 65536
  if seqBefore (h.sent % 65536) q || decide (h.sent < back) then h.sent + (65536 - back) else h.sent - back

/-- The packet follows the last one that the block received from this source in this class, however many the source has sent
elsewhere meanwhile; the network delivers no other (R29, R36, R37). -/
def inOrder (s : State) (dst src : Block) (tag : DWord) : Bool :=
  decide (fget (fun _ => 0) (hdr s dst).last (flowKey src tag) ≤ packetNo (hdr s src) (tagSeq tag.toNat))

/-- A packet delivered: the source has emitted it, so PG_SEQ has reached its SEQ, and the block takes later ones only. -/
def noteArrival (dst src : Block) (tag : DWord) (s : State) : State :=
  let n := packetNo (hdr s src) (tagSeq tag.toNat)
  s |> modHdr src (fun h => { h with sent := max h.sent n })
    |> modHdr dst (fun h => { h with last := fset (fun _ => 0) h.last (flowKey src tag) (n + 1) })

/-- A command-class packet dropped, counted by the receiving router (R31, R34). -/
def dropCommand (dst : Block) (tag : DWord) (s : State) : State :=
  if tagClass tag.toNat = 0 then bump32 (.tile (watcher s dst) .tl) Off.tlCmdDropCnt s else s

/-- What becomes of a packet of the right partition at a block that is not fenced against it (R33, R63). A fabric arrival
is processed under the block's own live generation, whatever its GEN (R364). -/
def acceptPacket (dst : Block) (tag : DWord) (s : State) : State :=
  let h := hdr s dst
  let g := BitVec.ofNat 8 (tagGen tag.toNat)
  if g = h.genLive ∨ fabricArrival tag then modHdr dst (fun h => { h with rx := h.rx ++ [tag] }) s
  else if h.genPend ∧ g = h.genStaged then modHdr dst (fun h => { h with held := h.held ++ [tag] }) s
  else failSender (tagKey tag) eInternal dst s

/-- What a delivered packet does at a block (R31, R33, R34, R430). -/
def deliver (dst : Block) (tag : DWord) (s : State) : State :=
  if poisonedCommand tag then dropCommand dst tag s
  else if wrongPart s dst tag then
    if tagClass tag.toNat < 2 then failSender (tagKey tag) ePartition dst (dropCommand dst tag s) else s
  else if isFenced s dst && !(itemsIn s dst).contains (tagKey tag) then fenceItem dst (tagKey tag) s
  else acceptPacket dst tag s

/-- PACKET_ARRIVAL (R33): the next packet in SEQ order from its source in its class; one out of order does not arrive
(entry 1). -/
def execPacketArrival (dst src : Block) (tag : DWord) (s : State) : Res :=
  .next (if inOrder s dst src tag then deliver dst tag (noteArrival dst src tag s) else s)

end Sys2Proof.Machine
end

