-- ==== Sys2Proof/Machine/RotImage.lean ====
section
/-! DEFINITION. Onund images (R489 to R491, R501, R504 to R509): IMAGE_LOAD and the end of an application. The response
comes once the image has been verified; ROT_STAT shows no command executing then (entry 32). -/

namespace Sys2Proof.Machine
open Sys2Proof

/-! ## The image (R489) -/

/-- An image's header fields, the payload, and whether MAKER_SIG is zero. -/
structure Image where
  magic : Bool
  comp : Nat
  instOkFlag : Bool
  raise : Bool
  version : Nat
  digest : List Byte
  payload : List Byte
  noMaker : Bool
  deriving DecidableEq, Repr

/-- The bytes of an image, where its LENGTH agrees with them. -/
def imageOfBytes (bs : List Byte) : Image :=
  let num (lo n : Nat) : Nat := natOfBytes (fitBytes n (bs.drop lo))
  let len := num 12 4
  { magic := bs.take 4 == [0x4F, 0x4E, 0x55, 0x44] && decide (bs.length = 128 + len + 228), comp := num 4 2
    instOkFlag := bitOf (num 6 1) 0, raise := bitOf (num 6 1) 1, version := num 8 4, digest := fitBytes 32 (bs.drop 16)
    payload := (bs.drop 128).take len, noMaker := ((bs.drop (128 + len)).take 114).all (fun b => b == 0) }

def imageAddr (c : RotCmd) : Nat := c.num 0 6
def imageLen (c : RotCmd) : Nat := c.num 8 4
def imageMax : Nat := 64 * 2 ^ 20

/-- Bytes [lo, lo + n) of the image, in the partition of the command; none where a byte cannot be read. -/
def readImage (c : RotCmd) (lo n : Nat) (s : State) : Option (List Byte × List Bool) × State :=
  let r : VaReq := ⟨.walker (leadQuad s c.part), c.part, 0xFFFF, 0, .rot⟩
  match checkRange r (imageAddr c + lo) n false s with
  | (.error _, s) => (none, s)
  | (.ok x, s) =>
    match readFab r x n s with
    | (.error _, s) => (none, s)
    | (.ok d, s) => (some d, s)

/-! ## Targets (R490, R504, R505) -/

/-- The tile blocks that are drained for a change of their tile. -/
def drainedUnits (t : TileId) : List Block := (tileUnits.filter (fun u => u != .que)).map (Block.tile t)

/-- The blocks that a component's change needs DRAINED; none where it has no such target. -/
def imageBlocks (s : State) (comp target : Nat) : Option (List Block) :=
  if comp = 0x01 then some [.rot]
  else if comp = 0x02 ∨ comp = 0x03 then (if h : target < 64 then some (drainedUnits ⟨target, h⟩) else none)
  else if comp = 0x04 then some [.pwr]
  else if comp = 0x05 then (if h : target < 8 then some [.hbm ⟨target, h⟩] else none)
  else if comp = 0x06 then (if h : target < 24 then some [.gwp ⟨target, h⟩] else none)
  else if comp = 0x07 then (if h : target < 2 then some [.cam ⟨target, h⟩] else none)
  else if comp = 0x10 ∨ comp = 0x11 then
    (if h : target < 4 then some (((quadTiles ⟨target, h⟩).filter (fun t => !s.tiles[t].retired)).flatMap drainedUnits)
     else none)
  else if comp = 0x18 ∨ comp = 0x20 then some []
  else none

/-- The instance that an image is installed in; 0 for a component that has one. -/
def imageTarget (comp target : Nat) : Nat :=
  if comp = 0x01 ∨ comp = 0x04 ∨ comp = 0x18 ∨ comp = 0x20 then 0 else target

/-- The component of one without a page waits for no commit, and the meter's for no update (R505). -/
def pageless (s : State) (comp : Nat) : Bool :=
  (decide (comp ≠ 0x18) && decide (comp ≠ 0x20)) || (!s.dev.genPend && (decide (comp ≠ 0x18) || !s.mtr.updating))

/-- The signatures and the role that a component asks for (R467, R490, R491). -/
def imageSigned (i : Image) (role : Nat) (makerOk instOk : Bool) : Bool :=
  let inst := role == roleInstaller
  if 1 ≤ i.comp ∧ i.comp ≤ 7 then makerOk && (!inst || (instOk && i.instOkFlag))
  else if i.comp = 0x10 ∨ i.comp = 0x11 ∨ i.comp = 0x18 then !inst && makerOk
  else if i.comp = 0x20 then inst && instOk && i.instOkFlag && i.noMaker
  else false

/-- The version floor: the fused one, or a raised one. -/
def floorOf (s : State) (comp : Nat) : Nat := max (Config.fusedFloor comp).toNat (fget (fun _ => 0) s.rot.floors comp)

/-- Every target block reads DRAINED. -/
def targetReady (s : State) (comp target : Nat) : Bool :=
  match imageBlocks s comp target with
  | some bs => bs.all (fun b => decide ((hdr s b).mode = .drained))
  | none => false

/-! ## Applying -/

/-- The measurement list's entry of an instance replaced. -/
def setComp (x : Component) (r : RotSt) : RotSt :=
  { r with comps := r.comps.filter (fun y => !(y.id == x.id && y.target == x.target)) ++ [x] }

/-- A route image writes the staged route bank, the staged chip id and the reduce windows' staged registers (R358). -/
def stageRoutes (payload : List Byte) (s : State) : State :=
  let s := modRot (fun r => { r with
    routesStaged := fwrite (fun _ => (0 : Byte)) [] 0 ((List.range 65536).map (Config.routeEntry payload))
    chipStaged := BitVec.ofNat 16 (Config.routeChip payload), imageStaged := true }) s
  (List.range 16).foldl (fun s k =>
    let w := Config.routeWindow payload k
    let a := pageBase (.gwp 0) 2 + 16 * k + 0x800
    setRegAt (a + Off.gwpRdwSize) (w.2 % 2 ^ 32) (setRegAt (a + Off.gwpRdwBase) (w.1 % 2 ^ 53) s)) s

/-- A verified image executed: a route image at once; any other begins to be applied, its target UPDATING. -/
def startImage (i : Image) (target : Nat) (s : State) : State :=
  let t := imageTarget i.comp target
  let s := if i.raise && decide (i.comp ≠ 0x20) then
    modRot (fun r => { r with floors := fset (fun _ => 0) r.floors i.comp i.version }) s else s
  if i.comp = 0x20 then
    stageRoutes i.payload (modRot (setComp ⟨BitVec.ofNat 16 i.comp, 0, false, BitVec.ofNat 32 i.version, i.digest⟩) s)
  else
    let s := modRot (fun r => { r with
      applying := r.applying ++ [(BitVec.ofNat 16 i.comp, t, BitVec.ofNat 32 i.version, i.digest)] }) s
    let s := if i.comp = 0x18 then modMtr (fun m => { m with updating := true }) s else s
    ((imageBlocks s i.comp target).getD []).foldl (fun s b => modHdr b (fun h => { h with mode := .updating }) s) s

/-- What an image's header says against its target: MAGIC, a target DRAINED, no commit pending, the version floor (R475, R491). -/
def headerGood (i : Image) (bs : List Byte) (target : Nat) (s : State) : Bool :=
  decide (bs.take 4 = [0x4F, 0x4E, 0x55, 0x44]) && targetReady s i.comp target && pageless s i.comp &&
    decide (floorOf s i.comp ≤ i.version)

/-- What the whole image says: its length, its signatures, its digest (R491). -/
def imageGood (i : Image) (role : Nat) (makerOk instOk : Bool) : Bool :=
  i.magic && imageSigned i role makerOk instOk && decide (fitBytes 32 (Config.shake256 i.payload 32) = i.digest)

/-- IMAGE_LOAD's own checks in the order of R475 (R491): what the header says of the target, then the length and what can be read, then
the signatures and the digest. A header that cannot be read leaves its conditions unknown (entry 32). -/
def imageAct (makerOk instOk : Bool) : RotAct := fun c s =>
  if imageLen c < 356 then refuse eDenied s
  else match readImage c 0 128 s with
    | (none, s) => refuse eExtent s
    | (some h, s) =>
      let target := c.num 12 4
      if h.2.any (fun b => b) || !headerGood (imageOfBytes h.1) h.1 target s then refuse eDenied s
      else if imageMax < imageLen c then refuse eExtent s
      else match readImage c 128 (imageLen c - 128) s with
        | (none, s) => refuse eExtent s
        | (some d, s) =>
          let i := imageOfBytes (h.1 ++ d.1)
          if !d.2.any (fun b => b) && imageGood i c.role makerOk instOk then done (startImage i target s) else refuse eDenied s

def imageBad (c : RotCmd) : Bool := shortBody 16 c || decide (c.num 6 2 ≠ 0)

/-- IMAGE_LOAD (R491), the one command that either of two roles may sign: whether its signature verifies under the maker's key, and
whether under the installer's. -/
def execImageLoad (m : Master) (makerSigned instSigned makerOk instOk : Bool) (s : State) : Res :=
  .next (runPlain 0x05 (fun c s => checked [roleInstaller, roleMaker] imageBad false
    (if c.role = roleMaker then makerSigned else instSigned) (imageAct makerOk instOk) c s) (masterIdx m) s)

/-- What a component's new version changes at its target (R506, R508). -/
def adoptImage (comp target : Nat) (s : State) : State :=
  let q : QuadId := ⟨target % 4, by omega⟩
  if comp = 0x01 then
    modRot (fun r => { r with badSlots := maskClear r.badSlots (b2n !s.dev.slotB) }) (modDev (fun d => { d with slotB := !d.slotB }) s)
  else if comp = 0x10 then modPq q (fun x => { x with tablesTo := x.tablesTo + 1, tableNew := true }) s
  else if comp = 0x11 then modPq q (fun x => { x with weightsTo := x.weightsTo + 1 }) s
  else s

/-- What a failed application leaves: the previous version, with a log entry for the root of trust's own (R508), and the
meter running on unchanged (R417). -/
def dropImage (comp : Nat) (s : State) : State :=
  if comp = 0x01 then
    let (d, s) := freeBytes 32 (modRot (fun r => { r with badSlots := maskSet r.badSlots (b2n !s.dev.slotB) }) s)
    auditAppend 0x05 0 eDenied 0 d false s
  else if comp = 0x18 then modMtr (fun m => { m with updating := false }) s
  else s

/-- IMAGE_APPLY_COMPLETE (R501 step 4, R508): the target's blocks read DRAINED again. -/
def execImageApplyComplete (component : BitVec 16) (target : Nat) (good : Bool) (s : State) : Res :=
  .next (match s.rot.applying.find? (fun x => x.1 == component && x.2.1 == target) with
    | none => s
    | some x =>
      let comp := component.toNat
      let s := modRot (fun r => { r with applying := r.applying.erase x }) s
      let s := if good then
          modRot (fun r => setComp ⟨component, target, decide (comp = 1) && !s.dev.slotB, x.2.2.1, x.2.2.2⟩ r)
            (adoptImage comp target s)
        else dropImage comp s
      takeReserved (((imageBlocks s comp target).getD []).foldl
        (fun s b => modHdr b (fun h => if h.mode = .updating then { h with mode := .drained } else h) s) s))

end Sys2Proof.Machine
end

