-- ==== Sys2Proof/Machine/Dispatch.lean ====
section
/-! DEFINITION. The meaning of each command, one arm per constructor of Instr. -/

namespace Sys2Proof.Machine
open Sys2Proof

def exec (i : Instr) (s : State) : Host.Outcome State Fault Refusal :=
  match i with
  | .registerWrite m bytes addr v => Sys2Proof.Machine.execRegisterWrite m bytes addr v s
  | .lowWordRead m bytes addr => Sys2Proof.Machine.execLowWordRead m bytes addr s
  | .securePageRead m page off => Sys2Proof.Machine.execSecurePageRead m page off s
  | .counterClear m b => Sys2Proof.Machine.execCounterClear m b s
  | .packetArrival dst src tag => Sys2Proof.Machine.execPacketArrival dst src tag s
  | .handshakeStall t nbr beats => Sys2Proof.Machine.execHandshakeStall t nbr beats s
  | .pgEnSet m b => Sys2Proof.Machine.execPgEnSet m b s
  | .pgEnClear m b => Sys2Proof.Machine.execPgEnClear m b s
  | .drain m b => Sys2Proof.Machine.execDrain m b s
  | .rearm m b => Sys2Proof.Machine.execRearm m b s
  | .drainProbeAck b => Sys2Proof.Machine.execDrainProbeAck b s
  | .drainComplete b => Sys2Proof.Machine.execDrainComplete b s
  | .rearmComplete b => Sys2Proof.Machine.execRearmComplete b s
  | .devClaim m v => Sys2Proof.Machine.execDevClaim m v s
  | .devHandover m v => Sys2Proof.Machine.execDevHandover m v s
  | .devGenCommit m v => Sys2Proof.Machine.execDevGenCommit m v s
  | .dispatcherMarkerPlace q => Sys2Proof.Machine.execDispatcherMarkerPlace q s
  | .markerTake t => Sys2Proof.Machine.execMarkerTake t s
  | .tileBlockGenSwitch t u => Sys2Proof.Machine.execTileBlockGenSwitch t u s
  | .routerMarkerSend t => Sys2Proof.Machine.execRouterMarkerSend t s
  | .peripheralGenSwitch b => Sys2Proof.Machine.execPeripheralGenSwitch b s
  | .systemBlockGenSwitch b => Sys2Proof.Machine.execSystemBlockGenSwitch b s
  | .devReset m v => Sys2Proof.Machine.execDevReset m v s
  | .resetNAssert retain => Sys2Proof.Machine.execResetNAssert retain s
  | .resetNDeassert => Sys2Proof.Machine.execResetNDeassert s
  | .powerLoss vddSys => Sys2Proof.Machine.execPowerLoss vddSys s
  | .avsActionComplete q vddm readback fault => Sys2Proof.Machine.execAvsActionComplete q vddm readback fault s
  | .selftestComplete results => Sys2Proof.Machine.execSelftestComplete results s
  | .hbmTrainingComplete k trained => Sys2Proof.Machine.execHbmTrainingComplete k trained s
  | .hbmZeroFillComplete k => Sys2Proof.Machine.execHbmZeroFillComplete k s
  | .tileFirmwareLoaded => Sys2Proof.Machine.execTileFirmwareLoaded s
  | .arrayDescriptorAccept t => Sys2Proof.Machine.execArrayDescriptorAccept t s
  | .arrayBeat t wait => Sys2Proof.Machine.execArrayBeat t wait s
  | .runStallClose t => Sys2Proof.Machine.execRunStallClose t s
  | .arrayDescriptorComplete t => Sys2Proof.Machine.execArrayDescriptorComplete t s
  | .mntDrainRel m t v => Sys2Proof.Machine.execMntDrainRel m t v s
  | .itemStart t => Sys2Proof.Machine.execItemStart t s
  | .itemEnd t item => Sys2Proof.Machine.execItemEnd t item s
  | .seqWaitRelease t => Sys2Proof.Machine.execSeqWaitRelease t s
  | .sqNop t => Sys2Proof.Machine.execSqNop t s
  | .sqAdd t => Sys2Proof.Machine.execSqAdd t s
  | .sqSub t => Sys2Proof.Machine.execSqSub t s
  | .sqMul t => Sys2Proof.Machine.execSqMul t s
  | .sqAnd t => Sys2Proof.Machine.execSqAnd t s
  | .sqOr t => Sys2Proof.Machine.execSqOr t s
  | .sqXor t => Sys2Proof.Machine.execSqXor t s
  | .sqShl t => Sys2Proof.Machine.execSqShl t s
  | .sqShr t => Sys2Proof.Machine.execSqShr t s
  | .sqAddi t => Sys2Proof.Machine.execSqAddi t s
  | .sqLui t => Sys2Proof.Machine.execSqLui t s
  | .sqLd t => Sys2Proof.Machine.execSqLd t s
  | .sqSt t => Sys2Proof.Machine.execSqSt t s
  | .sqBeq t => Sys2Proof.Machine.execSqBeq t s
  | .sqBne t => Sys2Proof.Machine.execSqBne t s
  | .sqBlt t => Sys2Proof.Machine.execSqBlt t s
  | .sqBge t => Sys2Proof.Machine.execSqBge t s
  | .sqLoop t => Sys2Proof.Machine.execSqLoop t s
  | .sqJal t => Sys2Proof.Machine.execSqJal t s
  | .sqJr t => Sys2Proof.Machine.execSqJr t s
  | .sqIssue t => Sys2Proof.Machine.execSqIssue t s
  | .sqWait t => Sys2Proof.Machine.execSqWait t s
  | .sqFence t => Sys2Proof.Machine.execSqFence t s
  | .sqSignal t => Sys2Proof.Machine.execSqSignal t s
  | .sqGenmark t => Sys2Proof.Machine.execSqGenmark t s
  | .sqGets t => Sys2Proof.Machine.execSqGets t s
  | .sqPuts t => Sys2Proof.Machine.execSqPuts t s
  | .vld t => Sys2Proof.Machine.execVld t s
  | .vst t => Sys2Proof.Machine.execVst t s
  | .vgth t => Sys2Proof.Machine.execVgth t s
  | .vsct t => Sys2Proof.Machine.execVsct t s
  | .vscta t => Sys2Proof.Machine.execVscta t s
  | .vctx t => Sys2Proof.Machine.execVctx t s
  | .vpld t => Sys2Proof.Machine.execVpld t s
  | .vmark t => Sys2Proof.Machine.execVmark t s
  | .vadd t => Sys2Proof.Machine.execVadd t s
  | .vsub t => Sys2Proof.Machine.execVsub t s
  | .vmul t => Sys2Proof.Machine.execVmul t s
  | .vfma t => Sys2Proof.Machine.execVfma t s
  | .vmin t => Sys2Proof.Machine.execVmin t s
  | .vmax t => Sys2Proof.Machine.execVmax t s
  | .vmov t => Sys2Proof.Machine.execVmov t s
  | .vcvt t => Sys2Proof.Machine.execVcvt t s
  | .viadd t => Sys2Proof.Machine.execViadd t s
  | .visub t => Sys2Proof.Machine.execVisub t s
  | .vimul t => Sys2Proof.Machine.execVimul t s
  | .vand t => Sys2Proof.Machine.execVand t s
  | .vor t => Sys2Proof.Machine.execVor t s
  | .vxor t => Sys2Proof.Machine.execVxor t s
  | .vshl t => Sys2Proof.Machine.execVshl t s
  | .vshr t => Sys2Proof.Machine.execVshr t s
  | .vsar t => Sys2Proof.Machine.execVsar t s
  | .vcmp t => Sys2Proof.Machine.execVcmp t s
  | .vsel t => Sys2Proof.Machine.execVsel t s
  | .vrrow t => Sys2Proof.Machine.execVrrow t s
  | .vrcol t => Sys2Proof.Machine.execVrcol t s
  | .vrall t => Sys2Proof.Machine.execVrall t s
  | .vtr4 t => Sys2Proof.Machine.execVtr4 t s
  | .vperm t => Sys2Proof.Machine.execVperm t s
  | .vscan t => Sys2Proof.Machine.execVscan t s
  | .vslot t => Sys2Proof.Machine.execVslot t s
  | .vtfn t => Sys2Proof.Machine.execVtfn t s
  | .vftswap t => Sys2Proof.Machine.execVftswap t s
  | .vrstat t => Sys2Proof.Machine.execVrstat t s
  | .smaxStep t => Sys2Proof.Machine.execSmaxStep t s
  | .vprg t => Sys2Proof.Machine.execVprg t s
  | .vprgm t => Sys2Proof.Machine.execVprgm t s
  | .scGo m t v => Sys2Proof.Machine.execScGo m t v s
  | .scAbort m t => Sys2Proof.Machine.execScAbort m t s
  | .scComplete t => Sys2Proof.Machine.execScComplete t s
  | .ftbLoad src t v => Sys2Proof.Machine.execFtbLoad src t v s
  | .ftbLoadComplete t slot => Sys2Proof.Machine.execFtbLoadComplete t slot s
  | .scrubCredit t => Sys2Proof.Machine.execScrubCredit t s
  | .scrubLine t mem => Sys2Proof.Machine.execScrubLine t mem s
  | .scrbRestart m t v => Sys2Proof.Machine.execScrbRestart m t v s
  | .tmemAgingPromote t r mem bank waited => Sys2Proof.Machine.execTmemAgingPromote t r mem bank waited s
  | .wideReserve t mem row waited => Sys2Proof.Machine.execWideReserve t mem row waited s
  | .move t => Sys2Proof.Machine.execMove t s
  | .streamOpen t => Sys2Proof.Machine.execStreamOpen t s
  | .streamClose t => Sys2Proof.Machine.execStreamClose t s
  | .moveComplete t token => Sys2Proof.Machine.execMoveComplete t token s
  | .streamPrefetch q slot => Sys2Proof.Machine.execStreamPrefetch q slot s
  | .run q => Sys2Proof.Machine.execRun q s
  | .jobStart q => Sys2Proof.Machine.execJobStart q s
  | .jobEnd q => Sys2Proof.Machine.execJobEnd q s
  | .jobAbort q => Sys2Proof.Machine.execJobAbort q s
  | .jobNumberFree part job => Sys2Proof.Machine.execJobNumberFree part job s
  | .sqDoorbell m q k v => Sys2Proof.Machine.execSqDoorbell m q k v s
  | .cqHead m q k v => Sys2Proof.Machine.execCqHead m q k v s
  | .queEnable m id => Sys2Proof.Machine.execQueEnable m id s
  | .queDisable m id => Sys2Proof.Machine.execQueDisable m id s
  | .queFlush m id => Sys2Proof.Machine.execQueFlush m id s
  | .queRingCfg m id v => Sys2Proof.Machine.execQueRingCfg m id v s
  | .queSpillSize m id v => Sys2Proof.Machine.execQueSpillSize m id v s
  | .queuePacketWrite id words sop eop bad => Sys2Proof.Machine.execQueuePacketWrite id words sop eop bad s
  | .queuePacketTake id bad => Sys2Proof.Machine.execQueuePacketTake id bad s
  | .completionRecordWrite q k => Sys2Proof.Machine.execCompletionRecordWrite q k s
  | .completionPhaseWrite q k => Sys2Proof.Machine.execCompletionPhaseWrite q k s
  | .hbmAccess k kind pa data item poison onDie => Sys2Proof.Machine.execHbmAccess k kind pa data item poison onDie s
  | .hbmAgingPromote k channel pc bank waited => Sys2Proof.Machine.execHbmAgingPromote k channel pc bank waited s
  | .hbmScrubSector k => Sys2Proof.Machine.execHbmScrubSector k s
  | .hbmRefresh k channel pc bank => Sys2Proof.Machine.execHbmRefresh k channel pc bank s
  | .ptInval m v => Sys2Proof.Machine.execPtInval m v s
  | .ptInvalComplete part => Sys2Proof.Machine.execPtInvalComplete part s
  | .hbmRetrain m k v => Sys2Proof.Machine.execHbmRetrain m k v s
  | .hbmRetire m k v => Sys2Proof.Machine.execHbmRetire m k v s
  | .hbmSubConfirm m k => Sys2Proof.Machine.execHbmSubConfirm m k s
  | .hbmEvacuationComplete q => Sys2Proof.Machine.execHbmEvacuationComplete q s
  | .hbmRetrainComplete q ok => Sys2Proof.Machine.execHbmRetrainComplete q ok s
  | .gwWrite p pk => Sys2Proof.Machine.execGwWrite p pk s
  | .gwRead p pk => Sys2Proof.Machine.execGwRead p pk s
  | .gwWriteAck p pk => Sys2Proof.Machine.execGwWriteAck p pk s
  | .gwReadData p pk => Sys2Proof.Machine.execGwReadData p pk s
  | .gwError p pk => Sys2Proof.Machine.execGwError p pk s
  | .linkCtrl p pk => Sys2Proof.Machine.execLinkCtrl p pk s
  | .gwpLinkDown p lostAlignment => Sys2Proof.Machine.execGwpLinkDown p lostAlignment s
  | .gwpTrainComplete p peer => Sys2Proof.Machine.execGwpTrainComplete p peer s
  | .gwpAbandon m p v => Sys2Proof.Machine.execGwpAbandon m p v s
  | .camDataFlit h f => Sys2Proof.Machine.execCamDataFlit h f s
  | .camControlFlit h f => Sys2Proof.Machine.execCamControlFlit h f s
  | .regRd h => Sys2Proof.Machine.execRegRd h s
  | .regWr h => Sys2Proof.Machine.execRegWr h s
  | .memRd h => Sys2Proof.Machine.execMemRd h s
  | .memWr h => Sys2Proof.Machine.execMemWr h s
  | .db h => Sys2Proof.Machine.execDb h s
  | .cpl h => Sys2Proof.Machine.execCpl h s
  | .camLinkDown h lostAlignment => Sys2Proof.Machine.execCamLinkDown h lostAlignment s
  | .camTrainComplete h lanes => Sys2Proof.Machine.execCamTrainComplete h lanes s
  | .camAbandon m h v => Sys2Proof.Machine.execCamAbandon m h v s
  | .camSessClose m h v => Sys2Proof.Machine.execCamSessClose m h v s
  | .sensorSample temps => Sys2Proof.Machine.execSensorSample temps s
  | .estimationWindowEnd events => Sys2Proof.Machine.execEstimationWindowEnd events s
  | .meterReading mj => Sys2Proof.Machine.execMeterReading mj s
  | .meterSilence failedCheck => Sys2Proof.Machine.execMeterSilence failedCheck s
  | .meterApportion mj => Sys2Proof.Machine.execMeterApportion mj s
  | .meterNvCommit => Sys2Proof.Machine.execMeterNvCommit s
  | .periodicRecord => Sys2Proof.Machine.execPeriodicRecord s
  | .jobStartMark => Sys2Proof.Machine.execJobStartMark s
  | .jobStopMark => Sys2Proof.Machine.execJobStopMark s
  | .partMapMark => Sys2Proof.Machine.execPartMapMark s
  | .resetMark => Sys2Proof.Machine.execResetMark s
  | .meterRestart unmetMs image => Sys2Proof.Machine.execMeterRestart unmetMs image s
  | .faultMessage src => Sys2Proof.Machine.execFaultMessage src s
  | .fltLogPop m => Sys2Proof.Machine.execFltLogPop m s
  | .fltInjectMessage m v => Sys2Proof.Machine.execFltInjectMessage m v s
  | .fltInjectCode m v => Sys2Proof.Machine.execFltInjectCode m v s
  | .tapPacket q => Sys2Proof.Machine.execTapPacket q s
  | .srvStep m q v => Sys2Proof.Machine.execSrvStep m q v s
  | .securePointStream q => Sys2Proof.Machine.execSecurePointStream q s
  | .deltaFold q src slot => Sys2Proof.Machine.execDeltaFold q src slot s
  | .securePointComplete q => Sys2Proof.Machine.execSecurePointComplete q s
  | .srvCommit m q v => Sys2Proof.Machine.execSrvCommit m q v s
  | .srvAbort m q => Sys2Proof.Machine.execSrvAbort m q s
  | .srvCheck m q => Sys2Proof.Machine.execSrvCheck m q s
  | .srvRestore m q v => Sys2Proof.Machine.execSrvRestore m q v s
  | .restoreComplete q ok => Sys2Proof.Machine.execRestoreComplete q ok s
  | .forceTake m sigOk => Sys2Proof.Machine.execForceTake m sigOk s
  | .rotReset m sigOk => Sys2Proof.Machine.execRotReset m sigOk s
  | .partSet m sigOk => Sys2Proof.Machine.execPartSet m sigOk s
  | .pwrSet m sigOk => Sys2Proof.Machine.execPwrSet m sigOk s
  | .imageLoad m makerSigned instSigned makerOk instOk => Sys2Proof.Machine.execImageLoad m makerSigned instSigned makerOk instOk s
  | .imageApplyComplete component target ok => Sys2Proof.Machine.execImageApplyComplete component target ok s
  | .enroll m sigOk => Sys2Proof.Machine.execEnroll m sigOk s
  | .instRotate m sigOk => Sys2Proof.Machine.execInstRotate m sigOk s
  | .lcSet m sigOk => Sys2Proof.Machine.execLcSet m sigOk s
  | .factory m sigOk => Sys2Proof.Machine.execFactory m sigOk s
  | .repairClear m sigOk => Sys2Proof.Machine.execRepairClear m sigOk s
  | .sessionOpen m sig => Sys2Proof.Machine.execSessionOpen m sig s
  | .sessionClose m sig => Sys2Proof.Machine.execSessionClose m sig s
  | .attest m => Sys2Proof.Machine.execAttest m s
  | .measure m => Sys2Proof.Machine.execMeasure m s
  | .cert m => Sys2Proof.Machine.execCert m s
  | .auditRead m => Sys2Proof.Machine.execAuditRead m s
  | .tamper detector => Sys2Proof.Machine.execTamper detector s
  | .refclkLoss clk => Sys2Proof.Machine.execRefclkLoss clk s
  | .partitionZeroFillComplete part => Sys2Proof.Machine.execPartitionZeroFillComplete part s
  | .devSelftest m v => Sys2Proof.Machine.execDevSelftest m v s
  | .tileRetire m v => Sys2Proof.Machine.execTileRetire m v s
  | .rotSensorSample temps => Sys2Proof.Machine.execRotSensorSample temps s

end Sys2Proof.Machine
end

