-- ==== Sys2Proof/Safety.lean ====
section
/-! DEFINITION. What counts as a safe run: no step stops, and every memory of the device keeps its canonical form. -/

namespace Sys2Proof
open Sys2Proof.Machine

/-- A run of the commands that wait never stops the model within k steps. -/
def Safety.runs (k : Nat) (s : State) : Prop := ∃ t, core.run k s = .next t

/-- A tile memory, its bytes and its code faults, is in canonical form. -/
def Safety.tmemWf (m : TMem) : Bool := Memory.wf m.bytes && fwf noErr m.err

/-- The memories of a tile are in canonical form. -/
def Safety.tileWf (t : TileSt) : Bool := Safety.tmemWf t.amem && Safety.tmemWf t.pmem && Safety.tmemWf t.wmem

/-- Every memory of the device is in canonical form: those of the tiles, and main memory with its code faults. -/
def Safety.memoriesWf (s : State) : Bool :=
  s.tiles.toList.all Safety.tileWf && fwf (hbmDefault s) s.hbm && fwf (cwDefault s) s.hbmErr


/-! ## What the statements say of a state -/

/-- Master m owns the device, whose control space runs and which is not in the safe state. -/
def Safety.owns (m : Master) (s : State) : Prop :=
  ctlRuns s = true ∧ ownerId s = (masterIdx m).val ∧ s.flt.safe = false

/-- A write by m that has been carried out and answered DONE. -/
def Safety.wrote (m : Master) (s : State) : State := answered (masterIdx m) stDone 0 s

/-- A write by m answered E_DENIED: nothing but the answer and DEV_DENIED_CNT changes (R52). -/
def Safety.denied (m : Master) (s : State) : State :=
  answered (masterIdx m) eDenied 0 (bump32 .own Off.devDeniedCnt s)

/-- The register at offset o of page p, in its low half or its high half: a block register outside the secure pages. -/
def Safety.regAccess (s : State) (addr : BitVec 25) (p : PageRef) (r : RegRow) (base : Nat) : Prop :=
  addr.toNat % 4 = 0 ∧ pageAt (addr.toNat / 4096) = some p ∧ p.kind ≠ .rotSlot ∧ p.kind ≠ .mtrWin ∧ p.secure = false ∧
    0x80 ≤ addr.toNat % 4096 ∧ addr.toNat % 4096 < 0x800 ∧ regNamed p (addr.toNat % 4096) = some (r, base) ∧
    leadRefused s p (addr.toNat % 4096) = false

/-- Every byte of main memory and of every tile memory, with its code, is as it was. -/
def Safety.sameMemory (s t : State) : Prop :=
  t.hbm = s.hbm ∧ t.hbmErr = s.hbmErr ∧
    ∀ x : TileId, t.tiles[x].amem = s.tiles[x].amem ∧ t.tiles[x].pmem = s.tiles[x].pmem ∧ t.tiles[x].wmem = s.tiles[x].wmem

/-- What a full reset of cause 1 to 3 leaves of a state, whatever start-up has done since (R66, R70, R71); the field-repair record stays, unless
start-up has found that it fails authentication (R518). -/
def Safety.resetFrom (cause : Nat) (retain : Bool) (s t : State) : Prop :=
  t.items = [] ∧ t.dev.owner = none ∧ t.dev.cause = cause ∧ t.dev.retained = retain ∧ t.dev.ready = false ∧
  t.dev.fromSafe = s.flt.safe ∧ t.regs = regsAfterReset t.rot ∧ t.flt.safe = false ∧ t.flt.log = [] ∧ t.flt.inflight = [] ∧
  t.flt.fatalRec = (if retain then s.flt.fatalRec else none) ∧ t.rot.map = 0 ∧ t.rot.enc = 0 ∧ t.rot.factory = false ∧
  t.rot.lc = s.rot.lc ∧ t.rot.epochs = (if retain then s.rot.epochs else s.rot.epochs.map (· + 1)) ∧
  t.mtr.now = s.mtr.now ∧ t.mtr.nv = s.mtr.nv ∧ t.quads = Vector.replicate 4 quadReset ∧
  t.ports = Vector.replicate 24 gwpReset ∧ t.cams = Vector.replicate 2 camReset ∧ t.fabReqs = [] ∧ t.pending = s.pending ∧
  (t.rot.repairCols, t.rot.repairTiles, t.rot.repairChans) ∈
    [(s.rot.repairCols, s.rot.repairTiles, s.rot.repairChans), ([], [], [])] ∧
  ∀ x : TileId, t.tiles[x].retired = t.rot.repairTiles.contains x ∧ t.tiles[x].seq = seqReset ∧
    t.tiles[x].vec = vecReset ∧ t.tiles[x].amem = s.tiles[x].amem ∧ t.tiles[x].pmem = s.tiles[x].pmem ∧
    t.tiles[x].wmem = s.tiles[x].wmem

/-- No code fault in the 32-bit word at byte address a of a tile memory, or in its W-mem line. -/
def Safety.wordClean (s : State) (t : TileId) (m : MemSel) (a : Nat) : Prop :=
  match m with
  | .wmem => fget noErr (tmem s t m).err (a / 64) = 0
  | _ => (tmem s t m).err.any (fun e => e.1 / 4 == a / 4) = false

/-- The 32-bit word stored at byte address a of a tile memory, little-endian. -/
def Safety.memWord (s : State) (t : TileId) (m : MemSel) (a : Nat) : Nat := wordOf (memGet s t m a 4)

/-- Tile t's sequencer runs item i of its live generation, waits for nothing, and stands, inside its program region, at the
instruction w, which memory holds without a code fault, in a bank that is reserved for no wide access (R243, R296, R297, R307). -/
def Safety.seqAt (s : State) (t : TileId) (i : Item) (w : Nat) : Prop :=
  seqItem s t = some i ∧ s.tiles[t].seq.waiting = none ∧ s.tiles[t].seq.pc.toNat % 4 = 0 ∧
  s.tiles[t].seq.pc.toNat < 65536 ∧
  (let a := reg s (sqc t) Off.sqcProgBase * 65536 + s.tiles[t].seq.pc.toNat
   bankReserved s t .amem a 4 = false ∧ Safety.wordClean s t .amem a ∧ Safety.memWord s t .amem a = w)

/-- The registers that an instruction's execution counts in: SQC_BEATS, SQC_INSTR, TMEM_ACC and TMEM_DP_B. -/
def Safety.seqCounters (t : TileId) : List Nat :=
  [pageBase (sqc t) 0 + Off.sqcBeats, pageBase (sqc t) 0 + Off.sqcInstr, pageBase (.tile t .tmem) 0 + Off.tmemAcc,
   pageBase (.tile t .tmem) 0 + Off.tmemDpB]

/-- No step waits for a bank that is reserved for a wide access, for a promoted request to main memory, or for a controller or a router that takes
no item (R243, R336, R501, R503, R504). -/
def Safety.unheld (s : State) : Prop :=
  (∀ t : TileId, s.tiles[t].wideReserved = none ∧ routerStops s t = false) ∧
    ∀ k : StackId, s.hbmStacks[k].promoted = [] ∧ stackHeld s k = false

/-- A step that waits for none of these, in its outcome: the model's own marks of waiting are clear. -/
def Safety.unmarked (s : State) : State := { s with heldBack := false, passed := [] }

/-- What an instruction that touches no memory but by reading leaves: everything but the tile's sequencer, its counters, and
the promotion of the requests it was granted. -/
def Safety.seqFrame (t : TileId) (s u : State) : Prop :=
  (∀ x, x ≠ t → u.tiles[x] = s.tiles[x]) ∧
  u.tiles[t] = { s.tiles[t] with seq := u.tiles[t].seq, promoted := u.tiles[t].promoted } ∧
  u = { Safety.unmarked s with tiles := u.tiles, regs := u.regs } ∧
  (∀ a, a ∉ Safety.seqCounters t → regAt u a = regAt s a) ∧
  reg u (sqc t) Off.sqcInstr = min (reg s (sqc t) Off.sqcInstr + 1) (2 ^ 48 - 1)

/-- Instruction c at word w completes: scalar rd becomes v with poison p, and the program counter becomes pc. -/
def Safety.seqWrites (c : Instr) (t : TileId) (s : State) (rd : Nat) (v : Word) (p : Bool) (pc : Word) : Prop :=
  ∃ u, exec c s = .next u ∧ Safety.seqFrame t s u ∧
    u.tiles[t].seq = { s.tiles[t].seq with
      sreg := vput s.tiles[t].seq.sreg rd v
      spoison := if p then maskSet s.tiles[t].seq.spoison rd else maskClear s.tiles[t].seq.spoison rd
      pc := pc, issued := 0, issueMask := 0 }

/-- Instruction c completes and moves the program counter to pc; no scalar changes. -/
def Safety.seqJumps (c : Instr) (t : TileId) (s : State) (pc : Word) : Prop :=
  ∃ u, exec c s = .next u ∧ Safety.seqFrame t s u ∧
    u.tiles[t].seq = { s.tiles[t].seq with pc := pc, issued := 0, issueMask := 0 }

/-- The free tokens of a tile's sequencer, lowest first (R301). -/
def Safety.freeTokens (s : State) (t : TileId) : List Nat :=
  (List.range 32).filter (fun k => (vat s.tiles[t].seq.tokens k none).isNone)

/-- Lane k of t[r], and the poison of its line j (R161, R162). -/
def Safety.lane (s : State) (t : TileId) (r k : Nat) : Word := fget zeroWord s.tiles[t].vec.regs (1024 * r + k)
def Safety.line (s : State) (t : TileId) (r j : Nat) : Bool := fget falseAt s.tiles[t].vec.poison (64 * r + j)

/-- Instruction v of item i is the next of tile t's vector engine (R165 to R167), every line of the register file has good
parity (R163), and no fault injection is armed. -/
def Safety.vecAt (s : State) (t : TileId) (v : VIns) (i : Item) : Prop :=
  vecHead s t = some (v, i) ∧ s.tiles[t].vec.badLines = [] ∧ s.flt.armed = []

/-- What completing a vector instruction leaves: the instruction has left the queue; of the registers only those in rs may have
changed; of the items only the instruction's own, and of it only its poison, its flag BUBBLED (R410) and its beats; of the
registers of the control space only VEC_INSTR, VEC_BEATS and, where issue positions are withheld, the count of the stall BUBBLE_POWER;
memory, contexts and slots are as before. -/
def Safety.vecFrame (t : TileId) (i : Item) (rs : List Nat) (beats : Nat) (s u : State) : Prop :=
  (∀ x, x ≠ t → u.tiles[x] = s.tiles[x]) ∧
  u.tiles[t] = { s.tiles[t] with vec := { s.tiles[t].vec with
    queue := s.tiles[t].vec.queue.drop 1, regs := u.tiles[t].vec.regs, poison := u.tiles[t].vec.poison } } ∧
  (∀ r k j, r ∉ rs → k < 1024 → j < 64 →
    Safety.lane u t r k = Safety.lane s t r k ∧ Safety.line u t r j = Safety.line s t r j) ∧
  u = { Safety.unmarked s with tiles := u.tiles, regs := u.regs, items := u.items, nfree := u.nfree } ∧
  (∃ (p : Bool) (f : Byte), (f = 0 ∨ f = 64) ∧ u.items = s.items.map (fun x => if x.key = i.key then
    { x with poisoned := x.poisoned || p, flags := x.flags ||| f, beatsVector := x.beatsVector + beats } else x)) ∧
  reg u (vecB t) Off.vecInstr = min (reg s (vecB t) Off.vecInstr + 1) (2 ^ 48 - 1) ∧
  reg u (vecB t) Off.vecBeats = min (reg s (vecB t) Off.vecBeats + beats) (2 ^ 48 - 1) ∧
  (∀ a, a ≠ pageBase (vecB t) 0 + Off.vecInstr → a ≠ pageBase (vecB t) 0 + Off.vecBeats →
    a ≠ pageBase (vecB t) 0 + Off.vecStall + 56 ∨ s.pwr.quads[quadOf t].fv = 0 → regAt u a = regAt s a)

/-- Vector command c completes in `beats` beats: register rd holds lanes f and line poison p, and nothing else changes. -/
def Safety.vecMakes (c : Instr) (t : TileId) (i : Item) (s : State) (rd beats : Nat) (f : Nat → Word) (p : Nat → Bool) :
    Prop :=
  ∃ u, exec c s = .next u ∧ Safety.vecFrame t i [rd] beats s u ∧
    (∀ k < 1024, Safety.lane u t rd k = f k) ∧ ∀ j < 64, Safety.line u t rd j = p j

/-- What a vector instruction that reaches memory leaves: as above, but its counters, its quadrant's statistics with the
tap packets that its item or an earlier one has sent and, for a store, the bytes that the statement names; other tiles and main
memory are as before. -/
def Safety.vecMemFrame (t : TileId) (i : Item) (rs : List Nat) (s u : State) : Prop :=
  (∀ x, x ≠ t → u.tiles[x] = s.tiles[x]) ∧
  u.tiles[t].vec.queue = s.tiles[t].vec.queue.drop 1 ∧ u.tiles[t].seq = s.tiles[t].seq ∧ u.tiles[t].mov = s.tiles[t].mov ∧
  u.tiles[t].ftb = s.tiles[t].ftb ∧
  (∀ r k j, r ∉ rs → k < 1024 → j < 64 →
    Safety.lane u t r k = Safety.lane s t r k ∧ Safety.line u t r j = Safety.line s t r j) ∧
  u.hbm = s.hbm ∧ u.flt = s.flt ∧ u.dev = s.dev ∧
  u.items.map (·.key) = s.items.map (·.key) ∧ (∀ x ∈ s.items, x.key ≠ i.key → ∃ n, { x with taps := n } ∈ u.items) ∧
  reg u (vecB t) Off.vecInstr = min (reg s (vecB t) Off.vecInstr + 1) (2 ^ 48 - 1)

/-- No tile memory of tile t holds a code fault, no bank of them is reserved for a wide access (R243), and the tile's router
originates packets (R503). -/
def Safety.tileReady (s : State) (t : TileId) : Prop :=
  (∀ m, (tmem s t m).err = []) ∧ (∀ m lo len, bankReserved s t m lo len = false) ∧ routerStops s t = false

/-- A byte of a tile memory. -/
def Safety.byteAt (s : State) (t : TileId) (m : MemSel) (a : Nat) : Byte := fget zeroByte (tmem s t m).bytes a

/-- A 32-bit word of a tile memory, little-endian. -/
def Safety.wordAt (s : State) (t : TileId) (m : MemSel) (a : Nat) : Word :=
  BitVec.ofNat 32 (natOfBytes (memGet s t m a 4))

/-- Element n of t[r] in a register format, in row-major order (R161). -/
def Safety.elem (s : State) (t : TileId) (fmt r n : Nat) : Nat :=
  if packedFmt fmt then (if n % 2 = 0 then loHalf (Safety.lane s t r (n / 2)) else hiHalf (Safety.lane s t r (n / 2)))
  else (Safety.lane s t r n).toNat

/-- Descriptor e of submission queue k is next in turn at quadrant q's dispatcher, and nothing makes its memory accesses wait: once the
ring readers have read, no other queue of the quadrant has one, and e lies in the queue's cuffs without a word that fails; taking it
leaves state t (R312, R314, R322). -/
def Safety.inTurn (s : State) (q : QuadId) (k : Fin 16) (e : SqEntry) (t : State) : Prop :=
  let r := readRings q (Safety.unmarked s)
  Safety.unheld s ∧ dispatchHeld s q = false ∧ nextEntry q k r = some e ∧ (queOf r (.sq q k)).lines = 0 ∧ (queOf r (.sq q k)).bad = [] ∧
  t = popEntry q k r ∧ ∀ j, j ≠ k → nextEntry q j r = none

/-- Its record can be posted: its completion queue takes records of the queue's partition and has room for one. -/
def Safety.cqReady (t : State) (q : QuadId) (k : Fin 16) (e : SqEntry) : Prop :=
  let d := descOf e.words
  cqTakes t (ringPart t (.sq q k)) d.cq = true ∧ queRoom t (.cq (cqOfNat d.cq).1 (cqOfNat d.cq).2) 4 = true

/-- Steps of engines of tile t that may report a fault (R429). -/
def Safety.engineStep (t : TileId) (c : Instr) : Prop :=
  c ∈ [Instr.move t, .streamOpen t, .streamClose t, .vld t, .vst t, .vgth t, .vsct t, .vprg t, .sqLd t, .sqIssue t] ∨
    (∃ m, c = .scrubLine t m) ∨ ∃ f, c = .ftbLoadComplete t f

/-- No descriptor of any tile is in progress in its mover. -/
def Safety.noMoves (s : State) : Prop := ∀ t : TileId, s.tiles[t].mov.active = []

/-- Packet pk, of opcode opc, is the next of port p's link: the link is UP, its CRC and tag pass, it has the LSEQ expected,
it acknowledges nothing, it is well-formed, and no earlier packet stands at the port (R353, R355, R361). -/
def Safety.gwIn (s : State) (p : PortId) (opc : Nat) (pk : GwPacket) : Prop :=
  portUp s p = true ∧ (gwHdrOf pk.header).opc = opc ∧ pk.crc = .good ∧ (pk.tagOk = true ∨ s.ports[p].keyed = false) ∧
    (gwHdrOf pk.header).lseq = s.ports[p].rxSeq.toNat ∧ (gwHdrOf pk.header).ackV = false ∧
    gwMalformed pk = false ∧ s.ports[p].held = []

/-- The same for a request, at a port that takes new requests: it does not drain, and is not drained or updated (R501). -/
def Safety.gwReq (s : State) (p : PortId) (opc : Nat) (pk : GwPacket) : Prop :=
  Safety.gwIn s p opc pk ∧ blockStops s (gwp p) = false

/-- No packet stands at a port, and nothing of a descriptor is to settle: what has changed lets none of them go on. -/
def Safety.nothingHeld (s : State) : Prop :=
  (∀ p : PortId, s.ports[p].held = []) ∧ ∀ t : TileId, ∀ d ∈ s.tiles[t].mov.active, d.failed = false

/-- No descriptor in progress has failed. -/
def Safety.noneFailed (s : State) : Prop := ∀ t : TileId, ∀ d ∈ s.tiles[t].mov.active, d.failed = false

/-- The route bank of port p leads to another chip through port o, which is UP and can send n flits on channel vc now. -/
def Safety.gwRoute (s : State) (p : PortId) (chip : Nat) (o : PortId) (dateline : Bool) (vc n : Nat) : Prop :=
  chip ≠ ownChip s ∧ routeOf s.ports[p].routes chip = some (o, dateline) ∧ portUp s o = true ∧ s.ports[o].waiting = [] ∧
    n ≤ vat s.ports[o].credits vc 0 ∧ retryFlits s.ports[o] + n ≤ 512

/-- Port o has sent a response to request h: its opcode, its status, its payload. -/
def Safety.gwAnswered (u : State) (o : PortId) (h : GwHdr) (opc status : Nat) (payload : List Byte) : Prop :=
  ∃ y, OutEvent.gw o y ∈ u.out ∧ y.payload = payload ∧ y.stomp = false ∧ (gwHdrOf y.header).opc = opc ∧
    (gwHdrOf y.header).status = status ∧ (gwHdrOf y.header).dchip = h.schip ∧ (gwHdrOf y.header).rqid = h.rqid ∧
    (gwHdrOf y.header).vc = 1

/-- A port whose link is DOWN, and one whose link has come UP afresh, with whole credit (R356, R357). -/
def Safety.portDown (g : GwpSt) : GwpSt :=
  { g with link := .down, lanes := 0, keys := none, keying := false, nakSent := false, rxFails := 0 }
def Safety.portUpAs (x : GwTraining) (keys : Option (List Byte × List Byte)) (g : GwpSt) : GwpSt :=
  { g with
    link := .up, lanes := x.lanes, keys := keys, txNonce := 0, rxNonce := 0, keying := false, peer := x.peer
    txSeq := 0, rxSeq := 0, nakSent := false, rxFails := 0, retry := [], waiting := []
    credits := Vector.replicate 3 256 }

/-- The master that a host port stands for (R51). -/
def Safety.portMaster (h : HostId) : Master := if h = 0 then .hp0 else .hp1

/-- Transaction x, of type tt and without a reserved bit, is the oldest that port h has received, and the control space
runs (R386); x taken: its credit goes back, and rest remains. -/
def Safety.camIn (s : State) (h : HostId) (tt : Nat) (x : CamTx) (rest : List CamTx) : Prop :=
  ctlRuns s = true ∧ s.cams[h].rx = x :: rest ∧ (camHdrOf x.header).ttype = tt ∧ camReserved x.header = false
def Safety.camTaken (h : HostId) (x : CamTx) (rest : List CamTx) (s : State) : State :=
  returnCredit h x (modCam h (fun c => { c with rx := rest }) s)

/-- No submission queue has its ring in a host window. -/
def Safety.noHostRings (s : State) : Prop := ∀ (q : QuadId) (k : Fin 16), ringPort s (.sq q k) = none

/-- Every other command that waits is of an opcode of R474. -/
def Safety.restKnown (s : State) (m : Master) : Prop :=
  ∀ k : Fin 3, k ≠ masterIdx m → maskHas s.rot.waiting k.val = true → opcKnown (cmdOf s k).opc = true

/-- Master m's command c, of opcode opc, is the next to run and passes the checks that R475 asks of a signed command of one of
these roles: its header, its challenge, its key, the life-cycle state. -/
def Safety.cmdSigned (s : State) (m : Master) (opc : Nat) (roles : List Nat) (c : RotCmd) : Prop :=
  rotNext s (masterIdx m) opc = true ∧ Safety.restKnown s m ∧ c = cmdOf s (masterIdx m) ∧ cmdBad c roles = false ∧
    c.role ≠ roleUnsigned ∧
    c.challenge = s.rot.challenge.toNat ∧ keyHeld s c = true ∧ lcAccepts s c = true

/-- The same for a command without a signature. -/
def Safety.cmdUnsigned (s : State) (m : Master) (opc : Nat) (c : RotCmd) : Prop :=
  rotNext s (masterIdx m) opc = true ∧ Safety.restKnown s m ∧ c = cmdOf s (masterIdx m) ∧ cmdBad c [roleUnsigned] = false ∧
    c.role = roleUnsigned ∧ lcAccepts s c = true

/-- The command waits no longer; a signature that verified has replaced the challenge (R476). -/
def Safety.cmdOut (m : Master) (s : State) : State :=
  modRot (fun r => { r with waiting := maskClear r.waiting (masterIdx m).val }) s
def Safety.cmdTaken (m : Master) (s : State) : State := newChallenge (Safety.cmdOut m s)

/-- The command answered, after its entry in the audit log (R488, R494). -/
def Safety.cmdAnswer (m : Master) (opc : Nat) (c : RotCmd) (status : Nat) (data : List Byte) (s : State) : State :=
  respond (masterIdx m) opc status data (auditCmd c status false s)

end Sys2Proof
end

