-- ==== Sys2Proof/Certificates/Slice0/Obligations.lean ====
section
/-! DEFINITION. The statements for the provers. -/

open Sys2Proof Sys2Proof.Machine

/-! ## The queue of commands -/

/-- A step takes the front command and runs it with the queue's rest. On an empty queue the device idles (entry 2: the
model's choice). -/
def Obligations.StepRunsCommands : Prop :=
  (
    ∀ (c : Instr) (cs : List Instr) (s : State), step { s with pending := c :: cs } = exec c { s with pending := cs }) ∧
  (
   ∀ s : State, s.pending = [] → step s = .next s)

/-! ## The control space (chapter 02) -/

/-- REGISTER_WRITE by the owner, of a register without a rule of its own (R42, R45): an RW register takes the bits that are
not reserved, an RO register ignores the write, an RWS register's staged copy takes it unless frozen (R60). Nothing else
changes but the master's answer. COUNTER_CLEAR: the counters of the block's page, at offsets 0x100 to 0x1FF (to 0x3FF on the
collector's page), return to their reset values, and the power controller's remainders below 1 mJ go with them; no other
register changes, and nothing else but the answer. -/
def Obligations.RegisterWrites : Prop :=
  (
    ∀ (m : Master) (addr : BitVec 25) (v : Word) (s : State) (p : PageRef) (r : RegRow) (base : Nat),
      Safety.owns m s → Safety.regAccess s addr p r base → Nat.land v.toNat (mustBeZero p.kind base) = 0 →
      (r.acc = .rw → writeOwn (masterIdx m) p base (if r.wide then rowValue r (regAt s (homeBase p + base)) v.toNat
            (highHalf (addr.toNat % 4096) base) else v.toNat) s = none →
        exec (.registerWrite m 4 addr v) s = .next (Safety.wrote m (setRegAt (homeBase p + base)
          (rowValue r (regAt s (homeBase p + base)) v.toNat (highHalf (addr.toNat % 4096) base)) s))) ∧
      (r.acc = .ro → exec (.registerWrite m 4 addr v) s = .next (Safety.wrote m s)) ∧
      (r.acc = .rws → p.kind ≠ .pwr → frozen s p = false →
        exec (.registerWrite m 4 addr v) s = .next (Safety.wrote m (setRegAt (homeBase p + base + 0x800)
          (rowValue r (regAt s (homeBase p + base + 0x800)) v.toNat (highHalf (addr.toNat % 4096) base)) s)))) ∧
  (
    ∀ (m : Master) (b : Block) (s : State) (p : PageRef) (r : RegRow),
      Safety.owns m s → pageAt (pageBase b 0 / 4096) = some p → p.secure = false → p.kind ∉ [.rotSlot, .mtrWin] →
      regNamed p 0xC0 = some (r, 0xC0) → r.wide = false → r.acc ∉ [.ro, .rw, .rws, .pop] → leadRefused s p 0xC0 = false →
      Nat.land 1 (mustBeZero p.kind 0xC0) = 0 → writeOwn (masterIdx m) p 0xC0 1 s = none →
      ∃ t : State, exec (.counterClear m b) s = .next (Safety.wrote m t) ∧
        t = { s with regs := t.regs, pwr := if p.kind = .pwr then { s.pwr with frac := [] } else s.pwr } ∧
        (∀ o, 0x100 ≤ o → o < (if p.kind = .flt then 0x400 else 0x200) →
          regAt t (homeBase p + o) = regReset (homeBase p + o) % 2 ^ 64) ∧
        (∀ a, a < homeBase p + 0x100 ∨ homeBase p + (if p.kind = .flt then 0x400 else 0x200) ≤ a → regAt t a = regAt s a))

/-- A write by a master that is not the owner, to anything but DEV_CLAIM, its own command slot and the doorbells and heads
assigned to it, is dropped, answered E_DENIED and counted (R52). SECURE_PAGE_READ: by a master that is not the owner it
returns zero, answers E_DENIED and is counted in DEV_DENIED_CNT (R50); the owner is answered DONE. -/
def Obligations.AccessRefused : Prop :=
  (
    ∀ (m : Master) (addr : BitVec 25) (v : Word) (s : State) (p : PageRef), ctlRuns s = true → addr.toNat % 4 = 0 →
      pageAt (addr.toNat / 4096) = some p → ownerId s ≠ (masterIdx m).val → ownSlot (masterIdx m) p = false →
      (p.kind = .own → addr.toNat % 4096 ≠ Off.devClaim) → assignedReg s (masterIdx m) p (addr.toNat % 4096) = false →
      exec (.registerWrite m 4 addr v) s = .next (Safety.denied m s)) ∧
  (
    ∀ (m : Master) (page : Fin 16) (off : BitVec 12) (s : State), ctlRuns s = true → off.toNat % 4 = 0 → page ≠ 0 →
      (ownerId s ≠ (masterIdx m).val → exec (.securePageRead m page off) s = .next (Safety.denied m s)) ∧
      (ownerId s = (masterIdx m).val →
        exec (.securePageRead m page off) s = .next (answered (masterIdx m) stDone 0 s)))

/-- Accesses from one master take effect in the order in which they arrive, and a read that follows a write from the same
master to the same register returns the written value, or for an RWS register the written staged value (R44): the owner
writes a 32-bit register without a rule of its own and reads it back, the live offset of an RW register and the staged
offset of an RWS register; the two commands wait in this order, and two steps take them. -/
def Obligations.ReadAfterWrite : Prop :=
  ∀ (m : Master) (addr : BitVec 25) (v : Word) (s : State) (p : PageRef) (r : RegRow) (base : Nat) (rest : List Instr),
    Safety.owns m s → Safety.regAccess s addr p r base → mustBeZero p.kind base = 0 → r.wide = false →
    (r.acc = .rw → writeOwn (masterIdx m) p base v.toNat s = none → timeDriven p.kind base = false →
      (∀ t : State, shownVal t (masterIdx m) p base = none) →
      ∃ t u, step { s with pending := .registerWrite m 4 addr v :: .lowWordRead m 4 addr :: rest } = .next t ∧
        step t = .next u ∧ u.pending = rest ∧
        u.masters[masterIdx m].status = stDone ∧ u.masters[masterIdx m].value.toNat = Nat.land v.toNat r.mask % 2 ^ 32) ∧
    (r.acc = .rws → p.kind ≠ .pwr → frozen s p = false →
      ∃ t u, step { s with pending := .registerWrite m 4 addr v :: .lowWordRead m 4 (addr + 0x800) :: rest } = .next t ∧
        step t = .next u ∧ u.pending = rest ∧
        u.masters[masterIdx m].status = stDone ∧ u.masters[masterIdx m].value.toNat = Nat.land v.toNat r.mask % 2 ^ 32)

/-- An access of another width or alignment than one aligned 32-bit word is refused with E_ALIGN and has no effect; a read
of the low word of a register of two words answers that word and holds the high word for the reading master, whose next read
of the high word answers the held value, whatever has happened to the register meanwhile (R43). A register that the passing
of time moves shows a free value once its engine has had work (entries 4 and 7). -/
def Obligations.WideRegisterRead : Prop :=
  (∀ (m : Master) (n : Nat) (addr : BitVec 25) (v : Word) (s : State), ctlRuns s = true → (n ≠ 4 ∨ addr.toNat % 4 ≠ 0) →
    exec (.registerWrite m n addr v) s = .next (answered (masterIdx m) eAlign 0 s) ∧
    exec (.lowWordRead m n addr) s = .next (answered (masterIdx m) eAlign 0 s)) ∧
  ∀ (m : Master) (addr : BitVec 25) (s : State) (p : PageRef) (r : RegRow),
    ctlRuns s = true → addr.toNat % 8 = 0 → pageAt (addr.toNat / 4096) = some p → p.secure = false → p.kind ≠ .mtrWin →
    0x80 ≤ addr.toNat % 4096 → addr.toNat % 4096 < 0x7F8 → regNamed p (addr.toNat % 4096) = some (r, addr.toNat % 4096) →
    regNamed p (addr.toNat % 4096 + 4) = some (r, addr.toNat % 4096) → r.wide = true →
    let free := timeDriven p.kind (addr.toNat % 4096) && mayHaveWaited s p (addr.toNat % 4096)
    let x := if free then (takeFree s).1 % 2 ^ 48 else regValue s (masterIdx m) p (addr.toNat % 4096)
    let s0 := if free then (takeFree s).2 else s
    exec (.lowWordRead m 4 addr) s = .next (answered (masterIdx m) stDone (x % 2 ^ 32) (modMaster (masterIdx m)
      (fun k => { k with holdAddr := some addr.toNat, holdHigh := BitVec.ofNat 32 (x / 2 ^ 32) }) s0)) ∧
    (∀ h : Word, s.masters[masterIdx m].holdAddr = some addr.toNat → s.masters[masterIdx m].holdHigh = h →
      exec (.lowWordRead m 4 (addr + 4)) s = .next (answered (masterIdx m) stDone h.toNat (modMaster (masterIdx m)
        (fun k => { k with holdAddr := none, holdHigh := 0 }) s0)))

/-! ## Packets, handshakes and the common header (chapters 01, 02, 15) -/

/-- PACKET_ARRIVAL of the next packet in SEQ order from its source in its class, for the block's own partition, at a block
that is not fenced: one of the live generation, or a fabric arrival, is processed, in the order of arrival (R33, R364); one
of the staged generation waits for the switch; a command-class packet with POISON set is dropped and counted by the router in
TL_CMD_DROP_CNT (R34); a data or command packet of another partition is discarded and its item fails with E_PARTITION, a
command counted too (R31); one of neither generation fails its item with E_INTERNAL (R33); a fenced block takes the packets of
the items it holds as before, and ends the item of any other FENCED. The source's PG_SEQ has then reached the packet's SEQ (R36); a packet whose SEQ does not follow
the last one taken does not arrive (R37). HANDSHAKE_STALL: a stall that reaches TL_HS_LIMIT beats is counted and reported
once, with the stalling block's id in DETAIL (R24); with a limit of 0, or for a stall already reported, nothing is reported;
a count below the limit ends an earlier stall. A stall on the collector itself is counted, and brings the safe state (R436). -/
def Obligations.RouterEvents : Prop :=
  (
    ∀ (dst src : Block) (tag : DWord) (s : State), inOrder s dst src tag = true →
      let g := BitVec.ofNat 8 (tagGen tag.toNat)
      let s1 := noteArrival dst src tag s
      (poisonedCommand tag = false → wrongPart s dst tag = false →
        (isFenced s dst = false ∨ (itemsIn s dst).contains (tagKey tag) = true) →
        (g = (hdr s dst).genLive ∨ fabricArrival tag = true) →
        exec (.packetArrival dst src tag) s = .next (modHdr dst (fun h => { h with rx := h.rx ++ [tag] }) s1)) ∧
      (poisonedCommand tag = false → wrongPart s dst tag = false →
        (isFenced s dst = false ∨ (itemsIn s dst).contains (tagKey tag) = true) → fabricArrival tag = false →
        g ≠ (hdr s dst).genLive →
        ((hdr s dst).genPend = true → g = (hdr s dst).genStaged →
          exec (.packetArrival dst src tag) s = .next (modHdr dst (fun h => { h with held := h.held ++ [tag] }) s1)) ∧
        ((hdr s dst).genPend = false ∨ g ≠ (hdr s dst).genStaged → ∀ i, findItem s (tagKey tag) = some i →
          exec (.packetArrival dst src tag) s = .next (failItem (tagKey tag) i.tile eInternal dst s1))) ∧
      (poisonedCommand tag = true →
        exec (.packetArrival dst src tag) s = .next (bump32 (.tile (watcher s dst) .tl) Off.tlCmdDropCnt s1)) ∧
      (poisonedCommand tag = false → wrongPart s dst tag = true → tagClass tag.toNat < 2 →
        ∀ i, findItem s (tagKey tag) = some i →
          exec (.packetArrival dst src tag) s = .next (failItem (tagKey tag) i.tile ePartition dst (dropCommand dst tag s1))) ∧
      (poisonedCommand tag = false → wrongPart s dst tag = true → 2 ≤ tagClass tag.toNat →
        exec (.packetArrival dst src tag) s = .next s1) ∧
      (poisonedCommand tag = false → wrongPart s dst tag = false → isFenced s dst = true →
        (itemsIn s dst).contains (tagKey tag) = false →
          exec (.packetArrival dst src tag) s = .next (fenceItem dst (tagKey tag) s1)) ∧
      (s1 = { s with hdrs := s1.hdrs } ∧ (∀ b, hdr s1 b = { hdr s b with sent := (hdr s1 b).sent, last := (hdr s1 b).last }) ∧
        (seqBefore (hdr s src).seq.toNat (tagSeq tag.toNat) = true → (hdr s1 src).seq.toNat = tagSeq tag.toNat) ∧
        inOrder s1 dst src tag = false)) ∧
  (
    ∀ (dst src : Block) (tag : DWord) (s : State), inOrder s dst src tag = false →
      exec (.packetArrival dst src tag) s = .next s) ∧
  (
    ∀ (t : TileId) (nbr : Block) (beats : Nat) (s : State),
      let lim := fld (reg s (.tile t .tl) Off.tlHsLimit) 23 0
      (lim ≠ 0 → lim ≤ beats → sameStall s t nbr beats = false → nbr ≠ .flt →
        ∃ u, exec (.handshakeStall t nbr beats) s = .next u ∧
          u = { s with tiles := (noteStall t nbr beats s).tiles, regs := u.regs, hdrs := u.hdrs,
                       flt := { s.flt with inflight := s.flt.inflight ++
                         [⟨BitVec.ofNat 12 (blockId (.tile t .tl)), 0x30, 0, 0, (hdr s (.tile t .tl)).seq + 1,
                           BitVec.ofNat 25 (blockId nbr)⟩] } } ∧
          reg u (.tile t .tl) Off.tlHsStallCnt = min (reg s (.tile t .tl) Off.tlHsStallCnt + 1) (2 ^ 32 - 1) ∧
          (∀ a, a ≠ pageBase (.tile t .tl) 0 + Off.tlHsStallCnt → regAt u a = regAt s a) ∧
          (∀ b, hdr u b = if b = .tile t .tl then { hdr s b with sent := (hdr s b).sent + 1 } else hdr s b) ∧
          ∀ n, beats < n → sameStall u t nbr n = true) ∧
      (lim ≠ 0 → lim ≤ beats → sameStall s t .flt beats = false →
        ∃ u, exec (.handshakeStall t .flt beats) s = .next u ∧ u.flt.safe = true ∧
          reg u (.tile t .tl) Off.tlHsStallCnt = min (reg s (.tile t .tl) Off.tlHsStallCnt + 1) (2 ^ 32 - 1)) ∧
      (lim = 0 → exec (.handshakeStall t nbr beats) s = .next s) ∧
      (lim ≠ 0 → lim ≤ beats → sameStall s t nbr beats = true →
        exec (.handshakeStall t nbr beats) s = .next (noteStall t nbr beats s)) ∧
      (beats < lim → exec (.handshakeStall t nbr beats) s = .next (dropStall t nbr s) ∧
        ∀ n, sameStall (dropStall t nbr s) t nbr n = false))

/-- PG_EN_SET of an OFF block by the owner raises the drain probe and EN reads 1, the block staying OFF until the probe's
acknowledge (R530); a block of a retired tile, a wedged block, one of a failed quadrant, and every block in the safe state
refuse it. PG_EN_CLEAR of a block that is DRAINED, or FENCED with no item, turns it OFF, and is refused with E_DENIED while
the block is IDLE, BUSY, DRAINING or UPDATING, or FENCED with an item. A
write of the value that EN has changes nothing. DRAIN of a drainable block stops new items: an enabled block reads DRAINING,
and a drain probe is raised (R501); a block that is not drainable refuses it. DRAIN_COMPLETE turns a DRAINING block without
a probe or work in progress DRAINED. REARM of a DRAINED or FENCED block raises the drain probe (R434); the acknowledge of a
probe ends it, and lets the watching router report a later stall on the block, and an enabled block without items reads IDLE
at once (R530); a REARM of any other block has no effect; REARM_COMPLETE of a block whose probe is
acknowledged and which has no item makes it IDLE, DRAIN and REARM reading 0. A block of a port also trains its link anew,
where its configuration enables it. Packets that stand at a Gwetre port for want of the block are then tried again, and a survival engine's
requests that waited for its head tile's router leave (entries 18 and 22); where none stands, nothing more changes. -/
def Obligations.BlockModes : Prop :=
  (
    ∀ (m : Master) (b : Block) (s : State), Safety.owns m s →
      ((hdr s b).en = false → (hdr s b).mode = .off → stuckBlock s b = false → blockFailed s b = false →
        exec (.pgEnSet m b) s = .next (Safety.wrote m (sendProbe b
          (modHdr b (fun h => { h with en := true, enPend := true }) s)))) ∧
      ((hdr s b).en = false → (stuckBlock s b = true ∨ blockFailed s b = true) →
        exec (.pgEnSet m b) s = .next (Safety.denied m s)) ∧
      ((hdr s b).en = false → (hdr s b).mode ≠ .off → stuckBlock s b = false → blockFailed s b = false →
        exec (.pgEnSet m b) s = .next (Safety.wrote m (modHdr b (fun h => { h with en := true, enPend := false }) s))) ∧
      ((hdr s b).en = true → exec (.pgEnSet m b) s = .next (Safety.wrote m s)) ∧
      ((hdr s b).en = false → exec (.pgEnClear m b) s = .next (Safety.wrote m s)) ∧
      ((hdr s b).en = true → ((hdr s b).mode = .drained ∨ ((hdr s b).mode = .fenced ∧ busy s b = false)) →
        exec (.pgEnClear m b) s = .next (Safety.wrote m
          (modHdr b (fun h => { h with en := false, mode := .off, enPend := false, rearmReq := false }) s))) ∧
      ((hdr s b).en = true → ((hdr s b).mode = .on ∨ (hdr s b).mode = .draining ∨
          (hdr s b).mode = .updating ∨ ((hdr s b).mode = .fenced ∧ busy s b = true)) →
        exec (.pgEnClear m b) s = .next (Safety.denied m s))) ∧
  (
    ∀ (m : Master) (b : Block) (s : State), ctlRuns s = true → ownerId s = (masterIdx m).val → s.flt.safe = true →
      (hdr s b).en = false → exec (.pgEnSet m b) s = .next (Safety.denied m s)) ∧
  (
    (∀ (m : Master) (b : Block) (s : State), Safety.owns m s →
      (drainable b = true → exec (.drain m b) s = .next (Safety.wrote m (sendProbe b (modHdr b (fun h =>
          { h with drainReq := true, mode := if h.mode = .on then .draining else h.mode }) s)))) ∧
      (drainable b = false → exec (.drain m b) s = .next (Safety.denied m s))) ∧
    (∀ (b : Block) (s : State), (hdr s b).mode = .draining → (hdr s b).probe = false → busy s b = false →
      exec (.drainComplete b) s = .next (modHdr b (fun h => { h with mode := .drained }) s)) ∧
    (∀ (b : Block) (s : State), (hdr s b).mode ≠ .draining ∨ (hdr s b).probe = true ∨ busy s b = true →
      exec (.drainComplete b) s = .next s)) ∧
  (
    (∀ (m : Master) (b : Block) (s : State), Safety.owns m s →
      ((hdr s b).mode = .drained ∨ (hdr s b).mode = .fenced) → stuckBlock s b = false → tableWaits s b = false →
        exec (.rearm m b) s = .next (Safety.wrote m (sendProbe b (modHdr b (fun h => { h with rearmReq := true }) s)))) ∧
    (∀ (m : Master) (b : Block) (s : State), Safety.owns m s →
      ((hdr s b).mode ≠ .drained ∧ (hdr s b).mode ≠ .fenced) ∨ stuckBlock s b = true ∨ tableWaits s b = true →
        exec (.rearm m b) s = .next (Safety.wrote m s)) ∧
    (∀ (b : Block) (s : State), (hdr s b).probe = true → (hdr s b).enPend = false →
      exec (.drainProbeAck b) s = .next (dropStall (watcher s b) b
        (modHdr b (fun h => { h with probe := false }) s))) ∧
    (∀ (b : Block) (s : State), (hdr s b).probe = true → (hdr s b).enPend = true →
      let s1 := dropStall (watcher s b) b (modHdr b (fun h => { h with probe := false }) s)
      (busy s1 b = true ∨ isWedged s1 b = true → exec (.drainProbeAck b) s = .next s1) ∧
      (busy s1 b = false → isWedged s1 b = false → exec (.drainProbeAck b) s = exec (.rearmComplete b) s1)) ∧
    (∀ (b : Block) (s : State), (hdr s b).probe = false → exec (.drainProbeAck b) s = .next s) ∧
    (∀ (b : Block) (s : State), (hdr s b).probe = true ∨ busy s b = true ∨ isWedged s b = true ∨
      ((hdr s b).enPend = false ∧ (hdr s b).rearmReq = false) → exec (.rearmComplete b) s = .next s) ∧
    (∀ (b : Block) (s : State), (hdr s b).probe = false → busy s b = false → isWedged s b = false →
      ((hdr s b).enPend = true ∨ (hdr s b).rearmReq = true) →
      let up := modHdr b (fun h => { h with mode := .on, drainReq := false, rearmReq := false, enPend := false })
      ((∀ p, b ≠ .gwp p) → (∀ h, b ≠ .cam h) → (∀ t, b ≠ .tile t .mnt ∧ b ≠ .tile t .tl) →
        exec (.rearmComplete b) s = .next (serveAll (up s))) ∧
      (∀ t, b = .tile t .mnt → exec (.rearmComplete b) s = .next (serveAll (up (adoptBypasses t s)))) ∧
      (∀ t, b = .tile t .tl → exec (.rearmComplete b) s =
        .next (serveAll (match headOf t with | some q => pumpSrv q 64 (up s) | none => up s))) ∧
      (∀ p, b = .gwp p → bitOf (reg s b Off.gwpCfg) 0 = true → s.ports[p].link ≠ .up →
        exec (.rearmComplete b) s = .next (serveAll (startTraining p (up s)))) ∧
      (∀ h, b = .cam h → bitOf (reg s b Off.camCfg) 0 = true → s.cams[h].link ≠ .up →
        exec (.rearmComplete b) s = .next (serveAll (pumpAll (modCam h (fun c => { c with link := .training }) (up s)))))) ∧
    (∀ u : State, (∀ p : PortId, u.ports[p].held = []) → (∀ t : TileId, ∀ d ∈ u.tiles[t].mov.active, d.failed = false) →
      serveAll u = u))

/-! ## Ownership, generations (chapter 02) -/

/-- DEV_CLAIM: a valid claim takes a device without an owner, or from an owner that has named the claimant; one by the owner
itself changes nothing; every other claim is refused (R54, R56). A claim is valid if its key, its master id and its reserved
bits are right, and none is before ownership opens (R496). DEV_HANDOVER by the owner names a successor, another one, or none
by writing 3; the owner stays the owner (R56). -/
def Obligations.Ownership : Prop :=
  (
    ∀ (m : Master) (v : Word) (s : State), ctlRuns s = true →
      let valid := 7 ≤ s.dev.phase ∧ s.dev.halt = false ∧ fld v.toNat 15 8 = 0xC5 ∧ fld v.toNat 1 0 = (masterIdx m).val ∧
        fld v.toNat 7 2 = 0 ∧ fld v.toNat 31 16 = 0
      (valid → s.dev.owner = none ∨ (s.dev.owner ≠ some m ∧ s.dev.handover = some m) →
        exec (.devClaim m v) s = .next (Safety.wrote m
          (modDev (fun d => { d with owner := some m, forced := false, handover := none }) s))) ∧
      (valid → s.dev.owner = some m → exec (.devClaim m v) s = .next (Safety.wrote m s)) ∧
      (¬ valid ∨ (s.dev.owner ≠ none ∧ s.dev.owner ≠ some m ∧ s.dev.handover ≠ some m) →
        exec (.devClaim m v) s = .next (Safety.denied m s))) ∧
  (
    ∀ (m : Master) (v : Word) (s : State), ctlRuns s = true → s.dev.owner = some m → v.toNat < 4 →
      exec (.devHandover m v) s = .next (Safety.wrote m (modDev (fun d => { d with handover := masterOf v.toNat }) s)))

/-- DEV_GEN_COMMIT by the owner (R59, R61): with no commit pending, the next number and every block accepting, a commit
starts; while one is pending a valid one is queued; any other is refused: BLOCK 0x001 of DEV_GEN_STAT names a wrong number or
a full queue, and a block that does not accept its staged values is named itself, the first of them. A commit that
starts makes every block's number staged, with its commit notice at every dispatcher (R62). -/
def Obligations.GenerationCommit : Prop :=
  ∀ (m : Master) (v : Word) (s : State), Safety.owns m s →
    let next := v.toNat = (s.dev.genTarget + 1).toNat
    (next → s.dev.genPend = false → s.dev.genQueued = false → firstRefuser s = none → s.dev.qfail = 0 →
      (∀ t : TileId, s.tiles[t].retired = false) →
      ∃ t, exec (.devGenCommit m v) s = .next (Safety.wrote m t) ∧
        t.dev = { s.dev with genTarget := s.dev.genTarget + 1, genPend := true, genRefused := false, genBlock := 0xFFF,
                             routerSent := 0 } ∧
        (∀ b, hdr t b = { hdr s b with genStaged := s.dev.genTarget + 1, genPend := true, markers := 0,
                                       sent := if b = .dev then (hdr s b).sent + 4 else (hdr s b).sent }) ∧
        (∀ q : QuadId, t.quads[q] = { s.quads[q] with notice := true, placed := false, marked := 0 }) ∧
        t = { s with dev := t.dev, hdrs := t.hdrs, quads := t.quads }) ∧
    (next → s.dev.genPend = true → s.dev.genQueued = false →
      exec (.devGenCommit m v) s = .next (Safety.wrote m (modDev (fun d => { d with genQueued := true, genRefused := false }) s))) ∧
    (∀ b, next → s.dev.genPend = false → s.dev.genQueued = false → firstRefuser s = some b →
      accepts s b = false ∧ exec (.devGenCommit m v) s = .next (Safety.denied m
        (modDev (fun d => { d with genRefused := true, genBlock := BitVec.ofNat 12 (blockId b) }) s))) ∧
    (¬ next ∨ s.dev.genQueued = true →
      exec (.devGenCommit m v) s = .next (Safety.denied m (modDev (fun d => { d with genRefused := true, genBlock := 0x001 }) s)))

/-- The placement of markers in a quadrant (R62 step 4, R308): DISPATCHER_MARKER_PLACE puts a marker of the pending
generation behind every item of each working tile's work stream that has none yet, and the dispatcher stamps the new
generation from then on; MARKER_TAKE by an idle sequencer brings it to every block of the tile that has not switched. The
switches of a commit (R62 steps 5, 6, 8 and 9): a tile's block switches once its marker has come and no item of its live
generation is in progress; a tile's router sends the marker on once every block of the tile has switched; a peripheral block
switches when all 64 markers have come and no item of its live generation is in progress in it (of which a peripheral shows the packets
that it still holds), a system block when every quadrant's markers are placed. At its switch a block has the staged
generation live, its RWS registers hold their staged copies, and its waiting packets are processed after those before; but the function
tables swap the banks that FTB_GEN_SWAP names, a change of the power registers waits for the next window, and a port takes its staged
routes. -/
def Obligations.GenerationSwitch : Prop :=
  (
    (∀ (q : QuadId) (s : State), s.quads[q].notice = true → s.dev.genPend = true →
      (∀ t : TileId, s.tiles[t].retired = false ∧ s.tiles[t].work.lines = 0 ∧ spillWords s.tiles[t].work ≤ 30) → (∃ b, b ≠ .qdsp q ∧ b ≠ .qque q ∧ (hdr s b).genPend = true) →
      ∃ t, exec (.dispatcherMarkerPlace q) s = .next t ∧ t = { Safety.unmarked s with tiles := t.tiles, quads := t.quads, hdrs := t.hdrs } ∧
        t.quads[q].placed = true ∧ t.quads[q].notice = false ∧ t.quads[q].stampGen = s.dev.genTarget ∧
        (∀ b, b = .qdsp q ∨ b = .qque q → (hdr t b).genLive = (hdr s b).genStaged ∧ (hdr t b).genPend = false ∧
          (hdr t b).held = [] ∧ (hdr t b).rx = (hdr s b).rx ++ (hdr s b).held) ∧
        (∀ k : Fin 16, t.tiles[quadTile q k] = (if maskHas s.quads[q].marked k.val then s.tiles[quadTile q k]
          else { s.tiles[quadTile q k] with work := { s.tiles[quadTile q k].work with
            pkts := s.tiles[quadTile q k].work.pkts ++ [⟨.marker s.dev.genTarget, 2⟩] } })) ∧
        (∀ x : TileId, quadOf x ≠ q → t.tiles[x] = s.tiles[x])) ∧
    (∀ (t : TileId) (g : Byte) (n : Nat) (rest : List QPkt) (s : State), s.tiles[t].work.pkts = ⟨.marker g, n⟩ :: rest →
      s.tiles[t].work.lines = 0 → s.tiles[t].work.bad = [] → s.tiles[t].seq.running = none →
      ∃ u, exec (.markerTake t) s = .next u ∧ u = { Safety.unmarked s with tiles := u.tiles, hdrs := u.hdrs } ∧
        u.tiles = s.tiles.set t { s.tiles[t] with work := { s.tiles[t].work with pkts := rest, hd := 0 } } ∧
        (∀ x, hdr u (.tile t x) = if (hdr s (.tile t x)).genPend then { hdr s (.tile t x) with markers := 1 }
          else hdr s (.tile t x)))) ∧
  (
    (∀ (t : TileId) (u : TileUnit) (s : State), (hdr s (.tile t u)).genPend = true → (hdr s (.tile t u)).markers ≠ 0 →
      oldItemsDone s (.tile t u) = true →
      exec (.tileBlockGenSwitch t u) s = .next (settleGen (tileRoots t (switchBlock (.tile t u) s)))) ∧
    (∀ (b : Block) (s : State), b ∈ pathBlocks → (hdr s b).genPend = true → (hdr s b).markers = BitVec.allOnes 64 →
      ((hdr s b).mode = .off ∨ (hdr s b).mode = .fenced ∨ (hdr s b).genLive ∉ pathGens s b →
        exec (.peripheralGenSwitch b) s = .next (settleGen (switchBlock b s))) ∧
      ((hdr s b).mode ≠ .off → (hdr s b).mode ≠ .fenced → (hdr s b).genLive ∈ pathGens s b →
        exec (.peripheralGenSwitch b) s = .next s)) ∧
    (∀ (b : Block) (s : State), b ∈ systemBlocks → (hdr s b).genPend = true → (∀ q : QuadId, s.quads[q].placed = true) →
      exec (.systemBlockGenSwitch b) s = .next (settleGen (switchBlock b s))) ∧
    (∀ (t : TileId) (s : State), s.dev.genPend = true → tileSwitched s t = true → maskHas s.dev.routerSent t.val = false →
      ∃ u, exec (.routerMarkerSend t) s = .next u ∧ u = { s with dev := u.dev, hdrs := u.hdrs } ∧
        u.dev = { s.dev with routerSent := maskSet s.dev.routerSent t.val } ∧
        (∀ b, hdr u b = if b ∈ pathBlocks ∧ (hdr s b).genPend then { hdr s b with markers := maskSet (hdr s b).markers t.val }
          else if b = .tile t .tl then { hdr s b with sent := (hdr s b).sent + 42 } else hdr s b)) ∧
    (∀ (b : Block) (s : State), (hdr s b).genPend = true → b ∈ [.own, .flt, .mtr, .rot] →
      ∃ u, switchBlock b s = u ∧ u = { s with regs := u.regs, hdrs := u.hdrs } ∧
        hdr u b = { hdr s b with genLive := (hdr s b).genStaged, genPend := false, markers := 0,
                                 rx := (hdr s b).rx ++ (hdr s b).held, held := [] })) ∧
  (
    ∀ (b : Block) (s : State), (hdr s b).genPend = true →
      let u := switchBlock b s
      let switched := ∀ c, hdr u c = if blockId c = blockId b then { hdr s b with
        genLive := (hdr s b).genStaged, genPend := false, markers := 0, rx := (hdr s b).rx ++ (hdr s b).held, held := [] } else hdr s c
      let adopted := (∀ a ∈ rwsAddrs b, regAt u a = stagedAt s a) ∧ ∀ a, a ∉ rwsAddrs b → regAt u a = regAt s a
      (b ≠ .pwr → (∀ t, b ≠ .tile t .ftb) → (∀ p, b ≠ .gwp p) → (∀ h, b ≠ .cam h) → (b = .dev → s.rot.mapPending = false) →
        switched ∧ adopted) ∧
      (∀ t, b = .tile t .ftb → switched ∧ stagedReg u b Off.ftbGenSwap = 0 ∧ ∀ k : Fin 8, u.tiles[t].ftb[k] =
        if bitOf (stagedReg s b Off.ftbGenSwap) k.val then swapBanks s.tiles[t].ftb[k] else s.tiles[t].ftb[k]) ∧
      (b = .pwr → switched ∧ u.regs = s.regs ∧ u.pwr.next = (rwsAddrs b).map (fun a => (a, stagedAt s a))) ∧
      (∀ p, b = .gwp p → bitOf (stagedReg s b Off.gwpCfg) 0 = bitOf (reg s b Off.gwpCfg) 0 →
        switched ∧ adopted ∧ u.ports[p].routes = s.rot.routesStaged) ∧
      (∀ h, b = .cam h → bitOf (stagedReg s b Off.camCfg) 0 = bitOf (reg s b Off.camCfg) 0 → Safety.noHostRings s →
        switched ∧ adopted))

/-! ## Reset, start-up and service (chapters 02, 18, 19) -/

/-- A full reset by DEV_RESET (cause 2), which is answered first, or by RESET_N (cause 1), which holds the device until it
rises: every item in flight ends without a record, ownership is unassigned, every register of the control space holds its
reset value (MNT_GANG of a retired tile MODE 3), the collector's log is empty, partition 0 holds every quadrant, the key
epochs advance but with retain, the FATAL record survives with retain only, the meter's registers and the life cycle stay
(R65, R66, R70, R71); SAFE_N is released (R519). A DEV_RESET while a reset is in progress is answered E_DENIED (R69). -/
def Obligations.FullReset : Prop :=
  (∀ (m : Master) (v : Word) (s : State), Safety.owns m s → s.dev.ready = true → (v = 0x3C00 ∨ v = 0x3C01) →
    ∃ t, exec (.devReset m v) s = .next t ∧ Safety.resetFrom 2 (bitOf v.toNat 0) s t ∧ t.dev.resetLow = false ∧
      t.masters[masterIdx m].status = stDone ∧ (s.rot.lostClks = [] → slotFails s s.dev.slotB = false → safeN t = true)) ∧
  (∀ (retain : Bool) (s : State), s.dev.powered = true → s.dev.resetLow = false →
    ∃ t, exec (.resetNAssert retain) s = .next t ∧ Safety.resetFrom 1 retain s t ∧ t.dev.resetLow = true ∧ t.dev.phase = 0 ∧
      t.rot.repairTiles = s.rot.repairTiles ∧ t.rot.repairCols = s.rot.repairCols ∧ safeN t = true) ∧
  (∀ (m : Master) (v : Word) (s : State), Safety.owns m s → s.dev.ready = false → (v = 0x3C00 ∨ v = 0x3C01) →
    exec (.devReset m v) s = .next (Safety.denied m s))

/-- The start of power-up (R495 steps 1, 3 to 5) and its end without power (R523): RESET_N_DEASSERT lets the root of trust
boot from a firmware slot that verifies, with a new challenge and a BOOT entry in the audit log, at power-up with new key epochs (R479), and
the power controller write every rail once toward its table's voltage (PHASE 2); keys, the life cycle and all else that the root of trust
holds stay, with the field-repair record where it verifies, and an empty record, noted in the audit log, where it does not, which is
free (R518; entry 31: the model's choice); with
no slot that verifies start-up halts with E_DENIED (R497). POWER_LOSS
leaves the device cold: fuses, installed images, the field-repair record and the meter's committed registers stay, and RSEQ and EVENT never
go back (R416, R417); tile memories and all else are lost. REFCLK_LOSS of the HBM or the power controller's reference clock (R525): the root of trust
reports it once the device is ready, and halts start-up before; a loss of one of them already known changes nothing; a loss
of the fabric's takes every link DOWN, and one of the host ports' theirs.
PARTITION_ZERO_FILL_COMPLETE lets the quadrants of the partition that were being filled read as zeros (R485). -/
def Obligations.PowerUpAndLoss : Prop :=
  (
    (∀ s : State, s.dev.resetLow = true → slotFails s false = true → slotFails s true = true →
      exec .resetNDeassert s = .next (modDev (fun d => { d with halt := true, code := eDenied })
        (modRot (fun r => { r with lostClks := [] }) (modDev (fun d => { d with resetLow := false, powered := true }) s)))) ∧
    (∀ s : State, s.dev.resetLow = true → slotFails s s.dev.slotB = false ∨ slotFails s (!s.dev.slotB) = false →
      let booted (n : Nat) (r t : RotSt) := t = { r with
          lostClks := [], challenge := BitVec.ofNat 128 (takeFree s).1, epochs := t.epochs, audit := t.audit,
          auditNext := r.auditNext + n, auditHead := t.auditHead, signedAt := t.signedAt, signedHead := t.signedHead } ∧
        t.epochs = if s.dev.cause = 0 then Vector.ofFn (fun p : Fin 4 =>
          BitVec.ofNat 32 ((takeFrees 4 (takeFree s).2).1.getD p.val 0)) else r.epochs
      ∃ t, exec .resetNDeassert s = .next t ∧
        t.dev = { s.dev with resetLow := false, powered := true, phase := 2,
                             slotB := if slotFails s s.dev.slotB then !s.dev.slotB else s.dev.slotB } ∧
        t.out = s.out ++ allQuads.flatMap (fun q => [false, true].map (fun r =>
          OutEvent.avs (avsIface q) (BitVec.ofNat 2 (avsSelect q r)) (stepToward (railNow (pq s q) r) (railTarget s q r)))) ∧
        (∀ q r, railGoal (pq t q) r = stepToward (railNow (pq s q) r) (railTarget s q r) ∧ railNow (pq t q) r = railNow (pq s q) r) ∧
        (booted 1 s.rot t.rot ∧ t = { s with dev := t.dev, rot := t.rot, pwr := t.pwr, out := t.out, nfree := t.nfree } ∨
          booted 2 { s.rot with repairCols := [], repairTiles := [], repairChans := [] } t.rot ∧
            ∀ x : TileId, t.tiles[x].retired = false ∧ t.tiles[x].mnt.field = [])) ∧
    (∀ (vddSys : Bool) (s : State), ∃ t, exec (.powerLoss vddSys) s = .next t ∧
      t.dev.powered = false ∧ t.dev.ready = false ∧ t.items = [] ∧ t.hbm = [] ∧ t.pending = s.pending ∧
      (∀ x : TileId, t.tiles[x].amem = tmemZero ∧ t.tiles[x].pmem = tmemZero ∧ t.tiles[x].wmem = tmemZero) ∧
      t.rot.lc = s.rot.lc ∧ t.rot.comps = s.rot.comps ∧ t.rot.repairTiles = s.rot.repairTiles ∧ t.rot.audit = [] ∧
      t.mtr.nv = s.mtr.nv ∧ t.mtr.now = (if vddSys then { s.mtr.nv with rseq := s.mtr.now.rseq, event := s.mtr.now.event } else s.mtr.now) ∧
      t.mtr.running = (if vddSys then false else s.mtr.running))) ∧
  (
    (∀ (c : RefClk) (s : State), c ∈ s.rot.lostClks → c = .hbm ∨ c = .pwr → exec (.refclkLoss c) s = .next s) ∧
    (∀ s : State, s.dev.resetLow = false → s.dev.powered = true →
      (∃ u, exec (.refclkLoss .fab) s = .next u ∧ ∀ p : PortId, s.ports[p].link = .up → u.ports[p].link = .down) ∧
      (∃ u, exec (.refclkLoss .host) s = .next u ∧ ∀ h : HostId, s.cams[h].link = .up → u.cams[h].link = .down)) ∧
    (∀ (c : RefClk) (s : State), c ∉ s.rot.lostClks → (s.dev.resetLow = true ∨ s.dev.powered = false) →
      exec (.refclkLoss c) s = .next (modRot (fun r => { r with lostClks := r.lostClks ++ [c] }) s)) ∧
    (∀ (c : RefClk) (s : State), c ∉ s.rot.lostClks → s.dev.resetLow = false → s.dev.powered = true → c = .hbm ∨ c = .pwr →
      let s1 := modRot (fun r => { r with lostClks := r.lostClks ++ [c] }) s
      exec (.refclkLoss c) s = .next (if s.dev.ready then raiseFault .rot 0x41 0 0 (if c = .hbm then 0x80 else 0x81) s1
        else if s.dev.halt then s1 else modDev (fun d => { d with phase := 15, halt := true, code := eInternal }) s1)) ∧
    (∀ (p : Fin 4) (s : State), ∃ t, exec (.partitionZeroFillComplete p) s = .next t ∧
      (∀ q, partOf s q = p → maskHas s.rot.zeroing q.val = true →
        maskHas t.rot.zeroing q.val = false ∧ (∀ a, quadOfPa a = q → hbmStored t a 1 = [0] ∧ cwErr t (a / 32) = 0)) ∧
      (∀ q, partOf s q ≠ p ∨ maskHas s.rot.zeroing q.val = false →
        maskHas t.rot.zeroing q.val = maskHas s.rot.zeroing q.val ∧
        ∀ a, quadOfPa a = q → hbmStored t a 1 = hbmStored s a 1 ∧ cwErr t (a / 32) = cwErr s (a / 32)) ∧
      t = { s with rot := { s.rot with zeroing := t.rot.zeroing }, hbm := t.hbm, hbmErr := t.hbmErr,
                   hbmStacks := t.hbmStacks }))

/-- AVS_ACTION_COMPLETE in service (R401 to R403): a step read back within 10 mV stands, and the next step of at most 10 mV
is written unless the rail has reached its table's voltage; a mismatch, a fault, or a transaction that failed, is reported
once, KIND 0x38, and the rail is tried anew with the next setting. With no step in progress nothing changes. The sensors (R404, R507,
R525): a sample by the power controller, which then sets the rails by the newest tables (R402, R506), or by the root of
trust while the controller cannot, sets each quadrant's hottest value and PWR_STAT's warning; each sensor that reaches 112
°C is reported once, KIND 0x39, with its number and value. -/
def Obligations.RailsAndSensors : Prop :=
  (
    ∀ (q : QuadId) (r : Bool) (readback : Nat) (s : State), s.dev.phase ≠ 2 → railBusy (pq s q) r = true →
      let goal := railGoal (pq s q) r
      let failed := modPq q (fun x => setRailBusy r false (setRailGoal r (railNow x r) (setRailFailed r true x))) s
      let stepped := modPq q (fun x => setRailBusy r false (setRailFailed r false (setRailNow r goal x))) s
      (goal ≤ readback + 10 → readback ≤ goal + 10 → railTarget s q r ≠ goal →
        exec (.avsActionComplete q r (some readback) false) s =
          .next (writeRail q r (stepToward goal (railTarget s q r)) stepped)) ∧
      (goal ≤ readback + 10 → readback ≤ goal + 10 → railTarget s q r = goal → (pq s q).tableNew = false →
        exec (.avsActionComplete q r (some readback) false) s = .next stepped) ∧
      (∀ (read : Option Nat) (fault : Bool), read = none ∨ read = some readback →
        read = none ∨ fault = true ∨ goal + 10 < readback ∨ readback + 10 < goal → railFailed (pq s q) r = true →
        exec (.avsActionComplete q r read fault) s = .next failed) ∧
      (∀ (read : Option Nat) (fault : Bool), read = none ∨ read = some readback →
        read = none ∨ fault = true ∨ goal + 10 < readback ∨ readback + 10 < goal → railFailed (pq s q) r = false →
        ∃ t, exec (.avsActionComplete q r read fault) s = .next t ∧
          t.pwr = failed.pwr ∧
          t.flt.inflight = s.flt.inflight ++ [⟨0x030, 0x38, 0, 0, (hdr s .pwr).seq + 1, BitVec.ofNat 25
            (b2n (avsIface q) + 2 * avsSelect q r + 8 * b2n (read.isSome && decide (goal + 10 < readback ∨ readback + 10 < goal)) +
              16 * b2n fault)⟩] ∧
          t = { s with pwr := t.pwr, hdrs := t.hdrs, flt := { s.flt with inflight := t.flt.inflight } })) ∧
  (
    ∀ (q : QuadId) (r : Bool) (read : Option Nat) (fault : Bool) (s : State), railBusy (pq s q) r = false →
      exec (.avsActionComplete q r read fault) s = .next s) ∧
  (
    (∀ (temps : List (BitVec 10)) (s : State), temps.length = 72 → s.dev.powered = true → pwrRuns s = false →
      exec (.rotSensorSample temps) s = .next (takeTemps temps s)) ∧
    (∀ (temps : List (BitVec 10)) (s : State), temps.length = 72 → pwrRuns s = true → 2 ≤ s.dev.phase → s.dev.resetLow = false →
      exec (.sensorSample temps) s = .next (allQuads.foldl (fun s q =>
        setRails q (modPq q (fun x => { x with tables := x.tablesTo }) s)) (takeTemps temps s))) ∧
    (∀ (temps : List (BitVec 10)) (s : State), temps.length = 72 →
      let t := takeTemps temps s
      t.pwr.temps = temps ∧ t.pwr.twarn = temps.any (fun x => decide (reg s .pwr Off.pwrTwarn ≤ x.toNat)) ∧
        (∀ q : QuadId, (pq t q).hot = hottest temps q) ∧ Safety.sameMemory s t ∧
        (t.flt.inflight.drop s.flt.inflight.length).map (fun x => (x.source, x.kind, x.detail)) =
          ((List.range 72).filter (fun n => decide (448 ≤ (temps.getD n 0).toNat ∧ (s.pwr.temps.getD n 0).toNat < 448))).map
            (fun n => (0x030, 0x39, BitVec.ofNat 25 (n + 128 * (temps.getD n 0).toNat)))))

/-- The self-test (R495 step 6, R498, R512): at start-up, a pass of every tile wipes the memories of all released tiles, ends
the root of trust's stage chains and opens step 7; in service, a pass of the tile that DEV_SELFTEST named wipes that tile's memories and says so in
DEV_SELFTEST_STAT, and a memory line that mismatches is reported as SRAM_UNCORRECTABLE and retires the tile (R499). DEV_SELFTEST of a tile whose blocks are DRAINED starts one; TILE_RETIRE wipes the tile, turns its blocks
OFF, reports ARRAY_SELFCHECK and enters the tile in the field-repair record (R129); the test ends only while the MNT_ blocks
of its gang are DRAINED; both are refused with E_DENIED while a test runs or a block is not DRAINED. A stage chain of the owner that still runs in
the tile ends first (entry 28: the model's choice). -/
def Obligations.SelfTest : Prop :=
  (∀ s : State, s.flt.safe = false → s.dev.phase = 3 →
    ∃ t, exec (.selftestComplete []) s = .next t ∧ t.dev = { s.dev with phase := 4 } ∧
    (∀ x : TileId, t.tiles[x] = if quadFailed s (quadOf x) then s.tiles[x]
      else { s.tiles[x] with amem := tmemZero, pmem := tmemZero, wmem := tmemZero,
                             vec := { s.tiles[x].vec with sc := ⟨false, false, false, []⟩ },
                             wiped := if s.rot.partSet then 7 else s.tiles[x].wiped }) ∧
    (∀ x : TileId, quadFailed s (quadOf x) = false → reg t (.tile x .vec) Off.vecScStat = 2 ∧
      reg t (.tile x .vec) Off.vecScMismatch = 0) ∧
    (∀ a, (∀ (x : TileId) (o : Nat), o ∈ [Off.vecScStat, Off.vecScDone, Off.vecScMismatch, Off.vecScFirst] →
      a ≠ pageBase (.tile x .vec) 0 + o) → regAt t a = regAt s a) ∧
    t = { s with dev := t.dev, tiles := t.tiles, regs := t.regs, nfree := t.nfree }) ∧
  (∀ s : State, s.flt.safe = false → s.dev.phase ≠ 3 → s.dev.selftest = 1 → let x := s.dev.selftestTile
    (shownCols s x).length ≤ 8 → gangDrained s x = true →
    exec (.selftestComplete [⟨x, [], []⟩]) s = .next (modDev (fun d =>
      { d with selftest := 2, selftestAdded := 0, selftestRetired := false }) (wipeTile x s)) ∧
    ∀ (m : MemSel) (l : Nat), ∃ u, exec (.selftestComplete [⟨x, [], [(m, l)]⟩]) s = .next u ∧ u.tiles[x].retired = true ∧
      u.dev.selftest = 2 ∧ u.dev.selftestRetired = true ∧ x ∈ u.rot.repairTiles ∧
      ∃ r ∈ u.flt.inflight, r.source = BitVec.ofNat 12 (blockId (.tile x .tmem)) ∧ r.kind = 0x03 ∧
        r.addr = BitVec.ofNat 48 (64 * l)) ∧
  (∀ (m : Master) (x : TileId) (s : State), Safety.owns m s → selftestRefused s x = false →
    exec (.devSelftest m (BitVec.ofNat 32 (0x9600 + x.val))) s = .next (Safety.wrote m (modDev (fun d =>
      { d with selftest := 1, selftestTile := x, selftestAdded := 0, selftestRetired := false }) (rotChain x (endOwnerChain x s)))) ∧
    exec (.tileRetire m (BitVec.ofNat 32 (0x9600 + x.val))) s = .next (Safety.wrote m (modDev (fun d =>
      { d with selftest := 2, selftestTile := x, selftestAdded := 0, selftestRetired := true }) (retireTile x 0 (wipeTile x (endOwnerChain x s)))))) ∧
  (∀ (m : Master) (x : TileId) (s : State), Safety.owns m s → s.dev.selftest = 1 →
    exec (.devSelftest m (BitVec.ofNat 32 (0x9600 + x.val))) s = .next (Safety.denied m s)) ∧
  (∀ s : State, s.dev.phase ≠ 3 → gangDrained s s.dev.selftestTile = false → ∀ rs, exec (.selftestComplete rs) s = .next s) ∧
  (∀ (x : TileId) (c : Byte) (s : State), let u := retireTile x c s
    (∃ r ∈ u.flt.inflight, r.source = BitVec.ofNat 12 (blockId (.tile x .mnt)) ∧ r.kind = 0x11 ∧ r.detail = c.setWidth 25) ∧
    u.tiles[x].retired = true ∧ x ∈ u.rot.repairTiles ∧
      ∀ n, (hdr u (.tile x n)).en = false ∧ (hdr u (.tile x n)).mode = .off)

/-- Step 7 of start-up (R331, R495): a stack whose channels have trained reads so in its PHY page; without retain, a
quadrant whose two stacks are filled reads as zeros; when every stack is trained and filled, the Cammos ports train.
TILE_FIRMWARE_LOADED (R495 steps 9 to 11): every working block is enabled and IDLE, the function slots of working tiles hold
their built-in tables, ownership opens and READY is set; in state SCRAPPED READY is not set (R486). -/
def Obligations.StartUpSteps : Prop :=
  (
    (∀ (k : StackId) (s : State), s.dev.phase = 4 → s.hbmStacks[k].trained = false → quadFailed s (quadOfStack k) = false →
      (∃ j, j ≠ k ∧ s.hbmStacks[j].trained = false ∧ quadFailed s (quadOfStack j) = false) →
      exec (.hbmTrainingComplete k 0xFFFFFFFF) s = .next
        (setPhyReg k Off.hbmTrainStat 0xFFFFFFFF (modStack k (fun x => { x with trained := true, selfRefresh := false }) s))) ∧
    (∀ (k : StackId) (s : State), s.dev.phase = 4 → s.hbmStacks[k].trained = true → s.dev.retain = false →
      (∃ j, j ≠ k ∧ s.hbmStacks[j].filled = false ∧ quadFailed s (quadOfStack j) = false) →
      let q := quadOfStack k
      let s1 := modStack k (fun x => { x with filled := true }) s
      exec (.hbmZeroFillComplete k) s = .next
        (if s1.hbmStacks[quadStack q false].filled && s1.hbmStacks[quadStack q true].filled then zeroFill q s1 else s1)) ∧
    (∀ (k : StackId) (s : State), s.dev.phase = 4 → s.flt.safe = false → s.dev.retain = false → s.rot.lostClks = [] →
      (∀ j, s.hbmStacks[j].trained = true ∧ (j ≠ k → s.hbmStacks[j].filled = true)) →
      ∃ t, exec (.hbmZeroFillComplete k) s = .next t ∧ t.dev = { s.dev with phase := 5 } ∧
        (∀ h : HostId, t.cams[h].link = .training) ∧
        (∀ a, quadOfPa a = quadOfStack k → hbmStored t a 1 = [0] ∧ cwErr t (a / 32) = 0)) ∧
    (∀ (q : QuadId) (s : State) (a : Nat), let t := zeroFill q s
      (quadOfPa a = q → hbmStored t a 1 = [0] ∧ cwErr t (a / 32) = 0) ∧
        (quadOfPa a ≠ q → hbmStored t a 1 = hbmStored s a 1 ∧ cwErr t (a / 32) = cwErr s (a / 32)))) ∧
  (
    ∀ s : State, s.dev.phase = 6 → s.flt.safe = false → ∃ t, exec .tileFirmwareLoaded s = .next t ∧
      t = { s with dev := t.dev, hdrs := t.hdrs, tiles := t.tiles } ∧
      t.dev = (if s.rot.lc = 4 then { s.dev with phase := 7 } else { s.dev with phase := 8, ready := true }) ∧
      (∀ b, hdr t b = if workingBlock s b then { hdr s b with en := true, mode := .on } else hdr s b) ∧
      (∀ x : TileId, t.tiles[x].ftb = if workingBlock s (.tile x .que) then bootSlots else s.tiles[x].ftb) ∧
      (∀ x : TileId, t.tiles[x].amem = s.tiles[x].amem ∧ t.tiles[x].pmem = s.tiles[x].pmem ∧
        t.tiles[x].wmem = s.tiles[x].wmem ∧ t.tiles[x].seq = s.tiles[x].seq ∧ t.tiles[x].vec = s.tiles[x].vec))

/-! ## The tile sequencer (chapter 10) -/

/-- The sequencer's arithmetic (R300, R307): NOP, ADD, SUB, MUL (low 32 bits), AND, OR, XOR, SHL and SHR by the low five
bits of s[rb], ADDI with an 18-bit signed immediate and LUI with a 22-bit one shifted by 10. The destination's poison is
that of the sources; the program counter moves on by 4; nothing else changes but the counters. -/
def Obligations.SeqArithmetic : Prop :=
  ∀ (t : TileId) (i : Item) (w : Nat) (s : State), Safety.seqAt s t i w →
    let op := fld w 31 26
    let rd := fld w 25 22
    let a := sreg s t (fld w 21 18)
    let b := sreg s t (fld w 17 14)
    let p := spoisoned s t (fld w 21 18) || spoisoned s t (fld w 17 14)
    let pc := s.tiles[t].seq.pc + 4
    (op = 0x00 → fld w 25 0 = 0 → Safety.seqJumps (.sqNop t) t s pc) ∧
    (op = 0x01 → fld w 13 0 = 0 → Safety.seqWrites (.sqAdd t) t s rd (a + b) p pc) ∧
    (op = 0x02 → fld w 13 0 = 0 → Safety.seqWrites (.sqSub t) t s rd (a - b) p pc) ∧
    (op = 0x03 → fld w 13 0 = 0 → Safety.seqWrites (.sqMul t) t s rd (a * b) p pc) ∧
    (op = 0x04 → fld w 13 0 = 0 → Safety.seqWrites (.sqAnd t) t s rd (a &&& b) p pc) ∧
    (op = 0x05 → fld w 13 0 = 0 → Safety.seqWrites (.sqOr t) t s rd (a ||| b) p pc) ∧
    (op = 0x06 → fld w 13 0 = 0 → Safety.seqWrites (.sqXor t) t s rd (a ^^^ b) p pc) ∧
    (op = 0x07 → fld w 13 0 = 0 → Safety.seqWrites (.sqShl t) t s rd (a <<< (b.toNat % 32)) p pc) ∧
    (op = 0x08 → fld w 13 0 = 0 → Safety.seqWrites (.sqShr t) t s rd (a >>> (b.toNat % 32)) p pc) ∧
    (op = 0x09 → Safety.seqWrites (.sqAddi t) t s rd (a + BitVec.ofInt 32 (sext (fld w 17 0) 18))
      (spoisoned s t (fld w 21 18)) pc) ∧
    (op = 0x0A → Safety.seqWrites (.sqLui t) t s rd (BitVec.ofNat 32 (1024 * fld w 21 0)) false pc)

/-- Branches and jumps (R300): BEQ, BNE, BLT and BGE compare two scalars, signed for the last two, and go to pc + 4 × OFF or
to the next instruction; LOOP counts its scalar down by 1 and goes back while it is not zero; JAL leaves pc + 4 in its
scalar; JR goes to the scalar. A taken branch may leave the program region or be misaligned: the next fetch finds it (R307). -/
def Obligations.SeqBranches : Prop :=
  ∀ (t : TileId) (i : Item) (w : Nat) (s : State), Safety.seqAt s t i w →
    let op := fld w 31 26
    let x := sreg s t (fld w 25 22)
    let y := sreg s t (fld w 21 18)
    let pc := s.tiles[t].seq.pc
    let far := pc + 4 * BitVec.ofInt 32 (sext (fld w 17 0) 18)
    (spoisoned s t (fld w 25 22) = false → spoisoned s t (fld w 21 18) = false →
      (op = 0x18 → Safety.seqJumps (.sqBeq t) t s (if x = y then far else pc + 4)) ∧
      (op = 0x19 → Safety.seqJumps (.sqBne t) t s (if x = y then pc + 4 else far)) ∧
      (op = 0x1A → Safety.seqJumps (.sqBlt t) t s (if x.toInt < y.toInt then far else pc + 4)) ∧
      (op = 0x1B → Safety.seqJumps (.sqBge t) t s (if x.toInt < y.toInt then pc + 4 else far))) ∧
    (op = 0x1C → fld w 21 18 = 0 → spoisoned s t (fld w 25 22) = false →
      Safety.seqWrites (.sqLoop t) t s (fld w 25 22) (x - 1) false (if x = 1 then pc + 4 else far)) ∧
    (op = 0x1D → Safety.seqWrites (.sqJal t) t s (fld w 25 22) (pc + 4) false
      (pc + 4 * BitVec.ofInt 32 (sext (fld w 21 0) 22))) ∧
    (op = 0x1E → fld w 25 22 = 0 → fld w 17 0 = 0 → spoisoned s t (fld w 21 18) = false →
      Safety.seqJumps (.sqJr t) t s y)

/-- LD and ST (R299, R300): the effective address s[ra] + IMM names a tile memory in [23:22] and a byte in [21:0], a
multiple of 4 inside the memory, in a bank that is reserved for no wide access (R243). LD reads the word there. ST, refused in W-mem, writes the four bytes of s[rd] there,
little-endian, and every other byte of every memory stays. -/
def Obligations.SeqLoadStore : Prop :=
  ∀ (t : TileId) (i : Item) (w : Nat) (s : State) (m : MemSel) (a : Nat), Safety.seqAt s t i w →
    spoisoned s t (fld w 21 18) = false →
    (let ea := (sreg s t (fld w 21 18) + BitVec.ofInt 32 (sext (fld w 17 0) 18)).toNat
     ea = memIndex m * 2 ^ 22 + a ∧ a % 4 = 0 ∧ a + 4 ≤ memBytes m) → bankReserved s t m a 4 = false →
    (fld w 31 26 = 0x10 → Safety.wordClean s t m a →
      Safety.seqWrites (.sqLd t) t s (fld w 25 22) (BitVec.ofNat 32 (Safety.memWord s t m a)) false
        (s.tiles[t].seq.pc + 4)) ∧
    (fld w 31 26 = 0x11 → m ≠ .wmem → spoisoned s t (fld w 25 22) = false → s.flt.armed = [] →
      ∃ u, exec (.sqSt t) s = .next u ∧
        u.tiles[t].seq = { s.tiles[t].seq with pc := s.tiles[t].seq.pc + 4, issued := 0, issueMask := 0 } ∧
        (∀ k < 4, fget zeroByte (tmem u t m).bytes (a + k) =
          BitVec.ofNat 8 ((sreg s t (fld w 25 22)).toNat / 2 ^ (8 * k)) ∧ fget noErr (tmem u t m).err (a + k) = 0) ∧
        (∀ b, b < a ∨ a + 4 ≤ b → fget zeroByte (tmem u t m).bytes b = fget zeroByte (tmem s t m).bytes b ∧
          fget noErr (tmem u t m).err b = fget noErr (tmem s t m).err b) ∧
        (∀ n, n ≠ m → tmem u t n = tmem s t n) ∧ (∀ x, x ≠ t → u.tiles[x] = s.tiles[x]) ∧
        u = { Safety.unmarked s with tiles := u.tiles, regs := u.regs } ∧
        (∀ r, r ∉ Safety.seqCounters t → regAt u r = regAt s r)) ∧
    (fld w 31 26 = 0x11 → m = .wmem → exec (.sqSt t) s = .next (seqFail t i 0x11 eExtent (seqFetch t i (Safety.unmarked s)).2))

/-- ISSUE (R301): COUNT entries from s[ra] in A-mem are placed in order, when the engine takes the item and has room. A
vector instruction of 8 bytes enters the queue with the scalars as they stand; a move descriptor of 64 bytes takes the
lowest free token and leaves a mask of the tokens in rd; an array descriptor is handed to the gang's leader. -/
def Obligations.SeqIssue : Prop :=
  ∀ (t : TileId) (i : Item) (w : Nat) (s : State), Safety.seqAt s t i w → fld w 31 26 = 0x20 → fld w 17 14 = 0 →
    spoisoned s t (fld w 21 18) = false →
    let base := (sreg s t (fld w 21 18)).toNat
    let n := fld w 6 0 + 1
    let cnt := if bitOf w 11 then some (fld w 10 7) else none
    (∀ a, base ≤ a → a < base + n * (if fld w 13 12 = 2 then 8 else 64) → Safety.wordClean s t .amem a) →
    base + n * (if fld w 13 12 = 2 then 8 else 64) ≤ memBytes .amem →
    bankReserved s t .amem base (n * (if fld w 13 12 = 2 then 8 else 64)) = false → (cnt = none → fld w 10 7 = 0) →
    (fld w 13 12 = 2 → cnt = none → fld w 25 22 = 0 → base % 8 = 0 → (hdr s (.tile t .vec)).mode = .on →
      s.tiles[t].vec.queue.length + n ≤ 32 →
      ∃ u, exec (.sqIssue t) s = .next u ∧ u.tiles[t].seq =
          { s.tiles[t].seq with pc := s.tiles[t].seq.pc + 4, issued := 0, issueMask := 0 } ∧
        u.tiles[t].vec = { s.tiles[t].vec with queue := s.tiles[t].vec.queue ++ (List.range n).map (fun k =>
          ⟨BitVec.ofNat 64 (natOfBytes (memGet s t .amem (base + 8 * k) 8)), s.tiles[t].seq.sreg.toList,
            s.tiles[t].seq.spoison, i.key, none⟩) }) ∧
    (fld w 13 12 = 0 → n ≤ 32 → base % 64 = 0 → (hdr s (.tile t .dmv)).mode = .on → n ≤ (Safety.freeTokens s t).length →
      ∃ u, exec (.sqIssue t) s = .next u ∧ u.tiles[t].seq.pc = s.tiles[t].seq.pc + 4 ∧ u.tiles[t].seq.waiting = none ∧
        u.tiles[t].mov.serial = s.tiles[t].mov.serial + n ∧ u.tiles[t].mov.active = s.tiles[t].mov.active ∧
        u.tiles[t].mov.queue = s.tiles[t].mov.queue ++ (List.range n).map (fun k =>
          mvNew (wordsOfBytes 16 (memGet s t .amem (base + 64 * k) 64)) i.key i.gen
            ((Safety.freeTokens s t).getD k 0) cnt (s.tiles[t].mov.serial + k)) ∧
        (∀ k < 32, vat u.tiles[t].seq.tokens k none = if k ∈ (Safety.freeTokens s t).take n then
          some ⟨.mover, s.tiles[t].mov.serial + (Safety.freeTokens s t).idxOf k, i.key⟩
          else vat s.tiles[t].seq.tokens k none) ∧
        ∀ k < 32, maskHas (sreg u t (fld w 25 22)) k = decide (k ∈ (Safety.freeTokens s t).take n)) ∧
    (fld w 13 12 = 1 → n = 1 → base % 64 = 0 → (hdr s (.tile t .mnt)).mode ≠ .off → (hdr s (.tile t .mnt)).mode ≠ .fenced →
      Safety.freeTokens s t ≠ [] → (let g := s.tiles[liveLeader s t].mnt.gang
        g.input.length + g.descs.length < 4) →
      ∃ u, exec (.sqIssue t) s = .next u ∧ u.tiles[t].seq.pc = s.tiles[t].seq.pc + 4 ∧
        u.tiles[liveLeader s t].mnt.gang.input = s.tiles[liveLeader s t].mnt.gang.input ++
          [⟨wordsOfBytes 16 (memGet s t .amem base 64), i.key, i.gen, t, (Safety.freeTokens s t).getD 0 0, cnt,
            s.tiles[t].mov.serial, 0, 0, 0, false, []⟩] ∧
        u.tiles[liveLeader s t].mnt.gang.descs = s.tiles[liveLeader s t].mnt.gang.descs) ∧
    (fld w 13 12 = 0 → n ≤ 32 → base % 64 = 0 → (hdr s (.tile t .dmv)).mode = .on → Safety.freeTokens s t = [] →
      ∃ u, exec (.sqIssue t) s = .next u ∧ u.tiles[t].seq = { s.tiles[t].seq with waiting := some .issue })

/-- WAIT, FENCE and SIGNAL (R302 to R305): a condition that holds lets the instruction complete at once, and otherwise the
sequencer is held, and SEQ_WAIT_RELEASE lets it go on once the condition holds. SIGNAL END leaves the list ended, the item
FINISHING with s[ra] as its DETAIL; SIGNAL POST waits for the item's writes and adds 1 to a counter of a tile of its
partition. -/
def Obligations.SeqWaits : Prop :=
  (∀ (t : TileId) (i : Item) (w : Nat) (s : State), Safety.seqAt s t i w →
    let v := sreg s t (fld w 21 18)
    let pc := s.tiles[t].seq.pc + 4
    (fld w 31 26 = 0x21 → fld w 25 22 = 0 → fld w 17 5 = 0 → spoisoned s t (fld w 21 18) = false →
      (fld w 0 0 = 0 → fld w 4 1 = 0 → (∀ k < 32, maskHas v k = true → vat s.tiles[t].seq.tokens k none = none) →
        Safety.seqJumps (.sqWait t) t s pc) ∧
      (fld w 0 0 = 1 → (counterOf s t (fld w 4 1) - v).toNat < 2 ^ 31 → Safety.seqJumps (.sqWait t) t s pc) ∧
      (fld w 0 0 = 1 → 2 ^ 31 ≤ (counterOf s t (fld w 4 1) - v).toNat →
        ∃ u, exec (.sqWait t) s = .next u ∧ u.tiles[t].seq.pc = s.tiles[t].seq.pc ∧
          ∃ k : Fin 16, k.val = fld w 4 1 ∧ u.tiles[t].seq.waiting = some (.counter k v))) ∧
    (fld w 31 26 = 0x22 → fld w 25 3 = 0 → (∀ e, engineHolds s t i.key e = false) → Safety.seqJumps (.sqFence t) t s pc) ∧
    (fld w 31 26 = 0x22 → fld w 25 3 = 0 → fld w 2 0 = 4 → engineHolds s t i.key .vector = true →
      ∃ u, exec (.sqFence t) s = .next u ∧ u.tiles[t].seq.pc = s.tiles[t].seq.pc ∧
        u.tiles[t].seq.waiting = some (.fence false false true)) ∧
    (fld w 31 26 = 0x23 → fld w 25 22 = 0 → fld w 17 0 = 0 → spoisoned s t (fld w 21 18) = false →
      ∃ u, exec (.sqSignal t) s = .next u ∧ u.tiles[t].seq.running = none ∧
        u.items = s.items.map (fun x => if x.key = i.key then
          { x with state := .finishing, listEnded := true, detail := v } else x)) ∧
    (fld w 31 26 = 0x23 → fld w 25 22 = 0 → fld w 17 5 = 0 → fld w 0 0 = 1 → spoisoned s t (fld w 21 18) = false →
      ∀ d : TileId, d.val = fld v.toNat 5 0 → partOfTile s d = i.key.part → writesAcked s t i.key = true → d = t ∨ routerStops s t = false →
      ∃ u, exec (.sqSignal t) s = .next u ∧ u.tiles[t].seq.pc = pc ∧ u.tiles[t].seq.waiting = none ∧
        counterOf u d (fld w 4 1) = counterOf s d (fld w 4 1) + 1)) ∧
  (∀ (t : TileId) (i : Item) (c : WaitCond) (s : State), seqItem s t = some i → s.tiles[t].seq.waiting = some c →
    c ≠ .issue → (∀ d k, c ≠ .post d k) →
    (waitOver s t i.key c = true → ∃ u, exec (.seqWaitRelease t) s = .next u ∧ u.tiles[t].seq =
      { s.tiles[t].seq with pc := s.tiles[t].seq.pc + 4, waiting := none, issued := 0, issueMask := 0 }) ∧
    (waitOver s t i.key c = false → exec (.seqWaitRelease t) s = .next s))

/-- GETS, PUTS and GENMARK (R300, R308): GETS reads a tile counter or one of the six registers of its item and tile; PUTS
writes a tile counter; GENMARK, by the dispatcher's job on the head tile during a commit and with the generation being
committed, places a marker in the work streams of the tiles its mask names. The checks of R307: a program counter that is
not a multiple of 4 (E_ALIGN) or lies beyond the program region (E_EXTENT), and an instruction with a reserved opcode
(E_PROGRAM), fail the running item whichever instruction but GENMARK was to come; LD and ST at a misaligned address fail it
with E_ALIGN and beyond a memory's end with E_EXTENT. The item's list stops, its status is the code, and SQC_LAST_ERR names
code, opcode and item. -/
def Obligations.SeqSpecial : Prop :=
  (
    ∀ (t : TileId) (i : Item) (w : Nat) (s : State), Safety.seqAt s t i w →
      let pc := s.tiles[t].seq.pc + 4
      let n := fld w 5 0
      (fld w 31 26 = 0x25 → fld w 21 6 = 0 →
        (n < 0x10 → Safety.seqWrites (.sqGets t) t s (fld w 25 22) (counterOf s t n) false pc) ∧
        (n = 0x10 → Safety.seqWrites (.sqGets t) t s (fld w 25 22)
          (BitVec.ofNat 32 (i.key.item.toNat + 2 ^ 16 * (64 * i.key.part.val + i.job.toNat))) false pc) ∧
        (n = 0x11 → Safety.seqWrites (.sqGets t) t s (fld w 25 22) (BitVec.ofNat 32 t.val) false pc) ∧
        (n = 0x12 → Safety.seqWrites (.sqGets t) t s (fld w 25 22) (BitVec.ofNat 32 i.layer.toNat) false pc) ∧
        (n = 0x13 → Safety.seqWrites (.sqGets t) t s (fld w 25 22) (BitVec.ofNat 32 i.gen.toNat) false pc) ∧
        (n = 0x14 → Safety.seqWrites (.sqGets t) t s (fld w 25 22) (BitVec.ofNat 32 (((List.range 32).filter
          (fun k => (vat s.tiles[t].seq.tokens k none).isSome)).map (2 ^ ·)).sum) false pc) ∧
        (n = 0x15 → Safety.seqWrites (.sqGets t) t s (fld w 25 22)
          (BitVec.ofNat 32 (reg s (sqc t) Off.sqcProgBase)) false pc)) ∧
      (fld w 31 26 = 0x26 → fld w 25 22 = 0 → fld w 17 6 = 0 → n < 0x10 → spoisoned s t (fld w 21 18) = false →
        ∃ u, exec (.sqPuts t) s = .next u ∧
          u.tiles[t].seq = { s.tiles[t].seq with pc := pc, issued := 0, issueMask := 0 } ∧
          counterOf u t n = sreg s t (fld w 21 18) ∧
          (∀ k < 16, k ≠ n → counterOf u t k = counterOf s t k) ∧ Safety.sameMemory s u) ∧
      (fld w 31 26 = 0x24 → fld w 25 22 = 0 → fld w 13 0 = 0 → spoisoned s t (fld w 21 18) = false →
        spoisoned s t (fld w 17 14) = false → headTile (quadOf t) = t → i.job = 0 → s.dev.genPend = true →
        fld (sreg s t (fld w 21 18)).toNat 7 0 = s.dev.genTarget.toNat →
        (∀ x : TileId, queRoom s (.work x) 2 = true ∧ s.tiles[x].wideReserved = none) → ∃ u, exec (.sqGenmark t) s = .next u ∧
          u.tiles[t].seq.pc = pc ∧ u.items = s.items ∧
          ∀ k : Fin 16, let x := quadTile (quadOf t) k
            u.tiles[x].work.pkts.map (·.body) = s.tiles[x].work.pkts.map (·.body) ++
              (if maskHas (sreg s t (fld w 17 14)) k.val = true ∧ s.tiles[x].retired = false
               then [.marker s.dev.genTarget] else []))) ∧
  (
    (∀ (t : TileId) (i : Item) (s : State), seqItem s t = some i → s.tiles[t].seq.waiting = none →
      (∀ c ∈ [Instr.sqNop t, .sqAdd t, .sqSub t, .sqMul t, .sqAnd t, .sqOr t, .sqXor t, .sqShl t, .sqShr t, .sqAddi t,
          .sqLui t, .sqLd t, .sqSt t, .sqBeq t, .sqBne t, .sqBlt t, .sqBge t, .sqLoop t, .sqJal t, .sqJr t, .sqIssue t,
          .sqWait t, .sqFence t, .sqSignal t, .sqGets t, .sqPuts t],
        (s.tiles[t].seq.pc.toNat % 4 ≠ 0 → exec c s = .next (seqFail t i 0 eAlign (Safety.unmarked s))) ∧
        (s.tiles[t].seq.pc.toNat % 4 = 0 → 65536 ≤ s.tiles[t].seq.pc.toNat →
          exec c s = .next (seqFail t i 0 eExtent (Safety.unmarked s))))) ∧
    (∀ (t : TileId) (i : Item) (w : Nat) (s : State), Safety.seqAt s t i w → fld w 31 26 ∉ seqOps →
      ∃ u, exec (.sqNop t) s = .next u ∧ u.tiles[t].seq.running = none ∧
        reg u (sqc t) Off.sqcLastErr = eProgram + 2 ^ 8 * fld w 31 26 + 2 ^ 16 * i.key.item.toNat ∧
        ∀ x ∈ u.items, x.key = i.key → (eProgram, blockId (sqc t)) ∈ x.errs ∧ x.state ≠ .running) ∧
    (∀ (ea : Nat) (store : Bool), ea < 2 ^ 32 →
      (ea % 4 ≠ 0 → seqEa ea store = .error eAlign) ∧
      (ea % 4 = 0 → 2 ^ 24 ≤ ea ∨ 3 * 2 ^ 22 ≤ ea → seqEa ea store = .error eExtent) ∧
      (∀ m a, seqEa ea store = .ok (m, a) ↔
        ea = memIndex m * 2 ^ 22 + a ∧ a % 4 = 0 ∧ a + 4 ≤ memBytes m ∧ (store = true → m ≠ .wmem))))

/-- The life of an item on its tile (R296, R297, R306): ITEM_START of the front item of the work stream leaves it RUNNING,
its scalars holding its number and job, its rank and its arguments; ITEM_END of a FINISHING item with nothing outstanding
forms its record, of STATUS, FLAGS and DETAIL by R306, in the tile's completion stream; nothing happens while work of it
remains, and what its tap accumulators hold is sent first, as its tiles' routers send (R446, R447, R503). -/
def Obligations.ItemLife : Prop :=
  (∀ (t : TileId) (i : Item) (rest : List QPkt) (n : Nat) (s : State), s.flt.safe = false → meterHold s = false →
    s.tiles[t].seq.running = none → (hdr s (sqc t)).mode = .on → s.tiles[t].work.pkts = ⟨.item i.key, n⟩ :: rest →
    s.tiles[t].work.lines = 0 → s.tiles[t].work.bad = [] → findItem s i.key = some i → i.tile = t → i.state = .queued →
    ∃ u, exec (.itemStart t) s = .next u ∧ u.tiles[t].work.pkts = rest ∧
      u.items = s.items.map (fun x => if x.key = i.key then { x with state := .running } else x) ∧
      u.tiles[t].seq.running = some i.key ∧ u.tiles[t].seq.pc = i.entry.setWidth 32 ∧ u.tiles[t].seq.spoison = 0 ∧
      sreg u t 0 = BitVec.ofNat 32 (i.key.item.toNat + 2 ^ 16 * (64 * i.key.part.val + i.job.toNat)) ∧
      sreg u t 1 = BitVec.ofNat 32 i.rank ∧ (∀ k, 2 ≤ k → k < 8 → sreg u t k = 0) ∧
      (∀ k < 8, sreg u t (8 + k) = i.args.getD k 0) ∧
      u = { Safety.unmarked s with items := u.items, waited := u.waited,
                                   tiles := s.tiles.set t { s.tiles[t] with work := u.tiles[t].work, seq := u.tiles[t].seq } }) ∧
  (∀ (t : TileId) (i : Item) (s : State), s.items.find? (fun x => decide (x.tile = t) && decide (x.key.item = i.key.item) &&
      decide (x.state = .finishing)) = some i →
    (outstanding s i = false → tapsOf s i.key = [] → s.tiles[t].comp.lines = 0 → spillWords s.tiles[t].comp ≤ 28 →
      ∃ u, exec (.itemEnd t i.key.item) s = .next u ∧
      u.tiles[t].comp.pkts = s.tiles[t].comp.pkts ++ [⟨.record (itemRecord { i with state := .ended }), 4⟩] ∧
      u.items = s.items.map (fun x => if x.key = i.key then { i with state := .ended } else x) ∧
      (∀ b, hdr u b = if b = .tile t .sqc then { hdr s b with sent := (hdr s b).sent + 1 } else hdr s b) ∧
      u = { Safety.unmarked s with items := u.items, regs := u.regs, hdrs := u.hdrs,
                                   pwr := { s.pwr with ran := s.pwr.ran ++ [(t, i.key)] },
                                   tiles := s.tiles.set t { s.tiles[t] with comp := u.tiles[t].comp } }) ∧
    (∀ x p o, outstanding s i = false → findItem s i.key = some i → tapsOf s i.key = [(x, p)] → tapOpen s x p = some o → routerStops s x = false →
      ∃ u n, exec (.itemEnd t i.key.item) s = .next u ∧ tapOpen u x p = none ∧
        u.items = s.items.map (fun y => if y.key = i.key then { y with taps := y.taps + 1 } else y) ∧
        u.quads[quadOf x].stat.taps = s.quads[quadOf x].stat.taps ++ [⟨i.key, i.job, i.gen, i.det, o.layer, o.quantity, n,
          o.acc.nonfinite, o.acc.poison, blockStops s (.qstat (quadOf x))⟩] ∧
        (o.acc.lost = false → o.acc.nonfinite = false → o.acc.poison = false → n = o.acc.sum)) ∧
    (outstanding s i = true → exec (.itemEnd t i.key.item) s = .next s)) ∧
  (∀ i : Item, (i.cancelled = true → itemStatus i = 0x03) ∧
    (i.cancelled = false → i.fenced = true → itemStatus i = 0x02) ∧
    (i.cancelled = false → i.fenced = false → (∀ e ∈ i.errs, e.1 < 0x10) →
      itemStatus i = if i.poisoned then 0x01 else 0x00) ∧
    (i.cancelled = false → i.fenced = false → (∃ e ∈ i.errs, 0x10 ≤ e.1) →
      0x10 ≤ itemStatus i ∧ itemStatus i ∈ i.errs.map (·.1) ∧ ∀ e ∈ i.errs, 0x10 ≤ e.1 → itemStatus i ≤ e.1))

/-! ## The vector engine (chapters 06, 07) -/

/-- Element-wise instructions (R164, R172): d = a op b in the register format, both halves of a lane in a packed format, a
scalar in every element with BS set, floating results formed exactly and rounded once, and INT32 wrapping; a line of d is
poisoned where a line read is. One beat; nothing but d changes. -/
def Obligations.VectorElementwise : Prop :=
  ∀ (t : TileId) (v : VIns) (i : Item) (s : State), Safety.vecAt s t v i →
    let a := Safety.lane s t v.va
    let sc := v.scalar v.sbA
    let b := fun k => if v.bs then (if v.fmt = 1 ∨ v.fmt = 2 then packLane (loHalf sc) (loHalf sc) else sc)
      else Safety.lane s t v.vb k
    let c := Safety.lane s t v.vc
    let pb := fun j => if v.bs then v.scalarPoisoned v.sbA else Safety.line s t v.vb j
    let pab := fun j => Safety.line s t v.va j || pb j
    let pabc := fun j => pab j || Safety.line s t v.vc j
    let fl := fun (g : FVal → FVal → FVal → FVal) k => laneOp v.fmt (fun x y z => packIeee (regSpec v.fmt)
      (g (decodeFloat (regSpec v.fmt) x) (decodeFloat (regSpec v.fmt) y) (decodeFloat (regSpec v.fmt) z))) (a k) (b k) (c k)
    (aUnused v useAB = false → v.fmt ≤ 2 →
      (v.opc = 0x10 → Safety.vecMakes (.vadd t) t i s v.vd 1 (fl (fun x y _ => fvAdd x y)) pab) ∧
      (v.opc = 0x11 → Safety.vecMakes (.vsub t) t i s v.vd 1 (fl (fun x y _ => fvAdd x (fvNeg y))) pab) ∧
      (v.opc = 0x12 → Safety.vecMakes (.vmul t) t i s v.vd 1 (fl (fun x y _ => fvMul x y)) pab) ∧
      (v.opc = 0x14 → Safety.vecMakes (.vmin t) t i s v.vd 1 (fl (fun x y _ => fvMin x y)) pab) ∧
      (v.opc = 0x15 → Safety.vecMakes (.vmax t) t i s v.vd 1 (fl (fun x y _ => fvMax x y)) pab)) ∧
    (aUnused v useABC = false → v.fmt ≤ 2 → v.opc = 0x13 →
      Safety.vecMakes (.vfma t) t i s v.vd 1 (fl (fun x y z => fvAdd (fvMul x y) z)) pabc) ∧
    (aUnused v ⟨false, true, false⟩ = false → v.fmt ≤ 3 → v.opc = 0x16 →
      Safety.vecMakes (.vmov t) t i s v.vd 1 b pb) ∧
    (aUnused v useAB = false → v.fmt = 3 →
      (v.opc = 0x18 → Safety.vecMakes (.viadd t) t i s v.vd 1 (fun k => a k + b k) pab) ∧
      (v.opc = 0x19 → Safety.vecMakes (.visub t) t i s v.vd 1 (fun k => a k - b k) pab) ∧
      (v.opc = 0x1A → Safety.vecMakes (.vimul t) t i s v.vd 1 (fun k => a k * b k) pab) ∧
      (v.opc = 0x1B → Safety.vecMakes (.vand t) t i s v.vd 1 (fun k => a k &&& b k) pab) ∧
      (v.opc = 0x1C → Safety.vecMakes (.vor t) t i s v.vd 1 (fun k => a k ||| b k) pab) ∧
      (v.opc = 0x1D → Safety.vecMakes (.vxor t) t i s v.vd 1 (fun k => a k ^^^ b k) pab) ∧
      (v.opc = 0x1E → Safety.vecMakes (.vshl t) t i s v.vd 1 (fun k => a k <<< ((b k).toNat % 32)) pab) ∧
      (v.opc = 0x1F → Safety.vecMakes (.vshr t) t i s v.vd 1 (fun k => a k >>> ((b k).toNat % 32)) pab) ∧
      (v.opc = 0x20 → Safety.vecMakes (.vsar t) t i s v.vd 1 (fun k => (a k).sshiftRight ((b k).toNat % 32)) pab))

/-- Compare, select and convert (R172, R173): VCMP gives all ones where the condition holds, on numbers or signed words;
VSEL takes a where c's element is not zero; VCVT widens a packed register into two, narrows two into one, rounding to
nearest even or by the job's seed, and converts between FP32 and INT32. Reductions, transpose and permute (R172, R183): a
row, column or whole-register reduction by the fixed pairwise tree in every lane that it covers; VTR4 transposes the 64 × 64
matrix of four registers; VPERM takes lane (b mod 1,024) of a. -/
def Obligations.VectorCompareMove : Prop :=
  (
    ∀ (t : TileId) (v : VIns) (i : Item) (s : State), Safety.vecAt s t v i →
      let a := Safety.lane s t v.va
      let sc := v.scalar v.sbA
      let b := fun k => if v.bs then (if v.fmt = 1 ∨ v.fmt = 2 then packLane (loHalf sc) (loHalf sc) else sc)
        else Safety.lane s t v.vb k
      let c := Safety.lane s t v.vc
      let pab := fun j => Safety.line s t v.va j || (if v.bs then v.scalarPoisoned v.sbA else Safety.line s t v.vb j)
      (v.opc = 0x28 → aUnused v useAB = false → v.sub ≠ 7 → v.fmt ≤ 3 →
        Safety.vecMakes (.vcmp t) t i s v.vd 1 (fun k => laneOp v.fmt (fun x y _ =>
          if (if v.fmt = 3 then condI v.sub (BitVec.ofNat 32 x) (BitVec.ofNat 32 y)
              else condF v.sub (decodeFloat (regSpec v.fmt) x) (decodeFloat (regSpec v.fmt) y))
          then (if v.fmt = 1 ∨ v.fmt = 2 then 0xFFFF else 0xFFFFFFFF) else 0) (a k) (b k) 0) pab) ∧
      (v.opc = 0x29 → aUnused v useABC = false → v.fmt ≤ 3 →
        Safety.vecMakes (.vsel t) t i s v.vd 1 (fun k => laneOp v.fmt (fun x y z => if z = 0 then y else x) (a k) (b k) (c k))
          (fun j => pab j || Safety.line s t v.vc j)) ∧
      (v.opc = 0x17 → aUnused v useA = false →
        (v.sfmt = 0 → v.fmt = 3 → Safety.vecMakes (.vcvt t) t i s v.vd 1 (fun k => f32ToInt32 (a k)) (Safety.line s t v.va)) ∧
        (v.sfmt = 3 → v.fmt = 0 → Safety.vecMakes (.vcvt t) t i s v.vd 1 (fun k => int32ToF32 (a k)) (Safety.line s t v.va)) ∧
        (v.sfmt = 1 ∨ v.sfmt = 2 → v.fmt = 0 → v.vd < 31 → ¬ (v.vd ≤ v.va ∧ v.va ≤ v.vd + 1) →
          ∃ u, exec (.vcvt t) s = .next u ∧ Safety.vecFrame t i [v.vd, v.vd + 1] 2 s u ∧
            ∀ r < 16, ∀ col < 128, Safety.lane u t (v.vd + col / 64) (64 * r + col % 64) =
              f32 (decodeFloat (regSpec v.sfmt)
                (if col % 2 = 0 then loHalf (a (64 * r + col / 2)) else hiHalf (a (64 * r + col / 2))))) ∧
        (v.sfmt = 0 → v.fmt = 1 ∨ v.fmt = 2 → v.va < 31 → ¬ (v.va ≤ v.vd ∧ v.vd ≤ v.va + 1) → (v.roundA = true → (itemJob s i).seed.isSome = true) →
          let x := vat s.tiles[t].vec.ctx v.cxA castCtxZero
          ∃ u, exec (.vcvt t) s = .next u ∧ Safety.vecMemFrame t i [v.vd] s u ∧ Safety.sameMemory s u ∧
            ∀ r < 16, ∀ col < 128,
              (if col % 2 = 0 then loHalf (Safety.lane u t v.vd (64 * r + col / 2))
                else hiHalf (Safety.lane u t v.vd (64 * r + col / 2))) =
              (castElem (fmtOfReg v.fmt) (ctxRnd v.roundA (itemSeed s i) x (elemIndex x r col 0)) (f32v (Safety.lane s t (v.va + col / 64) (64 * r + col % 64)))).bits % 65536))) ∧
  (
    ∀ (t : TileId) (v : VIns) (i : Item) (s : State), Safety.vecAt s t v i →
      let a := Safety.lane s t v.va
      let pa := Safety.line s t v.va
      (aUnused v useA = false → v.fmt = 0 → v.sub ≤ 5 →
        (v.opc = 0x30 → Safety.vecMakes (.vrrow t) t i s v.vd 2
          (fun k => reduceList v.sub 6 ((List.range 64).map (fun c => a (64 * (k / 64) + c))))
          (fun j => (List.range 4).any (fun m => pa (j / 4 * 4 + m)))) ∧
        (v.opc = 0x31 → Safety.vecMakes (.vrcol t) t i s v.vd 2
          (fun k => reduceList v.sub 4 ((List.range 16).map (fun r => a (64 * r + k % 64))))
          (fun j => (List.range 16).any (fun r => pa (4 * r + j % 4)))) ∧
        (v.opc = 0x32 → Safety.vecMakes (.vrall t) t i s v.vd 3
          (fun _ => reduceList v.sub 10 ((List.range 1024).map a)) (fun _ => (List.range 64).any pa))) ∧
      (v.opc = 0x38 → aUnused v useA = false → v.fmt = 0 → v.vd ≤ 28 → v.va ≤ 28 →
        (v.vd + 4 ≤ v.va ∨ v.va + 4 ≤ v.vd ∨ v.vd = v.va) →
        ∃ u, exec (.vtr4 t) s = .next u ∧ Safety.vecFrame t i ((List.range 4).map (v.vd + ·)) 4 s u ∧
          ∀ r < 64, ∀ c < 64, Safety.lane u t (v.vd + r / 16) (64 * (r % 16) + c) =
            Safety.lane s t (v.va + c / 16) (64 * (c % 16) + r)) ∧
      (v.opc = 0x39 → aUnused v useAB = false → v.fmt ≤ 3 →
        let b := fun k => if v.bs then v.scalar v.sbA else Safety.lane s t v.vb k
        Safety.vecMakes (.vperm t) t i s v.vd 4 (fun k => a ((b k).toNat % 1024))
          (fun j => (if v.bs then v.scalarPoisoned v.sbA else Safety.line s t v.vb j) ||
            (List.range 16).any (fun n => pa ((b (16 * j + n)).toNat % 1024 / 16)))))

/-- Loads and gathers (R176, R180, R184) from a tile memory without code faults or reserved banks. VLD of a plain region: lane (r, c) is the
element at base + r × RS + c × ES elements (rows and columns exchanged with TRN, through the pleated order with PLT),
converted to the register format; a block-scaled VLD changes no other register; VGTH: lane k is the element that index lane
k names. Memory does not change. -/
def Obligations.VectorLoads : Prop :=
  ∀ (t : TileId) (v : VIns) (i : Item) (s : State), Safety.vecAt s t v i → Safety.tileReady s t → mPoisoned v true = false →
    let m := mArgs v
    let c := mCtx s t m
    ∀ mem : MemSel, memOfIndex m.mem = some mem →
    let at' (a : Nat) : Byte := Safety.byteAt s t mem (if m.plt then pleatAddr mem a else a)
    let w := fmtWidth (mfOf m) / 8
    let elem (a : Nat) : Nat := natOfBytes ((List.range w).map (fun b => at' (a + b)))
    let conv (n a : Nat) : Word := BitVec.ofNat 32 (convElem (mfOf m) (fmtOfReg m.rf)
      (ctxRnd m.round (itemSeed s i) c (elemIndex c (n / 64) (n % 64) m.sk)) (elem a)).bits
    mFormatBad m = false → ((m.round && rounds (mfOf m) (fmtOfReg m.rf)) = true → (itemJob s i).seed.isSome = true) →
    (v.opc = 0x01 → mUnused v true false false true true = false → 6 < m.mf → packedFmt m.rf = false → m.base % w = 0 →
      m.base + ((if m.trn then 64 else 16) - 1) * m.rs + ((if m.trn then 16 else 64) - 1) * m.es * w + w ≤ memBytes mem →
      ∃ u, exec (.vld t) s = .next u ∧ Safety.vecMemFrame t i [v.vd] s u ∧ Safety.sameMemory s u ∧
        ∀ n < 1024, Safety.lane u t v.vd n = conv n (m.base +
          (if m.trn then n % 64 else n / 64) * m.rs + (if m.trn then n / 64 else n % 64) * m.es * w)) ∧
    (v.opc = 0x01 → mUnused v true false false true true = false → m.mf ≤ 6 → m.trn = false → m.es = 1 → m.rf = 0 →
      tscaleOk c.tscale = true → firstFail (blockRegion m c) = none →
      (∀ r k j u, r ≠ v.vd → k < 1024 → j < 64 → exec (.vld t) s = .next u →
        Safety.lane u t r k = Safety.lane s t r k ∧ Safety.line u t r j = Safety.line s t r j) ∧
      ∃ u, exec (.vld t) s = .next u ∧ Safety.sameMemory s u ∧ u.hbm = s.hbm) ∧
    (v.opc = 0x03 → mUnused v true true false true false = false → gatherFmts m = true → m.base % w = 0 →
      m.base + mSS v * w ≤ memBytes mem → (∀ k < 1024, 0 ≤ (Safety.lane s t v.va k).toInt ∧
        (Safety.lane s t v.va k).toNat < mSS v) →
      ∃ u, exec (.vgth t) s = .next u ∧ Safety.vecMemFrame t i [v.vd] s u ∧ Safety.sameMemory s u ∧
        ∀ n < 1024, Safety.lane u t v.vd n = conv n (m.base + (Safety.lane s t v.va n).toNat * w))

/-- Stores and scatters (R176, R181, R182, R184) of registers without poison. VST of a plain region writes each element,
converted, at its address: no byte outside the elements' changes; VSCT writes lane k where index lane k says, the highest
lane last; VSCTA adds the lanes of one index, in lane order, to the FP32 word there; a block-scaled VST writes inside its
rows only, and a pruning VST advances the cursor of its context. -/
def Obligations.VectorStores : Prop :=
  ∀ (t : TileId) (v : VIns) (i : Item) (s : State), Safety.vecAt s t v i → Safety.tileReady s t → mPoisoned v true = false →
    (∀ r j, Safety.line s t r j = false) →
    let m := mArgs v
    let c := mCtx s t m
    ∀ mem : MemSel, memOfIndex m.mem = some mem → mem ≠ .wmem →
    let at' (a : Nat) : Nat := if m.plt then pleatAddr mem a else a
    let w := fmtWidth (mfOf m) / 8
    mFormatBad m = false → (m.round = true → (itemJob s i).seed.isSome = true) →
    let bits (x n : Nat) : Nat := (convElem (fmtOfReg m.rf) (mfOf m)
      (ctxRnd m.round (itemSeed s i) c (elemIndex c (n / 64) (n % 64) m.sk)) x).bits
    (v.opc = 0x02 → mUnused v true false false false false = false → m.prune = 0 → 6 < m.mf → packedFmt m.rf = false → m.base % w = 0 →
      m.base + 15 * m.rs + 63 * m.es * w + w ≤ memBytes mem →
      let ad (n : Nat) : Nat := m.base + n / 64 * m.rs + n % 64 * m.es * w
      ∃ u, exec (.vst t) s = .next u ∧ Safety.vecMemFrame t i [] s u ∧ (∀ x, x ≠ mem → tmem u t x = tmem s t x) ∧
        (∀ a, (∀ n < 1024, ∀ b < w, a ≠ at' (ad n + b)) → Safety.byteAt u t mem a = Safety.byteAt s t mem a) ∧
        (∀ n < 1024, (∀ k < 1024, n < k → ad n + w ≤ ad k ∨ ad k + w ≤ ad n) → ∀ b < w,
          Safety.byteAt u t mem (at' (ad n + b)) = (bytesOfNat w (bits (Safety.lane s t v.vd n).toNat n)).getD b 0)) ∧
    (v.opc = 0x02 → mUnused v true false false false false = false → m.prune = 0 → m.mf ≤ 6 → m.es = 1 → m.rf = 0 →
      headerAhead s t m c = false → tscaleOk c.tscale = true → firstFail (blockRegion m c) = none →
      ∃ u, exec (.vst t) s = .next u ∧ Safety.vecMemFrame t i [] s u ∧ (∀ x, x ≠ mem → tmem u t x = tmem s t x) ∧
        ∀ a, (∀ r < 16, ∀ b < (rowLayout (mfOf m) c.kb c.p).size, a ≠ at' (m.base + r * c.rowBytes + b)) →
          Safety.byteAt u t mem a = Safety.byteAt s t mem a) ∧
    (v.opc = 0x02 → mUnused v true false false false false = false → 0 < m.prune → m.prune ≤ 4 → m.mf ≤ 6 → m.rf = 0 →
      v.vd < 31 → pruneOrderBad c (mSS v) m.sk = false → tscaleOk c.tscale = true → m.base % 64 = 0 → cursorOf c % 64 = 0 →
      m.sk < c.kb → mSS v < c.rowGroups →
      m.base + c.rowGroups * mapBytes c.kb + cursorOf c + listBytes (prunedBlocks s t i v) ≤ memBytes mem →
      ∃ u, exec (.vst t) s = .next u ∧ Safety.vecMemFrame t i [] s u ∧ (∀ x, x ≠ mem → tmem u t x = tmem s t x) ∧
        (mCtx u t m).cursor = cursorOf c + listBytes (prunedBlocks s t i v) ∧ (mCtx u t m).started = true ∧
        (mCtx u t m).lastG = mSS v ∧ (mCtx u t m).lastK = m.sk) ∧
    (v.opc = 0x04 ∨ v.opc = 0x05 → mUnused v false true true false false = false → m.base % w = 0 →
      m.base + mSS v * w ≤ memBytes mem → (∀ k < 1024, 0 ≤ (Safety.lane s t v.va k).toInt ∧ (Safety.lane s t v.va k).toNat < mSS v) →
      let ad (k : Nat) : Nat := m.base + (Safety.lane s t v.va k).toNat * w
      (v.opc = 0x04 → gatherFmts m = true → ∃ u, exec (.vsct t) s = .next u ∧ Safety.vecMemFrame t i [] s u ∧
        (∀ x, x ≠ mem → tmem u t x = tmem s t x) ∧
        (∀ a, (∀ k < 1024, ∀ b < w, a ≠ at' (ad k + b)) → Safety.byteAt u t mem a = Safety.byteAt s t mem a) ∧
        (∀ k < 1024, (∀ n < 1024, k < n → ad n ≠ ad k) → ∀ b < w, Safety.byteAt u t mem (at' (ad k + b)) =
          (bytesOfNat w (bits (Safety.lane s t v.vb k).toNat k)).getD b 0)) ∧
      (v.opc = 0x05 → m.mf = 9 → ∃ u, exec (.vscta t) s = .next u ∧ Safety.vecMemFrame t i [] s u ∧
        (∀ x, x ≠ mem → tmem u t x = tmem s t x) ∧
        (∀ a, (∀ k < 1024, ∀ b < 4, a ≠ at' (ad k + b)) → Safety.byteAt u t mem a = Safety.byteAt s t mem a) ∧
        ∀ n < mSS v, Safety.wordAt u t mem (at' (m.base + 4 * n)) =
          ((List.range 1024).filter (fun k => decide ((Safety.lane s t v.va k).toNat = n))).foldl
            (fun x k => f32Add x (Safety.lane s t v.vb k)) (Safety.wordAt s t mem (at' (m.base + 4 * n)))))

/-- Contexts, programs, counters, scans and sequence slots (R172, R178, R185, R191 to R196): VCTX and VPLD take their record
from A-mem; a program image that fails R188 leaves its slot empty and fails with E_PROGRAM; VMARK adds 1 to a tile counter;
VSCAN forms the prefixes of its sequences, carried in its slot where USE is set; VSLOT takes a slot for the item's job,
saves it, restores it or frees it, and refuses a slot of another job with E_SLOT. Function tables and statistics (R205,
R220, R226 to R233): VTFN looks every lane up in the slot's active bank; VFTSWAP exchanges a slot's banks when the inactive
one is ready, else waits; VRSTAT's FIRST and FOLD take a row block into a row's running mean or sum of squares, and FINAL
forms the result; SMAX_STEP's FIRST and FOLD form the scores and the running maximum and sum and rescale O; FOLD's arithmetic runs, with its record
read, its bank taken and its beats credited, before its wait for its tag, its rescaling after it. -/
def Obligations.VectorState : Prop :=
  (
    ∀ (t : TileId) (v : VIns) (i : Item) (s : State), Safety.vecAt s t v i → Safety.tileReady s t →
      v.scalarPoisoned (fld v.x 31 28) = false →
      let base := (v.scalar (fld v.x 31 28)).toNat
      let recAt (n : Nat) : List Word := (List.range n).map (fun k => Safety.wordAt s t .amem (base + 4 * k))
      (v.opc = 0x06 → noRegs v = true → fld v.x 27 18 = 0 → fld v.x 14 0 = 0 → base % 64 = 0 → base + 64 ≤ memBytes .amem →
        ∃ u, exec (.vctx t) s = .next u ∧ Safety.vecMemFrame t i [] s u ∧ Safety.sameMemory s u ∧
          u.tiles[t].vec.ctx = vput s.tiles[t].vec.ctx (fld v.x 17 15) (ctxOfWords (recAt 16))) ∧
      (v.opc = 0x07 → noRegs v = true → fld v.x 27 22 = 0 → fld v.x 18 0 = 0 → base % 64 = 0 → base + 256 ≤ memBytes .amem →
        ((Prog.mk (recAt 64)).ok = true → ∃ u, exec (.vpld t) s = .next u ∧ Safety.vecMemFrame t i [] s u ∧
          u.tiles[t].vec.progs = vput s.tiles[t].vec.progs (fld v.x 21 19) (some (recAt 64))) ∧
        ((Prog.mk (recAt 64)).ok = false → ∃ u, exec (.vpld t) s = .next u ∧
          u.tiles[t].vec.progs = vput s.tiles[t].vec.progs (fld v.x 21 19) none ∧
          ∀ x ∈ u.items, x.key = i.key → (eProgram, blockId (vecB t)) ∈ x.errs)) ∧
      (v.opc = 0x08 → noRegs v = true → fld v.x 31 4 = 0 → ∃ u, exec (.vmark t) s = .next u ∧
        counterOf u t (fld v.x 3 0) = counterOf s t (fld v.x 3 0) + 1 ∧ u.tiles[t].vec.queue = s.tiles[t].vec.queue.drop 1 ∧
        ∀ k < 16, k ≠ fld v.x 3 0 → counterOf u t k = counterOf s t k) ∧
      (v.opc = 0x40 → let a := sArgs v
        let x := seqSlot s t a.slot
        let nd := if a.op = 4 ∧ a.outa = true then 2 else 1
        let n := if a.dir then 4 else 6
        a.op ≤ 4 → fld v.x 27 15 = 0 → (a.op ≠ 4 → v.vb = 0) → (a.seg = false → v.vc = 0) → v.fmt = 0 →
        beyond v.vd nd = false → clash v.vd nd v.va 1 = false → (a.op = 4 → clash v.vd nd v.vb 1 = false) →
        (a.seg = true → clash v.vd nd v.vc 1 = false) →
        (a.use = true → x.owner = itemOwner i ∧ x.op = a.op ∧ x.dir = a.dir) →
        let res (q : Nat) : List (Word × Word) := scanResults a.op n (if a.use then slotCarry x q else scanIdentity a.op)
          ((List.range (2 ^ n)).map (fun p => let k := scanLane a.dir q p
            ⟨a.seg && decide (Safety.lane s t v.vc k ≠ 0), if a.op = 4 then Safety.lane s t v.va k else 0,
              if a.op = 4 then Safety.lane s t v.vb k else Safety.lane s t v.va k⟩))
        ∃ u, exec (.vscan t) s = .next u ∧ Safety.vecMemFrame t i (if nd = 2 then [v.vd, v.vd + 1] else [v.vd]) s u ∧
          Safety.sameMemory s u ∧
          (∀ q < (if a.dir then 64 else 16), (∀ p < 2 ^ n,
              Safety.lane u t v.vd (scanLane a.dir q p) = ((res q).getD p (0, 0)).2 ∧
              (nd = 2 → Safety.lane u t (v.vd + 1) (scanLane a.dir q p) = ((res q).getD p (0, 0)).1)) ∧
            (a.use = true → (slotCarry (seqSlot u t a.slot) q).2 = ((res q).getLastD (0, 0)).2)) ∧
          (∀ k < 64, a.use = false ∨ k ≠ a.slot → seqSlot u t k = seqSlot s t k)) ∧
      (v.opc = 0x41 → noRegs v = true → fld v.x 27 15 = 0 → let a := sArgs v
        let x := seqSlot s t a.slot
        (a.act = 0 → a.op ≤ 4 → x.owner = none ∨ x.owner = itemOwner i → ∃ u, exec (.vslot t) s = .next u ∧
          (let y := seqSlot u t a.slot
           y.owner = itemOwner i ∧ y.op = a.op ∧ y.dir = a.dir ∧ y.poison = false ∧
             ∀ e < 64, (slotCarry y e).2 = (scanIdentity a.op).2 ∧ (a.op = 4 → (slotCarry y e).1 = f32One)) ∧
          (∀ k < 64, k ≠ a.slot → seqSlot u t k = seqSlot s t k)) ∧
        (a.act = 1 → x.owner = itemOwner i → base % 64 = 0 → base + 576 ≤ memBytes .amem →
          ∃ u, exec (.vslot t) s = .next u ∧ Safety.vecMemFrame t i [] s u ∧ u.tiles[t].vec.slots = s.tiles[t].vec.slots ∧
            memGet u t .amem base 576 = slotRecord x ∧
            ∀ b, b < base ∨ base + 576 ≤ b → Safety.byteAt u t .amem b = Safety.byteAt s t .amem b) ∧
        (a.act = 2 → x.owner = none ∨ x.owner = itemOwner i → base % 64 = 0 → base + 576 ≤ memBytes .amem →
          let h := (Safety.wordAt s t .amem base).toNat
          fld h 7 0 = jobByte i.key.part i.job → fld h 10 8 ≤ 4 → fld h 31 13 = 0 →
          (∀ k, 1 ≤ k → k < 16 → Safety.wordAt s t .amem (base + 4 * k) = 0) →
          ∃ u, exec (.vslot t) s = .next u ∧ Safety.vecMemFrame t i [] s u ∧ Safety.sameMemory s u ∧
            (let y := seqSlot u t a.slot
             y.owner = itemOwner i ∧ y.op = fld h 10 8 ∧ y.dir = bitOf h 11 ∧ y.poison = bitOf h 12 ∧
               ∀ k < 128, fget zeroWord y.carry k = Safety.wordAt s t .amem (base + 64 + 4 * k))) ∧
        (a.act = 3 → x.owner = itemOwner i → ∃ u, exec (.vslot t) s = .next u ∧ seqSlot u t a.slot = seqSlotFree) ∧
        (x.owner ≠ none → x.owner ≠ itemOwner i → base % 64 = 0 → base + 576 ≤ memBytes .amem → a.op ≤ 4 →
          exec (.vslot t) s = .next (vecFail t i v eSlot (Safety.unmarked s))))) ∧
  (
    ∀ (t : TileId) (v : VIns) (i : Item) (s : State), Safety.vecAt s t v i → Safety.tileReady s t →
      (v.opc = 0x48 → aUnused v useA = false → v.fmt = 0 → slotEmpty s t v.sub = false →
        (ftSlot s t v.sub).activeBank.badLines = [] →
        Safety.vecMakes (.vtfn t) t i s v.vd 4 (fun k => (slotEval (ftSlot s t v.sub).activeBank (Safety.lane s t v.va k)).1)
          (Safety.line s t v.va)) ∧
      (v.opc = 0x49 → noRegs v = true → fld v.x 31 23 = 0 → fld v.x 19 0 = 0 → genSwapPending s t v.sub = false →
        let x := ftSlot s t v.sub
        (x.inactive = .ready → bankRefs s t v.sub (!x.active) = 0 → ∃ u, exec (.vftswap t) s = .next u ∧
          u.tiles[t].vec.queue = s.tiles[t].vec.queue.drop 1 ∧ u.tiles[t].ftb = vput s.tiles[t].ftb v.sub (swapBanks x)) ∧
        (x.inactive = .ready → bankRefs s t v.sub (!x.active) ≠ 0 → exec (.vftswap t) s = .next (Safety.unmarked s)) ∧
        (x.inactive = .loading → exec (.vftswap t) s = .next (Safety.unmarked s)) ∧
        (x.inactive = .rejected → exec (.vftswap t) s = .next (vecFail t i v eTableReject (Safety.unmarked s))) ∧
        (x.inactive = .empty → exec (.vftswap t) s = .next (vecFail t i v eTableEmpty (Safety.unmarked s)))) ∧
      (v.opc = 0x50 → v.fmt = 0 → v.vb = 0 → v.vc = 0 → fld v.x 27 17 = 0 → fld v.x 8 0 = 0 → v.vd ≤ 29 →
        (let el (k n : Nat) : Word := Safety.lane s t (v.vd + n) (64 * (k / 64))
         (actOf v ≤ 1 → v.scalarPoisoned (fld v.x 31 28) = false → v.va + nrOf v < 32 →
          (v.vd + 3 ≤ v.va ∨ v.va + nrOf v < v.vd ∨ (v.vd = v.va ∧ nrOf v = 2)) → validCols v ≤ 64 * (nrOf v + 1) →
          ∃ u, exec (.vrstat t) s = .next u ∧
            Safety.vecFrame t i [v.vd, v.vd + 1, v.vd + 2] (if bitOf v.x 16 then 2 * (nrOf v + 1) + 2 else 4 * (nrOf v + 1) + 6)
              s u ∧
            ∀ k < 1024,
              let st := foldRow (bitOf v.x 16) ((List.range (nrOf v + 1)).map (fun g => (List.range 64).map (fun c =>
                if 64 * g + c < validCols v then Safety.lane s t (v.va + g) (64 * (k / 64) + c) else 0))) (validCols v)
                (if actOf v = 1 then ⟨0, 0, 0⟩ else ⟨el k 0, el k 1, el k 2⟩)
              Safety.lane u t v.vd k = st.a ∧ Safety.lane u t (v.vd + 1) k = st.m2 ∧ Safety.lane u t (v.vd + 2) k = st.n) ∧
         (actOf v = 2 → v.va = 0 → nrOf v = 0 → ∃ u, exec (.vrstat t) s = .next u ∧
          Safety.vecFrame t i (if bitOf v.x 16 then [v.vd] else [v.vd, v.vd + 1]) 2 s u ∧ ∀ k < 1024,
            let st := finalRow (bitOf v.x 16) ⟨el k 0, el k 1, el k 2⟩
            Safety.lane u t v.vd k = st.a ∧ (bitOf v.x 16 = false → Safety.lane u t (v.vd + 1) k = st.m2)))) ∧
      (v.opc = 0x51 → heldStep s t = none → v.fmt = 0 → v.vb = 0 → v.vc = 0 → fld v.x 8 0 = 0 → bitOf v.x 23 = false →
        v.scalarPoisoned (fld v.x 31 28) = false → v.scalarPoisoned (fld v.x 27 24) = false →
        fld (v.scalar (fld v.x 27 24)).toNat 31 19 = 0 → amemScalar v % 64 = 0 → amemScalar v + 64 ≤ memBytes .amem →
        let ws := (List.range 16).map (fun k => Safety.wordAt s t .amem (amemScalar v + 4 * k))
        let a := smaxArgs v ws
        smaxRsvd ws = false → firstFail (smaxChecks s t v a true) = none → (ftSlot s t v.sub).activeBank.badLines = [] →
        let apart := a.obase + 1024 * a.n ≤ a.state + 8 * a.row0 ∨ a.state + 8 * a.row0 + 128 ≤ a.obase
        (actOf v = 1 ∨ (actOf v = 0 ∧ tagReady s t (fld v.x 19 16) a.v = true) → ∃ u, exec (.smaxStep t) s = .next u ∧
          Safety.vecMemFrame t i ((List.range (nrOf v + 1)).map (v.vd + ·)) s u ∧
          (∀ r < 16,
              let row := smaxRow (ftSlot s t v.sub).activeBank ((List.range (nrOf v + 1)).map (fun g =>
                (List.range 64).map (fun c => Safety.lane s t (v.va + g) (64 * r + c))))
                (if actOf v = 1 then f32NegInf else Safety.wordAt s t .pmem (a.state + 8 * (a.row0 + r)))
                (if actOf v = 1 then 0 else Safety.wordAt s t .pmem (a.state + 8 * (a.row0 + r) + 4))
              (∀ g ≤ nrOf v, ∀ c < 64, Safety.lane u t (v.vd + g) (64 * r + c) = (row.p.getD g []).getD c 0) ∧
              (apart → (∀ g ≤ nrOf v, ∀ c < 64, Safety.line s t (v.va + g) c = false) →
                Safety.wordAt u t .pmem (a.state + 8 * (a.row0 + r)) = row.m ∧
                Safety.wordAt u t .pmem (a.state + 8 * (a.row0 + r) + 4) = row.l ∧
                ∀ c < a.lanes, Safety.wordAt u t .pmem (a.oAddr (a.row0 + r) c) =
                  (let o := if actOf v = 1 then 0 else Safety.wordAt s t .pmem (a.oAddr (a.row0 + r) c)
                   match row.a with | some f => (if actOf v = 1 then f32Mul 0 f else f32Mul o f) | none => o))) ∧
          (a.adv = true → vat u.tiles[t].mnt.rtag (fld v.x 19 16) 0 = BitVec.ofNat 8 a.v)) ∧
        (actOf v = 2 → v.va = 0 → v.vd = 0 → nrOf v = 0 → tagReady s t (fld v.x 19 16) a.v = true → apart →
          ∃ u, exec (.smaxStep t) s = .next u ∧ Safety.vecMemFrame t i [] s u ∧ ∀ r < 16, ∀ c < a.lanes,
            Safety.wordAt u t .pmem (a.oAddr (a.row0 + r) c) =
              (if Safety.wordAt s t .pmem (a.state + 8 * (a.row0 + r)) = f32NegInf then 0
               else f32Div (Safety.wordAt s t .pmem (a.oAddr (a.row0 + r) c))
                 (Safety.wordAt s t .pmem (a.state + 8 * (a.row0 + r) + 4)))) ∧
        (actOf v = 2 → v.va = 0 → v.vd = 0 → nrOf v = 0 → tagReady s t (fld v.x 19 16) a.v = false →
          ∃ u, exec (.smaxStep t) s = .next u ∧ heldStep u t = some ⟨ws, none, []⟩ ∧ Safety.sameMemory s u) ∧
        (actOf v = 0 → tagReady s t (fld v.x 19 16) a.v = false → ∃ u, exec (.smaxStep t) s = .next u ∧
          (∃ h, heldStep u t = some h ∧ h.record = ws ∧ h.bank = some (v.sub, (ftSlot s t v.sub).active)) ∧
          reg u (vecB t) Off.vecBeats = min (reg s (vecB t) Off.vecBeats + smaxBeats v) (2 ^ 48 - 1) ∧ u.tiles[t].vec.queue.map (fun e => (e.word, e.key)) =
            s.tiles[t].vec.queue.map (fun e => (e.word, e.key)) ∧
          (∀ r < 16, ∀ g ≤ nrOf v, ∀ c < 64, Safety.lane u t (v.vd + g) (64 * r + c) =
            ((smaxRow (ftSlot s t v.sub).activeBank ((List.range (nrOf v + 1)).map (fun g =>
              (List.range 64).map (fun c => Safety.lane s t (v.va + g) (64 * r + c))))
              (Safety.wordAt s t .pmem (a.state + 8 * (a.row0 + r)))
              (Safety.wordAt s t .pmem (a.state + 8 * (a.row0 + r) + 4))).p.getD g []).getD c 0) ∧
          ∀ b, b < a.state + 8 * a.row0 ∨ a.state + 8 * a.row0 + 128 ≤ b → Safety.byteAt u t .pmem b = Safety.byteAt s t .pmem b)) ∧
      (v.opc = 0x51 → ∀ h, heldStep s t = some h → let a := smaxArgs v h.record
        (tagReady s t (fld v.x 19 16) a.v = false → exec (.smaxStep t) s = .next (Safety.unmarked s)) ∧
        (tagReady s t (fld v.x 19 16) a.v = true → ∃ u, exec (.smaxStep t) s = .next u ∧
          u.tiles[t].vec.queue = s.tiles[t].vec.queue.drop 1 ∧ (∀ r k, Safety.lane u t r k = Safety.lane s t r k) ∧
          (a.adv = true → vat u.tiles[t].mnt.rtag (fld v.x 19 16) 0 = BitVec.ofNat 8 a.v))))

/-- Element programs (R185 to R190): VPRG runs the checked program of its slot on every element of its run of registers, and
VPRGM on COUNT elements of streams in tile memory; every output is the program's, in its format, VPRG in the beats of R189;
an empty program slot is refused with E_SLOT. -/
def Obligations.VectorPrograms : Prop :=
  ∀ (t : TileId) (v : VIns) (i : Item) (s : State), Safety.vecAt s t v i → Safety.tileReady s t →
    (∀ k : Fin 8, (s.tiles[t].ftb[k]).activeBank.badLines = []) →
    (v.opc = 0x58 → fld v.x 13 0 = 0 → v.fmt ≤ 3 → ∀ p : Prog, progSlot s t v = some p → p.nin ≤ 4 → p.nout ≤ 2 →
      (progIns v p ++ progOuts v p).all (fun r => decide (r + runLen v ≤ 32)) = true →
      (∀ d ∈ progOuts v p, ∀ a ∈ progIns v p, d + runLen v ≤ a ∨ a + runLen v ≤ d ∨ d = a) →
      (progOuts v p).Pairwise (fun d e => d + runLen v ≤ e ∨ e + runLen v ≤ d) →
      (p.draws = true → (itemJob s i).seed.isSome = true) → (∀ f ∈ p.luts, slotEmpty s t f = false) →
      ∃ u, exec (.vprg t) s = .next u ∧
        Safety.vecMemFrame t i ((progOuts v p).flatMap (fun d => (List.range (runLen v)).map (d + ·))) s u ∧
        reg u (vecB t) Off.vecBeats = min (reg s (vecB t) Off.vecBeats +
          runLen v * max 1 p.weight * (if packedFmt v.fmt then 2 else 1)) (2 ^ 48 - 1) ∧
        ∀ o < (progOuts v p).length, ∀ r < runLen v, ∀ n < 16 * regCols v.fmt,
          Safety.elem u t v.fmt ((progOuts v p).getD o 0 + r) n = (packElem (fmtOfReg v.fmt)
            ((runElem (progEnv s t i p)
              (elemIndex (progEnv s t i p).ctx (16 * r + n / regCols v.fmt) (n % regCols v.fmt) 0)
              ((progIns v p).map (fun a => unpackElem (fmtOfReg v.fmt) (Safety.elem s t v.fmt (a + r) n)))).outs.getD o 0)).bits) ∧
    (v.opc = 0x58 → fld v.x 13 0 = 0 → v.fmt ≤ 3 → progSlot s t v = none →
      exec (.vprg t) s = .next (vecFail t i v eSlot (Safety.unmarked s))) ∧
    (v.opc = 0x59 → noRegs v = true → fld v.x 27 22 = 0 → fld v.x 18 0 = 0 → v.scalarPoisoned (fld v.x 31 28) = false →
      amemScalar v % 64 = 0 → amemScalar v + 64 ≤ memBytes .amem → ∀ p : Prog, progSlot s t v = some p →
      let ws := (List.range 16).map (fun k => Safety.wordAt s t .amem (amemScalar v + 4 * k))
      let count := (ws.getD 0 0).toNat
      let ins := (progStreams p ws).1
      let outs := (progStreams p ws).2
      p.nin ≤ 4 → p.nout ≤ 2 → progPoisoned s t (fld v.x 21 19) = false → (∀ x ∈ outs, x.mem < 2 ∧ 1 ≤ x.stride) →
      (∀ x ∈ ins ++ outs, x.mem < 3 ∧ 7 ≤ x.fmt ∧ x.fmt ≤ 10 ∧ x.base % x.width = 0 ∧ x.beyond count = false) →
      (p.draws = true → (itemJob s i).seed.isSome = true) → (∀ f ∈ p.luts, slotEmpty s t f = false) →
      let bits (z : State) (x : Stream) (j : Nat) : Nat :=
        natOfBytes (memGet z t ((memOfIndex x.mem).getD .amem) (x.base + x.width * j * x.stride) x.width)
      ∃ u, exec (.vprgm t) s = .next u ∧ Safety.vecMemFrame t i [] s u ∧
        ∀ o x, outs[o]? = some x →
          (∀ q y, outs[q]? = some y → q ≠ o → y.mem ≠ x.mem ∨ y.base + y.width * (count * y.stride) ≤ x.base ∨
            x.base + x.width * (count * x.stride) ≤ y.base) →
          ∀ j < count, bits u x j = (packElem x.f ((runElem (progEnv s t i p) ((progEnv s t i p).ctx.indexBase.toNat + j)
            (ins.map (fun y => unpackElem y.f (bits s y j)))).outs.getD o 0)).bits)

/-! ## Stage chains, tables, tile memories (chapters 06 to 08) -/

/-- The stage chain (R199 to R201, R203): GO takes the settings of a tile whose vector engine is OFF, DRAINED or FENCED and
whose chain does not run, and is refused with E_DENIED otherwise; a setting that fails a check is recorded with its code;
SC_COMPLETE ends the owner's chain DONE where its banks are free and the fault port is empty, every destination line of a fill
holding the fill word and no other byte changed; ABORT ends it with CANCELLED; neither touches a chain of the root of trust (entry
28), and in the safe state no chain goes on (R439). -/
def Obligations.StageChain : Prop :=
  (∀ (m : Master) (t : TileId) (v : Word) (s : State), Safety.owns m s →
    let st := pgState s (vecB t)
    let cfg := Nat.land v.toNat 0xFFFFFC :: (List.range 8).map (fun k => reg s (vecB t) (Off.vecScCtrl + 4 * (k + 1)))
    let c := scCfgOf cfg
    (¬ (st = 0 ∨ st = 4 ∨ st = 5) ∨ s.tiles[t].vec.sc.running = true →
      exec (.scGo m t v) s = .next (Safety.denied m s)) ∧
    ((st = 0 ∨ st = 4 ∨ st = 5) → s.tiles[t].vec.sc.running = false → firstFail (c.checks (slotEmpty s t c.tslot)) = none →
      ∃ u, exec (.scGo m t v) s = .next u ∧ u.tiles[t].vec.sc = ⟨true, false, (ftSlot s t c.tslot).active, cfg⟩ ∧
        reg u (vecB t) Off.vecScStat = 1 ∧ reg u (vecB t) Off.vecScDone = 0 ∧ reg u (vecB t) Off.vecScMismatch = 0 ∧
        Safety.sameMemory s u ∧ u.masters[masterIdx m].status = stDone) ∧
    (∀ e, (st = 0 ∨ st = 4 ∨ st = 5) → s.tiles[t].vec.sc.running = false →
      firstFail (c.checks (slotEmpty s t c.tslot)) = some e →
      ∃ u, exec (.scGo m t v) s = .next u ∧ u.tiles = s.tiles ∧ reg u (vecB t) Off.vecScStat = 3 + 2 ^ 8 * e) ∧
    (s.tiles[t].vec.sc.running = true → s.tiles[t].vec.sc.byRot = false →
      ∃ u, exec (.scAbort m t) s = .next u ∧ u.tiles[t].vec.sc.running = false ∧
        reg u (vecB t) Off.vecScStat = 3 + 2 ^ 8 * stCancelled) ∧
    (s.tiles[t].vec.sc.running = false ∨ s.tiles[t].vec.sc.byRot = true → ∃ u, exec (.scAbort m t) s = .next u ∧ u.tiles = s.tiles)) ∧
  (∀ (t : TileId) (s : State), (s.tiles[t].vec.sc.running = false ∨ s.tiles[t].vec.sc.byRot = true ∨ s.flt.safe = true →
      exec (.scComplete t) s = .next s) ∧
    (s.flt.safe = false → portCount s t = 0 → (∀ m lo len, bankReserved s t m lo len = false) →
    (s.tiles[t].vec.sc.running = true → s.tiles[t].vec.sc.byRot = false → ∃ u, exec (.scComplete t) s = .next u ∧ u.tiles[t].vec.sc.running = false ∧
      reg u (vecB t) Off.vecScStat = 2 ∧ u.items = s.items ∧ u.hbm = s.hbm) ∧
    (let c := scCfgOf s.tiles[t].vec.sc.cfg
     ∀ mem, memOfIndex c.dmem = some mem → s.tiles[t].vec.sc.running = true → s.tiles[t].vec.sc.byRot = false → c.fillSrc = true → c.raw = true →
      c.ofmt = 15 → c.wmode = 0 → s.flt.armed = [] → c.fill < 2 ^ 32 →
      ∃ u, exec (.scComplete t) s = .next u ∧
        (∀ a, c.dst ≤ a → a < c.dst + 64 * c.lines → c.dst % 64 = 0 →
          Safety.byteAt u t mem a = (bytesOfNat 4 c.fill).getD (a % 4) 0) ∧
        (∀ a, a < c.dst ∨ c.dst + 64 * c.lines ≤ a → Safety.byteAt u t mem a = Safety.byteAt s t mem a) ∧
        ∀ n, n ≠ mem → tmem u t n = tmem s t n)))

/-- Loading a function table (R219): FTB_LOAD by the owner or by the tile's sequencer makes the inactive bank LOADING; a
table number of 11 or more (E_FORMAT), an image beyond A-mem (E_EXTENT), a slot that is loading or about to switch
(E_DENIED) refuse the owner's write. FTB_LOAD_COMPLETE leaves the built-in table, or an image that passes every check,
READY, and a rejected image REJECTED with its reason; a bank in use waits. The scrubber and the crossbar (R240, R243, R257,
R258, R262, R290): a credit tick adds each memory's rate to its credit, the excess over 256 dropped and counted; a line of a
clean memory is walked without a change to memory, the walk moving on and wrapping at the memory's end; SCRB_RESTART puts
the named walks back at line 0; a request that has waited its time is promoted, and a wide access that has waited 16 bank
beats, where a mover has one, reserves its row. -/
def Obligations.TableLoadAndScrub : Prop :=
  (
    (∀ (m : Master) (t : TileId) (v : Word) (s : State), Safety.owns m s → Nat.land v.toNat 0xFF000000 = 0 →
      let f := fld v.toNat 2 0
      let x := ftSlot s t f
      let good := (fld v.toNat 3 3 = 1 ∧ fld v.toNat 7 4 < 11) ∨
        (fld v.toNat 3 3 = 0 ∧ 64 * fld v.toNat 23 8 + 1088 ≤ memBytes .amem)
      (good → x.inactive ≠ .loading → genSwapPending s t f = false →
        exec (.ftbLoad (some m) t v) s = .next (Safety.wrote m
          (setFtSlot t f { x with inactive := .loading, load := some (v, false) } s)) ∧
        exec (.ftbLoad none t v) s = .next (setFtSlot t f { x with inactive := .loading, load := some (v, true) } s)) ∧
      (fld v.toNat 3 3 = 1 → 11 ≤ fld v.toNat 7 4 →
        exec (.ftbLoad (some m) t v) s = .next (answered (masterIdx m) eFormat 0 s)) ∧
      (fld v.toNat 3 3 = 0 → memBytes .amem < 64 * fld v.toNat 23 8 + 1088 →
        exec (.ftbLoad (some m) t v) s = .next (answered (masterIdx m) eExtent 0 s)) ∧
      (good → x.inactive = .loading ∨ genSwapPending s t f = true →
        exec (.ftbLoad (some m) t v) s = .next (Safety.denied m s))) ∧
    (∀ (t : TileId) (f : Fin 8) (v : Word) (q : Bool) (s : State), (ftSlot s t f.val).load = some (v, q) →
      let x := ftSlot s t f.val
      (bankRefs s t f.val (!x.active) ≠ 0 → exec (.ftbLoadComplete t f) s = .next s) ∧
      (bankRefs s t f.val (!x.active) = 0 → fld v.toNat 3 3 = 1 → fld v.toNat 7 4 < 11 → s.flt.armed = [] →
        ∃ u, exec (.ftbLoadComplete t f) s = .next u ∧
          (let y := ftSlot u t f.val
           y.inactive = .ready ∧ y.load = none ∧ y.active = x.active ∧ y.activeBank = x.activeBank ∧
             ∃ k : Fin 11, k.val = fld v.toNat 7 4 ∧ y.inactiveBank = ⟨true, some k, [], [], [], 0⟩) ∧
          Safety.sameMemory s u) ∧
      (bankRefs s t f.val (!x.active) = 0 → fld v.toNat 3 3 = 0 → s.flt.armed = [] → Safety.tileReady s t →
        let ws := (List.range 272).map (fun k => Safety.wordAt s t .amem (64 * fld v.toNat 23 8 + 4 * k))
        let r := (Tbl.mk (ws.take 16) (ws.drop 16)).check false
        ∃ u, exec (.ftbLoadComplete t f) s = .next u ∧ Safety.sameMemory s u ∧
          (let y := ftSlot u t f.val
           y.inactive = (if r.isNone then .ready else .rejected) ∧ y.load = none ∧ y.activeBank = x.activeBank ∧
             y.inactiveBank.live = r.isNone ∧ (∀ k < 16, y.inactiveBank.word k = ws.getD k 0) ∧
             ∀ k < 256, y.inactiveBank.word (96 + k) = ws.getD (16 + k) 0)))) ∧
  (
    (∀ (t : TileId) (s : State), (hdr s (.tile t .scrb)).mode ≠ .off → ∃ u, exec (.scrubCredit t) s = .next u ∧
      u.tiles[t].scrub = ⟨min (s.tiles[t].scrub.creditW + scrubRate s t .wmem) 256,
        min (s.tiles[t].scrub.creditA + scrubRate s t .amem) 256, min (s.tiles[t].scrub.creditP + scrubRate s t .pmem) 256⟩ ∧
      Safety.sameMemory s u ∧
      (let over' := (s.tiles[t].scrub.creditW + scrubRate s t .wmem - 256) +
        (s.tiles[t].scrub.creditA + scrubRate s t .amem - 256) + (s.tiles[t].scrub.creditP + scrubRate s t .pmem - 256)
       reg u (.tile t .scrb) Off.scrbDropped = if over' = 0 then reg s (.tile t .scrb) Off.scrbDropped
         else min (reg s (.tile t .scrb) Off.scrbDropped + over') (2 ^ 48 - 1))) ∧
    (∀ (t : TileId) (mem : MemSel) (s : State), (hdr s (.tile t .scrb)).mode = .on → scrubRate s t mem ≠ 0 →
      creditOf s.tiles[t].scrub mem ≠ 0 → portCount s t = 0 ∨ (tmem s t mem).err = [] →
      let p := reg s (.tile t .scrb) (scrubPosOff mem)
      bankReserved s t mem (64 * fld p 15 0) 64 = false →
      ∃ u, exec (.scrubLine t mem) s = .next u ∧
        creditOf u.tiles[t].scrub mem = creditOf s.tiles[t].scrub mem - 1 ∧
        fld (reg u (.tile t .scrb) (scrubPosOff mem)) 15 0 = (if memLines mem ≤ fld p 15 0 + 1 then 0 else fld p 15 0 + 1) ∧
        fld (reg u (.tile t .scrb) (scrubPosOff mem)) 31 16 =
          (if memLines mem ≤ fld p 15 0 + 1 then (fld p 31 16 + 1) % 2 ^ 16 else fld p 31 16) ∧
        ((tmem s t mem).err = [] → Safety.sameMemory s u ∧ u.flt = s.flt) ∧ u.hbm = s.hbm ∧
        (∀ n, n ≠ mem → tmem u t n = tmem s t n)) ∧
    (∀ (m : Master) (t : TileId) (v : Word) (s : State), Safety.owns m s →
      ∃ u, exec (.scrbRestart m t v) s = .next u ∧ u = { s with regs := u.regs, masters := u.masters } ∧
        u.masters[masterIdx m].status = stDone ∧
        ∀ mem, fld (reg u (.tile t .scrb) (scrubPosOff mem)) 31 16 = fld (reg s (.tile t .scrb) (scrubPosOff mem)) 31 16 ∧
          fld (reg u (.tile t .scrb) (scrubPosOff mem)) 15 0 =
            (if v.getLsbD (scrubIndex mem) then 0 else fld (reg s (.tile t .scrb) (scrubPosOff mem)) 15 0)) ∧
    (∀ (t : TileId) (r : Requester) (mem : MemSel) (bank : BitVec 6) (n : Nat) (s : State),
      (n < fld (reg s (.tile t .dmv) Off.dmvAge) 7 0 → exec (.tmemAgingPromote t r mem bank n) s = .next s) ∧
      (fld (reg s (.tile t .dmv) Off.dmvAge) 7 0 ≤ n → bank.toNat < memBanks mem →
        s.tiles[t].promoted.contains (r, mem, bank) = false → exec (.tmemAgingPromote t r mem bank n) s =
          .next (modTile t (fun x => { x with promoted := x.promoted ++ [(r, mem, bank)] }) s))) ∧
    (∀ (t : TileId) (mem : MemSel) (row : BitVec 11) (n : Nat) (s : State), s.tiles[t].wideReserved = none →
      2048 * row.toNat < memBytes mem →
      exec (.wideReserve t mem row n) s =
        .next (if n < 16 ∨ wideWaits s = false then s
          else modTile t (fun x => { x with wideReserved := some (mem, row) }) s)))

/-! ## Arrays and data movement (chapters 04, 05, 09) -/

/-- ARRAY_DESCRIPTOR_ACCEPT (R33, R113, R133): the first descriptor at the gang's input waits while a member runs another
generation, or its issuer's array does; the first failing check, in the order E_FORMAT, E_SCALE, E_SHAPE, E_ALIGN, E_EXTENT, refuses it, frees its token
and fails its item; where a member is fenced the descriptor is gone and its item ends FENCED; otherwise it is accepted behind those before it, its region tag
set where it asks. -/
def Obligations.ArrayAccept : Prop :=
  ∀ (t : TileId) (d : ArrDesc) (rest : List ArrDesc) (s : State), s.flt.safe = false → (gangOf s t).input = d :: rest →
    (gangOf s t).descs.length < 4 →
    let ms := t :: d.issuer :: liveMembers s t
    let a := arrArgs d.words
    ((∃ m ∈ ms, (hdr s (mnt m)).genLive ≠ d.gen) → exec (.arrayDescriptorAccept t) s = .next s) ∧
    ((∀ m ∈ ms, (hdr s (mnt m)).genLive = d.gen ∧ (hdr s (mnt m)).mode ≠ .fenced) →
      (∀ c, firstFail (acceptChecks s t d) = some c → ∃ u, exec (.arrayDescriptorAccept t) s = .next u ∧
        (gangOf u t).descs = (gangOf s t).descs ∧
        (∀ x ∈ u.items, x.key = d.key → (c, blockId (mnt d.issuer)) ∈ x.errs) ∧
        (∀ k h, vat u.tiles[d.issuer].seq.tokens k none = some h → ¬ (h.eng = .array ∧ h.serial = d.serial))) ∧
      (a.op ≠ 1 → firstFail (acceptChecks s t d) = some eFormat) ∧
      (a.op = 1 → a.rsvd = false → arrPairOk a = true → tscaleOk a.a.tscale = false → 
        firstFail (acceptChecks s t d) = some eScale) ∧
      (a.op = 1 → a.rsvd = false → arrPairOk a = true → tscaleOk a.a.tscale = true → tscaleOk a.b.tscale = true →
        let rows := 256 * (gangGeo s t).n
        let shaped := a.kb ≠ 0 ∧ a.steps ≠ 0 ∧ (a.add = true ∨ (a.ringTiles ≠ 0 ∧ a.ringTiles * rows ≤ 2048)) ∧ d.issuer = t ∧
          (gangGeo s t).n ≠ 0 ∧ gangUnusable s t = false ∧
          ∀ m ∈ liveMembers s t, (hdr s (mnt m)).mode ≠ .draining ∧ (hdr s (mnt m)).mode ≠ .drained ∧
            (hdr s (mnt m)).mode ≠ .updating
        let aligned := a.a.base % 64 = 0 ∧ a.a.stride % 64 = 0 ∧ a.b.base % 64 = 0 ∧ a.b.stride % 64 = 0 ∧
          a.drainBase % 1024 = 0 ∧ (a.a.sparse = true → a.a.map % 64 = 0) ∧ (a.b.sparse = true → a.b.map % 64 = 0)
        (¬ shaped → firstFail (acceptChecks s t d) = some eShape) ∧
        (shaped → ¬ aligned → firstFail (acceptChecks s t d) = some eAlign) ∧
        (shaped → aligned → memBytes .pmem < a.drainBase + 1024 * (if a.add then rows else a.ringTiles * rows) →
          firstFail (acceptChecks s t d) = some eExtent) ∧
        (shaped → aligned → operandBeyond a.a a.b.f a.kb a.steps = true ∨ operandBeyond a.b a.a.f a.kb a.steps = true →
          firstFail (acceptChecks s t d) = some eExtent))) ∧
    ((∀ m ∈ ms, (hdr s (mnt m)).genLive = d.gen) → (∃ m ∈ ms, (hdr s (mnt m)).mode = .fenced) →
      ∃ u, exec (.arrayDescriptorAccept t) s = .next u ∧ (gangOf u t).descs = (gangOf s t).descs ∧
        (gangOf u t).input = (gangOf s t).input.filter (fun x => decide (x.serial ≠ d.serial) || decide (x.issuer ≠ d.issuer)) ∧
        Safety.sameMemory s u ∧ (∀ x ∈ u.items, x.key = d.key → x.fenced = true) ∧
        (∀ k h, vat u.tiles[d.issuer].seq.tokens k none = some h → ¬ (h.eng = .array ∧ h.serial = d.serial))) ∧
    ((∀ m ∈ ms, (hdr s (mnt m)).genLive = d.gen ∧ (hdr s (mnt m)).mode = .on) →
      firstFail (acceptChecks s t d) = none → ∃ u, exec (.arrayDescriptorAccept t) s = .next u ∧
        (gangOf u t).descs.map (fun x => (x.serial, x.words, x.key, x.nextStep, x.stepsDrained, x.stepsTotal)) =
          (gangOf s t).descs.map (fun x => (x.serial, x.words, x.key, x.nextStep, x.stepsDrained, x.stepsTotal)) ++
            [(d.serial, d.words, d.key, d.nextStep, d.stepsDrained, a.steps)] ∧
        (gangOf u t).input = (gangOf s t).input.filter (fun x => decide (x.serial ≠ d.serial) || decide (x.issuer ≠ d.issuer)) ∧
        Safety.sameMemory s u ∧
        (a.tagEn = true → a.tagInit = true → ∀ b < (gangGeo s t).n,
          vat u.tiles[(gangGeo s t).south b].mnt.rtag a.rtag 0 = BitVec.ofNat 8 a.expect))

/-- ARRAY_BEAT (R111, R122 to R126): a gang without accepted or waiting descriptors, or in the safe state, does nothing. A
beat in which a step is fed, with no ramp, bubble, drain, hold or reserved bank in its way, admits its next slot when its accesses are
granted: one MNT_BEATS, one beat of its item, the wavefront one place on; a bank conflict or a convoy stalls instead, and is
counted under its cause alone. The end of array work (R116, R126, R134): a run whose admission has halted for 64 beats
closes; the oldest descriptor whose every step is drained completes: its token is free, its counter gains 1, and it leaves
the gang; MNT_DRAIN_REL releases rows of the STORE ring, never beyond those drained. -/
def Obligations.ArrayBeats : Prop :=
  (
    ∀ (t : TileId) (w : BankWait) (s : State),
      ((s.flt.safe = true ∨ gangActive s t = false) → exec (.arrayBeat t w) s = .next s) ∧
      (∀ (p : StepPlan) (d : ArrDesc), s.flt.safe = false → liveLeader s t = t → (gangOf s t).plan = some p →
        gangDesc (gangOf s t) p.serial = some d → (gangOf s t).drains = [] → (gangOf s t).runOpen = true →
        (gangOf s t).ramp.kind = 0 → 15 * rampLen s t / 32 < slotsLeft (gangGeo s t) (gangOf s t) →
        s.pwr.quads[quadOf t].fa = 0 → p.holdUntil ≤ (gangOf s t).beat → p.pos < p.rb → p.pos + 1 < p.c →
        (∀ x ∈ (gangOf s t).descs, x.newRing = false) → (∀ x : TileId, s.tiles[x].wideReserved = none) →
        ∃ u, exec (.arrayBeat t w) s = .next u ∧ Safety.sameMemory s u ∧ (gangOf u t).beat = (gangOf s t).beat + 1 ∧
          (w = .granted → (gangOf u t).adm = (gangOf s t).adm + 1 ∧ (gangOf u t).plan = some { p with pos := p.pos + 1 } ∧
            reg u (mnt t) Off.mntBeats = min (reg s (mnt t) Off.mntBeats + 1) (2 ^ 48 - 1) ∧
            (∀ c < 12, reg u (mnt t) (Off.mntStall + 8 * c) = reg s (mnt t) (Off.mntStall + 8 * c)) ∧
            u.items = s.items.map (fun x => if x.key = d.key then { x with beatsArray := x.beatsArray + 1 } else x)) ∧
          (w ≠ .granted → genWaits s t = none → (gangOf u t).adm = (gangOf s t).adm ∧ (gangOf u t).plan = some p ∧ u.items = s.items ∧
            reg u (mnt t) Off.mntBeats = reg s (mnt t) Off.mntBeats ∧
            (∀ c < 12, reg u (mnt t) (Off.mntStall + 8 * c) =
              if c = (if w = .conflict then stallConflict else stallConvoy)
              then min (reg s (mnt t) (Off.mntStall + 8 * c) + 1) (2 ^ 48 - 1)
              else reg s (mnt t) (Off.mntStall + 8 * c))))) ∧
  (
    (∀ (t : TileId) (s : State), let g := gangOf s t
      exec (.runStallClose t) s = .next (if g.runOpen = true ∧ 64 ≤ g.haltRun
        then setGang t { g with runOpen := false, ramp := ⟨0, 0, 0⟩, haltRun := 0 } s else s)) ∧
    (∀ (t : TileId) (d : ArrDesc) (rest : List ArrDesc) (s : State), (gangOf s t).descs = d :: rest →
      (d.stepsDrained = d.stepsTotal → d.nextStep = d.stepsTotal → ∃ u, exec (.arrayDescriptorComplete t) s = .next u ∧
        (gangOf u t).descs = (d :: rest).filter (fun x => decide (x.serial ≠ d.serial)) ∧ Safety.sameMemory s u ∧
        (∀ k h, vat u.tiles[d.issuer].seq.tokens k none = some h ↔
          vat s.tiles[d.issuer].seq.tokens k none = some h ∧ ¬ (h.eng = .array ∧ h.serial = d.serial)) ∧
        (∀ c < 16, counterOf u d.issuer c = if d.cnt = some c then counterOf s d.issuer c + 1 else counterOf s d.issuer c) ∧
        u.items = s.items) ∧
      (d.stepsDrained ≠ d.stepsTotal → exec (.arrayDescriptorComplete t) s = .next s)) ∧
    (∀ (m : Master) (t : TileId) (v : Word) (s : State), Safety.owns m s → v.toNat < 2 ^ 16 →
      exec (.mntDrainRel m t v) s = .next (Safety.wrote m (modMnt t (fun x => { x with ring := { x.ring with
        released := min (x.ring.released + v.toNat) x.ring.drained } }) s))))

/-- Move descriptors (R263 to R265, R271, R292): the head of the mover's queue starts under its item's generation when fewer
than eight are in progress, and one with a reserved field fails with E_FORMAT, its token free; a COPY of d1 rows of d0 FP32
elements from A-mem to P-mem of the tile moves exactly those bytes, and keeps its token until MOVE_COMPLETE, which frees it
and adds 1 to its counter. -/
def Obligations.Moves : Prop :=
  (∀ (t : TileId) (d : MvDesc) (rest : List MvDesc) (i : Item) (s : State), s.flt.safe = false →
    s.tiles[t].mov.queue = d :: rest → s.tiles[t].mov.active.length < 8 → findItem s d.key = some i →
    d.gen = (hdr s (dmv t)).genLive → (hdr s (dmv t)).mode = .on →
    let a := mvArgs d.words
    (a.op ≠ 2 → a.op ≠ 3 → portCount s t = 0 → exec (.move t) s = .next (unlessHeld (fun x => runDesc t d i
      (modMov t (fun m => { m with queue := rest, active := m.active ++ [d] }) x)) s)) ∧
    (a.op = 0 ∨ 3 < a.op ∨ (a.op = 1 ∧ (a.rsvd ≠ 0 ∨ 5 < a.xform ∨ 5 < a.sspace ∨ 5 < a.dspace)) →
      ∃ u, exec (.move t) s = .next u ∧ Safety.sameMemory s u ∧
        (∀ k h, vat u.tiles[t].seq.tokens k none = some h → ¬ (h.eng = .mover ∧ h.serial = d.serial)) ∧
        ∀ x ∈ u.items, x.key = d.key → (eFormat, blockId (dmv t)) ∈ x.errs) ∧
    (a.op = 1 → a.xform = 0 → a.sspace = 0 → a.dspace = 1 → a.splt = false → a.dplt = false → a.wide = false →
      a.predict = false → a.release = false → a.useStream = false → a.sfmt = 9 → a.dfmt = 9 → a.sSparse = false →
      a.dSparse = false → a.addSrc = false → a.rsvd = 0 → a.srec = 0 → a.drec = 0 → a.hems = false →
      1 ≤ a.d0 → 1 ≤ a.d1 → a.d2 = 1 → a.d3 = 1 → a.d4 = 1 → a.ss2 = 0 → a.ss3 = 0 → a.ss4 = 0 → a.ds2 = 0 → a.ds3 = 0 →
      a.ds4 = 0 → a.src % 4 = 0 → a.ss1 % 4 = 0 → a.dst % 4 = 0 → a.ds1 % 4 = 0 → a.src < 2 ^ 22 → a.dst < 2 ^ 22 →
      a.src + (a.d1 - 1) * a.ss1 + 4 * a.d0 ≤ memBytes .amem → a.dst + (a.d1 - 1) * a.ds1 + 4 * a.d0 ≤ memBytes .pmem →
      4 * a.d0 ≤ a.ds1 → Safety.tileReady s t → s.flt.armed = [] → d.got = [] → d.failed = false →
      (∀ x ∈ s.tiles[t].mov.active, x.serial ≠ d.serial) →
      ∃ u, exec (.move t) s = .next u ∧ u.tiles[t].mov.queue = rest ∧
        u.tiles[t].mov.active = s.tiles[t].mov.active ++ [{ d with moved := true, todo := [] }] ∧
        u.tiles[t].seq.tokens = s.tiles[t].seq.tokens ∧
        (∀ r < a.d1, ∀ b < 4 * a.d0, Safety.byteAt u t .pmem (a.dst + r * a.ds1 + b) =
          Safety.byteAt s t .amem (a.src + r * a.ss1 + b)) ∧
        (∀ x, (∀ r < a.d1, ∀ b < 4 * a.d0, x ≠ a.dst + r * a.ds1 + b) →
          Safety.byteAt u t .pmem x = Safety.byteAt s t .pmem x) ∧
        tmem u t .amem = tmem s t .amem ∧ tmem u t .wmem = tmem s t .wmem ∧ u.hbm = s.hbm)) ∧
  (∀ (t : TileId) (k : Fin 32) (s : State),
    (s.tiles[t].mov.active.find? (fun d => d.token == k.val) = none → exec (.moveComplete t k) s = .next s) ∧
    (∀ d, s.tiles[t].mov.active.find? (fun d => d.token == k.val) = some d → d.moved = true → d.failed = false →
      d.todo = [] → d.outstanding = 0 → ∃ u, exec (.moveComplete t k) s = .next u ∧
        u.tiles[t].mov.active = s.tiles[t].mov.active.filter (fun x => decide (x.serial ≠ d.serial)) ∧
        (∀ n h, vat u.tiles[t].seq.tokens n none = some h ↔
          vat s.tiles[t].seq.tokens n none = some h ∧ ¬ (h.eng = .mover ∧ h.serial = d.serial)) ∧
        (∀ c < 16, counterOf u t c = if d.cnt = some c then counterOf s t c + 1 else counterOf s t c) ∧
        Safety.sameMemory s u ∧ u.items = s.items))

/-- Stream slots (R287 to R289): STREAM_OPEN claims a free slot of its quadrant for the item's job with the lines of its
pattern, STREAM_CLOSE by that job frees it, and another job's use fails with E_SLOT; STREAM_PREFETCH fetches the next line
of the
pattern while it is no more than 64 KiB ahead and no demand request waits for the line's pseudo-channel, and stops at an address that
does not translate. -/
def Obligations.Streams : Prop :=
  (∀ (t : TileId) (d : MvDesc) (rest : List MvDesc) (i : Item) (s : State), s.flt.safe = false →
    s.tiles[t].mov.queue = d :: rest → s.tiles[t].mov.active.length < 8 → findItem s d.key = some i → i.key = d.key →
    d.gen = (hdr s (dmv t)).genLive → (hdr s (dmv t)).mode = .on →
    let a := mvArgs d.words
    let q := quadOf t
    formatBad t a = false → a.srec = 0 → a.drec = 0 → d.checked = false → a.hems = false → a.release = false →
    1 ≤ a.d0 → 1 ≤ a.d1 → 1 ≤ a.d2 → 1 ≤ a.d3 → 1 ≤ a.d4 →
    (a.op = 2 → a.sspace = 3 → a.sfmt = 9 →
      a.src % 4 = 0 → a.ss1 % 4 = 0 → a.ss2 % 4 = 0 → a.ss3 % 4 = 0 → a.ss4 % 4 = 0 →
      (streamAt s q a.sh = none → ∃ u, exec (.streamOpen t) s = .next u ∧ u.tiles[t].mov.queue = rest ∧
        streamAt u q a.sh = some ⟨i.key.part, i.job, t, patternLines a (4 * a.d0), 0, 0, false, false⟩ ∧
        (∀ n, n ≠ a.sh → streamAt u q n = streamAt s q n) ∧ Safety.sameMemory s u) ∧
      (streamAt s q a.sh ≠ none → ∃ u, exec (.streamOpen t) s = .next u ∧ Safety.sameMemory s u ∧
        streamAt u q a.sh = streamAt s q a.sh ∧ ∀ x ∈ u.items, x.key = d.key → (eSlot, blockId (dmv t)) ∈ x.errs)) ∧
    (a.op = 3 → ∀ x, streamAt s q a.sh = some x →
      (x.part = i.key.part → x.job = i.job → ∃ u, exec (.streamClose t) s = .next u ∧ u.tiles[t].mov.queue = rest ∧
        streamAt u q a.sh = none ∧ (∀ n, n ≠ a.sh → streamAt u q n = streamAt s q n) ∧ Safety.sameMemory s u) ∧
      (x.job ≠ i.job → ∃ u, exec (.streamClose t) s = .next u ∧ streamAt u q a.sh = some x ∧
        ∀ y ∈ u.items, y.key = d.key → (eSlot, blockId (dmv t)) ∈ y.errs))) ∧
  (∀ (q : QuadId) (n : BitVec 8) (x : StreamSt) (s : State), s.flt.safe = false → streamAt s q n.toNat = some x →
    let next := max x.next x.pointer
    (x.lines.length ≤ next → exec (.streamPrefetch q n) s = .next (Safety.unmarked s)) ∧
    (∀ l, x.lines[next]? = some l → x.pointer + 512 ≤ next → exec (.streamPrefetch q n) s = .next (Safety.unmarked s)) ∧
    (∀ l s1, Safety.unheld s → x.lines[next]? = some l → next < x.pointer + 512 → (x.stopped = true → x.next < x.pointer) →
      ((∃ c, translate (streamReq q x) (128 * l) false (Safety.unmarked s) = (.error c, s1)) →
        ∃ u y, exec (.streamPrefetch q n) s = .next u ∧ streamAt u q n.toNat = some y ∧ y.stopped = true ∧ y.next = next) ∧
      (∀ e, translate (streamReq q x) (128 * l) false (Safety.unmarked s) = (.ok e, s1) →
        (e.nra = false → yields s1 false (entryPa e (128 * l)) = true → ∃ u, exec (.streamPrefetch q n) s = .next u ∧
          streamAt u q n.toNat = some x) ∧
        (e.nra = true ∨ yields s1 false (entryPa e (128 * l)) = false → ∃ u y, exec (.streamPrefetch q n) s = .next u ∧ streamAt u q n.toNat = some y ∧ y.stopped = false ∧
          y.next = next + 1 ∧ y.pointer = x.pointer ∧ y.lines = x.lines))))

/-! ## Work submission and queues (chapter 10) -/

/-- RUN (R32, R314): a descriptor in turn that passes the dispatcher's checks and need not wait places one item on each tile
of its mask, ascending, QUEUED, with its rank, entry, arguments, job and cookie, each under an ITEM value of its own; the
first failing check, in the order E_PROGRAM, E_ALIGN, E_PARTITION, E_SHAPE, E_DENIED, FENCED, refuses it without an item, and a record with ITEM 0xFFFF and that
STATUS is posted; one whose completion queue cannot take its record is dropped and counted. -/
def Obligations.RunPlacesItems : Prop :=
  ∀ (q : QuadId) (k : Fin 16) (e : SqEntry) (s t : State), Safety.inTurn s q k e t → e.code = 0 →
    let d := descOf e.words
    let p := ringPart t (.sq q k)
    d.op = opRun →
    (Safety.cqReady t q k e → runFails t p e.words d = none → runWaits t (queNumber q k) d = false →
      t.items.length + 64 < 4096 →
      ∃ u new, exec (.run q) s = .next u ∧ u.items = t.items ++ new ∧ new.map (·.tile) = tilesOf d.tiles ∧
        new.map (·.rank) = List.range (tilesOf d.tiles).length ∧ (new.map (·.key)).Nodup ∧
        (∀ i ∈ new, i.key.part = p ∧ i.key.item ≠ 0xFFFF ∧ (∀ x ∈ t.items, x.key ≠ i.key) ∧ i.state = .queued ∧
          i.job = d.job ∧ i.entry = d.entry ∧ i.args = d.args ∧ i.layer = d.layer ∧ i.cookie = d.cookie ∧ i.errs = [] ∧
          u.tiles[i.tile].work.pkts.map (·.body) = t.tiles[i.tile].work.pkts.map (·.body) ++ [.item i.key])) ∧
    (Safety.cqReady t q k e → ∀ c, runFails t p e.words d = some c →
      ∃ u, exec (.run q) s = .next u ∧ u.items = t.items ∧
        ∃ ws, u.quads[(cqOfNat d.cq).1].cqs[(cqOfNat d.cq).2].q.pkts =
            t.quads[(cqOfNat d.cq).1].cqs[(cqOfNat d.cq).2].q.pkts ++ [⟨.record ws, 4⟩] ∧
          fld (hword ws 0) 15 0 = 0xFFFF ∧ fld (hword ws 0) 23 16 = c ∧ fld (hword ws 6) 31 16 = d.cookie.toNat) ∧
    (cqTakes t p d.cq = false → ∃ u, exec (.run q) s = .next u ∧ u.items = t.items ∧ 
      reg u (.qdsp q) Off.qdspDropCnt = min (reg t (.qdsp q) Off.qdspDropCnt + 1) (2 ^ 32 - 1)) ∧
    (let ts := tilesOf d.tiles
     let inside := ∀ x ∈ ts, partOfTile t x = p ∧ quadFailed t (quadOf x) = false
     let granted := maskHas t.quads[leadQuad t p].granted d.job.toNat = true ∧
       maskHas t.quads[leadQuad t p].ending d.job.toNat = false
     (descReserved e.words = true ∨ ts = [] → runFails t p e.words d = some eProgram) ∧
     (descReserved e.words = false → ts ≠ [] →
      (d.entry.toNat % 4 ≠ 0 → runFails t p e.words d = some eAlign) ∧
      (d.entry.toNat % 4 = 0 → ¬ inside → runFails t p e.words d = some ePartition) ∧
      (d.entry.toNat % 4 = 0 → inside →
       ((∃ x ∈ ts, t.tiles[x].retired = true) → runFails t p e.words d = some eShape) ∧
       ((∀ x ∈ ts, t.tiles[x].retired = false) →
        (¬ granted → runFails t p e.words d = some eDenied) ∧
        (granted → (∃ x ∈ ts, ∃ b, (hdr t (.tile x b)).mode = .fenced) → runFails t p e.words d = some stFenced) ∧
        (granted → (∀ x ∈ ts, ∀ b, (hdr t (.tile x b)).mode ≠ .fenced) → runFails t p e.words d = none)))))

/-- Jobs (R87, R88, R194, R287, R313): JOB_START of a free number grants it and sets its parameters in every tile of the
partition; JOB_END lets it take no more RUNs, and JOB_ABORT cancels its QUEUED items too; when its last item is COMPLETE,
JOB_NUMBER_FREE frees number, slots and parameters, and posts DONE with the generation that was live when the command was taken
(R316); while an item of the job is in flight nothing is freed. -/
def Obligations.Jobs : Prop :=
  (∀ (q : QuadId) (k : Fin 16) (e : SqEntry) (s t : State), Safety.inTurn s q k e t → e.code = 0 →
    Safety.cqReady t q k e →
    let d := descOf e.words
    let p := ringPart t (.sq q k)
    let lead := leadQuad t p
    (d.op = opJobStart → jobStartFails t p e.words d = none → markRoom t 1 = true →
      ∃ u, exec (.jobStart q) s = .next u ∧ u.quads[lead].granted = maskSet t.quads[lead].granted d.job.toNat ∧
        u.items = t.items ∧
        ∀ x : TileId, ∀ n, jobParam u x n = if partOfTile t x = p ∧ n = d.job.toNat then
          ⟨if d.seedEn then some d.seed else none, if d.qerr = 0 then 0x3E000000 else d.qerr,
            if d.promoApply then d.promoMax else 16, d.det⟩ else jobParam t x n) ∧
    (d.op = opJobEnd → jobEndFails t p e.words d = none → ∃ u, exec (.jobEnd q) s = .next u ∧ u.items = t.items ∧
      u.quads[lead].ending = maskSet t.quads[lead].ending d.job.toNat ∧
      u.quads[lead].jobEnds = t.quads[lead].jobEnds ++ [(d.job, queNumber q k, d.cq, e.wd, d.cookie, t.dev.genLive)]) ∧
    (d.op = opJobAbort → jobEndFails t p e.words d = none → (t.items.map (·.key)).Nodup →
      ∃ u, exec (.jobAbort q) s = .next u ∧ u.quads[lead].ending = maskSet t.quads[lead].ending d.job.toNat ∧
        u.items = t.items.map (fun i => if i.key.part = p ∧ i.job = d.job ∧ i.state = .queued
          then { i with cancelled := true, state := .ended } else i))) ∧
  (∀ (p : Fin 4) (job : BitVec 6) (s : State), let lead := leadQuad s p
    ((∃ i ∈ s.items, i.key.part = p ∧ i.job = job) → exec (.jobNumberFree p job) s = .next (Safety.unmarked s)) ∧
    (∀ r, Safety.unheld s → queRoom s (.cq (cqOfNat r.2.2.1).1 (cqOfNat r.2.2.1).2) 4 = true → maskHas s.quads[lead].ending job.toNat = true → (∀ i ∈ s.items, ¬ (i.key.part = p ∧ i.job = job)) →
      markRoom s 1 = true → s.quads[lead].jobEnds.find? (fun x => decide (x.1 = job)) = some r →
      ∃ u, exec (.jobNumberFree p job) s = .next u ∧ maskHas u.quads[lead].granted job.toNat = false ∧
        maskHas u.quads[lead].ending job.toNat = false ∧ u.items = s.items ∧
        (∃ ws, (queOf u (.cq (cqOfNat r.2.2.1).1 (cqOfNat r.2.2.1).2)).pkts.getLast?.map (·.body) = some (.record ws) ∧
          fld (hword ws 0) 23 0 = 0xFFFF ∧ fld (hword ws 1) 7 0 = r.2.2.2.2.2.toNat) ∧
        ∀ x : TileId, partOfTile s x = p → jobParam u x job.toNat = jobParamDefault ∧
          ∀ n < 64, (seqSlot u x n).owner ≠ some (p, job)))

/-- The registers of a queue (R310, R312, R319, R320, R325, R532): a doorbell below the ring's size sets the tail of an
enabled queue, and a head may only move over records that the ring holds; both may be written by the master a ring names; EN
starts the queue anew unless a base is misaligned or the partition has sixteen, clearing it stops the queue, FLUSH empties
it, and its ring and its spill size are set only while EN is 0, within their limits. -/
def Obligations.QueueRegisters : Prop :=
  (∀ (m : Master) (q : QuadId) (k : Fin 16) (v : Word) (s : State), ctlRuns s = true → s.flt.safe = false →
    (ownerId s = (masterIdx m).val ∨ ringMaster s (.sq q k) = (masterIdx m).val) → v.toNat < 2 ^ 16 →
    (queEn s (.sq q k) = true → v.toNat < ringSize s (.sq q k) → exec (.sqDoorbell m q k v) s =
      .next (Safety.wrote m (pumpFetch q k (modSq q k (fun x => { x with tail := v.toNat }) s)))) ∧
    (queEn s (.sq q k) = true → ringSize s (.sq q k) ≤ v.toNat →
      exec (.sqDoorbell m q k v) s = .next (answered (masterIdx m) eExtent 0 s)) ∧
    (queEn s (.sq q k) = false → exec (.sqDoorbell m q k v) s = .next (Safety.denied m s))) ∧
  (∀ (m : Master) (q : QuadId) (k : Fin 16) (v : Word) (s : State), ctlRuns s = true → s.flt.safe = false →
    (ownerId s = (masterIdx m).val ∨ ringMaster s (.cq q k) = (masterIdx m).val) → v.toNat < 2 ^ 16 →
    let id := QueueId.cq q k
    let n := ringSize s id
    (v.toNat < n → (v.toNat + n - cqHead s id) % n ≤ cqHeld s id →
      exec (.cqHead m q k v) s = .next (Safety.wrote m (setQueReg id Off.queCqHead v.toNat s))) ∧
    (n ≤ v.toNat ∨ cqHeld s id < (v.toNat + n - cqHead s id) % n →
      exec (.cqHead m q k v) s = .next (answered (masterIdx m) eExtent 0 s))) ∧
  (∀ (m : Master) (id : QueueId) (s : State), Safety.owns m s → id ≠ .fault → dataQueue id = false →
    (queEn s id = false → enableRefused s id = none →
      exec (.queEnable m id) s = .next (Safety.wrote m (startQueue id s))) ∧
    (∀ c, c ≠ eDenied → queEn s id = false → enableRefused s id = some c →
      exec (.queEnable m id) s = .next (answered (masterIdx m) c 0 s)) ∧
    (∃ u, exec (.queDisable m id) s = .next u ∧ queEn u id = false ∧ u.items = s.items) ∧
    (∃ u, exec (.queFlush m id) s = .next u ∧ queEn u id = queEn s id ∧
      (∀ q k, id = .sq q k ∨ id = .cq q k → (queOf u id).pkts = [] ∧ (queOf u id).partWords = []) ∧
      (∀ t, id = .work t → ∀ x ∈ u.items, x.tile = t → x.state ≠ .queued ∨ .item x.key ∉ (queOf s id).pkts.map (·.body)))) ∧
  (∀ (m : Master) (id : QueueId) (v : Word) (s : State), Safety.owns m s → dataQueue id = false →
    (queEn s id = true → exec (.queSpillSize m id v) s = .next (Safety.denied m s)) ∧
    (queEn s id = true → (queQuad id).isSome = true → exec (.queRingCfg m id v) s = .next (Safety.denied m s)) ∧
    (∀ q, queQuad id = some q → queEn s id = false → fld v.toNat 6 5 ≠ 3 → 6 ≤ fld v.toNat 4 0 → fld v.toNat 4 0 ≤ 16 →
      (partOf s q).val = fld v.toNat 9 8 → exec (.queRingCfg m id v) s =
        .next (Safety.wrote m (setQueReg id Off.queRingCfg (Nat.land v.toNat 0xFF003F7F) s))) ∧
    (queEn s id = false → (if (queQuad id).isSome then 16 else 12) ≤ fld v.toNat 4 0 →
      fld v.toNat 4 0 ≤ (if (queQuad id).isSome then 26 else 16) → exec (.queSpillSize m id v) s =
        .next (Safety.wrote m (setQueReg id Off.queSpillSize (fld v.toNat 4 0) s))))

/-- Packets in queues (R321, R322, R323, R325): words are held until EOP commits the packet whole behind those before it, in the
cuffs while they hold it and else, in whole lines, in the spill region, outside which no byte of memory changes; a word that fails its
check rewinds it, counted and reported, and the queue's packets stay as they were, but that the dispatcher learns of a vanished
entry (R314); after a flush words are dropped and counted up to the next SOP; without room the producer waits. A consumer takes
the packet at the head; a message of the log that fails its check is lost and counted (R424). A data queue delivers word by word, a failing one with POISON, counted in QUE_POISON_CNT. -/
def Obligations.QueuePackets : Prop :=
  (∀ (id : QueueId) (ws : List DWord) (s : State), id ≠ .fault → dataQueue id = false → ws ≠ [] → ws.length ≤ 16 →
    (queOf s id).lines = 0 → spillWords (queOf s id) + ws.length ≤ 32 → s.flt.armed = [] → (queOf s id).dropping = false →
    exec (.queuePacketWrite id ws true true none) s = .next (setQue id { queOf s id with
      pkts := (queOf s id).pkts ++ [⟨.raw ws, ws.length⟩], partWords := [], partBad := false, inPacket := false,
      dropping := false } (Safety.unmarked s)) ∧
    exec (.queuePacketWrite id ws true false none) s = .next (setQue id { queOf s id with
      partWords := ws, partBad := false, inPacket := true, dropping := false } (Safety.unmarked s)) ∧
    (∀ b, b < ws.length → ∃ u, exec (.queuePacketWrite id ws true true (some b)) s = .next u ∧
      (queOf u id).pkts = (queOf s id).pkts ++ (if queKind id = 0 then [vanished (queReg s id Off.queSqHead)] else []) ∧
      queReg u id Off.queRewindCnt = min (queReg s id Off.queRewindCnt + 1) (2 ^ 32 - 1) ∧
      u.flt.inflight.length = s.flt.inflight.length + 1)) ∧
  (∀ (t : TileId) (ws : List DWord) (s : State), let id := QueueId.comp t
    ws ≠ [] → ws.length ≤ 16 → 32 < spillWords (queOf s id) + ws.length → queRoom s id ws.length = true → s.flt.armed = [] →
    (queOf s id).dropping = false → (queOf s id).partWords = [] → 64 ≤ spillSize s id →
    s.tiles[t].wideReserved = none →
    ∃ u, exec (.queuePacketWrite id ws true true none) s = .next u ∧
      (queOf u id).pkts = (queOf s id).pkts ++ [⟨.raw ws, ws.length⟩] ∧ u.items = s.items ∧
      (queOf u id).lines = (queOf s id).lines + ((queOf u id).wr - (queOf s id).wr) ∧
      headWords (queOf u id) = headWords (queOf s id) + (if (queOf s id).lines = 0 then
        min 16 (spillWords (queOf s id) + ws.length) - headWords (queOf s id) else 0) ∧ tailWords (queOf u id) ≤ 16 ∧
      ∀ x, x < queReg s id Off.queSpillBase ∨ queReg s id Off.queSpillBase + spillSize s id ≤ x →
        memGet u t .amem x 1 = memGet s t .amem x 1) ∧
  (∀ (id : QueueId) (w : DWord) (bad : Bool) (s : State), dataQueue id = true → (dataOf s id).words.length < dataRoom 16 →
    ∃ u, exec (.queuePacketWrite id [w] true true (if bad then some 0 else none)) s = .next u ∧
      (dataOf u id).words = (dataOf s id).words ++ [⟨w, true, true, bad⟩] ∧
      u = { Safety.unmarked s with fabQs := u.fabQs, teleQs := u.teleQs }) ∧
  (∀ (id : QueueId) (w : DataWord) (rest : List DataWord) (bad : Bool) (s : State), dataQueue id = true →
    (dataOf s id).words = w :: rest → ∃ u, exec (.queuePacketTake id bad) s = .next u ∧ (dataOf u id).words = rest ∧
      (dataOf u id).taken = (if w.sop then [] else (dataOf s id).taken) ++ [(w.bits, w.bad || bad)] ∧
      queReg u id Off.quePoisonCnt = (if w.bad || bad then min (queReg s id Off.quePoisonCnt + 1) (2 ^ 32 - 1)
        else queReg s id Off.quePoisonCnt) ∧ u.items = s.items) ∧
  (∀ (id : QueueId) (ws : List DWord) (eop : Bool) (s : State), ws ≠ [] → (queOf s id).dropping = true →
    ∃ u, exec (.queuePacketWrite id ws false eop none) s = .next u ∧ queOf u id = queOf s id ∧
      queReg u id Off.queFlushDropCnt = min (queReg s id Off.queFlushDropCnt + ws.length) (2 ^ 32 - 1)) ∧
  (∀ (id : QueueId) (ws : List DWord) (eop : Bool) (bad : Option Nat) (s : State), queRoom s id ws.length = false → dataQueue id = false →
    (queOf s id).dropping = false → exec (.queuePacketWrite id ws true eop bad) s = .next (Safety.unmarked s)) ∧
  (∀ (t : TileId) (p : QPkt) (rest : List QPkt) (ws : List Word) (i : Item) (s : State),
    (queOf s (.comp t)).pkts = p :: rest → recordBody p.body = some ws → findItem s (recordKey ws) = some i →
    (queOf s (.comp t)).lines = 0 → (queOf s (.comp t)).bad = [] → routerStops s t = false →
    blockStops s (sqc (headTile (quadOf t))) = false → (queOf s (.cq (cqOfNat i.cq).1 (cqOfNat i.cq).2)).lines = 0 →
    spillWords (queOf s (.cq (cqOfNat i.cq).1 (cqOfNat i.cq).2)) ≤ 28 →
    ∃ u, exec (.queuePacketTake (.comp t) false) s = .next u ∧ (queOf u (.comp t)).pkts = rest ∧
      u.quads[(cqOfNat i.cq).1].cqs[(cqOfNat i.cq).2].q.pkts =
        s.quads[(cqOfNat i.cq).1].cqs[(cqOfNat i.cq).2].q.pkts ++ [⟨.record ws, 4⟩] ∧
      u.items = s.items.filter (fun j => decide (j.key ≠ i.key))) ∧
  (∀ (q : QuadId) (k : Fin 16) (s : State),
    exec (.queuePacketTake (.cq q k) false) s = exec (.completionRecordWrite q k) s) ∧
  (∀ (t : TileId) (i : ItemKey) (n : Nat) (rest : List QPkt) (s : State), s.tiles[t].work.pkts = ⟨.item i, n⟩ :: rest →
    exec (.queuePacketTake (.work t) false) s = exec (.itemStart t) s) ∧
  (∀ (q : QuadId) (k : Fin 16) (e : SqEntry) (s t : State), Safety.inTurn s q k e t → (descOf e.words).op = opJobEnd →
    exec (.queuePacketTake (.sq q k) false) s = exec (.jobEnd q) s) ∧
  (∀ (id : QueueId) (p : QPkt) (rest : List QPkt) (s : State), id ≠ .fault → (queOf s id).pkts = p :: rest →
    ∃ u, exec (.queuePacketTake id true) s = .next u ∧ u.items = s.items ∧
      (queOf u id).pkts = (if queKind id = 0 then [vanished (wdOf s id p)] else []) ++ rest ∧
      queReg u id Off.queRewindCnt = min (queReg s id Off.queRewindCnt + 1) (2 ^ 32 - 1)) ∧
  (∀ (x : FMsg × Nat) (rest : List (FMsg × Nat)) (s : State), s.flt.log = x :: rest →
    ∃ u, exec (.queuePacketTake .fault true) s = .next u ∧ u.flt.log = rest ∧
      reg u .flt Off.fltLost = min (reg s .flt Off.fltLost + 1) (2 ^ 48 - 1) ∧ u.items = s.items)

/-- Completion records (R316, R318, R319, R320) in a ring in device memory whose address translates: the first 28 bytes of
the queue's oldest record are written at the tail, with the dispatcher's next SEQ; then the word with PHASE, after which the
tail advances, and the write phase flips where it wraps. A full ring, or a stopped queue, takes nothing. -/
def Obligations.CompletionRecords : Prop :=
  ∀ (q : QuadId) (k : Fin 16) (s : State), let id := QueueId.cq q k
    let x := s.quads[q].cqs[k]
    ((queEn s id = false ∨ cqFull s id = true ∨ x.half.isSome = true ∨ x.q.pkts = []) →
      exec (.completionRecordWrite q k) s = .next (Safety.unmarked s)) ∧
    (∀ p rest ws s1 s2 n, Safety.unheld s → queEn s id = true → cqFull s id = false → x.half = none → x.q.pkts = p :: rest → x.q.lines = 0 → x.q.bad = [] →
      recordBody p.body = some ws → ringPort s id = none →
      emit (.qdsp q) (Safety.unmarked s) = (n, s1) →
      vaWrite (ringReq q (ringPart s id)) (recordAddr s id) (bytesOfWords ((withSeq ws n).take 7)) 
        (clean (bytesOfWords ((withSeq ws n).take 7)).length) s1 = (.ok (), s2) →
      ∃ u, exec (.completionRecordWrite q k) s = .next u ∧ u.quads[q].cqs[k].half = some (withSeq ws n) ∧
        u.quads[q].cqs[k].q.pkts = rest ∧ u.hbm = s2.hbm ∧ u.regs = s2.regs) ∧
    ((x.half = none ∨ queEn s id = false) → exec (.completionPhaseWrite q k) s = .next (Safety.unmarked s)) ∧
    (∀ ws s1, Safety.unheld s → queEn s id = true → x.half = some ws → ringPort s id = none → ringLog s id ≤ 16 →
      vaWrite (ringReq q (ringPart s id)) (recordAddr s id + (if sealedRing s id then 60 else 28))
        (bytesOfWords [phaseWord s id]) (clean (bytesOfWords [phaseWord s id]).length)
        (emitN (.qdsp q) 1 (Safety.unmarked s)) = (.ok (), s1) →
      s1.quads = s.quads → ringSize s1 id = ringSize s id → cqTail s1 id = cqTail s id → cqPhase s1 id = cqPhase s id →
      ∃ u, exec (.completionPhaseWrite q k) s = .next u ∧ u.quads[q].cqs[k].half = none ∧ u.hbm = s1.hbm ∧
        cqTail u id = (cqTail s id + 1) % ringSize s id ∧
        cqPhase u id = (if (cqTail s id + 1) % ringSize s id = 0 then !cqPhase s id else cqPhase s id))

/-! ## Main memory (chapter 11) -/

/-- HBM_ACCESS (R333, R335, R336, R341): a demand read of a sector in the slice is a hit and only makes its line the one used
last; a miss fills the sector from the stack, which corrects a code word with one failing bit (KIND 0x04), and marks and reports
one that it cannot correct (KIND 0x05), or that its on-die ECC reports, the reading item being poisoned; a prefetch brings in both
sectors of its line; a write of a whole sector leaves its bytes, as they read through the partition's encryption, with the marker
where its data are poisoned, and no other byte changed. A request that needs its stack waits while one promoted at another bank
of the pseudo-channel waits, a prefetch also while a demand request for it waits in the command queue, and every request while the
controller drains, has drained or is updated (R501, R504); a request for another stack does nothing. -/
def Obligations.HbmAccesses : Prop :=
  ∀ (k : StackId) (pa : BitVec 39) (data : List Byte) (item : BitVec 16) (s : State),
    let a := pa.toNat
    let sec := a / 64
    let quiet := s.flt.armed = [] ∧ s.hbmStacks[k].marked = [] ∧ stackHeld s k = false
    let miss := s.hbmStacks[k].promoted = [] ∧ quiet ∧ s.hbmStacks[k].onDie = [] ∧ sectorCached s sec = false
    (stackOfPa a ≠ k → ∀ kind p o, exec (.hbmAccess k kind pa data item p o) s = .next s) ∧
    (stackHeld s k = true → ∀ kind p o, exec (.hbmAccess k kind pa data item p o) s = .next s) ∧
    (yields s false a = true → needsStack s .prefetch a (min (64 - a % 64) data.length) = true → ∀ p o,
      exec (.hbmAccess k .prefetch pa data item p o) s = .next s) ∧
    (stackOfPa a = k → outranked s false a = true → ∀ kind p o, needsStack s kind a (min (64 - a % 64) data.length) = true →
      exec (.hbmAccess k kind pa data item p o) s = .next s) ∧
    (stackOfPa a = k → stackHeld s k = false → sectorCached s sec = true → sectorBad s sec = false →
      exec (.hbmAccess k .demandRead pa data item false false) s = .next
        (touchLineOf sec id (bump (.hbm k) Off.hbmHit 1 (emitN (.hbm k) 1 (noteWork (blockId (.hbm k)) s))))) ∧
    (stackOfPa a = k → miss → cwErr s (2 * sec) = 0 → cwErr s (2 * sec + 1) = 0 →
      ∃ u, exec (.hbmAccess k .demandRead pa data item false false) s = .next u ∧ Safety.sameMemory s u ∧
        sectorCached u sec = true ∧ reg u (.hbm k) Off.hbmMiss = min (reg s (.hbm k) Off.hbmMiss + 1) (2 ^ 48 - 1) ∧
        u.items = s.items ∧ u.flt = s.flt ∧ u.tiles = s.tiles) ∧
    (stackOfPa a = k → miss → cwErr s (2 * sec) = 1 → cwErr s (2 * sec + 1) = 0 →
      ∃ u, exec (.hbmAccess k .demandRead pa data item false false) s = .next u ∧ u.hbm = s.hbm ∧
        cwErr u (2 * sec) = 0 ∧ (∀ cw, cw ≠ 2 * sec → cwErr u cw = cwErr s cw) ∧ u.items = s.items ∧
        reg u (.hbm k) Off.hbmCorr = min (reg s (.hbm k) Off.hbmCorr + 1) (2 ^ 48 - 1) ∧
        u.flt.inflight.map (·.kind) = s.flt.inflight.map (·.kind) ++ [0x04]) ∧
    (stackOfPa a = k → miss → 2 ≤ cwErr s (2 * sec) → cwErr s (2 * sec) ≠ markerCode → cwErr s (2 * sec + 1) = 0 →
      ∃ u, exec (.hbmAccess k .demandRead pa data item false false) s = .next u ∧
        cwErr u (2 * sec) = markerCode ∧ hbmStored u (64 * sec) 32 = List.replicate 32 0xFF ∧
        (∀ x, x / 32 ≠ 2 * sec → hbmGet u x 1 = hbmGet s x 1) ∧
        reg u (.hbm k) Off.hbmUncorr = min (reg s (.hbm k) Off.hbmUncorr + 1) (2 ^ 48 - 1) ∧
        u.flt.inflight.map (·.kind) = s.flt.inflight.map (·.kind) ++ [0x05] ∧
        u.items = s.items.map (fun x => if x.key = ⟨partOf s (quadOfPa a), item⟩ then { x with poisoned := true } else x)) ∧
    (stackOfPa a = k → miss → cwErr s (2 * sec) = 0 → cwErr s (2 * sec + 1) = 0 →
      ∃ u, exec (.hbmAccess k .demandRead pa data item false true) s = .next u ∧
        cwErr u (2 * sec) = markerCode ∧ cwErr u (2 * sec + 1) = markerCode ∧
        hbmStored u (64 * sec) 64 = List.replicate 64 0xFF ∧
        reg u (.hbm k) Off.hbmOdecc = min (reg s (.hbm k) Off.hbmOdecc + 2) (2 ^ 48 - 1) ∧
        u.flt.inflight.map (fun x => (x.kind, fld x.detail.toNat 7 6)) =
          s.flt.inflight.map (fun x => (x.kind, fld x.detail.toNat 7 6)) ++ [(0x05, 2), (0x05, 2)]) ∧
    (stackOfPa a = k → quiet → outranked s false a = false → yields s false a = false →
      ∃ u, exec (.hbmAccess k .prefetch pa data item false false) s = .next u ∧ u.items = s.items ∧
        sectorCached u (2 * (a / 128)) = true ∧ sectorCached u (2 * (a / 128) + 1) = true) ∧
    (stackOfPa a = k → a % 64 = 0 → data.length = 64 → mappedAt s a = none → quiet → ∀ poison : Bool,
      ∃ u, exec (.hbmAccess k .write pa data item poison false) s = .next u ∧
        (if poison then hbmStored u a 64 = List.replicate 64 0xFF else hbmGet u a 64 = data) ∧
        cwErr u (2 * sec) = (if poison then markerCode else 0) ∧ cwErr u (2 * sec + 1) = (if poison then markerCode else 0) ∧
        (∀ x, x / 64 ≠ sec → hbmGet u x 1 = hbmGet s x 1) ∧ u.tiles = s.tiles ∧ u.flt = s.flt)

/-- The rest of the controller (R331, R334, R336, R340): the scrubber checks the next sector of its walk and moves on, reports what
the stack's on-die ECC reports, and skips one whose channel is moved to a substitute region, in which it finds it; it stands still
while its rate is 0, and waits for a promoted request and, until it is promoted itself, for every request of its pseudo-channel; a
request that has waited HBM_AGE cycles is promoted, once; a refresh changes no byte, and has no effect on a stack in self-refresh or
without its clock (R525). DEV_PT_INVAL drops every translation of the partitions that it names, whose BUSY
bits stand until PT_INVAL_COMPLETE. Channel actions (R342): HBM_CHAN_CTRL with RETRAIN or RETIRE takes a region and starts
the evacuation; it is refused with E_DENIED while one runs, before the last substitution is confirmed, for a channel already
retired, and once four are retired. The evacuation
reads each code word of the channel, corrected or marked. After it a RETRAIN waits for the channel's training and the restore, which
end it and free the region; PHASE reads 2 to 4 meanwhile, and never goes back; a RETIRE, or a training that fails, retires the channel and enters it in the field-repair record. HBM_SUB_FREE
confirms the substitution. -/
def Obligations.HbmUpkeep : Prop :=
  (
    (∀ (k : StackId) (s : State),
      (fld (phyReg s k Off.hbmScrubRate) 15 0 = 0 ∨ (hdr s (.hbm k)).mode ≠ .on ∨ s.flt.safe = true →
        exec (.hbmScrubSector k) s = .next s) ∧
      (fld (phyReg s k Off.hbmScrubRate) 15 0 ≠ 0 → (hdr s (.hbm k)).mode = .on → s.flt.safe = false →
        let n := phyReg s k Off.hbmScrubPos
        let next (t : State) : State := setPhyReg k Off.hbmScrubPos ((n + 1) % 2 ^ 30) t
        (walkedPa s (stackSectorPa k n) = none → exec (.hbmScrubSector k) s = .next (next s)) ∧
        (∀ a, walkedPa s (stackSectorPa k n) = some a → let sec := a / 64
          let free := outranked s true a = false ∧
            (yields s true a = false ∨ (promotions s k).any (fun p => sameBank a p && p.2.2.2) = true)
          (¬ free → exec (.hbmScrubSector k) s = .next s) ∧
          (free → cwErr s (2 * sec) = 0 → cwErr s (2 * sec + 1) = 0 →
            (onDieBad s (2 * sec) = false → onDieBad s (2 * sec + 1) = false →
              exec (.hbmScrubSector k) s = .next (next (serveHbm true a (noteWork (blockId (.hbm k)) s)))) ∧
            (onDieBad s (2 * sec) = true → onDieBad s (2 * sec + 1) = false → ∃ u, exec (.hbmScrubSector k) s = .next u ∧
              (sectorCached s sec = false → cwErr u (2 * sec) = markerCode) ∧ (sectorCached s sec = true → u.hbm = s.hbm) ∧
              u.items = s.items ∧ u.flt.inflight.map (fun x => (x.kind, x.item, fld x.detail.toNat 7 6)) =
                s.flt.inflight.map (fun x => (x.kind, x.item, fld x.detail.toNat 7 6)) ++ [(0x05, 0, 3)])) ∧
          (free → cwErr s (2 * sec) = 1 → cwErr s (2 * sec + 1) = 0 → onDieBad s (2 * sec) = false →
            onDieBad s (2 * sec + 1) = false →
            ∃ u, exec (.hbmScrubSector k) s = .next u ∧ cwErr u (2 * sec) = 0 ∧ u.hbm = s.hbm ∧ u.items = s.items ∧
              u.flt.inflight.map (fun x => (x.kind, x.item)) =
                s.flt.inflight.map (fun x => (x.kind, x.item)) ++ [(0x04, 0)])) ∧
        (n < 2 ^ 30 → s.evac[quadOfStack k].regions = [] → walkedPa s (stackSectorPa k n) = some (stackSectorPa k n)))) ∧
    (∀ (k : StackId) (channel : BitVec 5) (pc : Bool) (bank : BitVec 6) (waited : Nat) (s : State),
      let is := ∃ x ∈ s.hbmStacks[k].promoted, x.1 = channel ∧ x.2.1 = pc ∧ x.2.2.1 = bank
      (waited < fld (reg s (.hbm k) Off.hbmAge) 15 0 ∨ is → exec (.hbmAgingPromote k channel pc bank waited) s = .next s) ∧
      (fld (reg s (.hbm k) Off.hbmAge) 15 0 ≤ waited → ¬ is →
        ∃ u b, exec (.hbmAgingPromote k channel pc bank waited) s = .next u ∧
          u = { s with nfree := u.nfree, hbmStacks := s.hbmStacks.set k { s.hbmStacks[k] with
            promoted := s.hbmStacks[k].promoted ++ [(channel, pc, bank, b)] } } ∧
          ((∀ a, scrubNext s k = some a → sameBank a (channel, pc, bank, true) = false) → b = false ∧ u.nfree = s.nfree)) ∧
      (s.hbmStacks[k].selfRefresh = true ∨ .hbm ∈ s.rot.lostClks → exec (.hbmRefresh k channel pc bank) s = .next s) ∧
      (s.hbmStacks[k].selfRefresh = false → .hbm ∉ s.rot.lostClks → ∃ u, exec (.hbmRefresh k channel pc bank) s = .next u ∧
        u = { s with hbmStacks := u.hbmStacks } ∧ u.hbmStacks[k].refreshed = some (channel, pc, bank) ∧ (∀ j, j ≠ k → u.hbmStacks[j] = s.hbmStacks[j]) ∧ u.hbmStacks[k].cache = s.hbmStacks[k].cache ∧
        u.hbmStacks[k].lostChans = s.hbmStacks[k].lostChans ∧ u.hbmStacks[k].retired = s.hbmStacks[k].retired)) ∧
    (∀ (m : Master) (v : Word) (s : State), Safety.owns m s → v.toNat < 16 →
      ∃ u, exec (.ptInval m v) s = .next (Safety.wrote m u) ∧
        u = { s with dev := u.dev, tiles := u.tiles, portXlate := u.portXlate, camXlate := u.camXlate, walkXlate := u.walkXlate } ∧
        (∀ p : Fin 4, maskHas u.dev.ptBusy p.val = (bitOf v.toNat p.val || maskHas s.dev.ptBusy p.val)) ∧
        (∀ x, (xlateOf u x).root = (xlateOf s x).root ∧ (xlateOf u x).tlb = (xlateOf s x).tlb.filter (fun e => !bitOf v.toNat e.part.val)) ∧
        (∀ t : TileId, u.tiles[t] = { s.tiles[t] with xlate := u.tiles[t].xlate })) ∧
    (∀ (p : Fin 4) (s : State), exec (.ptInvalComplete p) s = .next (modDev (fun d =>
        { d with ptBusy := maskClear d.ptBusy p.val }) s))) ∧
  (
    (∀ (m : Master) (k : StackId) (c : Nat) (b : Bool) (s : State), Safety.owns m s → c < 32 →
      let q := quadOfStack k
      let v := BitVec.ofNat 32 (c + 32 * b2n b)
      (chanRefused s q b c = false → exec (.hbmRetrain m k v) s = .next (Safety.wrote m (startChan q b c false s)) ∧
        exec (.hbmRetire m k v) s = .next (Safety.wrote m (startChan q b c true s))) ∧
      (chanRefused s q b c = true → exec (.hbmRetrain m k v) s = .next (Safety.denied m s) ∧
        exec (.hbmRetire m k v) s = .next (Safety.denied m s)) ∧
      (s.evac[q].phase ≠ 0 ∨ s.evac[q].confirmed = false ∨ maskHas s.hbmStacks[quadStack q b].retired c = true ∨
        4 ≤ channelsRetired s q → chanRefused s q b c = true) ∧
      exec (.hbmSubConfirm m k) s = .next (Safety.wrote m (modEvac q (fun e => { e with confirmed := true }) s))) ∧
    (∀ (q : QuadId) (s : State), let e := s.evac[q]
      (e.phase ≠ 1 → exec (.hbmEvacuationComplete q) s = .next s) ∧
      (e.phase = 1 → e.retire = false →
        exec (.hbmEvacuationComplete q) s =
          .next (modEvac q (fun x => { x with phase := 2, progress := 255 }) (readChannel q s))) ∧
      (∀ cw, stackOfPa (32 * cw) = quadStack q e.stackBit → chanOfPa (32 * cw) = e.chan.toNat → onDieBad s cw = false →
        cwErr (readChannel q s) cw = (if cwErr s cw ≤ 1 then 0 else markerCode)) ∧
      (e.phase = 1 → e.retire = true → ∃ u, exec (.hbmEvacuationComplete q) s = .next u ∧ u.evac[q].phase = 0 ∧
        maskHas u.hbmStacks[quadStack q e.stackBit].retired e.chan.toNat = true ∧
        (quadStack q e.stackBit, e.chan) ∈ u.rot.repairChans ∧ u.hbm = (readChannel q s).hbm ∧
        u.hbmErr = (readChannel q s).hbmErr ∧ u.tiles = s.tiles ∧ u.regs = (readChannel q s).regs)) ∧
    (∀ (q : QuadId) (s : State), let e := s.evac[q]
      let k := quadStack q e.stackBit
      (e.phase < 2 → ∀ ok, exec (.hbmRetrainComplete q ok) s = .next s) ∧
      (e.phase = 4 → exec (.hbmRetrainComplete q false) s = .next s) ∧
      (e.phase = 0 → noteChan q s = s) ∧
      (2 ≤ e.phase → e.phase ≤ 4 → e.phase ≤ (noteChan q s).evac[q].phase ∧ (noteChan q s).evac[q].phase ≤ 4) ∧
      (2 ≤ e.phase → phyReg s k Off.hbmTrainStat < 2 ^ 32 →
        (∃ u, exec (.hbmRetrainComplete q true) s = .next u ∧ u.evac[q].phase = 0 ∧ u.evac[q].code = stDone ∧
          bitOf (phyReg u k Off.hbmTrainStat) e.chan.toNat = true ∧ u.evac[q].regions = e.regions.filter
            (fun r => decide (¬ (r.1 = e.stackBit ∧ r.2.1 = e.chan))) ∧ u.hbmStacks = (readChannel q s).hbmStacks ∧
          u.hbm = (readChannel q s).hbm ∧ u.rot = s.rot)) ∧
      (2 ≤ e.phase → e.phase ≠ 4 → phyReg s k Off.hbmTrainStat < 2 ^ 32 →
        (∃ u, exec (.hbmRetrainComplete q false) s = .next u ∧ u.evac[q].phase = 0 ∧ u.evac[q].code = eInternal ∧
          bitOf (phyReg u k Off.hbmTrainStat) e.chan.toNat = false ∧
          maskHas u.hbmStacks[k].retired e.chan.toNat = true ∧ (k, e.chan) ∈ u.rot.repairChans))))

/-! ## The Gwetre fabric (chapter 12) -/

/-- WRITE and READ at their destination (R359, R363, R365, R439): a WRITE to a tile memory of its partition stores its
sectors, there and nowhere else, and is answered WRITE_ACK; a READ is answered READ_DATA with the bytes that stand there; a
write into a reduce window adds its elements to those that stand there; an address that is refused is answered ERROR with
the status of R363, and the safe state answers FENCED. A request for another chip goes out of the port of its route, on VC2
after a dateline and without the acknowledgement of the link it came by; where that port lacks credit it waits, and no credit
goes back; without a valid route it is answered E_LINK_DOWN and counted in GWP_NOROUTE. At a port that drains a request stands
in its buffer, without any effect, and so does one behind an earlier packet of its source and channel that still stands there
(R361, R501). -/
def Obligations.GwetreRequests : Prop :=
  ∀ (p o : PortId) (dl : Bool) (pk : GwPacket) (s : State), let h := gwHdrOf pk.header
    let n := 64 * h.sectors
    Safety.noMoves s →
    (s.flt.safe = false → h.dchip = ownChip s → Safety.gwReq s p gwWrite pk → Safety.gwRoute s p h.schip o dl 1 1 →
      windowAt s.ports[p] (dpartOf h).val h.addr n = none → tagPoison h.tag = false → s.flt.armed = [] →
      (∀ t m a, fabPlace s (dpartOf h) h.addr n = .ok (.mem t m a) → bankReserved s t m a n = false →
        ∃ u, exec (.gwWrite p pk) s = .next u ∧ Safety.gwAnswered u o h gwWriteAck 0 [] ∧
          (∀ i < n, Safety.byteAt u t m (a + i) = pk.payload.getD i 0) ∧
          (∀ x, x < a ∨ a + n ≤ x → Safety.byteAt u t m x = Safety.byteAt s t m x) ∧
          (∀ m', m' ≠ m → tmem u t m' = tmem s t m') ∧ (∀ t', t' ≠ t → u.tiles[t'] = s.tiles[t']) ∧
          u.hbm = s.hbm ∧ u.items = s.items) ∧
      (∀ c, fabPlace s (dpartOf h) h.addr n = .error c → (quadsOf s (dpartOf h)) ≠ [] → c < 256 →
        ∃ u, exec (.gwWrite p pk) s = .next u ∧ Safety.gwAnswered u o h gwError c [] ∧ Safety.sameMemory s u)) ∧
    (s.flt.safe = false → h.dchip = ownChip s → Safety.gwReq s p gwWrite pk → Safety.gwRoute s p h.schip o dl 1 1 →
      tagPoison h.tag = false → s.flt.armed = [] →
      ∀ w, windowAt s.ports[p] (dpartOf h).val h.addr n = some w → windowHolds w h.addr n = true →
      ∀ b len, (b, len) = reduceRange w h.addr n → windowHolds w b len = true →
      ∀ c span t m a, (c, span) = sectorSpan b len → fabPlace s (dpartOf h) c span = .ok (.mem t m a) → Safety.tileReady s t →
        let at_ := a + (b - c)
        ∃ u, exec (.gwWrite p pk) s = .next u ∧ Safety.gwAnswered u o h gwWriteAck 0 [] ∧
          (∀ i < len, Safety.byteAt u t m (at_ + i) =
            (reduceBytes w pk.payload false (memGet s t m at_ len, List.replicate len false)).1.getD i 0) ∧
          (∀ x, x < at_ ∨ at_ + len ≤ x → Safety.byteAt u t m x = Safety.byteAt s t m x)) ∧
    (s.flt.safe = false → h.dchip = ownChip s → Safety.gwReq s p gwRead pk →
      Safety.gwRoute s p h.schip o dl 1 (flitsOf h.sectors) →
      ∀ t m a, fabPlace s (dpartOf h) h.addr n = .ok (.mem t m a) → Safety.tileReady s t →
        ∃ u, exec (.gwRead p pk) s = .next u ∧ Safety.gwAnswered u o h gwReadData 0 (memGet s t m a n) ∧
          Safety.sameMemory s u ∧ u.items = s.items) ∧
    (∀ c opc, (c = Instr.gwWrite p pk ∧ opc = gwWrite) ∨ (c = Instr.gwRead p pk ∧ opc = gwRead) → Safety.gwReq s p opc pk →
      (s.flt.safe = true → h.dchip = ownChip s → Safety.gwRoute s p h.schip o dl 1 1 →
        ∃ u, exec c s = .next u ∧ Safety.gwAnswered u o h gwError stFenced [] ∧ Safety.sameMemory s u) ∧
      (s.flt.safe = false → h.vc < 3 → Safety.gwRoute s p h.dchip o dl (if dl && h.vc == 0 then 2 else h.vc) h.flits →
        blockStops s (gwp o) = false → ∃ u y, exec c s = .next u ∧ OutEvent.gw o y ∈ u.out ∧ y.payload = pk.payload ∧
          gwHdrOf y.header =
            { h with lseq := s.ports[o].txSeq.toNat, vc := if dl && h.vc == 0 then 2 else h.vc, ack := 0, ackV := false } ∧
          Safety.sameMemory s u ∧ u.items = s.items) ∧
      (s.flt.safe = false → h.dchip ≠ ownChip s → routeOf s.ports[p].routes h.dchip = some (o, dl) → portUp s o = true →
        s.ports[o].waiting = [] → vat s.ports[o].credits (routedHdr dl h).vc 0 < h.flits →
        ∃ u y, exec c s = .next u ∧ u.out = s.out ++ [.gw p y] ∧ hword y.header 6 = 0 ∧ u.ports[o].waiting =
          [⟨gwWords (routedHdr dl h), pk.payload, some (p, h.vc, h.flits), blockStops s (gwp o)⟩] ∧ Safety.sameMemory s u ∧ u.items = s.items) ∧
      (s.flt.safe = false → h.dchip ≠ ownChip s → routeOf s.ports[p].routes h.dchip = none →
        Safety.gwRoute s p h.schip o dl 1 1 → ∃ u, exec c s = .next u ∧ Safety.gwAnswered u o h gwError eLinkDown [] ∧
          reg u (gwp p) Off.gwpNoroute = min (reg s (gwp p) Off.gwpNoroute + 1) (2 ^ 48 - 1) ∧ Safety.sameMemory s u)) ∧
    (∀ c opc, (c = Instr.gwWrite p pk ∧ opc = gwWrite) ∨ (c = Instr.gwRead p pk ∧ opc = gwRead) → portUp s p = true →
      h.opc = opc → pk.crc = .good → (pk.tagOk = true ∨ s.ports[p].keyed = false) → h.lseq = s.ports[p].rxSeq.toNat →
      h.ackV = false → (blockStops s (gwp p) = true ∧ s.ports[p].held = [] ∨
        ∃ x, s.ports[p].held = [x] ∧ x.late = true ∧ blockStops s (gwp p) = true ∧ (gwHdrOf x.pk.header).schip = h.schip ∧
          (gwHdrOf x.pk.header).vc = h.vc) →
      ∃ u y, exec c s = .next u ∧ u.ports[p].held = s.ports[p].held ++ [⟨pk, true, true⟩] ∧
        u.ports[p].rxSeq = s.ports[p].rxSeq + 1 ∧ u.out = s.out ++ [.gw p y] ∧ hword y.header 3 = h.lseq + 2 ^ 12 ∧
        hword y.header 6 = 0 ∧ Safety.sameMemory s u ∧ u.items = s.items) ∧
    (∀ c ∈ [Instr.gwWrite p pk, .gwRead p pk, .gwWriteAck p pk, .gwReadData p pk, .gwError p pk, .linkCtrl p pk],
      portUp s p = false → exec c s = .next s)

/-- Responses and refusals (R355, R359, R363, R365, R368): WRITE_ACK and READ_DATA complete the request that they name,
whose slot is free again, the data standing in the descriptor's buffer; ERROR fails its item with E_REMOTE and the chip's
status; one that names no outstanding request is dropped and counted, and one for another chip whose route's port is not UP is counted there
(R357). A packet that fails its check is counted in GWP_RETRY,
reported, and NAKed with no other effect; a stomped one is counted, and leaves stomped where it is in transit, with no LSEQ of that link. GWP_ABANDON with its key ends every
request to the chip with E_LINK_DOWN, and advances its slot's epoch. -/
def Obligations.GwetreResponses : Prop :=
  (∀ (p : PortId) (pk : GwPacket) (r : FabReq) (k : Nat) (d : MvDesc) (s : State), let h := gwHdrOf pk.header
    let act := s.tiles[r.tile].mov.active
    Safety.noneFailed s → h.dchip = ownChip s → fabReqAt s h.rqid = some r → r.moveSerial = some k →
    act.find? (fun x => x.serial == k) = some d → d.todo = [] → d.failed = false → 2 ≤ d.outstanding →
    (Safety.gwIn s p gwWriteAck pk → ∃ u, exec (.gwWriteAck p pk) s = .next u ∧
      u.fabReqs = s.fabReqs.filter (fun y => decide (y ≠ r)) ∧ u.items = s.items ∧ Safety.sameMemory s u ∧
      u.tiles[r.tile].mov.active = act.map (fun x =>
        if x.serial = k then { x with outstanding := x.outstanding - 1 } else x)) ∧
    (Safety.gwIn s p gwReadData pk → ∃ u e, exec (.gwReadData p pk) s = .next u ∧
      u.fabReqs = s.fabReqs.filter (fun y => decide (y ≠ r)) ∧ u.items = s.items ∧ Safety.sameMemory s u ∧
      u.tiles[r.tile].mov.active.find? (fun x => x.serial == k) = some e ∧ e.outstanding = d.outstanding - 1 ∧
      (∀ i < pk.payload.length, fget zeroByte e.buffer (remoteKey r.chip.toNat r.addr.toNat + i) = pk.payload.getD i 0 ∧
        fget falseAt e.badBytes (remoteKey r.chip.toNat r.addr.toNat + i) = tagPoison h.tag)) ∧
    (Safety.gwIn s p gwError pk → h.status ≠ eLinkDown → ∃ u e, exec (.gwError p pk) s = .next u ∧
      u.fabReqs = s.fabReqs.filter (fun y => decide (y ≠ r)) ∧ Safety.sameMemory s u ∧
      u.tiles[r.tile].mov.active.find? (fun x => x.serial == k) = some e ∧ e.failed = true ∧
      u.items.map (·.key) = s.items.map (·.key) ∧
      (∀ x ∈ u.items, x.key = r.key → x.remote = h.status ∧ (eRemote, blockId (.tile r.tile .dmv)) ∈ x.errs))) ∧
  (∀ (p : PortId) (pk : GwPacket) (s : State), let h := gwHdrOf pk.header
    Safety.noneFailed s → ∀ c opc, (c = Instr.gwWriteAck p pk ∧ opc = gwWriteAck) ∨
        (c = Instr.gwReadData p pk ∧ opc = gwReadData) ∨ (c = Instr.gwError p pk ∧ opc = gwError) →
      (Safety.gwIn s p opc pk → fabReqAt s h.rqid = none →
        (h.dchip = ownChip s ∨ routeOf s.ports[p].routes h.dchip = none ∨
          s.flt.safe = true ∧ ∀ o dl, routeOf s.ports[p].routes h.dchip = some (o, dl) → portUp s o = true) →
        ∃ u, exec c s = .next u ∧ reg u (gwp p) Off.gwpRspDrop = min (reg s (gwp p) Off.gwpRspDrop + 1) (2 ^ 48 - 1) ∧
          u.fabReqs = s.fabReqs ∧ u.items = s.items ∧ u.tiles = s.tiles ∧ Safety.sameMemory s u) ∧
      (Safety.gwIn s p opc pk → h.dchip ≠ ownChip s → ∀ o dl, routeOf s.ports[p].routes h.dchip = some (o, dl) →
        portUp s o = false → ∃ u, exec c s = .next u ∧
          reg u (gwp o) Off.gwpRspDrop = min (reg s (gwp o) Off.gwpRspDrop + 1) (2 ^ 48 - 1) ∧
          u.fabReqs = s.fabReqs ∧ u.items = s.items ∧ u.tiles = s.tiles ∧ Safety.sameMemory s u) ∧
      (portUp s p = true → h.opc = opc → pk.crc = .stomped → gwMalformed pk = false → s.flt.safe = false →
        ∀ o dl, Safety.gwRoute s p h.dchip o dl h.vc h.flits → ∃ u y, exec c s = .next u ∧ u.out = s.out ++ [.gw o y] ∧
          y.stomp = true ∧ y.payload = pk.payload ∧ (gwHdrOf y.header).lseq = s.ports[o].txSeq.toNat ∧
          u.ports[o].txSeq = s.ports[o].txSeq ∧ u.fabReqs = s.fabReqs ∧ u.items = s.items ∧ Safety.sameMemory s u) ∧
      (portUp s p = true → h.opc = opc → pk.crc = .stomped → h.dchip = ownChip s →
        exec c s = .next (bump (gwp p) Off.gwpStomp 1 (nextNonce p (bump (gwp p) Off.gwpFlitRx h.flits
          (noteWork (blockId (gwp p)) s))))) ∧
      (portUp s p = true → h.opc = opc → pk.crc ≠ .stomped → packetPasses s p pk = false → h.dchip = ownChip s →
        s.ports[p].nakSent = false → ∃ u, exec c s = .next u ∧ Safety.sameMemory s u ∧ u.items = s.items ∧
          u.fabReqs = s.fabReqs ∧ u.ports[p].rxSeq = s.ports[p].rxSeq ∧ u.ports[p].nakSent = true ∧
          reg u (gwp p) Off.gwpRetry = min (reg s (gwp p) Off.gwpRetry + 1) (2 ^ 48 - 1) ∧
          u.flt.inflight.map (fun x => (x.source.toNat, x.kind)) =
            s.flt.inflight.map (fun x => (x.source.toNat, x.kind)) ++ [(blockId (gwp p), 0x20)] ∧ 
          ∃ y, u.out = s.out ++ [.gw p y] ∧ hword y.header 7 = s.ports[p].rxSeq.toNat + 2 ^ 12)) ∧
  (∀ (m : Master) (p : PortId) (chip : Nat) (s : State), Safety.owns m s → chip < 2 ^ 16 → Safety.noMoves s →
    (∀ q : QuadId, s.quads[q].srv.todo = []) →
    (∃ u, exec (.gwpAbandon m p (BitVec.ofNat 32 (0xA50000 + chip))) s = .next (Safety.wrote m u) ∧
      u.fabReqs = s.fabReqs.filter (fun r => decide (r.chip.toNat ≠ chip)) ∧ Safety.sameMemory s u ∧
      (∀ (t : TileId) (k : BitVec 6), let ended := (s.fabReqs.filter (fun r =>
          r.chip.toNat == chip && r.tile == t && r.slot == k)).length
        let epoch (x : State) : Nat := fget (fun _ => 0) x.fabEpochs (64 * t.val + k.toNat)
        (ended = 1 → epoch u = (epoch s + 1) % 16) ∧ (ended = 0 → epoch u = epoch s)) ∧
      (∀ r ∈ s.fabReqs, r.chip.toNat = chip → ∀ k, r.moveSerial = some k → ∀ x ∈ u.items, x.key = r.key →
        (eLinkDown, blockId (.tile r.tile .dmv)) ∈ x.errs)) ∧
    (∀ v : Word, v.toNat < 2 ^ 24 → fld v.toNat 23 16 ≠ 0xA5 → exec (.gwpAbandon m p v) s = .next (Safety.denied m s)))

/-- Links (R352 to R357, R480): LINK_CTRL returns credits, up to 256 flits for each channel, retires the packets that
it acknowledges and replays those from the LSEQ that it NAKs, in order, that one with a failure more; a malformed one does
nothing; one that fails its check is counted and reported, and its nonce is spent (R354). A link whose lanes lose alignment, or one of whose packets has failed eight replays in a row, goes DOWN, is reported,
and keeps nothing; a link that trains comes UP afresh, keyed where the life cycle asks it and the peer's certificate passes, and
else stays TRAINING. -/
def Obligations.GwetreLinks : Prop :=
  (∀ (p : PortId) (pk : GwPacket) (s : State), let w3 := hword pk.header 3
    let w6 := hword pk.header 6
    let w7 := hword pk.header 7
    let met := nextNonce p (bump (gwp p) Off.gwpFlitRx (gwHdrOf pk.header).flits s)
    portUp s p = true → (gwHdrOf pk.header).opc = gwLinkCtrl → pk.crc = .good → (pk.tagOk = true ∨ s.ports[p].keyed = false) →
    (ctrlMalformed pk = true → exec (.linkCtrl p pk) s = .next met) ∧
    (s.ports[p].waiting = [] → ctrlMalformed pk = false →
    (bitOf w3 12 = false → bitOf w7 12 = false → exec (.linkCtrl p pk) s = .next
      (modPort p (fun g => { g with credits := Vector.ofFn (fun k : Fin 3 =>
        min 256 (vat g.credits k.val 0 + fld w6 (10 * k.val + 9) (10 * k.val))) }) met)) ∧
    (bitOf w3 12 = true → bitOf w7 12 = false → w6 = 0 → (∀ k, vat s.ports[p].credits k 0 ≤ 256) → ∀ x rest,
      s.ports[p].retry = x :: rest → (gwHdrOf x.tx.header).lseq = fld w3 11 0 →
      (∀ y ∈ rest, (gwHdrOf y.tx.header).lseq ≠ fld w3 11 0 ∧
        ((gwHdrOf y.tx.header).lseq + 4096 - fld w3 11 0) % 4096 < 512) →
      exec (.linkCtrl p pk) s = .next (modPort p (fun g => { g with retry := rest }) met)) ∧
    (bitOf w3 12 = false → bitOf w7 12 = true → w6 = 0 →
      (∀ x ∈ s.ports[p].retry, ((gwHdrOf x.tx.header).lseq + 4096 - fld w7 11 0) % 4096 < 2048) →
      ∃ u, exec (.linkCtrl p pk) s = .next u ∧ u.out = s.out ++ s.ports[p].retry.map (fun x => OutEvent.gw p x.tx) ∧
        u.ports[p].retry = s.ports[p].retry.map (fun x =>
          if (gwHdrOf x.tx.header).lseq = fld w7 11 0 then { x with fails := x.fails + 1 } else x) ∧ u.items = s.items))) ∧
  (∀ (p : PortId) (pk : GwPacket) (s : State), portUp s p = true → (gwHdrOf pk.header).opc = gwLinkCtrl →
    pk.crc ≠ .stomped → packetPasses s p pk = false → ∃ u, exec (.linkCtrl p pk) s = .next u ∧
      u.ports = (nextNonce p s).ports ∧ u.out = s.out ∧ u.items = s.items ∧ Safety.sameMemory s u ∧
      reg u (gwp p) Off.gwpRetry = min (reg s (gwp p) Off.gwpRetry + 1) (2 ^ 48 - 1) ∧
      u.flt.inflight.map (fun x => (x.source.toNat, x.kind)) =
        s.flt.inflight.map (fun x => (x.source.toNat, x.kind)) ++ [(blockId (gwp p), 0x20)]) ∧
  (∀ (p : PortId) (lost : Bool) (s : State),
    (portUp s p = false ∨ (lost = false ∧ (∀ x ∈ s.ports[p].retry, x.fails ≤ 8) ∧ s.ports[p].rxFails ≤ 8) →
      exec (.gwpLinkDown p lost) s = .next s) ∧
    (portUp s p = true → (∃ x ∈ s.ports[p].retry, 8 < x.fails) → ∃ u, exec (.gwpLinkDown p lost) s = .next u ∧
      u.ports[p].link = .down ∧ u.ports[p].keys = none) ∧
    (portUp s p = true → lost = true ∨ 8 < s.ports[p].rxFails → Safety.noMoves s →
      s.ports[p].retry = [] → s.ports[p].waiting = [] → exec (.gwpLinkDown p lost) s =
        .next (forgetBufs p (modPort p Safety.portDown (raiseFault (gwp p) 0x21 0 0 (b2n lost) s))))) ∧
  (∀ (p : PortId) (x : GwTraining) (s : State),
    let up (keys : Option (List Byte × List Byte)) (s : State) :=
      noteWork (blockId (gwp p)) (modPort p (Safety.portUpAs x keys) s)
    (s.ports[p].link ≠ .training → exec (.gwpTrainComplete p x) s = .next s) ∧
    (s.ports[p].link = .training → (s.rot.lc = 1 ∨ s.rot.lc = 2) → x.peerKeyed = true → x.certOk = true →
      exec (.gwpTrainComplete p x) s = .next (up (some (linkKeys s.ports[p].nonce.toNat x)) s)) ∧
    (s.ports[p].link = .training → (s.rot.lc = 0 ∨ s.rot.lc = 3) → x.peerKeyed = false → x.certOk = true →
      exec (.gwpTrainComplete p x) s = .next (up none s)) ∧
    (s.ports[p].link = .training → x.certOk = false ∨ (s.rot.lc = 1 ∨ s.rot.lc = 2) ∧ x.peerKeyed = false ∨
        (s.rot.lc = 0 ∨ s.rot.lc = 3) ∧ x.peerKeyed = true →
      ∃ u, exec (.gwpTrainComplete p x) s = .next u ∧ u.ports = (modPort p (fun g => { g with keying := false }) s).ports ∧
        u.rot.audit.length = min 16384 (s.rot.audit.length + 1)))

/-! ## The Cammos ports (chapter 13) -/

/-- Register transactions, doorbells and completions of outbound reads (R384 to R386, R391, R393): REG_RD and REG_WR do what
LOW_WORD_READ and REGISTER_WRITE by the port's master do, and answer status and value in a CPL; one with a reserved field,
an alignment or an extent that R385 refuses is answered so; a refused one is counted and noted in CAM_LAST_ERR; DB writes the tail of the queue that it names; CPL hands a
fetched entry to its queue, and is dropped where its epoch is not its slot's. A CPL leaves as soon as credit and retry room
allow. -/
def Obligations.CammosRegisters : Prop :=
  (∀ (h : HostId) (x : CamTx) (rest : List CamTx) (s t : State), let hd := camHdrOf x.header
    let m := Safety.portMaster h
    let taken := Safety.camTaken h x rest s
    (Safety.camIn s h ttRegRd x rest → hd.len = 1 → hd.addr % 4 = 0 → hd.addr < 2 ^ 25 → hd.conf = false →
      exec (.lowWordRead m 4 (BitVec.ofNat 25 hd.addr)) (returnCredit h x s) = .next t →
      exec (.regRd h) s = .next (camComplete h none hd.tagid t.masters[hostMaster h].status
        [t.masters[hostMaster h].value] false
        (noteRefused h hd t.masters[hostMaster h].status (modCam h (fun c => { c with rx := rest }) t)))) ∧
    (Safety.camIn s h ttRegWr x rest → hd.len = 1 → hd.addr % 4 = 0 → hd.addr < 2 ^ 25 → hd.conf = false →
      hd.addr ≠ pageBase .own 0 + Off.devReset →
      exec (.registerWrite m 4 (BitVec.ofNat 25 hd.addr) (BitVec.ofNat 32 (payloadWord x.payload))) taken = .next t →
      exec (.regWr h) s = .next (camComplete h none hd.tagid t.masters[hostMaster h].status [] false
        (noteRefused h hd t.masters[hostMaster h].status t))) ∧
    (∀ c tt, (c = Instr.regRd h ∧ tt = ttRegRd) ∨ (c = Instr.regWr h ∧ tt = ttRegWr) → Safety.camIn s h tt x rest →
      (hd.len ≠ 1 → exec c s = .next (camRefuse h hd none eFormat taken)) ∧
      (hd.len = 1 → hd.addr % 4 ≠ 0 → exec c s = .next (camRefuse h hd none eAlign taken)) ∧
      (hd.len = 1 → hd.addr % 4 = 0 → 2 ^ 25 ≤ hd.addr → exec c s = .next (camRefuse h hd none eExtent taken)))) ∧
  (∀ (h : HostId) (x : CamTx) (rest : List CamTx) (s : State), let hd := camHdrOf x.header
    let q := (dbQueue hd.addr).1
    let k := (dbQueue hd.addr).2
    let v := payloadWord x.payload
    let taken := Safety.camTaken h x rest s
    Safety.camIn s h ttDb x rest → hd.len = 1 → hd.addr < 64 → hd.conf = false → s.flt.safe = false →
    s.cams[h].sess[ringPart s (.sq q k)].state = .none → v < 2 ^ 16 →
    (ownerId s = (hostMaster h).val ∨ ringMaster s (.sq q k) = (hostMaster h).val) →
    (queEn s (.sq q k) = true → v < ringSize s (.sq q k) →
      exec (.db h) s = .next (pumpFetch q k (modSq q k (fun y => { y with tail := v }) taken))) ∧
    (queEn s (.sq q k) = true → ringSize s (.sq q k) ≤ v → exec (.db h) s = .next (camRefuse h hd none eExtent taken)) ∧
    (queEn s (.sq q k) = false →
      exec (.db h) s = .next (camRefuse h hd none eDenied (bump32 .own Off.devDeniedCnt taken)))) ∧
  (∀ (h : HostId) (x : CamTx) (rest : List CamTx) (r : CamRead) (q : QuadId) (k : Fin 16) (s : State),
    let hd := camHdrOf x.header
    let slot := fld hd.tagid 7 0
    let taken := Safety.camTaken h x rest s
    Safety.camIn s h ttCpl x rest →
    (fget (fun _ => 0) s.cams[h].epochs slot ≠ fld hd.tagid 9 8 →
      exec (.cpl h) s = .next (bump (camB h) Off.camInRefused 1 taken)) ∧
    (fget (fun _ => 0) s.cams[h].epochs slot = fld hd.tagid 9 8 → hd.conf = false → hd.status = stDone → hd.poison = false →
      s.cams[h].reads.find? (fun y => decide (y.slot.toNat = slot)) = some r → r.target = some (q, k) → hd.len = r.words →
      exec (.cpl h) s = .next (setFetched q k 0 (wordsOfBytes hd.len x.payload)
        (modCam h (fun c => { c with reads := c.reads.filter (fun y => decide (y.slot.toNat ≠ slot)) })
          (noteWork (4096 + blockId (camB h)) taken))))) ∧
  (∀ (h : HostId) (tagid status : Nat) (ws : List Word) (bad : Bool) (s : State), tagid < 1024 → status < 256 →
    ws.length ≤ 128 → let hd : CamHdr := ⟨ttCpl, ws.length, tagid, status, 0, false, bad⟩
    camUp s h = true → s.cams[h].waiting = [] → camUnits hd ≤ s.cams[h].creditsCpl →
    s.cams[h].flits.length + flitsFor (camBytes hd) ≤ 256 →
    (camComplete h none tagid status ws bad s).out = s.out ++ (flitsOfStream s.cams[h].txSeq (bytesOfWords (camWords hd) ++
      fitBytes ((4 * ws.length + 7) / 8 * 8) (bytesOfWords ws))).map (camDataFlit h))

/-- Memory transactions (R385, R387, R388, R394, R439) in the clear, through a window on a tile memory: MEM_WR stores its
words there and nowhere else, and is not answered; MEM_RD answers the words that stand there; a refused one changes no
memory and is counted in CAM_IN_REFUSED with the status of its first failing check, a MEM_RD answered, a MEM_WR reported as
KIND 0x28; the safe state refuses every one as FENCED. CAM_SESS_CLOSE ends the sessions of the partitions that it names. -/
def Obligations.CammosMemory : Prop :=
  (∀ (h : HostId) (x : CamTx) (rest : List CamTx) (s : State), let hd := camHdrOf x.header
    let w := devWindow s h (fld hd.addr 47 45)
    let off := fld hd.addr 39 0
    let n := 4 * hd.len
    let taken := Safety.camTaken h x rest s
    (∀ t m a, Safety.camIn s h ttMemWr x rest → s.flt.safe = false → hd.conf = false → hd.poison = false → s.flt.armed = [] →
      memChecks s h x w true = none → memPlace s w off true = .ok (.mem t m a) → bankReserved s t m a n = false →
      ∃ u, exec (.memWr h) s = .next u ∧ u.out = taken.out ∧ u.cams = taken.cams ∧ u.items = s.items ∧ u.hbm = s.hbm ∧
        (∀ i < n, Safety.byteAt u t m (a + i) = x.payload.getD i 0) ∧
        (∀ y, y < a ∨ a + n ≤ y → Safety.byteAt u t m y = Safety.byteAt s t m y) ∧
        (∀ m', m' ≠ m → tmem u t m' = tmem s t m') ∧ ∀ t', t' ≠ t → u.tiles[t'] = s.tiles[t']) ∧
    (∀ t m a, Safety.camIn s h ttMemRd x rest → s.flt.safe = false → hd.conf = false → Safety.tileReady s t →
      memChecks s h x w false = none → memPlace s w off false = .ok (.mem t m a) →
      ∃ v, exec (.memRd h) s = .next (camComplete h none hd.tagid stDone (wordsOfBytes hd.len (memGet s t m a n)) false v) ∧
        v = { Safety.unmarked taken with tiles := v.tiles, regs := v.regs, hdrs := v.hdrs } ∧ Safety.sameMemory s v) ∧
    (∀ c tt wr, (c = Instr.memRd h ∧ tt = ttMemRd ∧ wr = false) ∨ (c = Instr.memWr h ∧ tt = ttMemWr ∧ wr = true) →
      Safety.camIn s h tt x rest →
      (s.flt.safe = true → exec c s = .next (camRefuse h hd none stFenced (Safety.unmarked taken))) ∧
      (∀ e, s.flt.safe = false → memChecks s h x w wr = some e →
        exec c s = .next (camRefuse h hd none e (Safety.unmarked taken))) ∧
      (∀ e, s.flt.safe = false → memChecks s h x w wr = none → hd.conf = false → memPlace s w off wr = .error e →
        exec c s = .next (camRefuse h hd none e (Safety.unmarked taken))) ∧
      (hd.len = 0 ∨ 128 < hd.len → memChecks s h x w wr = some eFormat) ∧
      (1 ≤ hd.len → hd.len ≤ 128 → hd.addr % 4 ≠ 0 ∨ 4096 < hd.addr % 4096 + n → memChecks s h x w wr = some eAlign) ∧
      (1 ≤ hd.len → hd.len ≤ 128 → hd.addr % 4 = 0 → hd.addr % 4096 + n ≤ 4096 → w.en = false ∨ w.size < off + n →
        memChecks s h x w wr = some eExtent) ∧
      (memChecks s h x w wr = none → (if wr then w.wr else w.rd) = false → memPlace s w off wr = .error ePerm)) ∧
    (∀ e, hd.ttype = ttMemWr → e < 256 → let u := camRefuse h hd none e s
      reg u (camB h) Off.camInRefused = min (reg s (camB h) Off.camInRefused + 1) (2 ^ 48 - 1) ∧
      fld (reg u (camB h) Off.camLastErr) 7 0 = e ∧ Safety.sameMemory s u ∧ u.cams = s.cams ∧
      u.flt.inflight.map (fun y => (y.source.toNat, y.kind)) =
        s.flt.inflight.map (fun y => (y.source.toNat, y.kind)) ++ [(blockId (camB h), 0x28)])) ∧
  (∀ (m : Master) (h : HostId) (v : Word) (s : State), Safety.owns m s →
    Nat.land v.toNat (mustBeZero .camSess Off.camSessClose) = 0 →
    ∃ u, exec (.camSessClose m h v) s = .next (Safety.wrote m u) ∧ u = { s with cams := u.cams } ∧
      (∀ j, j ≠ h → u.cams[j] = s.cams[j]) ∧ u.cams[h] = { s.cams[h] with sess := u.cams[h].sess } ∧
      ∀ p : Fin 4, u.cams[h].sess[p] = if bitOf v.toNat p.val
        then { s.cams[h].sess[p] with state := .none, inCtr := 0, outCtr := 0, keyIn := [], keyOut := [] }
        else s.cams[h].sess[p])

/-- The Cammos link (R378 to R381, R393): a data flit that passes, in sequence, is acknowledged, and the transactions whole
in its stream wait their turn, memory accesses and doorbells at a port that drains until its re-arm (R501); one that fails is NAKed, counted, and has no other effect; a control flit adds the credits
that it carries, retires what it acknowledges, replays the retry buffer where it NAKs, its flit with a failure more, and is
dropped when it fails; transactions that leave together lie end to end in the stream. A link that goes DOWN is reported, keeps its
posted writes, drops what it had received, and ends its reads with E_LINK_DOWN, as CAM_ABANDON with its key does; a link
that trains comes UP with fresh sequence numbers and advertises 1,024 P, 128 NP and 2,048 CPL credits. -/
def Obligations.CammosLinks : Prop :=
  (∀ (h : HostId) (f : CamFlit) (s : State), let fseq := fld f.link.toNat 11 0
    (camUp s h = false ∨ bitOf f.link.toNat 26 = true → exec (.camDataFlit h f) s = .next s) ∧
    (camUp s h = true → bitOf f.link.toNat 26 = false → f.crcOk = true → fseq = s.cams[h].rxSeq.toNat →
      bitOf f.link.toNat 25 = false → bitOf f.link.toNat 24 = false →
      ∀ xs rest, parseCam 2048 (s.cams[h].partBytes ++ fitBytes 120 f.stream) = (xs, rest) →
      (∀ x ∈ xs, (camHdrOf x.header).ttype ∈ [ttRegRd, ttRegWr, ttMemRd, ttMemWr, ttDb, ttCpl]) →
      let late (x : CamTx) : Bool := blockStops s (camB h) && [ttMemRd, ttMemWr, ttDb].contains (camHdrOf x.header).ttype
      ∃ u, exec (.camDataFlit h f) s = .next u ∧ u.cams[h] = { s.cams[h] with rxSeq := s.cams[h].rxSeq + 1
                                                                              nakSent := false
                                                                              rxFails := 0
                                                                              partBytes := rest
                                                                              rx := s.cams[h].rx ++ xs.filter (fun x => !late x)
                                                                              later := s.cams[h].later ++ xs.filter late } ∧
        u.out = s.out ++ [camCtrlFlit h (BitVec.ofNat 32 (fseq * 2 ^ 12 + 2 ^ 24 + 2 ^ 26)) 0 0] ∧ u.items = s.items ∧
        reg u (camB h) Off.camFlitRx = min (reg s (camB h) Off.camFlitRx + 1) (2 ^ 48 - 1)) ∧
    (camUp s h = true → bitOf f.link.toNat 26 = false → (f.crcOk = false ∨ fseq ≠ s.cams[h].rxSeq.toNat) →
      (s.cams[h].nakSent = true → fseq ≠ s.cams[h].rxSeq.toNat → exec (.camDataFlit h f) s = .next s) ∧
      (s.cams[h].nakSent = false → ∃ u, exec (.camDataFlit h f) s = .next u ∧ u.cams[h].rx = s.cams[h].rx ∧
        u.cams[h].rxSeq = s.cams[h].rxSeq ∧ u.cams[h].partBytes = s.cams[h].partBytes ∧
        u.out = s.out ++ [camCtrlFlit h (BitVec.ofNat 32 (s.cams[h].rxSeq.toNat * 2 ^ 12 + 2 ^ 25 + 2 ^ 26)) 0 0] ∧
        reg u (camB h) Off.camRetry = min (reg s (camB h) Off.camRetry + 1) (2 ^ 48 - 1)))) ∧
  (∀ (h : HostId) (f : CamFlit) (s : State),
    (camUp s h = false ∨ f.crcOk = false ∨ bitOf f.link.toNat 26 = false → exec (.camControlFlit h f) s = .next s) ∧
    (camUp s h = true → f.crcOk = true → bitOf f.link.toNat 26 = true → bitOf f.link.toNat 25 = false →
      s.cams[h].waiting = [] →
      (bitOf f.link.toNat 24 = false → exec (.camControlFlit h f) s =
        .next (camCredits h (streamWord f 0) (streamWord f 4) s)) ∧
      (∀ e rest, bitOf f.link.toNat 24 = true → s.cams[h].flits = e :: rest → e.fseq.toNat = fld f.link.toNat 23 12 →
        (∀ y ∈ rest, y.fseq ≠ e.fseq ∧ (y.fseq.toNat + 4096 - e.fseq.toNat) % 4096 < 512) →
        exec (.camControlFlit h f) s = .next (modCam h (fun c => { c with
            flits := rest, retry := c.retry.dropWhile (fun x => camCovers e.fseq.toNat x.1) })
          (camCredits h (streamWord f 0) (streamWord f 4) s)))) ∧
    (camUp s h = true → f.crcOk = true → bitOf f.link.toNat 26 = true → bitOf f.link.toNat 25 = true → s.cams[h].waiting = [] →
      let n := fld f.link.toNat 23 12
      (∀ x ∈ s.cams[h].flits, (x.fseq.toNat + 4096 - n) % 4096 < 2048) →
      ∃ u, exec (.camControlFlit h f) s = .next u ∧ u.out = s.out ++ s.cams[h].flits.map (camDataFlit h) ∧
        u.cams[h].flits = s.cams[h].flits.map (fun x => if x.fseq.toNat = n then { x with fails := x.fails + 1 } else x) ∧
        u.cams[h].retry = s.cams[h].retry ∧ u.items = s.items) ∧
    (∀ x y : CamTx, camUp s h = true → f.crcOk = true → f.link.toNat = 2 ^ 26 → s.cams[h].waiting = [x, y] →
      (camHdrOf x.header).ttype = ttMemWr → (camHdrOf y.header).ttype = ttMemWr →
      camUnits (camHdrOf x.header) + camUnits (camHdrOf y.header) ≤ s.cams[h].creditsP + fld (streamWord f 0) 11 0 →
      s.cams[h].flits.length + flitsFor (camBytes (camHdrOf x.header) + camBytes (camHdrOf y.header)) ≤ 256 →
      ∃ u, exec (.camControlFlit h f) s = .next u ∧ u.cams[h].waiting = [] ∧
        u.out = s.out ++ (flitsOfStream s.cams[h].txSeq (camTxBytes x ++ camTxBytes y)).map (camDataFlit h))) ∧
  (∀ (h : HostId) (s : State), Safety.noHostRings s → s.dev.phase ≠ 5 → let c := s.cams[h]
    (c.link = .down → ∀ lost, exec (.camLinkDown h lost) s = .next s) ∧
    (c.link = .up → (∀ x ∈ c.flits, x.fails ≤ 8) → c.rxFails ≤ 8 → exec (.camLinkDown h false) s = .next s) ∧
    (c.link = .up → ∀ lost, lost = true ∨ (∃ x ∈ c.flits, 8 < x.fails) ∨ 8 < c.rxFails →
      ∃ u, exec (.camLinkDown h lost) s = .next u ∧ u.cams[h].link = .down ∧ u.cams[h].rx = [] ∧ u.cams[h].later = [] ∧
      u.cams[h].reads = [] ∧ u.cams[h].retry = [] ∧ u.cams[h].flits = [] ∧ Safety.sameMemory s u ∧ u.cams[h].waiting =
        (c.retry.map (·.2) ++ c.waiting).filter (fun x => decide ((camHdrOf x.header).ttype = ttMemWr)) ∧
      u.flt.inflight.map (fun y => (y.kind, y.detail)) =
        s.flt.inflight.map (fun y => (y.kind, y.detail)) ++ [(0x28, BitVec.ofNat 25 eLinkDown)]) ∧
    (c.link ≠ .training → ∀ lanes, exec (.camTrainComplete h lanes) s = .next s) ∧
    (∀ lanes, c.link = .training → c.waiting = [] → c.irqPending = 0 →
      ∃ u, exec (.camTrainComplete h lanes) s = .next u ∧ u = { s with cams := u.cams, out := u.out } ∧
        u.cams[h] = { c with link := .up, lanes := lanes, txSeq := 0, rxSeq := 0, creditsP := 0, creditsNP := 0, creditsCpl := 0 } ∧
        u.out = s.out ++ [camCtrlFlit h (BitVec.ofNat 32 (2 ^ 26)) (BitVec.ofNat 32 (1024 + 2 ^ 12 * 128)) 2048])) ∧
  (∀ (m : Master) (h : HostId) (v : Word) (s : State), Safety.owns m s →
    Nat.land v.toNat (mustBeZero .cam Off.camAbandon) = 0 →
    (fld v.toNat 15 8 ≠ 0x5A → exec (.camAbandon m h v) s = .next (Safety.denied m s)) ∧
    (fld v.toNat 15 8 = 0x5A → (s.cams[h].reads.map (·.slot)).Nodup →
      ∃ u, exec (.camAbandon m h v) s = .next (Safety.wrote m u) ∧
      u.cams[h].reads = [] ∧ u.cams[h].link = s.cams[h].link ∧ u.cams[h].waiting = s.cams[h].waiting ∧
      (∀ r ∈ s.cams[h].reads, fget (fun _ => 0) u.cams[h].epochs r.slot.toNat =
        (fget (fun _ => 0) s.cams[h].epochs r.slot.toNat + 1) % 4) ∧
      (∀ q k, u.quads[q].sqs[k].fetched = if s.cams[h].reads.any (fun r => decide (r.target = some (q, k)))
        then some (eLinkDown, []) else s.quads[q].sqs[k].fetched)))

/-! ## Power and the meter (chapter 14) -/

/-- The energy estimate (R405 to R411, R418): at the end of a window of 2 µs the activity counters are read and cleared, and
each quadrant's estimate, its weighted counts and its leakage energy times its trim, enters its history, the next window's bubble fractions are set, 56/64 at most in all, trims
and weights that were waiting hold from then on, new weights with a trim of 1.0 and no history (R506), and no memory and no item
changes but in its energy, which the record of an item that has ended shows as long as it stands in its completion stream; a window of an updated controller is missed, its fractions staying. A meter
reading moves each trim a quarter of the way to measured over estimated, within 0.5 and 2.0, from the next window on, and brings a
lost meter back; a meter that falls silent is reported once, KIND 0x48, and where compute goes on its records carry UNMETERED. -/
def Obligations.EnergyEstimate : Prop :=
  (∀ (a : List ActEvent) (s : State), let counted := a.foldl countEvent s
    ((hdr s .pwr).mode = .updating → ∃ u, exec (.estimationWindowEnd a) s = .next u ∧ u = { counted with pwr := u.pwr } ∧
      ∀ q, pq u q = { pq s q with hist := pushWindow (windowLen s) none (pq s q).hist }) ∧
    ((hdr s .pwr).mode ≠ .updating → (pwrRuns s = false ∨ s.dev.resetLow = true ∨ s.dev.phase < 2) →
      exec (.estimationWindowEnd a) s = .next s) ∧
    (pwrRuns s = true → s.dev.resetLow = false → 2 ≤ s.dev.phase →
      ∃ u, exec (.estimationWindowEnd a) s = .next u ∧ Safety.sameMemory s u ∧ u.flt = s.flt ∧
        (∀ t : TileId, u.tiles[t] = { s.tiles[t] with
                                      activity := Vector.replicate 48 0
                                      comp := { s.tiles[t].comp with pkts := u.tiles[t].comp.pkts } } ∧
          u.tiles[t].comp.pkts.length = s.tiles[t].comp.pkts.length ∧
          ((∀ i ∈ s.items, i.state ≠ .ended) → u.tiles[t].comp.pkts = s.tiles[t].comp.pkts)) ∧
        u.items.map (fun i => { i with energyPj := 0 }) = s.items.map (fun i => { i with energyPj := 0 }) ∧
        u.pwr.next = [] ∧ ∀ q : QuadId, let raw := dynPj counted q + leakagePj s q
          (pq u q).hist = (if (pq s q).weights = (pq s q).weightsTo
            then pushWindow (windowLen s) (some (scaleDown (trimOf s q) raw)) (pq s q).hist else []) ∧
          (pq u q).weights = (pq s q).weightsTo ∧
          trimOf u q = (if (pq s q).weights = (pq s q).weightsTo then trimLast s q else 0x3F800000#32) ∧
          (pq u q).untrimmed = (pq s q).untrimmed + raw ∧ (pq u q).fa + (pq u q).fv ≤ 56)) ∧
  (∀ (s : State) (q : QuadId), let n := windowLen s
    let e := 256 * quadSum s q
    let b := fld (reg s .pwr (Off.pwrShare + 4 * q.val)) 8 0 * (fld (reg s .pwr Off.pwrLimit) 10 0 * (2000000 * n) - sysSum s)
    (e ≤ b → bubbleOf s q = 0) ∧ (b = 0 → 0 < e → bubbleOf s q = 56) ∧ bubbleOf s q ≤ 56) ∧
  (∀ (mj : List Nat) (s : State),
    (s.dev.powered = false → exec (.meterReading mj) s = .next s) ∧
    (s.dev.powered = true → ∃ u, exec (.meterReading mj) s = .next u ∧ u.pwr.meterLost = false ∧ u.mtr.link = true ∧
      Safety.sameMemory s u ∧ u.items = s.items ∧ ∀ q : QuadId, (pq u q).untrimmed = 0 ∧ trimOf u q = trimOf s q ∧
        let m := (mj.getD q.val 0 + mj.getD (4 + q.val) 0 + mj.getD (8 + q.val) 0) * 10 ^ 9
        let t := trimLast s q
        trimLast u q = if (pq s q).untrimmed = 0 then t else f32Min f32Two (f32Max f32Half (f32Add t
          (f32Mul (f32Sub (f32Div (f32OfNat m) (f32OfNat (pq s q).untrimmed)) t) f32Quarter))))) ∧
  (∀ (failed : Bool) (s : State),
    (s.pwr.meterLost = true ∨ s.dev.powered = false → exec (.meterSilence failed) s = .next s) ∧
    (s.pwr.meterLost = false → s.dev.powered = true → ∃ u, exec (.meterSilence failed) s = .next u ∧
      u.pwr.meterLost = true ∧ u.mtr.link = false ∧ (bitOf (reg s .pwr Off.pwrPolicy) 0 = false → u.mtr.unmetered = 0xF) ∧
      Safety.sameMemory s u ∧ u.items = s.items ∧
      u.flt.inflight.map (fun x => (x.kind, x.detail)) =
        s.flt.inflight.map (fun x => (x.kind, x.detail)) ++ [(0x48, BitVec.ofNat 25 (b2n failed))]))

/-- The meter's registers (R412 to R415, R417, R523): every millijoule of the sixteen channels is apportioned to the
partitions, none lost and none twice, and 100 ms pass; a commit keeps the registers in non-volatile memory; a periodic
record is one signed record for each partition, numbered on; after power-up the meter restarts with every quadrant in
partition 0 until the marks of the partition map, which the device sends, are taken. A meter that does not run does none of
it. The meter's mailbox (R414, R415): the mark at its head is taken by the row of its kind alone, and a number skipped is
flagged for every partition; a start mark opens a job at its partition's energy, overlapping those open; a stop mark closes
it with a record of what its partition gained since; a PART_MAP mark gives its quadrants to its
partition, each quadrant staying in exactly one; a reset mark closes every
open job; a mark whose sender waited for room is sent when one has been taken. -/
def Obligations.MeterRecords : Prop :=
  (
    (∀ (mj : List Nat) (s : State),
      (s.mtr.running = false → exec (.meterApportion mj) s = .next s ∧ exec .meterNvCommit s = .next s ∧
        exec .periodicRecord s = .next s) ∧
      (s.mtr.running = true → ∃ u, exec (.meterApportion mj) s = .next u ∧ u = { s with mtr := u.mtr } ∧
        u.mtr.now.mtime = s.mtr.now.mtime + 100 ∧ u.mtr.now.rseq = s.mtr.now.rseq ∧ u.mtr.nv = s.mtr.nv ∧
        u.mtr.marks = s.mtr.marks ∧ (∀ p : Fin 4, s.mtr.now.parts[p] + directEnergy s.mtr mj p ≤ u.mtr.now.parts[p]) ∧
        ((∀ q < 4, ∃ p : Fin 4, maskHas s.mtr.quads[p] q = true ∧ ∀ r, r ≠ p → maskHas s.mtr.quads[r] q = false) →
          mj.length = 16 → u.mtr.now.total = s.mtr.now.total + mj.sum ∧
          u.mtr.now.parts.sum = s.mtr.now.parts.sum + mj.sum)) ∧
      (s.mtr.running = true → exec .meterNvCommit s = .next (modMtr (fun m => { m with nv := m.now }) s)) ∧
      (s.mtr.running = true → ∃ u, exec .periodicRecord s = .next u ∧ u = { s with mtr := u.mtr } ∧
        u.mtr.now = { s.mtr.now with rseq := s.mtr.now.rseq + (meterParts s.mtr).length } ∧ u.mtr.jobs = s.mtr.jobs ∧
        u.mtr.marks = s.mtr.marks ∧ ∀ i p, (meterParts s.mtr)[i]? = some p →
          let r := fget (fun _ => []) u.mtr.window ((s.mtr.now.rseq + i + 1) % 64)
          r.length = 256 ∧ r.take 10 = bytesOfNat 8 (s.mtr.now.rseq + i + 1) ++ [1, BitVec.ofNat 8 p.val] ∧
          (r.drop 128).take 114 = fitBytes 114 (Config.sign roleMeter (r.take 128)))) ∧
    (∀ (ms : Nat) (s : State),
      (s.mtr.updating = false → exec (.meterRestart ms true) s = .next s) ∧
      (s.mtr.updating = true → ∃ u, exec (.meterRestart ms true) s = .next u ∧ u.mtr.running = true ∧ u.mtr.updating = false ∧
        u.mtr.now.event = s.mtr.now.event + 1 ∧ u.mtr.swVersion = meterVersion s ∧ u.mtr.quads = s.mtr.quads ∧
        u.mtr.now.rseq = s.mtr.now.rseq + (meterParts s.mtr).length ∧ u.mtr.jobs = s.mtr.jobs) ∧
      (s.pwr.meterLost = false → s.mtr.waitMarks = [] → s.mtr.marks.length ≤ 60 → ∃ u, exec (.meterRestart ms false) s = .next u ∧
        u = { s with mtr := u.mtr } ∧ u.mtr.running = true ∧ u.mtr.quads = #v[0xF, 0, 0, 0] ∧
        u.mtr.now = { s.mtr.now with rseq := s.mtr.now.rseq + 1, mtime := s.mtr.now.mtime + ms } ∧
        u.mtr.marks.map (fun k => (k.kind, k.part, k.qmask)) = s.mtr.marks.map (fun k => (k.kind, k.part, k.qmask)) ++
          ((List.finRange 4).filter (fun p => decide (quadsOf s p ≠ []))).map (fun p => (markPartMap, p, quadMask s p))))) ∧
  (
    ∀ (k : Mark) (rest : List Mark) (s : State), s.mtr.marks = k :: rest → s.mtr.running = true →
      (∀ w, k.kind = markPartMap → s.mtr.waitMarks = [w] → s.pwr.meterLost = false → rest.length < 64 →
        ∃ u, exec .partMapMark s = .next u ∧ u.mtr.waitMarks = [] ∧ u.mtr.mseq = s.mtr.mseq + 1 ∧
          u.mtr.marks = rest ++ [⟨w.1, w.2.1, w.2.2.1, w.2.2.2, s.mtr.mseq⟩]) ∧
      (s.mtr.waitMarks = [] → let gap := if ∃ n ∈ s.mtr.lastMseq, k.mseq ≠ n + 1 then 0xF else s.mtr.gap
      let p := k.part
      (∀ c kind, (c = Instr.jobStartMark ∧ kind = markJobStart) ∨ (c = Instr.jobStopMark ∧ kind = markJobStop) ∨
          (c = Instr.partMapMark ∧ kind = markPartMap) ∨ (c = Instr.resetMark ∧ kind = markReset) → k.kind ≠ kind →
        exec c s = .next s) ∧
      (k.kind = markJobStart → ∃ u, exec .jobStartMark s = .next u ∧ u = { s with mtr := u.mtr } ∧
        u.mtr = { s.mtr with marks := rest, lastMseq := some k.mseq, gap := gap, jobs := u.mtr.jobs } ∧
        u.mtr.jobs = s.mtr.jobs.map (fun j => if j.part = p then { j with overlap := true } else j) ++
          [⟨p, k.job, s.mtr.now.parts[p], s.mtr.jobs.any (fun j => decide (j.part = p))⟩]) ∧
      (∀ j, k.kind = markJobStop → s.mtr.jobs.find? (fun j => decide (j.part = p ∧ j.job = k.job)) = some j →
        ∃ u, exec .jobStopMark s = .next u ∧ u = { s with mtr := u.mtr } ∧ u.mtr.marks = rest ∧
          u.mtr.now = { s.mtr.now with rseq := s.mtr.now.rseq + 1 } ∧
          u.mtr.jobs = s.mtr.jobs.filter (fun x => decide (¬ (x.part = p ∧ x.job = k.job))) ∧
          let r := fget (fun _ => []) u.mtr.window ((s.mtr.now.rseq + 1) % 64)
          (r.drop 8).take 3 = [2, BitVec.ofNat 8 p.val, k.job.setWidth 8] ∧
          (r.drop 48).take 8 = bytesOfNat 8 (s.mtr.now.parts[p] - j.start)) ∧
      (k.kind = markPartMap → exec .partMapMark s = .next (modMtr (fun m => { m with
        marks := rest, lastMseq := some k.mseq, gap := gap, quads := mapQuads p k.qmask m.quads }) s)) ∧
      (k.kind = markReset → (s.mtr.jobs.map (fun j => (j.part, j.job))).Nodup → ∃ u, exec .resetMark s = .next u ∧
        u = { s with mtr := u.mtr } ∧ u.mtr.jobs = [] ∧ u.mtr.marks = rest ∧
        u.mtr.now = { s.mtr.now with rseq := s.mtr.now.rseq + s.mtr.jobs.length })))

/-! ## The fault collector (chapter 15) -/

/-- FAULT_MESSAGE (R37, R422 to R430, R435, R438, R439): the collector takes the oldest message of a source, counts it under
its kind and its class, logs it while its class has room (a reserve of 256 entries against Corrected and 64 against Poisoned
messages), or counts it dropped, and marks its source. A Corrected or Poisoned one does nothing else. A Fenced one fences
its block, whose items end FENCED; one of a block already FENCED does not fence another; a stall on a FENCED block records
it wedged. A Fatal one puts the device in the safe state, every item ended and every stage chain stopped, with the message in FLT_FATAL_REC; a second one
leaves that record. -/
def Obligations.FaultMessages : Prop :=
  ∀ (src : Block) (m : FMsg) (s : State),
    (s.flt.inflight.find? (fun x => decide (x.source.toNat = blockId src)) = none → exec (.faultMessage src) s = .next s) ∧
    (s.flt.inflight.find? (fun x => decide (x.source.toNat = blockId src)) = some m →
      let n := normalKind m
      let cls := classOf n
      let room := if cls = clsCorrected then 256 else if cls = clsPoisoned then 64 else 0
      ∃ u, exec (.faultMessage src) s = .next u ∧
        (s.flt.log.length + room < 4096 → u.flt.log = s.flt.log ++ [(n, cls)]) ∧
        (4096 ≤ s.flt.log.length + room → u.flt.log = s.flt.log ∧
          reg u .flt Off.fltLogDrop = min (reg s .flt Off.fltLogDrop + 1) (2 ^ 48 - 1)) ∧
        reg u .flt (Off.fltKind + 8 * n.kind.toNat) = min (reg s .flt (Off.fltKind + 8 * n.kind.toNat) + 1) (2 ^ 48 - 1) ∧
        reg u .flt (Off.fltClass + 8 * cls) = min (reg s .flt (Off.fltClass + 8 * cls) + 1) (2 ^ 48 - 1) ∧
        (cls ≤ clsPoisoned ∨ s.items = [] ∧ n.kind ≠ 0x3A ∧ (∀ t : TileId, ownerChain s t = false) → Safety.sameMemory s u) ∧
        (cls ≤ clsPoisoned → bitOf (reg s .flt Off.fltIrqMask) cls = false →
          u = { s with regs := u.regs, hdrs := u.hdrs, flt := { s.flt with inflight := s.flt.inflight.erase m, log := u.flt.log } } ∧
          (∀ b, hdr u b = if blockOfId n.source.toNat = some b
            then { hdr s b with faultBits := maskSet (hdr s b).faultBits cls, faultKind := n.kind } else hdr s b)) ∧
        (∀ b, cls = clsFenced → fenceTargets n = [b] → tileRetired s b = false → isFenced s b = false →
          (∀ c, blockOfId n.source.toNat = some c → isFenced s c = false) →
          isFenced u b = true ∧ ∀ i ∈ u.items, i.key ∈ itemsIn s b → i.fenced = true) ∧
        (∀ b c, cls = clsFenced → fenceTargets n = [b] → blockOfId n.source.toNat = some c → c ≠ b → isFenced s c = true →
          isFenced s b = false → (hdr u b).mode = (hdr s b).mode) ∧
        (∀ b, cls = clsFenced → n.kind = 0x30 → fenceTargets n = [b] → isFenced s b = true →
          BitVec.ofNat 12 (blockId b) ∈ u.flt.wedged ∧ u.items = s.items) ∧
        (cls = clsFatal → s.flt.safe = false → u.flt.safe = true ∧ safeN u = false ∧ u.flt.fatalRec = some (n, clsFatal) ∧ u.items = [] ∧
          u.fabReqs = [] ∧ ∀ t : TileId, u.tiles[t].work = spillEmpty ∧ u.tiles[t].comp = spillEmpty ∧
            u.tiles[t].seq.running = none ∧ u.tiles[t].vec.queue = [] ∧ ownerChain u t = false) ∧
        (cls = clsFatal → s.flt.safe = true → u.flt.fatalRec = s.flt.fatalRec ∧ u.flt.safe = true ∧ u.items = s.items))

/-- The collector's registers with effects (R440, R441): FLT_LOG_POP by the owner answers word 0 of the oldest logged
message, which moves into the reading master's hold; an empty log answers 0; another master is refused. FLT_INJECT is
refused outside the factory mode; within it MODE 1 sends a message of the written KIND as the target's, which the collector takes at once where the target is no block, and MODE 2 arms code
corruption at FLT_INJECT_ADDR. Classes of R422 and R423 for a message whose KIND is listed. A tile's fault port that holds eight
reports takes no more (R429): a step of an engine that would report one waits. -/
def Obligations.FaultRegisters : Prop :=
  (
    (∀ (m : Master) (s : State), ctlRuns s = true →
      (∀ x c rest, ownerId s = (masterIdx m).val → s.flt.log = (x, c) :: rest →
        exec (.fltLogPop m) s = .next (answered (masterIdx m) stDone (msgWord x c 0).toNat
          (modFlt (fun f => { f with log := rest, hold := f.hold.set (masterIdx m) (some (x, c)) }) s))) ∧
      (ownerId s = (masterIdx m).val → s.flt.log = [] → exec (.fltLogPop m) s = .next (answered (masterIdx m) stDone 0
        (modFlt (fun f => { f with hold := f.hold.set (masterIdx m) none }) s))) ∧
      (ownerId s ≠ (masterIdx m).val → exec (.fltLogPop m) s = .next (Safety.denied m s))) ∧
    (∀ (m : Master) (v : Word) (s : State), Safety.owns m s →
      Nat.land ((v &&& ~~~ 3) ||| 3).toNat (mustBeZero .flt Off.fltInject) = 0 →
      (s.rot.factory = false → exec (.fltInjectMessage m v) s = .next (Safety.denied m s) ∧
        exec (.fltInjectCode m v) s = .next (Safety.denied m s)) ∧
      (∀ b, s.rot.factory = true → blockOfId (fld v.toNat 13 2) = some b → exec (.fltInjectMessage m v) s =
        .next (Safety.wrote m (raiseFault b (fld v.toNat 21 14) 0 0 (2 ^ 24) s))) ∧
      (s.rot.factory = true → blockOfId (fld v.toNat 13 2) = none → exec (.fltInjectMessage m v) s =
        .next (Safety.wrote m (takeMessage ⟨BitVec.ofNat 12 (fld v.toNat 13 2), BitVec.ofNat 8 (fld v.toNat 21 14), 0, 0,
          BitVec.ofNat 16 (takeFree s).1, BitVec.ofNat 25 (2 ^ 24)⟩ (takeFree s).2))) ∧
      (s.rot.factory = true → fld v.toNat 23 22 ≠ 0 → exec (.fltInjectCode m v) s =
        .next (Safety.wrote m (modFlt (fun f => { f with armed := f.armed ++ [(BitVec.ofNat 12 (fld v.toNat 13 2),
          BitVec.ofNat 48 (reg s .flt Off.fltInjectAddr), fld v.toNat 23 22)] }) s))))) ∧
  (
    (∀ m : FMsg, m.kind.toNat ∈ [0x02, 0x04, 0x10, 0x20, 0x48] → classOf m = 0) ∧
    (∀ m : FMsg, m.kind.toNat ∈ [0x01, 0x03, 0x05, 0x08, 0x18, 0x19] → classOf m = 1) ∧
    (∀ m : FMsg, m.kind.toNat ∈ [0x11, 0x21] → classOf m = 2) ∧
    (∀ m : FMsg, m.kind = 0x28 → classOf m = if fld m.detail.toNat 7 0 = eLinkDown then 2 else 0) ∧
    (∀ m : FMsg, m.kind = 0x38 → classOf m = if bitOf m.detail.toNat 4 then 3 else 0) ∧
    (∀ m : FMsg, m.kind.toNat ∈ [0x39, 0x3A, 0x40, 0x41] → classOf m = 3)) ∧
  (∀ (t : TileId) (c : Instr) (s u : State), Safety.engineStep t c → portFull s t = true → exec c s = .next u →
    portCount u t ≤ portCount s t)

/-! ## Training (chapter 16) -/

/-- Statistics and marks (R446 to R448, R455, R456, R460, R461, R465): the oldest tap packet adds into the open bank of its
REPORT layer if its job is served, and its item waits for one less, where the unit takes it: one that came while it drains waits for
the re-arm (R501); a step mark in order closes the banks of the partition's
quadrants, and takes a point where one is due, none is in progress and nothing is drained (R503), else counts it late; one out of order is refused, and
so is every mark of a page that is not its partition's lead. SRV_COMMIT of the point that is complete makes it the committed
point; ABORT drops an uncommitted one; CHECK in mode 1 gives the verdict of the replay log. -/
def Obligations.TrainingMarks : Prop :=
  (∀ (q : QuadId) (s : State),
    (s.quads[q].stat.taps = [] → exec (.tapPacket q) s = .next s) ∧
    (∀ x xs, s.quads[q].stat.taps = x :: xs → x.late = true → blockStops s (.qstat q) = true →
      exec (.tapPacket q) s = .next s) ∧
    (∀ x xs, s.quads[q].stat.taps = x :: xs → x.late = false ∨ blockStops s (.qstat q) = false → ∃ u, exec (.tapPacket q) s = .next u ∧
      u = { s with quads := u.quads, items := u.items } ∧ (∀ j, j ≠ q → u.quads[j] = s.quads[j]) ∧
      u.items = s.items.map (fun i => if i.key = x.key then { i with taps := i.taps - 1 } else i) ∧
      u.quads[q].stat.taps = xs ∧ u.quads[q].stat.closed = s.quads[q].stat.closed ∧
      let key := 4 * fld (tapEntry s q x.layer.toNat) 27 16 + x.quantity
      (served s x.key.part x.job.toNat = false → u.quads[q].stat.opened = s.quads[q].stat.opened) ∧
      (served s x.key.part x.job.toNat = true → ∀ k, fget (fun _ => 0) u.quads[q].stat.opened.sums k =
        fget (fun _ => 0) s.quads[q].stat.opened.sums k + (if k = key then x.sum else 0)))) ∧
  (∀ (m : Master) (q : QuadId) (k : Word) (s : State), Safety.owns m s → let p := partOf s q
    let v := s.quads[q].srv
    let n := reg s (.srv q) Off.srvPeriod
    (leadQuad s p ≠ q ∨ v.state = .restoring → exec (.srvStep m q k) s = .next (Safety.denied m s)) ∧
    (leadQuad s p = q → v.state ≠ .restoring → bitOf (reg s (.srv q) Off.srvJob) 6 = true →
      (∀ x, v.step = some x → x + 1 ≠ k → exec (.srvStep m q k) s = .next (Safety.denied m s)) ∧
      ((∀ x, v.step = some x → x + 1 = k) → ∃ u, exec (.srvStep m q k) s = .next (Safety.wrote m u) ∧
        u.quads[q].srv.step = some k ∧ u.items = s.items ∧
        (∀ j, partOf s j = p → u.quads[j].stat.closed = s.quads[j].stat.opened ∧ u.quads[j].stat.opened = ⟨[], [], []⟩ ∧
          u.quads[j].stat.closedStep = k) ∧ (∀ j, partOf s j ≠ p → u.quads[j] = s.quads[j]) ∧
        (n ≠ 0 → k.toNat % n = 0 → v.state ≠ .streaming → v.state ≠ .complete → srvStops s q = false →
          u.quads[q].srv.state = .streaming ∧ u.quads[q].srv.taken = k ∧ u.quads[q].srv.committed = v.committed) ∧
        (n = 0 ∨ k.toNat % n ≠ 0 → u.quads[q].srv.state = v.state ∧ u.quads[q].srv.taken = v.taken) ∧
        (n ≠ 0 → k.toNat % n = 0 → v.state = .streaming ∨ v.state = .complete ∨ srvStops s q = true →
          u.quads[q].srv.taken = v.taken ∧ u.quads[q].srv.state = v.state ∧
          reg u (.srv q) Off.srvLate = min (reg s (.srv q) Off.srvLate + 1) (2 ^ 48 - 1))))) ∧
  (∀ (m : Master) (q : QuadId) (k : Word) (s : State), Safety.owns m s → let v := s.quads[q].srv
    (leadQuad s (partOf s q) ≠ q ∨ v.state ≠ .complete ∨ v.taken ≠ k →
      exec (.srvCommit m q k) s = .next (Safety.denied m s)) ∧
    (leadQuad s (partOf s q) = q → v.state = .complete → v.taken = k → Safety.nothingHeld s → ∃ u, exec (.srvCommit m q k) s = .next (Safety.wrote m u) ∧
      let w := u.quads[q].srv
      w.state = .idle ∧ w.committed = k ∧ w.noPoint = false ∧ w.buf = v.newBuf ∧ w.methods = v.chosen ∧ w.newSlots = [] ∧
      w.commitLag = some (v.step.getD 0 + 1 - v.taken).toNat ∧ w.step = v.step ∧ u.items = s.items ∧
      reg u (.srv q) Off.srvPoints = min (reg s (.srv q) Off.srvPoints + 1) (2 ^ 48 - 1))) ∧
  (∀ (m : Master) (q : QuadId) (s : State), Safety.owns m s → let v := s.quads[q].srv
    (leadQuad s (partOf s q) ≠ q → exec (.srvAbort m q) s = .next (Safety.denied m s) ∧
      exec (.srvCheck m q) s = .next (Safety.denied m s)) ∧
    (leadQuad s (partOf s q) = q → v.state = .streaming ∨ v.state = .complete → Safety.nothingHeld s → ∃ u,
      exec (.srvAbort m q) s = .next (Safety.wrote m u) ∧ u = { s with quads := u.quads } ∧
      (∀ j, j ≠ q → u.quads[j] = s.quads[j]) ∧ u.quads[q].srv.state = .idle ∧ u.quads[q].srv.pending = [] ∧
      u.quads[q].srv.todo = [] ∧ u.quads[q].srv.committed = v.committed ∧ u.quads[q].srv.newSlots = []) ∧
    (leadQuad s (partOf s q) = q → v.state ≠ .streaming → v.state ≠ .complete → Safety.nothingHeld s →
      exec (.srvAbort m q) s = .next (Safety.wrote m (modSrv q (fun x => { x with role := false }) s))) ∧
    (leadQuad s (partOf s q) = q → fld (reg s (.srv q) Off.srvVerify) 1 0 = 1 →
      ∃ u, exec (.srvCheck m q) s = .next (Safety.wrote m u) ∧ u.items = s.items ∧ u.quads[q].srv = { v with
        verdict := (replayVerdict (partOf s q) v.committed (BitVec.ofNat 32 (reg s (.srv q) Off.srvTol)) s).1, role := false }) ∧
    (∀ (p : Fin 4) (c tol : Word) r s1 d s2, survRec p s = (r, s1) →
      vaRead (srvReq s1 p) (recWide r 16 + 64 * ((c + 1).toNat % 256)) 64 s1 = (.ok d, s2) → let w := wordsOfBytes 6 d.1
      (hword w 0 ≠ (c + 1).toNat ∨ bitOf (hword w 3) 9 = false → (replayVerdict p c tol s).1 = 3) ∧
      (hword w 0 = (c + 1).toNat → bitOf (hword w 3) 9 = true → bitOf (hword w 3) 10 = true → bitOf (hword w 3) 8 = true →
        (replayVerdict p c tol s).1 = if w.getD 4 0 = w.getD 5 0 then 1 else 2)))

/-- Secure points and their restoring (R456 to R460, R462, R463): the engine streams its next pending block, a mirrored one
from its point content to the mirror, one whole block of fabric and of local traffic, as does a block of the engine's own tensor of
sequence slots (R454); a holder folds a delta of the point in
progress into parity once; the point is complete when nothing is pending or outstanding and no delta that has come is left to fold. SRV_RESTORE starts the restoring of
the point named and is refused while one streams or the engine is drained (R503); RESTORE_COMPLETE makes it the committed point, or
ends FAILED, of a spare with E_REMOTE, where a transfer failed or a slot's record is not the job's; the others of these events find nothing to do. -/
def Obligations.TrainingPoints : Prop :=
  (∀ (q : QuadId) (s : State), let v := s.quads[q].srv
    let p := partOf s q
    (v.state ≠ .streaming ∨ v.broken = true ∨ v.todo ≠ [] ∨ v.pending = [] → exec (.securePointStream q) s = .next s) ∧
    (∀ b bs r s1, leadQuad s p = q → v.state = .streaming → v.broken = false → v.todo = [] → v.pending = b :: bs →
      b.tensor = slotTensor → survRec p s = (r, s1) → Safety.unheld s → Safety.nothingHeld s → hword r 0 % 2 ^ 16 ≠ ownChip s →
      ∃ u, exec (.securePointStream q) s = .next u ∧ u.quads[q].srv.pending = bs ∧ u.quads[q].srv.state = .streaming ∧
        u.quads[q].srv.bytesFabric = v.bytesFabric + 65536 ∧ u.quads[q].srv.bytesLocal = v.bytesLocal + 65536 ∧
        u.hbm = s1.hbm ∧ u.items = s.items) ∧
    (∀ b bs r s1 e s2 d s3, leadQuad s p = q → v.state = .streaming → v.broken = false → v.todo = [] → v.pending = b :: bs →
      b.tensor ≠ slotTensor → Safety.unheld s → Safety.nothingHeld s → hword r 0 % 2 ^ 16 ≠ ownChip s →
      b.mirror = true → b.change ≠ 2 → survRec p s = (r, s1) → readEnt p r b.tensor s1 = (e, s2) →
      pointContent p r b.va s2 = (.ok d, s3) → ∃ u, exec (.securePointStream q) s = .next u ∧
        u.quads[q].srv.pending = bs ∧ u.quads[q].srv.state = .streaming ∧ u.quads[q].srv.taken = v.taken ∧
        u.quads[q].srv.bytesFabric = v.bytesFabric + 65536 ∧ u.quads[q].srv.bytesLocal = v.bytesLocal + 65536 ∧
        u.quads[q].srv.staged = v.staged.filter (fun x => decide (x.1 ≠ b.va)) ∧ u.hbm = s3.hbm ∧ u.items = s.items) ∧
    (v.state ≠ .streaming → ∀ x n, exec (.deltaFold q x n) s = .next (Safety.unmarked s)) ∧
    (∀ (x : Fin 16) (n : Fin 64) r s1 d s2, leadQuad s p = q → v.state = .streaming → survRec p s = (r, s1) →
      vaRead (srvReq s1 p) (ringAddr r x.val n.val) (kib64 + 64) s1 = (.ok d, s2) → let h := wordsOfBytes 3 d.1
      let g := fld (hword r 15) 4 0
      (hword h 1 ≠ v.taken.toNat ∨ hword h 2 ≠ x.val ∨ (x.val, hword h 0) ∈ v.folded →
        exec (.deltaFold q x n) s = .next (Safety.unmarked s)) ∧
      (∀ old s3, Safety.unheld s → x.val < g → hword h 0 % g = fld (hword r 15) 9 5 → hword h 1 = v.taken.toNat → hword h 2 = x.val →
        (x.val, hword h 0) ∉ v.folded →
        vaRead (srvReq s2 p) (parityAddr r (if v.folded.any (fun f => decide (f.2 = hword h 0)) then v.newBuf else 1 - v.newBuf)
          (hword h 0 / g)) kib64 s2 = (.ok old, s3) →
        ∃ u, exec (.deltaFold q x n) s = .next u ∧ u.quads[q].srv = { v with
            folded := v.folded ++ [(x.val, hword h 0)], consumed := u.quads[q].srv.consumed
            todo := u.quads[q].srv.todo, broken := u.quads[q].srv.broken } ∧
          fget (fun _ => 0) u.quads[q].srv.consumed x.val = (fget (fun _ => 0) v.consumed x.val + 1) % 256 ∧
          u.hbm = (srvPut p (parityAddr r v.newBuf (hword h 0 / g)) (xorBytes old.1 (d.1.drop 64))
            ((old.2.zip (d.2.drop 64)).map (fun y => y.1 || y.2)) s3).hbm)) ∧
    exec (.securePointComplete q) s = .next (if v.state = .streaming ∧ v.pending = [] ∧ v.todo = [] ∧ v.broken = false ∧
      srvWaits s p = false ∧ deltaWaits p s = false then modSrv q (fun v => { v with state := .complete }) s else s)) ∧
  (∀ (m : Master) (q : QuadId) (k : Word) (s : State), Safety.owns m s → let v := s.quads[q].srv
    (leadQuad s (partOf s q) ≠ q ∨ v.state = .streaming ∨ srvStops s q = true → exec (.srvRestore m q k) s = .next (Safety.denied m s)) ∧
    (leadQuad s (partOf s q) = q → v.state ≠ .streaming → srvStops s q = false → ∃ u, exec (.srvRestore m q k) s = .next (Safety.wrote m u) ∧
      let w := u.quads[q].srv
      w.state = .restoring ∧ w.restoring = k ∧ w.verdict = 0 ∧ w.role = v.role ∧ w.pending = [] ∧ u.items = s.items)) ∧
  (∀ (q : QuadId) (s : State), leadQuad s (partOf s q) = q → let v := s.quads[q].srv
    let failed (s : State) : State := modSrv q (fun x => { x with
      state := .failed, failCode := if x.role then eRemote else 0, role := false, todo := [] }) s
    let slots := restoreSlots (partOf s q) (Safety.unmarked s)
    (v.state ≠ .restoring → ∀ good, exec (.restoreComplete q good) s = .next s) ∧
    (v.state = .restoring → exec (.restoreComplete q false) s = .next (failed s)) ∧
    (v.state = .restoring → v.todo ≠ [] ∨ srvWaits s (partOf s q) = true → exec (.restoreComplete q true) s = .next s) ∧
    (v.state = .restoring → v.todo = [] → srvWaits s (partOf s q) = false → v.broken = true →
      exec (.restoreComplete q true) s = .next (failed s)) ∧
    (v.state = .restoring → v.todo = [] → srvWaits s (partOf s q) = false → v.broken = false →
      slots.quads[q].srv.broken = true → exec (.restoreComplete q true) s = .next (failed slots)) ∧
    (v.state = .restoring → v.todo = [] → srvWaits s (partOf s q) = false → v.broken = false →
      slots.quads[q].srv.broken = false → Safety.unheld s → ∃ u, exec (.restoreComplete q true) s = .next u ∧ u.items = s.items ∧ let w := u.quads[q].srv
        w.state = .restored ∧ w.committed = v.restoring ∧ w.taken = v.restoring ∧ w.step = some v.restoring ∧
        w.role = false ∧ w.changed = [] ∧ w.slotMem = [] ∧
        ((v.lostChips = []) → w.noPoint = false)))

/-! ## The root of trust (chapter 17) -/

/-- The checks of a mailbox command (R471, R475, R476, R486, R488): nothing runs for a master whose command is not the next
one waiting of that opcode; one whose header or body is malformed is answered E_FORMAT, one whose challenge, key or
signature fails, or that the life-cycle state does not take, E_DENIED, with no other effect than its answer, its audit entry
and, once the signature has verified, the new challenge; a command of a reserved opcode that waits behind it is answered E_FORMAT
when its turn comes. -/
def Obligations.MailboxChecks : Prop :=
  ∀ (m : Master) (s : State), let c := cmdOf s (masterIdx m)
    let out := Safety.cmdOut m s
    let known := Safety.restKnown s m
    (∀ x ∈ [(Instr.forceTake m true, 0x01), (.rotReset m true, 0x02), (.partSet m true, 0x03), (.pwrSet m true, 0x04),
        (.imageLoad m true true true true, 0x05), (.enroll m true, 0x06), (.instRotate m true, 0x07), (.lcSet m true, 0x10),
        (.factory m true, 0x11), (.repairClear m true, 0x12), (.sessionOpen m .verifies, 0x20),
        (.sessionClose m .verifies, 0x21), (.attest m, 0x30), (.measure m, 0x31), (.cert m, 0x32), (.auditRead m, 0x33)],
      (rotNext s (masterIdx m) x.2 = false → exec x.1 s = .next s) ∧
      (known → rotNext s (masterIdx m) x.2 = true → 1600 < c.len →
        exec x.1 s = .next (Safety.cmdAnswer m x.2 c eFormat [] out)) ∧
      (∀ k : Fin 3, masterIdx m < k → s.rot.waiting = maskSet (maskSet 0 (masterIdx m).val) k.val →
        opcKnown (cmdOf s k).opc = false → rotNext s (masterIdx m) x.2 = true → 1600 < c.len →
        ∃ u, exec x.1 s = .next u ∧ u.rot.waiting = 0 ∧ u.rot.rsp[k] = ⟨eFormat, (cmdOf s k).opc, true, []⟩ ∧
          u.rot.rsp[masterIdx m] = ⟨eFormat, x.2, true, []⟩ ∧ u.items = s.items ∧ Safety.sameMemory s u)) ∧
    (∀ x ∈ [(Instr.forceTake m false, 0x01, [roleInstaller], bitsBad 2), (.rotReset m false, 0x02, [roleInstaller], bitsBad 1),
        (.partSet m false, 0x03, [roleInstaller], bitsBad 12), (.pwrSet m false, 0x04, [roleInstaller], pwrSetBad),
        (.enroll m false, 0x06, [roleInstaller], enrollBad), (.instRotate m false, 0x07, [roleInstaller], shortBody 57),
        (.imageLoad m false false true true, 0x05, [roleInstaller, roleMaker], imageBad),
        (.lcSet m false, 0x10, [roleMaker], lcBad), (.factory m false, 0x11, [roleMaker], bitsBad 1),
        (.repairClear m false, 0x12, [roleMaker], repairBad), (.sessionOpen m .fails, 0x20, [roleOperator], openBad),
        (.sessionClose m .fails, 0x21, [roleOperator], bitsBad 1)],
      known → rotNext s (masterIdx m) x.2.1 = true → (cmdBad c x.2.2.1 = true ∨ x.2.2.2 c = true →
        exec x.1 s = .next (Safety.cmdAnswer m x.2.1 c eFormat [] out)) ∧
      (cmdBad c x.2.2.1 = false → x.2.2.2 c = false →
        exec x.1 s = .next (Safety.cmdAnswer m x.2.1 c eDenied [] out))) ∧
    (∀ sig, known → cmdBad c [roleInstaller] = false → bitsBad 2 c = false → rotNext s (masterIdx m) 0x01 = true →
      (c.challenge ≠ s.rot.challenge.toNat ∨ keyHeld s c = false →
        exec (.forceTake m sig) s = .next (Safety.cmdAnswer m 0x01 c eDenied [] out)) ∧
      (c.challenge = s.rot.challenge.toNat → keyHeld s c = true → lcAccepts s c = false →
        exec (.forceTake m true) s = .next (Safety.cmdAnswer m 0x01 c eDenied [] (Safety.cmdTaken m s))))

/-- The installer's commands on the device (R57, R65, R409, R484, R485): FORCE_TAKE makes the named master the owner; RESET
resets the device after its answer, and is refused while a reset is in progress; PART_SET stages an accepted map, ends the
sessions and drops the operator keys of the partitions affected, or is refused as a whole; PWR_SET writes the staged
registers that it names, and none of them while a commit is pending. -/
def Obligations.InstallerCommands : Prop :=
  ∀ (m : Master) (c : RotCmd) (s : State), let taken := Safety.cmdTaken m s
    (Safety.cmdSigned s m 0x01 [roleInstaller] c → bitsBad 2 c = false →
      (c.num 0 1 < 3 → exec (.forceTake m true) s = .next (modDev (fun d => { d with
        owner := masterOf (c.num 0 1), forced := true, handover := none }) (Safety.cmdAnswer m 0x01 c stDone [] taken))) ∧
      (c.num 0 1 = 3 → exec (.forceTake m true) s = .next (Safety.cmdAnswer m 0x01 c eDenied [] taken))) ∧
    (Safety.cmdSigned s m 0x02 [roleInstaller] c → bitsBad 1 c = false →
      (resetRuns s = true → exec (.rotReset m true) s = .next (Safety.cmdAnswer m 0x02 c eDenied [] taken)) ∧
      (resetRuns s = false → ∃ u, exec (.rotReset m true) s = .next u ∧
        Safety.resetFrom 3 (c.num 0 1 % 2 == 1) (Safety.cmdAnswer m 0x02 c stDone [] taken) u)) ∧
    (Safety.cmdSigned s m 0x03 [roleInstaller] c → bitsBad 12 c = false → let map := BitVec.ofNat 8 (c.num 0 2)
      (partRefused s map = true → exec (.partSet m true) s = .next (Safety.cmdAnswer m 0x03 c eDenied [] taken)) ∧
      (mapAccepted map = false ∨ s.dev.qfail ≠ 0 ∨ s.dev.genPend = true → partRefused s map = true) ∧
      (partRefused s map = false → ∃ u, exec (.partSet m true) s = .next (Safety.cmdAnswer m 0x03 c stDone [] u) ∧
        u.rot.map = s.rot.map ∧ u.rot.mapStaged = map ∧ u.rot.encStaged = BitVec.ofNat 4 (fld (c.num 0 2) 11 8) ∧
        u.rot.mapPending = true ∧ u.items = s.items ∧ Safety.sameMemory s u ∧ u.regs = s.regs ∧
        (∀ p ∈ affectedParts s.rot.map map, ∀ h : HostId, u.cams[h].sess[p].state = .none) ∧
        (∀ p : Fin 4, p ∉ affectedParts s.rot.map map → ∀ h : HostId, u.cams[h].sess[p] = s.cams[h].sess[p]) ∧
        (∀ (p : Fin 4) (k : Nat), k < 4 → fget (fun _ => none) u.rot.opKeys (4 * p.val + k) =
          if (affectedParts s.rot.map map).contains p then none else fget (fun _ => none) s.rot.opKeys (4 * p.val + k)))) ∧
    (Safety.cmdSigned s m 0x04 [roleInstaller] c → pwrSetBad c = false →
      (s.dev.genPend = true ∨ (∃ x ∈ pwrPairs c, pwrStagedAt x.1 = none) →
        exec (.pwrSet m true) s = .next (Safety.cmdAnswer m 0x04 c eDenied [] taken)) ∧
      (∀ a mask, s.dev.genPend = false → c.len = 8 → pwrStagedAt (c.num 0 4) = some (a, mask) →
        exec (.pwrSet m true) s = .next (Safety.cmdAnswer m 0x04 c stDone [] (setRegAt a (c.num 4 4 &&& mask) taken))))

/-- Keys, sessions, life cycle (R129, R481 to R483, R486, R487): ENROLL sets or removes an operator key, which ends the
sessions that the key opened; INST_ROTATE fuses the next installer key; SESSION_OPEN makes a session ACTIVE under an id that
is not the port's last one, its two keys made from the X448 secret and the transcript, which the device signs, and SESSION_CLOSE ends
it; a signature of another partition's key is answered E_PARTITION; LC_SET moves the life cycle along R486's edges, with a wipe, the
epochs advanced, and a full reset; FACTORY is refused in DEPLOYED; REPAIR_CLEAR drops what it names from the field-repair record; TAMPER wipes the
secrets at once, while RESET_N is low too, takes the links DOWN and is reported, KIND 0x3A. -/
def Obligations.KeysAndLifeCycle : Prop :=
  (∀ (m : Master) (c : RotCmd) (s : State), let taken := Safety.cmdTaken m s
    (Safety.cmdSigned s m 0x06 [roleInstaller] c → enrollBad c = false →
      (partLive s (c.num 0 1) = false → exec (.enroll m true) s = .next (Safety.cmdAnswer m 0x06 c ePartition [] taken)) ∧
      (partLive s (c.num 0 1) = true → ∃ u, exec (.enroll m true) s = .next (Safety.cmdAnswer m 0x06 c stDone [] u) ∧
        u = { taken with rot := u.rot, cams := u.cams } ∧
        (∀ k, fget (fun _ => none) u.rot.opKeys k = if k = 4 * c.num 0 1 + c.num 1 1
          then (if c.num 2 1 = 1 then none else some (c.bytes 3 57)) else fget (fun _ => none) s.rot.opKeys k) ∧
        (∀ (h : HostId) (p : Fin 4), u.cams[h].sess[p].state =
          if p.val = c.num 0 1 ∧ s.cams[h].sess[p].opSlot = c.num 1 1 then .none else s.cams[h].sess[p].state))) ∧
    (Safety.cmdSigned s m 0x07 [roleInstaller] c → shortBody 57 c = false →
      (4 ≤ s.rot.instKeys.length → exec (.instRotate m true) s = .next (Safety.cmdAnswer m 0x07 c eDenied [] taken)) ∧
      (s.rot.instKeys.length < 4 → exec (.instRotate m true) s = .next (Safety.cmdAnswer m 0x07 c stDone []
        (modRot (fun r => { r with instKeys := r.instKeys ++ [c.bytes 0 57], instActive := r.instKeys.length }) taken)))) ∧
    (∀ h : HostId, Safety.cmdSigned s m 0x20 [roleOperator] c → openBad c = false → c.num 0 1 = h.val →
      (partLive s c.part.val = false → exec (.sessionOpen m .verifies) s = .next (Safety.cmdAnswer m 0x20 c ePartition [] taken)) ∧
      (∀ p, p ≠ c.part → fget (fun _ => none) s.rot.opKeys (4 * p.val + c.kslot) ≠ none →
        exec (.sessionOpen m (.otherPart p)) s = .next (Safety.cmdAnswer m 0x20 c ePartition [] taken)) ∧
      (∀ p, fget (fun _ => none) s.rot.opKeys (4 * p.val + c.kslot) = none →
        exec (.sessionOpen m (.otherPart p)) s = .next (Safety.cmdAnswer m 0x20 c eDenied [] (Safety.cmdOut m s))) ∧
      (partLive s c.part.val = true → s.cams[h].sess[c.part].state ≠ .none ∨ reassigned s c.part = true ∨
        isFenced s (camB h) = true → exec (.sessionOpen m .verifies) s = .next (Safety.cmdAnswer m 0x20 c eDenied [] taken)) ∧
      (partLive s c.part.val = true → s.cams[h].sess[c.part].state = .none → reassigned s c.part = false →
        isFenced s (camB h) = false → ∃ u k, let id := u.rot.sessIds[h]
          let t := transcript s c h (x448Public k) id
          exec (.sessionOpen m .verifies) s = .next (Safety.cmdAnswer m 0x20 c stDone
            (x448Public k ++ bytesOfNat 2 id.toNat ++ fitBytes 114 (Config.sign roleIdentity t)) u) ∧ u.items = s.items ∧
          id ≠ s.rot.sessIds[h] ∧ u.cams[h].sess[c.part] =
            ⟨.active, id, 0, 0, c.kslot, sessionKey k c t "G2D", sessionKey k c t "D2G"⟩)) ∧
    (∀ h : HostId, Safety.cmdSigned s m 0x21 [roleOperator] c → bitsBad 1 c = false → c.num 0 1 = h.val →
      partLive s c.part.val = true → ∃ u, exec (.sessionClose m .verifies) s = .next (Safety.cmdAnswer m 0x21 c stDone [] u) ∧
        u = { taken with cams := u.cams } ∧ u.cams[h].sess[c.part].state = .none ∧
        (∀ (j : HostId) (p : Fin 4), j ≠ h ∨ p ≠ c.part → u.cams[j].sess[p] = s.cams[j].sess[p])) ∧
    (Safety.cmdSigned s m 0x10 [roleMaker] c → lcBad c = false → let dest := c.num 0 1
      (lcStep s.rot.lc dest = false → exec (.lcSet m true) s = .next (Safety.cmdAnswer m 0x10 c eDenied [] taken)) ∧
      (lcStep s.rot.lc dest = true → s.rot.instKeys.length < 4 → ∃ u, exec (.lcSet m true) s = .next u ∧ u.rot.lc = dest ∧
        u.rot.opKeys = [] ∧ u.dev.owner = none ∧ u.dev.cause = 4 ∧ u.dev.ready = false ∧ u.items = [] ∧
        u.rot.instKeys = (if dest = 1 then s.rot.instKeys ++ [c.bytes 1 57] else s.rot.instKeys) ∧
        (∀ p : Fin 4, u.rot.epochs[p] = s.rot.epochs[p] + 2) ∧ u.rot.waiting = 0 ∧
        (∀ (h : HostId) (p : Fin 4), u.cams[h].sess[p].state = .none))) ∧
    (Safety.cmdSigned s m 0x11 [roleMaker] c → bitsBad 1 c = false →
      (s.rot.lc = 2 → exec (.factory m true) s = .next (Safety.cmdAnswer m 0x11 c eDenied [] taken)) ∧
      (s.rot.lc ≠ 2 → exec (.factory m true) s = .next (Safety.cmdAnswer m 0x11 c stDone []
        (modRot (fun r => { r with factory := c.num 0 1 % 2 == 1 }) taken)))) ∧
    (Safety.cmdSigned s m 0x12 [roleMaker] c → repairBad c = false → c.len = 4 → let e := c.num 0 4
      ∃ u, exec (.repairClear m true) s = .next (Safety.cmdAnswer m 0x12 c stDone [] u) ∧ u = { taken with rot := u.rot } ∧
        (fld e 1 0 = 1 → ∀ t : TileId, t ∈ u.rot.repairTiles ↔ t ∈ s.rot.repairTiles ∧ t.val ≠ fld e 13 8) ∧
        (fld e 1 0 ≠ 1 → u.rot.repairTiles = s.rot.repairTiles) ∧
        (fld e 1 0 = 0 → ∀ (t : TileId) (k : Byte), (t, k) ∈ u.rot.repairCols ↔ (t, k) ∈ s.rot.repairCols ∧
          ¬ (t.val = fld e 13 8 ∧ k.toNat = fld e 23 16)) ∧
        (fld e 1 0 = 2 → ∀ (k : StackId) (n : BitVec 5), (k, n) ∈ u.rot.repairChans ↔ (k, n) ∈ s.rot.repairChans ∧
          ¬ (k.val = fld e 10 8 ∧ n.toNat = fld e 20 16)))) ∧
  (∀ (d : Fin 3) (s : State),
    (s.dev.powered = false ∨ (d = 2 ∧ s.rot.factory = true) → exec (.tamper d) s = .next s) ∧
    (s.dev.powered = true → d ≠ 2 ∨ s.rot.factory = false → ∃ u, exec (.tamper d) s = .next u ∧
      u.rot.opKeys = [] ∧ u.rot.waiting = 0 ∧ (∀ (h : HostId) (p : Fin 4), u.cams[h].sess[p].state = .none) ∧
      (∀ p : PortId, u.ports[p].link ≠ .up ∧ u.ports[p].link ≠ .training) ∧ u.rot.audit.map (·.event) = [0xF0, 0xF2] ∧
      (u.flt.inflight.getLast?).map (fun x => (x.source, x.kind, x.detail)) = some (0x010, 0x3A, BitVec.ofNat 25 d.val) ∧
      (∀ p : Fin 4, ∃ n, u.rot.epochs[p] = BitVec.ofNat 32 (Config.free n)) ∧ u.items.map (·.key) = s.items.map (·.key)))

/-- Images and reports (R489 to R493, R501, R508): IMAGE_LOAD checks what the header says of
its target first, whose failing is answered E_DENIED, then answers one that is too long or cannot be read E_EXTENT, and one whose
length, signatures or digest fails, the SHAKE256 of its payload, E_DENIED; else it begins to be applied, its
target's blocks UPDATING. IMAGE_APPLY_COMPLETE enters a good one in the measurement list, new estimator weights waiting for the next
window (R506), leaves a bad one out, the meter running on, and turns the blocks DRAINED. CERT, MEASURE, ATTEST and AUDIT_READ answer their data, of the lengths that the rules give, and change
nothing but the answer. -/
def Obligations.ImagesAndReports : Prop :=
  (∀ (m : Master) (c : RotCmd) (mk ins : Bool) (s : State), let taken := Safety.cmdTaken m s
    let load := Instr.imageLoad m (c.role == roleMaker) (c.role == roleInstaller) mk ins
    let target := c.num 12 4
    let answers (code : Nat) (t : State) : Prop := exec load s = .next (Safety.cmdAnswer m 0x05 c code [] t)
    Safety.cmdSigned s m 0x05 [roleInstaller, roleMaker] c → imageBad c = false →
    (imageLen c < 356 → answers eDenied taken) ∧
    (∀ s1, 356 ≤ imageLen c → readImage c 0 128 taken = (none, s1) → answers eExtent s1) ∧
    (∀ d s1, 356 ≤ imageLen c → readImage c 0 128 taken = (some d, s1) → let i := imageOfBytes d.1
      let header := (∀ b ∈ d.2, b = false) ∧ d.1.take 4 = [0x4F, 0x4E, 0x55, 0x44] ∧ targetReady s1 i.comp target = true ∧
        pageless s1 i.comp = true ∧ floorOf s1 i.comp ≤ i.version
      (¬ header → answers eDenied s1) ∧
      (header → imageMax < imageLen c → answers eExtent s1) ∧
      (∀ s2, header → imageLen c ≤ imageMax → readImage c 128 (imageLen c - 128) s1 = (none, s2) → answers eExtent s2) ∧
      (∀ e s2, header → imageLen c ≤ imageMax → readImage c 128 (imageLen c - 128) s1 = (some e, s2) →
        let i := imageOfBytes (d.1 ++ e.1)
        let good := (∀ b ∈ e.2, b = false) ∧ i.magic = true ∧ imageSigned i c.role mk ins = true ∧
          fitBytes 32 (Config.shake256 i.payload 32) = i.digest
        (¬ good → answers eDenied s2) ∧
        (good → answers stDone (startImage i target s2)) ∧
        (good → i.comp ≠ 0x20 → let u := startImage i target s2
          u.rot.applying = s2.rot.applying ++
            [(BitVec.ofNat 16 i.comp, imageTarget i.comp target, BitVec.ofNat 32 i.version, i.digest)] ∧
          (∀ bs, imageBlocks s2 i.comp target = some bs →
            ∀ b, (hdr u b).mode = if b ∈ bs then .updating else (hdr s2 b).mode))))) ∧
  (∀ (comp : BitVec 16) (target : Nat) (good : Bool) (s : State),
    (s.rot.applying.find? (fun x => x.1 == comp && x.2.1 == target) = none →
      exec (.imageApplyComplete comp target good) s = .next s) ∧
    (∀ x, s.rot.applying.find? (fun x => x.1 == comp && x.2.1 == target) = some x →
      ∃ u, exec (.imageApplyComplete comp target good) s = .next u ∧ u.rot.applying = s.rot.applying.erase x ∧
        (good = true → ∃ k ∈ u.rot.comps, k.id = comp ∧ k.target = target ∧ k.version = x.2.2.1 ∧ k.digest = x.2.2.2) ∧
        (good = false → u.rot.comps = s.rot.comps) ∧
        (good = true → comp.toNat = 0x11 → ∀ q : QuadId, q.val = target → (pq u q).weights = (pq s q).weights ∧
          (pq u q).weightsTo = (pq s q).weightsTo + 1) ∧
        (good = false → comp.toNat = 0x18 → u.mtr.updating = false) ∧ u.items = s.items ∧ Safety.sameMemory s u ∧
        (∀ bs, imageBlocks s comp.toNat target = some bs → ∀ b ∈ bs,
          (hdr u b).mode = if (hdr s b).mode = .updating then .drained else (hdr s b).mode))) ∧
  (∀ (m : Master) (c : RotCmd) (s : State), let out := Safety.cmdOut m s
    (Safety.cmdUnsigned s m 0x30 c → c.len = 32 → let b := reportBody out (c.bytes 0 32)
      exec (.attest m) s = .next (Safety.cmdAnswer m 0x30 c stDone (b ++ fitBytes 114 (Config.sign roleIdentity b)) out) ∧
      b.length = 176) ∧
    (Safety.cmdUnsigned s m 0x31 c → c.len = 0 →
      exec (.measure m) s = .next (Safety.cmdAnswer m 0x31 c stDone (measureList out) out) ∧
      ((∃ t : TileId, s.tiles[t].retired = false) → (measureList out).length = 40 * (components s).length)) ∧
    (Safety.cmdUnsigned s m 0x32 c → certBad c = false →
      exec (.cert m) s = .next (Safety.cmdAnswer m 0x32 c stDone (certificate (c.num 0 1 + 1)) out) ∧
      (certificate (c.num 0 1 + 1)).length = 242) ∧
    (Safety.cmdUnsigned s m 0x33 c → c.len = 4 → let i := c.num 0 4
      (i < s.rot.auditNext - s.rot.audit.length ∨ s.rot.auditNext ≤ i →
        exec (.auditRead m) s = .next (Safety.cmdAnswer m 0x33 c eExtent [] out)) ∧
      (s.rot.auditNext - s.rot.audit.length ≤ i → i < s.rot.auditNext → ∃ u data,
        exec (.auditRead m) s = .next (Safety.cmdAnswer m 0x33 c stDone data u) ∧ data.length = 438 ∧ u = { out with rot := u.rot } ∧
        u.rot.audit = s.rot.audit ∧ data.take 288 = fitBytes 288 (((s.rot.audit.drop
          (i - (s.rot.auditNext - s.rot.audit.length))).take 6).flatMap auditBytes))))

/-! ## Invariants of the whole device -/

/-- Every step keeps every memory in its canonical form: those of the tiles, and main memory with its code faults. -/
def Obligations.MemoryFormKept : Prop :=
  ∀ s t : State, Safety.memoriesWf s = true → step s = .next t → Safety.memoriesWf t = true

/-- At reset every memory is in canonical form, and nothing is listed in any. -/
def Obligations.MemoryFormAtReset : Prop :=
  Safety.memoriesWf State.reset = true ∧ State.reset.hbm = [] ∧
    ∀ t : TileId, State.reset.tiles[t].amem = tmemZero ∧ State.reset.tiles[t].pmem = tmemZero ∧
      State.reset.tiles[t].wmem = tmemZero

/-- What the spec says of the device after a power-on reset (R51, R71, R434, R495): no owner, no handover, generation 0 live
with no commit pending, no item in flight, no block enabled, no link UP, an empty fault log and no safe state, partition 0
holding every quadrant, and the first phase of start-up. -/
def Obligations.PowerOnState : Prop :=
  let s := State.reset
  s.dev.owner = none ∧ s.dev.handover = none ∧ s.dev.genLive = 0 ∧ s.dev.genPend = false ∧ s.dev.ready = false ∧
    s.dev.phase = 0 ∧ s.items = [] ∧ s.pending = [] ∧ s.flt.log = [] ∧ s.flt.safe = false ∧
    (∀ b, (hdr s b).en = false ∧ (hdr s b).mode = .off ∧ (hdr s b).genLive = 0) ∧ (∀ q, partOf s q = 0) ∧
    (∀ p : PortId, s.ports[p].link ≠ .up) ∧ (∀ h : HostId, s.cams[h].link ≠ .up) ∧
    ∀ t : TileId, ∀ k < 32, vat s.tiles[t].seq.tokens k none = none
end

