-- ==== Sys2Proof/Laws/Maps.lean ====
section
/-! SUPPORT. Sparse maps: what a read finds after a write, and that every operation keeps the canonical form. -/

namespace Sys2Proof.Machine
open Sys2Proof

variable {α : Type} [DecidableEq α]

/-- Keys strictly rising. -/
def Rising (m : FMap α) : Prop := m.Pairwise (fun a b => a.1 < b.1)

theorem fwf_iff (d : Nat → α) (m : FMap α) : fwf d m = true ↔ Rising m ∧ ∀ e ∈ m, e.2 ≠ d e.1 := by
  simp [fwf, Rising]

omit [DecidableEq α] in
theorem fget_nil (d : Nat → α) (k : Nat) : fget d [] k = d k := rfl

omit [DecidableEq α] in
theorem fget_cons (d : Nat → α) (e : Nat × α) (m : FMap α) (k : Nat) :
    fget d (e :: m) k = if e.1 = k then e.2 else fget d m k := by
  by_cases h : e.1 = k <;> simp [fget, h]

omit [DecidableEq α] in
theorem fget_append_of_not_mem (d : Nat → α) (m n : FMap α) (k : Nat) (h : ∀ e ∈ m, e.1 ≠ k) :
    fget d (m ++ n) k = fget d n k := by
  induction m with
  | nil => rfl
  | cons e m ih =>
    rw [List.cons_append, fget_cons, if_neg (h e (by simp)), ih (fun x hx => h x (by simp [hx]))]

omit [DecidableEq α] in
theorem fget_append_left (d : Nat → α) (m n : FMap α) (k : Nat) (h : ∀ e ∈ n, e.1 ≠ k) :
    fget d (m ++ n) k = fget d m k := by
  induction m with
  | nil =>
    have h2 := fget_append_of_not_mem d n [] k h
    rw [List.append_nil] at h2
    rw [List.nil_append, h2]
  | cons e m ih => rw [List.cons_append, fget_cons, fget_cons, ih]

omit [DecidableEq α] in
theorem fget_filter (d : Nat → α) (m : FMap α) (p : Nat → Bool) (k : Nat) (h : p k = true) :
    fget d (m.filter (fun e => p e.1)) k = fget d m k := by
  induction m with
  | nil => rfl
  | cons e m ih =>
    by_cases he : p e.1
    · rw [List.filter_cons_of_pos (by simpa using he), fget_cons, fget_cons, ih]
    · have : e.1 ≠ k := by rintro rfl; exact he h
      rw [List.filter_cons_of_neg (by simpa using he), fget_cons, if_neg this, ih]

theorem fentries_key (d : Nat → α) (vs : List α) (k : Nat) : ∀ e ∈ fentries d k vs, k ≤ e.1 ∧ e.1 < k + vs.length := by
  induction vs generalizing k with
  | nil => simp [fentries]
  | cons v vs ih =>
    intro e he
    simp only [fentries] at he
    have hl : (v :: vs).length = vs.length + 1 := rfl
    split at he
    · have := ih (k + 1) e he; omega
    · rcases List.mem_cons.mp he with rfl | he
      · simp
      · have := ih (k + 1) e he; omega

theorem fentries_get (d : Nat → α) (vs : List α) (k i : Nat) (h : i < vs.length) :
    fget d (fentries d k vs) (k + i) = vs[i] := by
  induction vs generalizing k i with
  | nil => simp at h
  | cons v vs ih =>
    simp only [fentries]
    cases i with
    | zero =>
      split
      · rename_i hv
        have hn : ∀ e ∈ fentries d (k + 1) vs, e.1 ≠ k := fun e he => by
          have := fentries_key d vs (k + 1) e he; omega
        have h2 := fget_append_of_not_mem d _ [] k hn
        simp only [List.append_nil] at h2
        simp [h2, fget_nil, hv]
      · simp [fget_cons]
    | succ i =>
      have h' : i < vs.length := by simpa using h
      have hk : k + (i + 1) = k + 1 + i := by omega
      split
      · rw [hk, ih (k + 1) i h']; simp
      · rw [fget_cons, if_neg (by simp), hk, ih (k + 1) i h']; simp

theorem fentries_rising (d : Nat → α) (vs : List α) (k : Nat) : Rising (fentries d k vs) := by
  induction vs generalizing k with
  | nil => exact List.Pairwise.nil
  | cons v vs ih =>
    simp only [fentries]
    split
    · exact ih (k + 1)
    · refine List.Pairwise.cons (fun e he => ?_) (ih (k + 1))
      have := fentries_key d vs (k + 1) e he
      show k < e.1
      omega

theorem fentries_ne (d : Nat → α) (vs : List α) (k : Nat) : ∀ e ∈ fentries d k vs, e.2 ≠ d e.1 := by
  induction vs generalizing k with
  | nil => simp [fentries]
  | cons v vs ih =>
    intro e he
    simp only [fentries] at he
    split at he
    · exact ih (k + 1) e he
    · rename_i hv
      rcases List.mem_cons.mp he with rfl | he
      · exact hv
      · exact ih (k + 1) e he

/-- A run of values written is read back. -/
theorem fget_fwrite_in (d : Nat → α) (m : FMap α) (start i : Nat) (vs : List α) (h : i < vs.length) :
    fget d (fwrite d m start vs) (start + i) = vs[i] := by
  have h1 : ∀ e ∈ m.filter (fun e => decide (e.1 < start)), e.1 ≠ start + i := by
    intro e he
    have := (List.mem_filter.mp he).2
    simp at this; omega
  have h3 : ∀ e ∈ m.filter (fun e => decide (start + vs.length ≤ e.1)), e.1 ≠ start + i := by
    intro e he
    have := (List.mem_filter.mp he).2
    simp at this; omega
  rw [fwrite, List.append_assoc, fget_append_of_not_mem _ _ _ _ h1, fget_append_left _ _ _ _ h3, fentries_get _ _ _ _ h]

/-- A write leaves every key outside its run alone. -/
theorem fget_fwrite_out (d : Nat → α) (m : FMap α) (start k : Nat) (vs : List α) (h : k < start ∨ start + vs.length ≤ k) :
    fget d (fwrite d m start vs) k = fget d m k := by
  have h2 : ∀ e ∈ fentries d start vs, e.1 ≠ k := by
    intro e he
    have := fentries_key d vs start e he; omega
  rcases h with h | h
  · have h3 : ∀ e ∈ m.filter (fun e => decide (start + vs.length ≤ e.1)), e.1 ≠ k := by
      intro e he
      have := (List.mem_filter.mp he).2
      simp at this; omega
    rw [fwrite, fget_append_left _ _ _ _ h3, fget_append_left _ _ _ _ h2]
    exact fget_filter d m (fun x => decide (x < start)) k (by simpa using h)
  · have h1 : ∀ e ∈ m.filter (fun e => decide (e.1 < start)), e.1 ≠ k := by
      intro e he
      have := (List.mem_filter.mp he).2
      simp at this; omega
    rw [fwrite, List.append_assoc, fget_append_of_not_mem _ _ _ _ h1, fget_append_of_not_mem _ _ _ _ h2]
    exact fget_filter d m (fun x => decide (start + vs.length ≤ x)) k (by simpa using h)

@[simp] theorem fget_fset_same (d : Nat → α) (m : FMap α) (k : Nat) (v : α) : fget d (fset d m k v) k = v := by
  have := fget_fwrite_in d m k 0 [v] (by simp)
  simpa [fset] using this

theorem fget_fset_ne (d : Nat → α) (m : FMap α) (k j : Nat) (v : α) (h : j ≠ k) : fget d (fset d m k v) j = fget d m j :=
  fget_fwrite_out d m k j [v] (by simp; omega)

theorem fget_fset (d : Nat → α) (m : FMap α) (k j : Nat) (v : α) :
    fget d (fset d m k v) j = if j = k then v else fget d m j := by
  split
  · subst_vars; simp
  · exact fget_fset_ne d m k j v (by assumption)

omit [DecidableEq α] in
theorem fget_fclear_out (d : Nat → α) (m : FMap α) (start len k : Nat) (h : k < start ∨ start + len ≤ k) :
    fget d (fclear m start len) k = fget d m k :=
  fget_filter d m (fun x => decide (x < start) || decide (start + len ≤ x)) k (by simpa using h)

omit [DecidableEq α] in
theorem fget_fclear_in (d : Nat → α) (m : FMap α) (start len k : Nat) (h : start ≤ k ∧ k < start + len) :
    fget d (fclear m start len) k = d k := by
  have hn : ∀ e ∈ fclear m start len, e.1 ≠ k := by
    intro e he
    have := (List.mem_filter.mp he).2
    simp at this; omega
  have h2 := fget_append_of_not_mem d _ [] k hn
  simpa [fget_nil] using h2

omit [DecidableEq α] in
theorem rising_filter (m : FMap α) (p : Nat × α → Bool) (h : Rising m) : Rising (m.filter p) := List.Pairwise.filter p h

theorem fwf_filter (d : Nat → α) (m : FMap α) (p : Nat × α → Bool) (h : fwf d m = true) : fwf d (m.filter p) = true := by
  rw [fwf_iff] at *
  exact ⟨rising_filter m p h.1, fun e he => h.2 e (List.mem_of_mem_filter he)⟩

/-- A write of a run keeps the canonical form. -/
theorem fwf_fwrite (d : Nat → α) (m : FMap α) (start : Nat) (vs : List α) (h : fwf d m = true) :
    fwf d (fwrite d m start vs) = true := by
  rw [fwf_iff] at *
  refine ⟨?_, ?_⟩
  · unfold fwrite Rising
    rw [List.pairwise_append, List.pairwise_append]
    refine ⟨⟨rising_filter m _ h.1, fentries_rising d vs start, ?_⟩, rising_filter m _ h.1, ?_⟩
    · intro a ha b hb
      have h1 := (List.mem_filter.mp ha).2
      have h2 := fentries_key d vs start b hb
      simp at h1; omega
    · intro a ha b hb
      have h2 := (List.mem_filter.mp hb).2
      simp only [decide_eq_true_eq] at h2
      rcases List.mem_append.mp ha with ha | ha
      · have h1 := (List.mem_filter.mp ha).2
        simp at h1; omega
      · have h1 := fentries_key d vs start a ha
        omega
  · intro e he
    unfold fwrite at he
    rcases List.mem_append.mp he with he | he
    · rcases List.mem_append.mp he with he | he
      · exact h.2 e (List.mem_of_mem_filter he)
      · exact fentries_ne d vs start e he
    · exact h.2 e (List.mem_of_mem_filter he)

theorem fwf_fset (d : Nat → α) (m : FMap α) (k : Nat) (v : α) (h : fwf d m = true) : fwf d (fset d m k v) = true :=
  fwf_fwrite d m k [v] h

theorem fwf_fclear (d : Nat → α) (m : FMap α) (start len : Nat) (h : fwf d m = true) : fwf d (fclear m start len) = true :=
  fwf_filter d m _ h

theorem fwf_nil (d : Nat → α) : fwf d [] = true := rfl

/-- Two maps in canonical form that read alike are equal. -/
theorem fwf_ext (d : Nat → α) (m n : FMap α) (hm : fwf d m = true) (hn : fwf d n = true)
    (h : ∀ k, fget d m k = fget d n k) : m = n := by
  rw [fwf_iff] at hm hn
  obtain ⟨rm, nm⟩ := hm
  obtain ⟨rn, nn⟩ := hn
  have absent : ∀ (l : FMap α) (k : Nat), (∀ e ∈ l, k < e.1) → fget d l k = d k := by
    intro l k hl
    have := fget_append_of_not_mem d l [] k (fun e he => by have := hl e he; omega)
    simpa [fget_nil] using this
  induction m generalizing n with
  | nil =>
    cases n with
    | nil => rfl
    | cons e n =>
      have h1 := h e.1
      rw [fget_nil, fget_cons, if_pos rfl] at h1
      exact absurd h1.symm (nn e (by simp))
  | cons a m ih =>
    cases n with
    | nil =>
      have h1 := h a.1
      rw [fget_nil, fget_cons, if_pos rfl] at h1
      exact absurd h1 (nm a (by simp))
    | cons b n =>
      have hma : ∀ e ∈ m, a.1 < e.1 := (List.pairwise_cons.mp rm).1
      have hnb : ∀ e ∈ n, b.1 < e.1 := (List.pairwise_cons.mp rn).1
      have hk : a.1 = b.1 := by
        rcases Nat.lt_trichotomy a.1 b.1 with hlt | heq | hgt
        · have h1 := h a.1
          rw [fget_cons, if_pos rfl, absent (b :: n) a.1 (fun e he => by
            rcases List.mem_cons.mp he with rfl | he
            · exact hlt
            · exact lt_trans hlt (hnb e he))] at h1
          exact absurd h1 (nm a (by simp))
        · exact heq
        · have h1 := h b.1
          rw [fget_cons d b, if_pos rfl, absent (a :: m) b.1 (fun e he => by
            rcases List.mem_cons.mp he with rfl | he
            · exact hgt
            · exact lt_trans hgt (hma e he))] at h1
          exact absurd h1.symm (nn b (by simp))
      have hv : a.2 = b.2 := by
        have h1 := h a.1
        rw [fget_cons, if_pos rfl, fget_cons, if_pos hk.symm] at h1
        exact h1
      have hab : a = b := Prod.ext hk hv
      subst hab
      congr 1
      refine ih n (fun k => ?_) (List.pairwise_cons.mp rm).2 (fun e he => nm e (List.mem_cons_of_mem _ he))
        (List.pairwise_cons.mp rn).2 (fun e he => nn e (List.mem_cons_of_mem _ he))
      have h1 := h k
      rw [fget_cons, fget_cons] at h1
      by_cases hk2 : a.1 = k
      · subst hk2
        rw [absent m a.1 hma, absent n a.1 hnb]
      · rwa [if_neg hk2, if_neg hk2] at h1

end Sys2Proof.Machine
end

