-- ==== Sys2Proof/Laws/State.lean ====
section
/-! SUPPORT. What each update of a part of the state leaves: one lemma per field per update. -/

namespace Sys2Proof.Machine
open Sys2Proof

/-! modTile -/

@[simp] theorem modTile_pending (t : TileId) (f : TileSt → TileSt) (s : State) : (modTile t f s).pending = s.pending := rfl
@[simp] theorem modTile_regs (t : TileId) (f : TileSt → TileSt) (s : State) : (modTile t f s).regs = s.regs := rfl
@[simp] theorem modTile_hdrs (t : TileId) (f : TileSt → TileSt) (s : State) : (modTile t f s).hdrs = s.hdrs := rfl
@[simp] theorem modTile_masters (t : TileId) (f : TileSt → TileSt) (s : State) : (modTile t f s).masters = s.masters := rfl
@[simp] theorem modTile_out (t : TileId) (f : TileSt → TileSt) (s : State) : (modTile t f s).out = s.out := rfl
@[simp] theorem modTile_items (t : TileId) (f : TileSt → TileSt) (s : State) : (modTile t f s).items = s.items := rfl
@[simp] theorem modTile_tiles (t : TileId) (f : TileSt → TileSt) (s : State) : (modTile t f s).tiles = s.tiles.set t (f s.tiles[t]) := rfl
@[simp] theorem modTile_quads (t : TileId) (f : TileSt → TileSt) (s : State) : (modTile t f s).quads = s.quads := rfl
@[simp] theorem modTile_hbm (t : TileId) (f : TileSt → TileSt) (s : State) : (modTile t f s).hbm = s.hbm := rfl
@[simp] theorem modTile_hbmErr (t : TileId) (f : TileSt → TileSt) (s : State) : (modTile t f s).hbmErr = s.hbmErr := rfl
@[simp] theorem modTile_hbmStacks (t : TileId) (f : TileSt → TileSt) (s : State) : (modTile t f s).hbmStacks = s.hbmStacks := rfl
@[simp] theorem modTile_evac (t : TileId) (f : TileSt → TileSt) (s : State) : (modTile t f s).evac = s.evac := rfl
@[simp] theorem modTile_portXlate (t : TileId) (f : TileSt → TileSt) (s : State) : (modTile t f s).portXlate = s.portXlate := rfl
@[simp] theorem modTile_camXlate (t : TileId) (f : TileSt → TileSt) (s : State) : (modTile t f s).camXlate = s.camXlate := rfl
@[simp] theorem modTile_walkXlate (t : TileId) (f : TileSt → TileSt) (s : State) : (modTile t f s).walkXlate = s.walkXlate := rfl
@[simp] theorem modTile_ports (t : TileId) (f : TileSt → TileSt) (s : State) : (modTile t f s).ports = s.ports := rfl
@[simp] theorem modTile_fabQs (t : TileId) (f : TileSt → TileSt) (s : State) : (modTile t f s).fabQs = s.fabQs := rfl
@[simp] theorem modTile_teleQs (t : TileId) (f : TileSt → TileSt) (s : State) : (modTile t f s).teleQs = s.teleQs := rfl
@[simp] theorem modTile_fabReqs (t : TileId) (f : TileSt → TileSt) (s : State) : (modTile t f s).fabReqs = s.fabReqs := rfl
@[simp] theorem modTile_fabEpochs (t : TileId) (f : TileSt → TileSt) (s : State) : (modTile t f s).fabEpochs = s.fabEpochs := rfl
@[simp] theorem modTile_cams (t : TileId) (f : TileSt → TileSt) (s : State) : (modTile t f s).cams = s.cams := rfl
@[simp] theorem modTile_pwr (t : TileId) (f : TileSt → TileSt) (s : State) : (modTile t f s).pwr = s.pwr := rfl
@[simp] theorem modTile_mtr (t : TileId) (f : TileSt → TileSt) (s : State) : (modTile t f s).mtr = s.mtr := rfl
@[simp] theorem modTile_flt (t : TileId) (f : TileSt → TileSt) (s : State) : (modTile t f s).flt = s.flt := rfl
@[simp] theorem modTile_rot (t : TileId) (f : TileSt → TileSt) (s : State) : (modTile t f s).rot = s.rot := rfl
@[simp] theorem modTile_dev (t : TileId) (f : TileSt → TileSt) (s : State) : (modTile t f s).dev = s.dev := rfl
@[simp] theorem modTile_waited (t : TileId) (f : TileSt → TileSt) (s : State) : (modTile t f s).waited = s.waited := rfl
@[simp] theorem modTile_heldBack (t : TileId) (f : TileSt → TileSt) (s : State) : (modTile t f s).heldBack = s.heldBack := rfl
@[simp] theorem modTile_passed (t : TileId) (f : TileSt → TileSt) (s : State) : (modTile t f s).passed = s.passed := rfl
@[simp] theorem modTile_nfree (t : TileId) (f : TileSt → TileSt) (s : State) : (modTile t f s).nfree = s.nfree := rfl

/-! modQuad -/

@[simp] theorem modQuad_pending (q : QuadId) (f : QuadSt → QuadSt) (s : State) : (modQuad q f s).pending = s.pending := rfl
@[simp] theorem modQuad_regs (q : QuadId) (f : QuadSt → QuadSt) (s : State) : (modQuad q f s).regs = s.regs := rfl
@[simp] theorem modQuad_hdrs (q : QuadId) (f : QuadSt → QuadSt) (s : State) : (modQuad q f s).hdrs = s.hdrs := rfl
@[simp] theorem modQuad_masters (q : QuadId) (f : QuadSt → QuadSt) (s : State) : (modQuad q f s).masters = s.masters := rfl
@[simp] theorem modQuad_out (q : QuadId) (f : QuadSt → QuadSt) (s : State) : (modQuad q f s).out = s.out := rfl
@[simp] theorem modQuad_items (q : QuadId) (f : QuadSt → QuadSt) (s : State) : (modQuad q f s).items = s.items := rfl
@[simp] theorem modQuad_tiles (q : QuadId) (f : QuadSt → QuadSt) (s : State) : (modQuad q f s).tiles = s.tiles := rfl
@[simp] theorem modQuad_quads (q : QuadId) (f : QuadSt → QuadSt) (s : State) : (modQuad q f s).quads = s.quads.set q (f s.quads[q]) := rfl
@[simp] theorem modQuad_hbm (q : QuadId) (f : QuadSt → QuadSt) (s : State) : (modQuad q f s).hbm = s.hbm := rfl
@[simp] theorem modQuad_hbmErr (q : QuadId) (f : QuadSt → QuadSt) (s : State) : (modQuad q f s).hbmErr = s.hbmErr := rfl
@[simp] theorem modQuad_hbmStacks (q : QuadId) (f : QuadSt → QuadSt) (s : State) : (modQuad q f s).hbmStacks = s.hbmStacks := rfl
@[simp] theorem modQuad_evac (q : QuadId) (f : QuadSt → QuadSt) (s : State) : (modQuad q f s).evac = s.evac := rfl
@[simp] theorem modQuad_portXlate (q : QuadId) (f : QuadSt → QuadSt) (s : State) : (modQuad q f s).portXlate = s.portXlate := rfl
@[simp] theorem modQuad_camXlate (q : QuadId) (f : QuadSt → QuadSt) (s : State) : (modQuad q f s).camXlate = s.camXlate := rfl
@[simp] theorem modQuad_walkXlate (q : QuadId) (f : QuadSt → QuadSt) (s : State) : (modQuad q f s).walkXlate = s.walkXlate := rfl
@[simp] theorem modQuad_ports (q : QuadId) (f : QuadSt → QuadSt) (s : State) : (modQuad q f s).ports = s.ports := rfl
@[simp] theorem modQuad_fabQs (q : QuadId) (f : QuadSt → QuadSt) (s : State) : (modQuad q f s).fabQs = s.fabQs := rfl
@[simp] theorem modQuad_teleQs (q : QuadId) (f : QuadSt → QuadSt) (s : State) : (modQuad q f s).teleQs = s.teleQs := rfl
@[simp] theorem modQuad_fabReqs (q : QuadId) (f : QuadSt → QuadSt) (s : State) : (modQuad q f s).fabReqs = s.fabReqs := rfl
@[simp] theorem modQuad_fabEpochs (q : QuadId) (f : QuadSt → QuadSt) (s : State) : (modQuad q f s).fabEpochs = s.fabEpochs := rfl
@[simp] theorem modQuad_cams (q : QuadId) (f : QuadSt → QuadSt) (s : State) : (modQuad q f s).cams = s.cams := rfl
@[simp] theorem modQuad_pwr (q : QuadId) (f : QuadSt → QuadSt) (s : State) : (modQuad q f s).pwr = s.pwr := rfl
@[simp] theorem modQuad_mtr (q : QuadId) (f : QuadSt → QuadSt) (s : State) : (modQuad q f s).mtr = s.mtr := rfl
@[simp] theorem modQuad_flt (q : QuadId) (f : QuadSt → QuadSt) (s : State) : (modQuad q f s).flt = s.flt := rfl
@[simp] theorem modQuad_rot (q : QuadId) (f : QuadSt → QuadSt) (s : State) : (modQuad q f s).rot = s.rot := rfl
@[simp] theorem modQuad_dev (q : QuadId) (f : QuadSt → QuadSt) (s : State) : (modQuad q f s).dev = s.dev := rfl
@[simp] theorem modQuad_waited (q : QuadId) (f : QuadSt → QuadSt) (s : State) : (modQuad q f s).waited = s.waited := rfl
@[simp] theorem modQuad_heldBack (q : QuadId) (f : QuadSt → QuadSt) (s : State) : (modQuad q f s).heldBack = s.heldBack := rfl
@[simp] theorem modQuad_passed (q : QuadId) (f : QuadSt → QuadSt) (s : State) : (modQuad q f s).passed = s.passed := rfl
@[simp] theorem modQuad_nfree (q : QuadId) (f : QuadSt → QuadSt) (s : State) : (modQuad q f s).nfree = s.nfree := rfl

/-! modStack -/

@[simp] theorem modStack_pending (k : StackId) (f : HbmSt → HbmSt) (s : State) : (modStack k f s).pending = s.pending := rfl
@[simp] theorem modStack_regs (k : StackId) (f : HbmSt → HbmSt) (s : State) : (modStack k f s).regs = s.regs := rfl
@[simp] theorem modStack_hdrs (k : StackId) (f : HbmSt → HbmSt) (s : State) : (modStack k f s).hdrs = s.hdrs := rfl
@[simp] theorem modStack_masters (k : StackId) (f : HbmSt → HbmSt) (s : State) : (modStack k f s).masters = s.masters := rfl
@[simp] theorem modStack_out (k : StackId) (f : HbmSt → HbmSt) (s : State) : (modStack k f s).out = s.out := rfl
@[simp] theorem modStack_items (k : StackId) (f : HbmSt → HbmSt) (s : State) : (modStack k f s).items = s.items := rfl
@[simp] theorem modStack_tiles (k : StackId) (f : HbmSt → HbmSt) (s : State) : (modStack k f s).tiles = s.tiles := rfl
@[simp] theorem modStack_quads (k : StackId) (f : HbmSt → HbmSt) (s : State) : (modStack k f s).quads = s.quads := rfl
@[simp] theorem modStack_hbm (k : StackId) (f : HbmSt → HbmSt) (s : State) : (modStack k f s).hbm = s.hbm := rfl
@[simp] theorem modStack_hbmErr (k : StackId) (f : HbmSt → HbmSt) (s : State) : (modStack k f s).hbmErr = s.hbmErr := rfl
@[simp] theorem modStack_hbmStacks (k : StackId) (f : HbmSt → HbmSt) (s : State) : (modStack k f s).hbmStacks = s.hbmStacks.set k (f s.hbmStacks[k]) := rfl
@[simp] theorem modStack_evac (k : StackId) (f : HbmSt → HbmSt) (s : State) : (modStack k f s).evac = s.evac := rfl
@[simp] theorem modStack_portXlate (k : StackId) (f : HbmSt → HbmSt) (s : State) : (modStack k f s).portXlate = s.portXlate := rfl
@[simp] theorem modStack_camXlate (k : StackId) (f : HbmSt → HbmSt) (s : State) : (modStack k f s).camXlate = s.camXlate := rfl
@[simp] theorem modStack_walkXlate (k : StackId) (f : HbmSt → HbmSt) (s : State) : (modStack k f s).walkXlate = s.walkXlate := rfl
@[simp] theorem modStack_ports (k : StackId) (f : HbmSt → HbmSt) (s : State) : (modStack k f s).ports = s.ports := rfl
@[simp] theorem modStack_fabQs (k : StackId) (f : HbmSt → HbmSt) (s : State) : (modStack k f s).fabQs = s.fabQs := rfl
@[simp] theorem modStack_teleQs (k : StackId) (f : HbmSt → HbmSt) (s : State) : (modStack k f s).teleQs = s.teleQs := rfl
@[simp] theorem modStack_fabReqs (k : StackId) (f : HbmSt → HbmSt) (s : State) : (modStack k f s).fabReqs = s.fabReqs := rfl
@[simp] theorem modStack_fabEpochs (k : StackId) (f : HbmSt → HbmSt) (s : State) : (modStack k f s).fabEpochs = s.fabEpochs := rfl
@[simp] theorem modStack_cams (k : StackId) (f : HbmSt → HbmSt) (s : State) : (modStack k f s).cams = s.cams := rfl
@[simp] theorem modStack_pwr (k : StackId) (f : HbmSt → HbmSt) (s : State) : (modStack k f s).pwr = s.pwr := rfl
@[simp] theorem modStack_mtr (k : StackId) (f : HbmSt → HbmSt) (s : State) : (modStack k f s).mtr = s.mtr := rfl
@[simp] theorem modStack_flt (k : StackId) (f : HbmSt → HbmSt) (s : State) : (modStack k f s).flt = s.flt := rfl
@[simp] theorem modStack_rot (k : StackId) (f : HbmSt → HbmSt) (s : State) : (modStack k f s).rot = s.rot := rfl
@[simp] theorem modStack_dev (k : StackId) (f : HbmSt → HbmSt) (s : State) : (modStack k f s).dev = s.dev := rfl
@[simp] theorem modStack_waited (k : StackId) (f : HbmSt → HbmSt) (s : State) : (modStack k f s).waited = s.waited := rfl
@[simp] theorem modStack_heldBack (k : StackId) (f : HbmSt → HbmSt) (s : State) : (modStack k f s).heldBack = s.heldBack := rfl
@[simp] theorem modStack_passed (k : StackId) (f : HbmSt → HbmSt) (s : State) : (modStack k f s).passed = s.passed := rfl
@[simp] theorem modStack_nfree (k : StackId) (f : HbmSt → HbmSt) (s : State) : (modStack k f s).nfree = s.nfree := rfl

/-! modPort -/

@[simp] theorem modPort_pending (p : PortId) (f : GwpSt → GwpSt) (s : State) : (modPort p f s).pending = s.pending := rfl
@[simp] theorem modPort_regs (p : PortId) (f : GwpSt → GwpSt) (s : State) : (modPort p f s).regs = s.regs := rfl
@[simp] theorem modPort_hdrs (p : PortId) (f : GwpSt → GwpSt) (s : State) : (modPort p f s).hdrs = s.hdrs := rfl
@[simp] theorem modPort_masters (p : PortId) (f : GwpSt → GwpSt) (s : State) : (modPort p f s).masters = s.masters := rfl
@[simp] theorem modPort_out (p : PortId) (f : GwpSt → GwpSt) (s : State) : (modPort p f s).out = s.out := rfl
@[simp] theorem modPort_items (p : PortId) (f : GwpSt → GwpSt) (s : State) : (modPort p f s).items = s.items := rfl
@[simp] theorem modPort_tiles (p : PortId) (f : GwpSt → GwpSt) (s : State) : (modPort p f s).tiles = s.tiles := rfl
@[simp] theorem modPort_quads (p : PortId) (f : GwpSt → GwpSt) (s : State) : (modPort p f s).quads = s.quads := rfl
@[simp] theorem modPort_hbm (p : PortId) (f : GwpSt → GwpSt) (s : State) : (modPort p f s).hbm = s.hbm := rfl
@[simp] theorem modPort_hbmErr (p : PortId) (f : GwpSt → GwpSt) (s : State) : (modPort p f s).hbmErr = s.hbmErr := rfl
@[simp] theorem modPort_hbmStacks (p : PortId) (f : GwpSt → GwpSt) (s : State) : (modPort p f s).hbmStacks = s.hbmStacks := rfl
@[simp] theorem modPort_evac (p : PortId) (f : GwpSt → GwpSt) (s : State) : (modPort p f s).evac = s.evac := rfl
@[simp] theorem modPort_portXlate (p : PortId) (f : GwpSt → GwpSt) (s : State) : (modPort p f s).portXlate = s.portXlate := rfl
@[simp] theorem modPort_camXlate (p : PortId) (f : GwpSt → GwpSt) (s : State) : (modPort p f s).camXlate = s.camXlate := rfl
@[simp] theorem modPort_walkXlate (p : PortId) (f : GwpSt → GwpSt) (s : State) : (modPort p f s).walkXlate = s.walkXlate := rfl
@[simp] theorem modPort_ports (p : PortId) (f : GwpSt → GwpSt) (s : State) : (modPort p f s).ports = s.ports.set p (f s.ports[p]) := rfl
@[simp] theorem modPort_fabQs (p : PortId) (f : GwpSt → GwpSt) (s : State) : (modPort p f s).fabQs = s.fabQs := rfl
@[simp] theorem modPort_teleQs (p : PortId) (f : GwpSt → GwpSt) (s : State) : (modPort p f s).teleQs = s.teleQs := rfl
@[simp] theorem modPort_fabReqs (p : PortId) (f : GwpSt → GwpSt) (s : State) : (modPort p f s).fabReqs = s.fabReqs := rfl
@[simp] theorem modPort_fabEpochs (p : PortId) (f : GwpSt → GwpSt) (s : State) : (modPort p f s).fabEpochs = s.fabEpochs := rfl
@[simp] theorem modPort_cams (p : PortId) (f : GwpSt → GwpSt) (s : State) : (modPort p f s).cams = s.cams := rfl
@[simp] theorem modPort_pwr (p : PortId) (f : GwpSt → GwpSt) (s : State) : (modPort p f s).pwr = s.pwr := rfl
@[simp] theorem modPort_mtr (p : PortId) (f : GwpSt → GwpSt) (s : State) : (modPort p f s).mtr = s.mtr := rfl
@[simp] theorem modPort_flt (p : PortId) (f : GwpSt → GwpSt) (s : State) : (modPort p f s).flt = s.flt := rfl
@[simp] theorem modPort_rot (p : PortId) (f : GwpSt → GwpSt) (s : State) : (modPort p f s).rot = s.rot := rfl
@[simp] theorem modPort_dev (p : PortId) (f : GwpSt → GwpSt) (s : State) : (modPort p f s).dev = s.dev := rfl
@[simp] theorem modPort_waited (p : PortId) (f : GwpSt → GwpSt) (s : State) : (modPort p f s).waited = s.waited := rfl
@[simp] theorem modPort_heldBack (p : PortId) (f : GwpSt → GwpSt) (s : State) : (modPort p f s).heldBack = s.heldBack := rfl
@[simp] theorem modPort_passed (p : PortId) (f : GwpSt → GwpSt) (s : State) : (modPort p f s).passed = s.passed := rfl
@[simp] theorem modPort_nfree (p : PortId) (f : GwpSt → GwpSt) (s : State) : (modPort p f s).nfree = s.nfree := rfl

/-! modCam -/

@[simp] theorem modCam_pending (h : HostId) (f : CamSt → CamSt) (s : State) : (modCam h f s).pending = s.pending := rfl
@[simp] theorem modCam_regs (h : HostId) (f : CamSt → CamSt) (s : State) : (modCam h f s).regs = s.regs := rfl
@[simp] theorem modCam_hdrs (h : HostId) (f : CamSt → CamSt) (s : State) : (modCam h f s).hdrs = s.hdrs := rfl
@[simp] theorem modCam_masters (h : HostId) (f : CamSt → CamSt) (s : State) : (modCam h f s).masters = s.masters := rfl
@[simp] theorem modCam_out (h : HostId) (f : CamSt → CamSt) (s : State) : (modCam h f s).out = s.out := rfl
@[simp] theorem modCam_items (h : HostId) (f : CamSt → CamSt) (s : State) : (modCam h f s).items = s.items := rfl
@[simp] theorem modCam_tiles (h : HostId) (f : CamSt → CamSt) (s : State) : (modCam h f s).tiles = s.tiles := rfl
@[simp] theorem modCam_quads (h : HostId) (f : CamSt → CamSt) (s : State) : (modCam h f s).quads = s.quads := rfl
@[simp] theorem modCam_hbm (h : HostId) (f : CamSt → CamSt) (s : State) : (modCam h f s).hbm = s.hbm := rfl
@[simp] theorem modCam_hbmErr (h : HostId) (f : CamSt → CamSt) (s : State) : (modCam h f s).hbmErr = s.hbmErr := rfl
@[simp] theorem modCam_hbmStacks (h : HostId) (f : CamSt → CamSt) (s : State) : (modCam h f s).hbmStacks = s.hbmStacks := rfl
@[simp] theorem modCam_evac (h : HostId) (f : CamSt → CamSt) (s : State) : (modCam h f s).evac = s.evac := rfl
@[simp] theorem modCam_portXlate (h : HostId) (f : CamSt → CamSt) (s : State) : (modCam h f s).portXlate = s.portXlate := rfl
@[simp] theorem modCam_camXlate (h : HostId) (f : CamSt → CamSt) (s : State) : (modCam h f s).camXlate = s.camXlate := rfl
@[simp] theorem modCam_walkXlate (h : HostId) (f : CamSt → CamSt) (s : State) : (modCam h f s).walkXlate = s.walkXlate := rfl
@[simp] theorem modCam_ports (h : HostId) (f : CamSt → CamSt) (s : State) : (modCam h f s).ports = s.ports := rfl
@[simp] theorem modCam_fabQs (h : HostId) (f : CamSt → CamSt) (s : State) : (modCam h f s).fabQs = s.fabQs := rfl
@[simp] theorem modCam_teleQs (h : HostId) (f : CamSt → CamSt) (s : State) : (modCam h f s).teleQs = s.teleQs := rfl
@[simp] theorem modCam_fabReqs (h : HostId) (f : CamSt → CamSt) (s : State) : (modCam h f s).fabReqs = s.fabReqs := rfl
@[simp] theorem modCam_fabEpochs (h : HostId) (f : CamSt → CamSt) (s : State) : (modCam h f s).fabEpochs = s.fabEpochs := rfl
@[simp] theorem modCam_cams (h : HostId) (f : CamSt → CamSt) (s : State) : (modCam h f s).cams = s.cams.set h (f s.cams[h]) := rfl
@[simp] theorem modCam_pwr (h : HostId) (f : CamSt → CamSt) (s : State) : (modCam h f s).pwr = s.pwr := rfl
@[simp] theorem modCam_mtr (h : HostId) (f : CamSt → CamSt) (s : State) : (modCam h f s).mtr = s.mtr := rfl
@[simp] theorem modCam_flt (h : HostId) (f : CamSt → CamSt) (s : State) : (modCam h f s).flt = s.flt := rfl
@[simp] theorem modCam_rot (h : HostId) (f : CamSt → CamSt) (s : State) : (modCam h f s).rot = s.rot := rfl
@[simp] theorem modCam_dev (h : HostId) (f : CamSt → CamSt) (s : State) : (modCam h f s).dev = s.dev := rfl
@[simp] theorem modCam_waited (h : HostId) (f : CamSt → CamSt) (s : State) : (modCam h f s).waited = s.waited := rfl
@[simp] theorem modCam_heldBack (h : HostId) (f : CamSt → CamSt) (s : State) : (modCam h f s).heldBack = s.heldBack := rfl
@[simp] theorem modCam_passed (h : HostId) (f : CamSt → CamSt) (s : State) : (modCam h f s).passed = s.passed := rfl
@[simp] theorem modCam_nfree (h : HostId) (f : CamSt → CamSt) (s : State) : (modCam h f s).nfree = s.nfree := rfl

/-! modFlt -/

@[simp] theorem modFlt_pending (f : FltSt → FltSt) (s : State) : (modFlt f s).pending = s.pending := rfl
@[simp] theorem modFlt_regs (f : FltSt → FltSt) (s : State) : (modFlt f s).regs = s.regs := rfl
@[simp] theorem modFlt_hdrs (f : FltSt → FltSt) (s : State) : (modFlt f s).hdrs = s.hdrs := rfl
@[simp] theorem modFlt_masters (f : FltSt → FltSt) (s : State) : (modFlt f s).masters = s.masters := rfl
@[simp] theorem modFlt_out (f : FltSt → FltSt) (s : State) : (modFlt f s).out = s.out := rfl
@[simp] theorem modFlt_items (f : FltSt → FltSt) (s : State) : (modFlt f s).items = s.items := rfl
@[simp] theorem modFlt_tiles (f : FltSt → FltSt) (s : State) : (modFlt f s).tiles = s.tiles := rfl
@[simp] theorem modFlt_quads (f : FltSt → FltSt) (s : State) : (modFlt f s).quads = s.quads := rfl
@[simp] theorem modFlt_hbm (f : FltSt → FltSt) (s : State) : (modFlt f s).hbm = s.hbm := rfl
@[simp] theorem modFlt_hbmErr (f : FltSt → FltSt) (s : State) : (modFlt f s).hbmErr = s.hbmErr := rfl
@[simp] theorem modFlt_hbmStacks (f : FltSt → FltSt) (s : State) : (modFlt f s).hbmStacks = s.hbmStacks := rfl
@[simp] theorem modFlt_evac (f : FltSt → FltSt) (s : State) : (modFlt f s).evac = s.evac := rfl
@[simp] theorem modFlt_portXlate (f : FltSt → FltSt) (s : State) : (modFlt f s).portXlate = s.portXlate := rfl
@[simp] theorem modFlt_camXlate (f : FltSt → FltSt) (s : State) : (modFlt f s).camXlate = s.camXlate := rfl
@[simp] theorem modFlt_walkXlate (f : FltSt → FltSt) (s : State) : (modFlt f s).walkXlate = s.walkXlate := rfl
@[simp] theorem modFlt_ports (f : FltSt → FltSt) (s : State) : (modFlt f s).ports = s.ports := rfl
@[simp] theorem modFlt_fabQs (f : FltSt → FltSt) (s : State) : (modFlt f s).fabQs = s.fabQs := rfl
@[simp] theorem modFlt_teleQs (f : FltSt → FltSt) (s : State) : (modFlt f s).teleQs = s.teleQs := rfl
@[simp] theorem modFlt_fabReqs (f : FltSt → FltSt) (s : State) : (modFlt f s).fabReqs = s.fabReqs := rfl
@[simp] theorem modFlt_fabEpochs (f : FltSt → FltSt) (s : State) : (modFlt f s).fabEpochs = s.fabEpochs := rfl
@[simp] theorem modFlt_cams (f : FltSt → FltSt) (s : State) : (modFlt f s).cams = s.cams := rfl
@[simp] theorem modFlt_pwr (f : FltSt → FltSt) (s : State) : (modFlt f s).pwr = s.pwr := rfl
@[simp] theorem modFlt_mtr (f : FltSt → FltSt) (s : State) : (modFlt f s).mtr = s.mtr := rfl
@[simp] theorem modFlt_flt (f : FltSt → FltSt) (s : State) : (modFlt f s).flt = f s.flt := rfl
@[simp] theorem modFlt_rot (f : FltSt → FltSt) (s : State) : (modFlt f s).rot = s.rot := rfl
@[simp] theorem modFlt_dev (f : FltSt → FltSt) (s : State) : (modFlt f s).dev = s.dev := rfl
@[simp] theorem modFlt_waited (f : FltSt → FltSt) (s : State) : (modFlt f s).waited = s.waited := rfl
@[simp] theorem modFlt_heldBack (f : FltSt → FltSt) (s : State) : (modFlt f s).heldBack = s.heldBack := rfl
@[simp] theorem modFlt_passed (f : FltSt → FltSt) (s : State) : (modFlt f s).passed = s.passed := rfl
@[simp] theorem modFlt_nfree (f : FltSt → FltSt) (s : State) : (modFlt f s).nfree = s.nfree := rfl

/-! modRot -/

@[simp] theorem modRot_pending (f : RotSt → RotSt) (s : State) : (modRot f s).pending = s.pending := rfl
@[simp] theorem modRot_regs (f : RotSt → RotSt) (s : State) : (modRot f s).regs = s.regs := rfl
@[simp] theorem modRot_hdrs (f : RotSt → RotSt) (s : State) : (modRot f s).hdrs = s.hdrs := rfl
@[simp] theorem modRot_masters (f : RotSt → RotSt) (s : State) : (modRot f s).masters = s.masters := rfl
@[simp] theorem modRot_out (f : RotSt → RotSt) (s : State) : (modRot f s).out = s.out := rfl
@[simp] theorem modRot_items (f : RotSt → RotSt) (s : State) : (modRot f s).items = s.items := rfl
@[simp] theorem modRot_tiles (f : RotSt → RotSt) (s : State) : (modRot f s).tiles = s.tiles := rfl
@[simp] theorem modRot_quads (f : RotSt → RotSt) (s : State) : (modRot f s).quads = s.quads := rfl
@[simp] theorem modRot_hbm (f : RotSt → RotSt) (s : State) : (modRot f s).hbm = s.hbm := rfl
@[simp] theorem modRot_hbmErr (f : RotSt → RotSt) (s : State) : (modRot f s).hbmErr = s.hbmErr := rfl
@[simp] theorem modRot_hbmStacks (f : RotSt → RotSt) (s : State) : (modRot f s).hbmStacks = s.hbmStacks := rfl
@[simp] theorem modRot_evac (f : RotSt → RotSt) (s : State) : (modRot f s).evac = s.evac := rfl
@[simp] theorem modRot_portXlate (f : RotSt → RotSt) (s : State) : (modRot f s).portXlate = s.portXlate := rfl
@[simp] theorem modRot_camXlate (f : RotSt → RotSt) (s : State) : (modRot f s).camXlate = s.camXlate := rfl
@[simp] theorem modRot_walkXlate (f : RotSt → RotSt) (s : State) : (modRot f s).walkXlate = s.walkXlate := rfl
@[simp] theorem modRot_ports (f : RotSt → RotSt) (s : State) : (modRot f s).ports = s.ports := rfl
@[simp] theorem modRot_fabQs (f : RotSt → RotSt) (s : State) : (modRot f s).fabQs = s.fabQs := rfl
@[simp] theorem modRot_teleQs (f : RotSt → RotSt) (s : State) : (modRot f s).teleQs = s.teleQs := rfl
@[simp] theorem modRot_fabReqs (f : RotSt → RotSt) (s : State) : (modRot f s).fabReqs = s.fabReqs := rfl
@[simp] theorem modRot_fabEpochs (f : RotSt → RotSt) (s : State) : (modRot f s).fabEpochs = s.fabEpochs := rfl
@[simp] theorem modRot_cams (f : RotSt → RotSt) (s : State) : (modRot f s).cams = s.cams := rfl
@[simp] theorem modRot_pwr (f : RotSt → RotSt) (s : State) : (modRot f s).pwr = s.pwr := rfl
@[simp] theorem modRot_mtr (f : RotSt → RotSt) (s : State) : (modRot f s).mtr = s.mtr := rfl
@[simp] theorem modRot_flt (f : RotSt → RotSt) (s : State) : (modRot f s).flt = s.flt := rfl
@[simp] theorem modRot_rot (f : RotSt → RotSt) (s : State) : (modRot f s).rot = f s.rot := rfl
@[simp] theorem modRot_dev (f : RotSt → RotSt) (s : State) : (modRot f s).dev = s.dev := rfl
@[simp] theorem modRot_waited (f : RotSt → RotSt) (s : State) : (modRot f s).waited = s.waited := rfl
@[simp] theorem modRot_heldBack (f : RotSt → RotSt) (s : State) : (modRot f s).heldBack = s.heldBack := rfl
@[simp] theorem modRot_passed (f : RotSt → RotSt) (s : State) : (modRot f s).passed = s.passed := rfl
@[simp] theorem modRot_nfree (f : RotSt → RotSt) (s : State) : (modRot f s).nfree = s.nfree := rfl

/-! modDev -/

@[simp] theorem modDev_pending (f : DevSt → DevSt) (s : State) : (modDev f s).pending = s.pending := rfl
@[simp] theorem modDev_regs (f : DevSt → DevSt) (s : State) : (modDev f s).regs = s.regs := rfl
@[simp] theorem modDev_hdrs (f : DevSt → DevSt) (s : State) : (modDev f s).hdrs = s.hdrs := rfl
@[simp] theorem modDev_masters (f : DevSt → DevSt) (s : State) : (modDev f s).masters = s.masters := rfl
@[simp] theorem modDev_out (f : DevSt → DevSt) (s : State) : (modDev f s).out = s.out := rfl
@[simp] theorem modDev_items (f : DevSt → DevSt) (s : State) : (modDev f s).items = s.items := rfl
@[simp] theorem modDev_tiles (f : DevSt → DevSt) (s : State) : (modDev f s).tiles = s.tiles := rfl
@[simp] theorem modDev_quads (f : DevSt → DevSt) (s : State) : (modDev f s).quads = s.quads := rfl
@[simp] theorem modDev_hbm (f : DevSt → DevSt) (s : State) : (modDev f s).hbm = s.hbm := rfl
@[simp] theorem modDev_hbmErr (f : DevSt → DevSt) (s : State) : (modDev f s).hbmErr = s.hbmErr := rfl
@[simp] theorem modDev_hbmStacks (f : DevSt → DevSt) (s : State) : (modDev f s).hbmStacks = s.hbmStacks := rfl
@[simp] theorem modDev_evac (f : DevSt → DevSt) (s : State) : (modDev f s).evac = s.evac := rfl
@[simp] theorem modDev_portXlate (f : DevSt → DevSt) (s : State) : (modDev f s).portXlate = s.portXlate := rfl
@[simp] theorem modDev_camXlate (f : DevSt → DevSt) (s : State) : (modDev f s).camXlate = s.camXlate := rfl
@[simp] theorem modDev_walkXlate (f : DevSt → DevSt) (s : State) : (modDev f s).walkXlate = s.walkXlate := rfl
@[simp] theorem modDev_ports (f : DevSt → DevSt) (s : State) : (modDev f s).ports = s.ports := rfl
@[simp] theorem modDev_fabQs (f : DevSt → DevSt) (s : State) : (modDev f s).fabQs = s.fabQs := rfl
@[simp] theorem modDev_teleQs (f : DevSt → DevSt) (s : State) : (modDev f s).teleQs = s.teleQs := rfl
@[simp] theorem modDev_fabReqs (f : DevSt → DevSt) (s : State) : (modDev f s).fabReqs = s.fabReqs := rfl
@[simp] theorem modDev_fabEpochs (f : DevSt → DevSt) (s : State) : (modDev f s).fabEpochs = s.fabEpochs := rfl
@[simp] theorem modDev_cams (f : DevSt → DevSt) (s : State) : (modDev f s).cams = s.cams := rfl
@[simp] theorem modDev_pwr (f : DevSt → DevSt) (s : State) : (modDev f s).pwr = s.pwr := rfl
@[simp] theorem modDev_mtr (f : DevSt → DevSt) (s : State) : (modDev f s).mtr = s.mtr := rfl
@[simp] theorem modDev_flt (f : DevSt → DevSt) (s : State) : (modDev f s).flt = s.flt := rfl
@[simp] theorem modDev_rot (f : DevSt → DevSt) (s : State) : (modDev f s).rot = s.rot := rfl
@[simp] theorem modDev_dev (f : DevSt → DevSt) (s : State) : (modDev f s).dev = f s.dev := rfl
@[simp] theorem modDev_waited (f : DevSt → DevSt) (s : State) : (modDev f s).waited = s.waited := rfl
@[simp] theorem modDev_heldBack (f : DevSt → DevSt) (s : State) : (modDev f s).heldBack = s.heldBack := rfl
@[simp] theorem modDev_passed (f : DevSt → DevSt) (s : State) : (modDev f s).passed = s.passed := rfl
@[simp] theorem modDev_nfree (f : DevSt → DevSt) (s : State) : (modDev f s).nfree = s.nfree := rfl

/-! modPwr -/

@[simp] theorem modPwr_pending (f : PwrSt → PwrSt) (s : State) : (modPwr f s).pending = s.pending := rfl
@[simp] theorem modPwr_regs (f : PwrSt → PwrSt) (s : State) : (modPwr f s).regs = s.regs := rfl
@[simp] theorem modPwr_hdrs (f : PwrSt → PwrSt) (s : State) : (modPwr f s).hdrs = s.hdrs := rfl
@[simp] theorem modPwr_masters (f : PwrSt → PwrSt) (s : State) : (modPwr f s).masters = s.masters := rfl
@[simp] theorem modPwr_out (f : PwrSt → PwrSt) (s : State) : (modPwr f s).out = s.out := rfl
@[simp] theorem modPwr_items (f : PwrSt → PwrSt) (s : State) : (modPwr f s).items = s.items := rfl
@[simp] theorem modPwr_tiles (f : PwrSt → PwrSt) (s : State) : (modPwr f s).tiles = s.tiles := rfl
@[simp] theorem modPwr_quads (f : PwrSt → PwrSt) (s : State) : (modPwr f s).quads = s.quads := rfl
@[simp] theorem modPwr_hbm (f : PwrSt → PwrSt) (s : State) : (modPwr f s).hbm = s.hbm := rfl
@[simp] theorem modPwr_hbmErr (f : PwrSt → PwrSt) (s : State) : (modPwr f s).hbmErr = s.hbmErr := rfl
@[simp] theorem modPwr_hbmStacks (f : PwrSt → PwrSt) (s : State) : (modPwr f s).hbmStacks = s.hbmStacks := rfl
@[simp] theorem modPwr_evac (f : PwrSt → PwrSt) (s : State) : (modPwr f s).evac = s.evac := rfl
@[simp] theorem modPwr_portXlate (f : PwrSt → PwrSt) (s : State) : (modPwr f s).portXlate = s.portXlate := rfl
@[simp] theorem modPwr_camXlate (f : PwrSt → PwrSt) (s : State) : (modPwr f s).camXlate = s.camXlate := rfl
@[simp] theorem modPwr_walkXlate (f : PwrSt → PwrSt) (s : State) : (modPwr f s).walkXlate = s.walkXlate := rfl
@[simp] theorem modPwr_ports (f : PwrSt → PwrSt) (s : State) : (modPwr f s).ports = s.ports := rfl
@[simp] theorem modPwr_fabQs (f : PwrSt → PwrSt) (s : State) : (modPwr f s).fabQs = s.fabQs := rfl
@[simp] theorem modPwr_teleQs (f : PwrSt → PwrSt) (s : State) : (modPwr f s).teleQs = s.teleQs := rfl
@[simp] theorem modPwr_fabReqs (f : PwrSt → PwrSt) (s : State) : (modPwr f s).fabReqs = s.fabReqs := rfl
@[simp] theorem modPwr_fabEpochs (f : PwrSt → PwrSt) (s : State) : (modPwr f s).fabEpochs = s.fabEpochs := rfl
@[simp] theorem modPwr_cams (f : PwrSt → PwrSt) (s : State) : (modPwr f s).cams = s.cams := rfl
@[simp] theorem modPwr_pwr (f : PwrSt → PwrSt) (s : State) : (modPwr f s).pwr = f s.pwr := rfl
@[simp] theorem modPwr_mtr (f : PwrSt → PwrSt) (s : State) : (modPwr f s).mtr = s.mtr := rfl
@[simp] theorem modPwr_flt (f : PwrSt → PwrSt) (s : State) : (modPwr f s).flt = s.flt := rfl
@[simp] theorem modPwr_rot (f : PwrSt → PwrSt) (s : State) : (modPwr f s).rot = s.rot := rfl
@[simp] theorem modPwr_dev (f : PwrSt → PwrSt) (s : State) : (modPwr f s).dev = s.dev := rfl
@[simp] theorem modPwr_waited (f : PwrSt → PwrSt) (s : State) : (modPwr f s).waited = s.waited := rfl
@[simp] theorem modPwr_heldBack (f : PwrSt → PwrSt) (s : State) : (modPwr f s).heldBack = s.heldBack := rfl
@[simp] theorem modPwr_passed (f : PwrSt → PwrSt) (s : State) : (modPwr f s).passed = s.passed := rfl
@[simp] theorem modPwr_nfree (f : PwrSt → PwrSt) (s : State) : (modPwr f s).nfree = s.nfree := rfl

/-! modMtr -/

@[simp] theorem modMtr_pending (f : MtrSt → MtrSt) (s : State) : (modMtr f s).pending = s.pending := rfl
@[simp] theorem modMtr_regs (f : MtrSt → MtrSt) (s : State) : (modMtr f s).regs = s.regs := rfl
@[simp] theorem modMtr_hdrs (f : MtrSt → MtrSt) (s : State) : (modMtr f s).hdrs = s.hdrs := rfl
@[simp] theorem modMtr_masters (f : MtrSt → MtrSt) (s : State) : (modMtr f s).masters = s.masters := rfl
@[simp] theorem modMtr_out (f : MtrSt → MtrSt) (s : State) : (modMtr f s).out = s.out := rfl
@[simp] theorem modMtr_items (f : MtrSt → MtrSt) (s : State) : (modMtr f s).items = s.items := rfl
@[simp] theorem modMtr_tiles (f : MtrSt → MtrSt) (s : State) : (modMtr f s).tiles = s.tiles := rfl
@[simp] theorem modMtr_quads (f : MtrSt → MtrSt) (s : State) : (modMtr f s).quads = s.quads := rfl
@[simp] theorem modMtr_hbm (f : MtrSt → MtrSt) (s : State) : (modMtr f s).hbm = s.hbm := rfl
@[simp] theorem modMtr_hbmErr (f : MtrSt → MtrSt) (s : State) : (modMtr f s).hbmErr = s.hbmErr := rfl
@[simp] theorem modMtr_hbmStacks (f : MtrSt → MtrSt) (s : State) : (modMtr f s).hbmStacks = s.hbmStacks := rfl
@[simp] theorem modMtr_evac (f : MtrSt → MtrSt) (s : State) : (modMtr f s).evac = s.evac := rfl
@[simp] theorem modMtr_portXlate (f : MtrSt → MtrSt) (s : State) : (modMtr f s).portXlate = s.portXlate := rfl
@[simp] theorem modMtr_camXlate (f : MtrSt → MtrSt) (s : State) : (modMtr f s).camXlate = s.camXlate := rfl
@[simp] theorem modMtr_walkXlate (f : MtrSt → MtrSt) (s : State) : (modMtr f s).walkXlate = s.walkXlate := rfl
@[simp] theorem modMtr_ports (f : MtrSt → MtrSt) (s : State) : (modMtr f s).ports = s.ports := rfl
@[simp] theorem modMtr_fabQs (f : MtrSt → MtrSt) (s : State) : (modMtr f s).fabQs = s.fabQs := rfl
@[simp] theorem modMtr_teleQs (f : MtrSt → MtrSt) (s : State) : (modMtr f s).teleQs = s.teleQs := rfl
@[simp] theorem modMtr_fabReqs (f : MtrSt → MtrSt) (s : State) : (modMtr f s).fabReqs = s.fabReqs := rfl
@[simp] theorem modMtr_fabEpochs (f : MtrSt → MtrSt) (s : State) : (modMtr f s).fabEpochs = s.fabEpochs := rfl
@[simp] theorem modMtr_cams (f : MtrSt → MtrSt) (s : State) : (modMtr f s).cams = s.cams := rfl
@[simp] theorem modMtr_pwr (f : MtrSt → MtrSt) (s : State) : (modMtr f s).pwr = s.pwr := rfl
@[simp] theorem modMtr_mtr (f : MtrSt → MtrSt) (s : State) : (modMtr f s).mtr = f s.mtr := rfl
@[simp] theorem modMtr_flt (f : MtrSt → MtrSt) (s : State) : (modMtr f s).flt = s.flt := rfl
@[simp] theorem modMtr_rot (f : MtrSt → MtrSt) (s : State) : (modMtr f s).rot = s.rot := rfl
@[simp] theorem modMtr_dev (f : MtrSt → MtrSt) (s : State) : (modMtr f s).dev = s.dev := rfl
@[simp] theorem modMtr_waited (f : MtrSt → MtrSt) (s : State) : (modMtr f s).waited = s.waited := rfl
@[simp] theorem modMtr_heldBack (f : MtrSt → MtrSt) (s : State) : (modMtr f s).heldBack = s.heldBack := rfl
@[simp] theorem modMtr_passed (f : MtrSt → MtrSt) (s : State) : (modMtr f s).passed = s.passed := rfl
@[simp] theorem modMtr_nfree (f : MtrSt → MtrSt) (s : State) : (modMtr f s).nfree = s.nfree := rfl

/-! modMaster -/

@[simp] theorem modMaster_pending (m : Fin 3) (f : MasterSt → MasterSt) (s : State) : (modMaster m f s).pending = s.pending := rfl
@[simp] theorem modMaster_regs (m : Fin 3) (f : MasterSt → MasterSt) (s : State) : (modMaster m f s).regs = s.regs := rfl
@[simp] theorem modMaster_hdrs (m : Fin 3) (f : MasterSt → MasterSt) (s : State) : (modMaster m f s).hdrs = s.hdrs := rfl
@[simp] theorem modMaster_masters (m : Fin 3) (f : MasterSt → MasterSt) (s : State) : (modMaster m f s).masters = s.masters.set m (f s.masters[m]) := rfl
@[simp] theorem modMaster_out (m : Fin 3) (f : MasterSt → MasterSt) (s : State) : (modMaster m f s).out = s.out := rfl
@[simp] theorem modMaster_items (m : Fin 3) (f : MasterSt → MasterSt) (s : State) : (modMaster m f s).items = s.items := rfl
@[simp] theorem modMaster_tiles (m : Fin 3) (f : MasterSt → MasterSt) (s : State) : (modMaster m f s).tiles = s.tiles := rfl
@[simp] theorem modMaster_quads (m : Fin 3) (f : MasterSt → MasterSt) (s : State) : (modMaster m f s).quads = s.quads := rfl
@[simp] theorem modMaster_hbm (m : Fin 3) (f : MasterSt → MasterSt) (s : State) : (modMaster m f s).hbm = s.hbm := rfl
@[simp] theorem modMaster_hbmErr (m : Fin 3) (f : MasterSt → MasterSt) (s : State) : (modMaster m f s).hbmErr = s.hbmErr := rfl
@[simp] theorem modMaster_hbmStacks (m : Fin 3) (f : MasterSt → MasterSt) (s : State) : (modMaster m f s).hbmStacks = s.hbmStacks := rfl
@[simp] theorem modMaster_evac (m : Fin 3) (f : MasterSt → MasterSt) (s : State) : (modMaster m f s).evac = s.evac := rfl
@[simp] theorem modMaster_portXlate (m : Fin 3) (f : MasterSt → MasterSt) (s : State) : (modMaster m f s).portXlate = s.portXlate := rfl
@[simp] theorem modMaster_camXlate (m : Fin 3) (f : MasterSt → MasterSt) (s : State) : (modMaster m f s).camXlate = s.camXlate := rfl
@[simp] theorem modMaster_walkXlate (m : Fin 3) (f : MasterSt → MasterSt) (s : State) : (modMaster m f s).walkXlate = s.walkXlate := rfl
@[simp] theorem modMaster_ports (m : Fin 3) (f : MasterSt → MasterSt) (s : State) : (modMaster m f s).ports = s.ports := rfl
@[simp] theorem modMaster_fabQs (m : Fin 3) (f : MasterSt → MasterSt) (s : State) : (modMaster m f s).fabQs = s.fabQs := rfl
@[simp] theorem modMaster_teleQs (m : Fin 3) (f : MasterSt → MasterSt) (s : State) : (modMaster m f s).teleQs = s.teleQs := rfl
@[simp] theorem modMaster_fabReqs (m : Fin 3) (f : MasterSt → MasterSt) (s : State) : (modMaster m f s).fabReqs = s.fabReqs := rfl
@[simp] theorem modMaster_fabEpochs (m : Fin 3) (f : MasterSt → MasterSt) (s : State) : (modMaster m f s).fabEpochs = s.fabEpochs := rfl
@[simp] theorem modMaster_cams (m : Fin 3) (f : MasterSt → MasterSt) (s : State) : (modMaster m f s).cams = s.cams := rfl
@[simp] theorem modMaster_pwr (m : Fin 3) (f : MasterSt → MasterSt) (s : State) : (modMaster m f s).pwr = s.pwr := rfl
@[simp] theorem modMaster_mtr (m : Fin 3) (f : MasterSt → MasterSt) (s : State) : (modMaster m f s).mtr = s.mtr := rfl
@[simp] theorem modMaster_flt (m : Fin 3) (f : MasterSt → MasterSt) (s : State) : (modMaster m f s).flt = s.flt := rfl
@[simp] theorem modMaster_rot (m : Fin 3) (f : MasterSt → MasterSt) (s : State) : (modMaster m f s).rot = s.rot := rfl
@[simp] theorem modMaster_dev (m : Fin 3) (f : MasterSt → MasterSt) (s : State) : (modMaster m f s).dev = s.dev := rfl
@[simp] theorem modMaster_waited (m : Fin 3) (f : MasterSt → MasterSt) (s : State) : (modMaster m f s).waited = s.waited := rfl
@[simp] theorem modMaster_heldBack (m : Fin 3) (f : MasterSt → MasterSt) (s : State) : (modMaster m f s).heldBack = s.heldBack := rfl
@[simp] theorem modMaster_passed (m : Fin 3) (f : MasterSt → MasterSt) (s : State) : (modMaster m f s).passed = s.passed := rfl
@[simp] theorem modMaster_nfree (m : Fin 3) (f : MasterSt → MasterSt) (s : State) : (modMaster m f s).nfree = s.nfree := rfl

/-! setRegAt -/

@[simp] theorem setRegAt_pending (a v : Nat) (s : State) : (setRegAt a v s).pending = s.pending := rfl
@[simp] theorem setRegAt_regs (a v : Nat) (s : State) : (setRegAt a v s).regs = fset (fun k => BitVec.ofNat 64 (regReset k)) s.regs a (BitVec.ofNat 64 v) := rfl
@[simp] theorem setRegAt_hdrs (a v : Nat) (s : State) : (setRegAt a v s).hdrs = s.hdrs := rfl
@[simp] theorem setRegAt_masters (a v : Nat) (s : State) : (setRegAt a v s).masters = s.masters := rfl
@[simp] theorem setRegAt_out (a v : Nat) (s : State) : (setRegAt a v s).out = s.out := rfl
@[simp] theorem setRegAt_items (a v : Nat) (s : State) : (setRegAt a v s).items = s.items := rfl
@[simp] theorem setRegAt_tiles (a v : Nat) (s : State) : (setRegAt a v s).tiles = s.tiles := rfl
@[simp] theorem setRegAt_quads (a v : Nat) (s : State) : (setRegAt a v s).quads = s.quads := rfl
@[simp] theorem setRegAt_hbm (a v : Nat) (s : State) : (setRegAt a v s).hbm = s.hbm := rfl
@[simp] theorem setRegAt_hbmErr (a v : Nat) (s : State) : (setRegAt a v s).hbmErr = s.hbmErr := rfl
@[simp] theorem setRegAt_hbmStacks (a v : Nat) (s : State) : (setRegAt a v s).hbmStacks = s.hbmStacks := rfl
@[simp] theorem setRegAt_evac (a v : Nat) (s : State) : (setRegAt a v s).evac = s.evac := rfl
@[simp] theorem setRegAt_portXlate (a v : Nat) (s : State) : (setRegAt a v s).portXlate = s.portXlate := rfl
@[simp] theorem setRegAt_camXlate (a v : Nat) (s : State) : (setRegAt a v s).camXlate = s.camXlate := rfl
@[simp] theorem setRegAt_walkXlate (a v : Nat) (s : State) : (setRegAt a v s).walkXlate = s.walkXlate := rfl
@[simp] theorem setRegAt_ports (a v : Nat) (s : State) : (setRegAt a v s).ports = s.ports := rfl
@[simp] theorem setRegAt_fabQs (a v : Nat) (s : State) : (setRegAt a v s).fabQs = s.fabQs := rfl
@[simp] theorem setRegAt_teleQs (a v : Nat) (s : State) : (setRegAt a v s).teleQs = s.teleQs := rfl
@[simp] theorem setRegAt_fabReqs (a v : Nat) (s : State) : (setRegAt a v s).fabReqs = s.fabReqs := rfl
@[simp] theorem setRegAt_fabEpochs (a v : Nat) (s : State) : (setRegAt a v s).fabEpochs = s.fabEpochs := rfl
@[simp] theorem setRegAt_cams (a v : Nat) (s : State) : (setRegAt a v s).cams = s.cams := rfl
@[simp] theorem setRegAt_pwr (a v : Nat) (s : State) : (setRegAt a v s).pwr = s.pwr := rfl
@[simp] theorem setRegAt_mtr (a v : Nat) (s : State) : (setRegAt a v s).mtr = s.mtr := rfl
@[simp] theorem setRegAt_flt (a v : Nat) (s : State) : (setRegAt a v s).flt = s.flt := rfl
@[simp] theorem setRegAt_rot (a v : Nat) (s : State) : (setRegAt a v s).rot = s.rot := rfl
@[simp] theorem setRegAt_dev (a v : Nat) (s : State) : (setRegAt a v s).dev = s.dev := rfl
@[simp] theorem setRegAt_waited (a v : Nat) (s : State) : (setRegAt a v s).waited = s.waited := rfl
@[simp] theorem setRegAt_heldBack (a v : Nat) (s : State) : (setRegAt a v s).heldBack = s.heldBack := rfl
@[simp] theorem setRegAt_passed (a v : Nat) (s : State) : (setRegAt a v s).passed = s.passed := rfl
@[simp] theorem setRegAt_nfree (a v : Nat) (s : State) : (setRegAt a v s).nfree = s.nfree := rfl

/-! modHdr -/

@[simp] theorem modHdr_pending (b : Block) (f : Hdr → Hdr) (s : State) : (modHdr b f s).pending = s.pending := rfl
@[simp] theorem modHdr_regs (b : Block) (f : Hdr → Hdr) (s : State) : (modHdr b f s).regs = s.regs := rfl
@[simp] theorem modHdr_hdrs (b : Block) (f : Hdr → Hdr) (s : State) : (modHdr b f s).hdrs = fset (fun _ => hdrReset) s.hdrs (blockId b) (f (hdr s b)) := rfl
@[simp] theorem modHdr_masters (b : Block) (f : Hdr → Hdr) (s : State) : (modHdr b f s).masters = s.masters := rfl
@[simp] theorem modHdr_out (b : Block) (f : Hdr → Hdr) (s : State) : (modHdr b f s).out = s.out := rfl
@[simp] theorem modHdr_items (b : Block) (f : Hdr → Hdr) (s : State) : (modHdr b f s).items = s.items := rfl
@[simp] theorem modHdr_tiles (b : Block) (f : Hdr → Hdr) (s : State) : (modHdr b f s).tiles = s.tiles := rfl
@[simp] theorem modHdr_quads (b : Block) (f : Hdr → Hdr) (s : State) : (modHdr b f s).quads = s.quads := rfl
@[simp] theorem modHdr_hbm (b : Block) (f : Hdr → Hdr) (s : State) : (modHdr b f s).hbm = s.hbm := rfl
@[simp] theorem modHdr_hbmErr (b : Block) (f : Hdr → Hdr) (s : State) : (modHdr b f s).hbmErr = s.hbmErr := rfl
@[simp] theorem modHdr_hbmStacks (b : Block) (f : Hdr → Hdr) (s : State) : (modHdr b f s).hbmStacks = s.hbmStacks := rfl
@[simp] theorem modHdr_evac (b : Block) (f : Hdr → Hdr) (s : State) : (modHdr b f s).evac = s.evac := rfl
@[simp] theorem modHdr_portXlate (b : Block) (f : Hdr → Hdr) (s : State) : (modHdr b f s).portXlate = s.portXlate := rfl
@[simp] theorem modHdr_camXlate (b : Block) (f : Hdr → Hdr) (s : State) : (modHdr b f s).camXlate = s.camXlate := rfl
@[simp] theorem modHdr_walkXlate (b : Block) (f : Hdr → Hdr) (s : State) : (modHdr b f s).walkXlate = s.walkXlate := rfl
@[simp] theorem modHdr_ports (b : Block) (f : Hdr → Hdr) (s : State) : (modHdr b f s).ports = s.ports := rfl
@[simp] theorem modHdr_fabQs (b : Block) (f : Hdr → Hdr) (s : State) : (modHdr b f s).fabQs = s.fabQs := rfl
@[simp] theorem modHdr_teleQs (b : Block) (f : Hdr → Hdr) (s : State) : (modHdr b f s).teleQs = s.teleQs := rfl
@[simp] theorem modHdr_fabReqs (b : Block) (f : Hdr → Hdr) (s : State) : (modHdr b f s).fabReqs = s.fabReqs := rfl
@[simp] theorem modHdr_fabEpochs (b : Block) (f : Hdr → Hdr) (s : State) : (modHdr b f s).fabEpochs = s.fabEpochs := rfl
@[simp] theorem modHdr_cams (b : Block) (f : Hdr → Hdr) (s : State) : (modHdr b f s).cams = s.cams := rfl
@[simp] theorem modHdr_pwr (b : Block) (f : Hdr → Hdr) (s : State) : (modHdr b f s).pwr = s.pwr := rfl
@[simp] theorem modHdr_mtr (b : Block) (f : Hdr → Hdr) (s : State) : (modHdr b f s).mtr = s.mtr := rfl
@[simp] theorem modHdr_flt (b : Block) (f : Hdr → Hdr) (s : State) : (modHdr b f s).flt = s.flt := rfl
@[simp] theorem modHdr_rot (b : Block) (f : Hdr → Hdr) (s : State) : (modHdr b f s).rot = s.rot := rfl
@[simp] theorem modHdr_dev (b : Block) (f : Hdr → Hdr) (s : State) : (modHdr b f s).dev = s.dev := rfl
@[simp] theorem modHdr_waited (b : Block) (f : Hdr → Hdr) (s : State) : (modHdr b f s).waited = s.waited := rfl
@[simp] theorem modHdr_heldBack (b : Block) (f : Hdr → Hdr) (s : State) : (modHdr b f s).heldBack = s.heldBack := rfl
@[simp] theorem modHdr_passed (b : Block) (f : Hdr → Hdr) (s : State) : (modHdr b f s).passed = s.passed := rfl
@[simp] theorem modHdr_nfree (b : Block) (f : Hdr → Hdr) (s : State) : (modHdr b f s).nfree = s.nfree := rfl

/-! modItem -/

@[simp] theorem modItem_pending (k : ItemKey) (f : Item → Item) (s : State) : (modItem k f s).pending = s.pending := rfl
@[simp] theorem modItem_regs (k : ItemKey) (f : Item → Item) (s : State) : (modItem k f s).regs = s.regs := rfl
@[simp] theorem modItem_hdrs (k : ItemKey) (f : Item → Item) (s : State) : (modItem k f s).hdrs = s.hdrs := rfl
@[simp] theorem modItem_masters (k : ItemKey) (f : Item → Item) (s : State) : (modItem k f s).masters = s.masters := rfl
@[simp] theorem modItem_out (k : ItemKey) (f : Item → Item) (s : State) : (modItem k f s).out = s.out := rfl
@[simp] theorem modItem_items (k : ItemKey) (f : Item → Item) (s : State) : (modItem k f s).items = s.items.map (fun i => if i.key = k then f i else i) := rfl
@[simp] theorem modItem_tiles (k : ItemKey) (f : Item → Item) (s : State) : (modItem k f s).tiles = s.tiles := rfl
@[simp] theorem modItem_quads (k : ItemKey) (f : Item → Item) (s : State) : (modItem k f s).quads = s.quads := rfl
@[simp] theorem modItem_hbm (k : ItemKey) (f : Item → Item) (s : State) : (modItem k f s).hbm = s.hbm := rfl
@[simp] theorem modItem_hbmErr (k : ItemKey) (f : Item → Item) (s : State) : (modItem k f s).hbmErr = s.hbmErr := rfl
@[simp] theorem modItem_hbmStacks (k : ItemKey) (f : Item → Item) (s : State) : (modItem k f s).hbmStacks = s.hbmStacks := rfl
@[simp] theorem modItem_evac (k : ItemKey) (f : Item → Item) (s : State) : (modItem k f s).evac = s.evac := rfl
@[simp] theorem modItem_portXlate (k : ItemKey) (f : Item → Item) (s : State) : (modItem k f s).portXlate = s.portXlate := rfl
@[simp] theorem modItem_camXlate (k : ItemKey) (f : Item → Item) (s : State) : (modItem k f s).camXlate = s.camXlate := rfl
@[simp] theorem modItem_walkXlate (k : ItemKey) (f : Item → Item) (s : State) : (modItem k f s).walkXlate = s.walkXlate := rfl
@[simp] theorem modItem_ports (k : ItemKey) (f : Item → Item) (s : State) : (modItem k f s).ports = s.ports := rfl
@[simp] theorem modItem_fabQs (k : ItemKey) (f : Item → Item) (s : State) : (modItem k f s).fabQs = s.fabQs := rfl
@[simp] theorem modItem_teleQs (k : ItemKey) (f : Item → Item) (s : State) : (modItem k f s).teleQs = s.teleQs := rfl
@[simp] theorem modItem_fabReqs (k : ItemKey) (f : Item → Item) (s : State) : (modItem k f s).fabReqs = s.fabReqs := rfl
@[simp] theorem modItem_fabEpochs (k : ItemKey) (f : Item → Item) (s : State) : (modItem k f s).fabEpochs = s.fabEpochs := rfl
@[simp] theorem modItem_cams (k : ItemKey) (f : Item → Item) (s : State) : (modItem k f s).cams = s.cams := rfl
@[simp] theorem modItem_pwr (k : ItemKey) (f : Item → Item) (s : State) : (modItem k f s).pwr = s.pwr := rfl
@[simp] theorem modItem_mtr (k : ItemKey) (f : Item → Item) (s : State) : (modItem k f s).mtr = s.mtr := rfl
@[simp] theorem modItem_flt (k : ItemKey) (f : Item → Item) (s : State) : (modItem k f s).flt = s.flt := rfl
@[simp] theorem modItem_rot (k : ItemKey) (f : Item → Item) (s : State) : (modItem k f s).rot = s.rot := rfl
@[simp] theorem modItem_dev (k : ItemKey) (f : Item → Item) (s : State) : (modItem k f s).dev = s.dev := rfl
@[simp] theorem modItem_waited (k : ItemKey) (f : Item → Item) (s : State) : (modItem k f s).waited = s.waited := rfl
@[simp] theorem modItem_heldBack (k : ItemKey) (f : Item → Item) (s : State) : (modItem k f s).heldBack = s.heldBack := rfl
@[simp] theorem modItem_passed (k : ItemKey) (f : Item → Item) (s : State) : (modItem k f s).passed = s.passed := rfl
@[simp] theorem modItem_nfree (k : ItemKey) (f : Item → Item) (s : State) : (modItem k f s).nfree = s.nfree := rfl

/-! clearRegs -/

@[simp] theorem clearRegs_pending (base lo hi : Nat) (s : State) : (clearRegs base lo hi s).pending = s.pending := rfl
@[simp] theorem clearRegs_regs (base lo hi : Nat) (s : State) : (clearRegs base lo hi s).regs = fclear s.regs (base + lo) (hi - lo) := rfl
@[simp] theorem clearRegs_hdrs (base lo hi : Nat) (s : State) : (clearRegs base lo hi s).hdrs = s.hdrs := rfl
@[simp] theorem clearRegs_masters (base lo hi : Nat) (s : State) : (clearRegs base lo hi s).masters = s.masters := rfl
@[simp] theorem clearRegs_out (base lo hi : Nat) (s : State) : (clearRegs base lo hi s).out = s.out := rfl
@[simp] theorem clearRegs_items (base lo hi : Nat) (s : State) : (clearRegs base lo hi s).items = s.items := rfl
@[simp] theorem clearRegs_tiles (base lo hi : Nat) (s : State) : (clearRegs base lo hi s).tiles = s.tiles := rfl
@[simp] theorem clearRegs_quads (base lo hi : Nat) (s : State) : (clearRegs base lo hi s).quads = s.quads := rfl
@[simp] theorem clearRegs_hbm (base lo hi : Nat) (s : State) : (clearRegs base lo hi s).hbm = s.hbm := rfl
@[simp] theorem clearRegs_hbmErr (base lo hi : Nat) (s : State) : (clearRegs base lo hi s).hbmErr = s.hbmErr := rfl
@[simp] theorem clearRegs_hbmStacks (base lo hi : Nat) (s : State) : (clearRegs base lo hi s).hbmStacks = s.hbmStacks := rfl
@[simp] theorem clearRegs_evac (base lo hi : Nat) (s : State) : (clearRegs base lo hi s).evac = s.evac := rfl
@[simp] theorem clearRegs_portXlate (base lo hi : Nat) (s : State) : (clearRegs base lo hi s).portXlate = s.portXlate := rfl
@[simp] theorem clearRegs_camXlate (base lo hi : Nat) (s : State) : (clearRegs base lo hi s).camXlate = s.camXlate := rfl
@[simp] theorem clearRegs_walkXlate (base lo hi : Nat) (s : State) : (clearRegs base lo hi s).walkXlate = s.walkXlate := rfl
@[simp] theorem clearRegs_ports (base lo hi : Nat) (s : State) : (clearRegs base lo hi s).ports = s.ports := rfl
@[simp] theorem clearRegs_fabQs (base lo hi : Nat) (s : State) : (clearRegs base lo hi s).fabQs = s.fabQs := rfl
@[simp] theorem clearRegs_teleQs (base lo hi : Nat) (s : State) : (clearRegs base lo hi s).teleQs = s.teleQs := rfl
@[simp] theorem clearRegs_fabReqs (base lo hi : Nat) (s : State) : (clearRegs base lo hi s).fabReqs = s.fabReqs := rfl
@[simp] theorem clearRegs_fabEpochs (base lo hi : Nat) (s : State) : (clearRegs base lo hi s).fabEpochs = s.fabEpochs := rfl
@[simp] theorem clearRegs_cams (base lo hi : Nat) (s : State) : (clearRegs base lo hi s).cams = s.cams := rfl
@[simp] theorem clearRegs_pwr (base lo hi : Nat) (s : State) : (clearRegs base lo hi s).pwr = s.pwr := rfl
@[simp] theorem clearRegs_mtr (base lo hi : Nat) (s : State) : (clearRegs base lo hi s).mtr = s.mtr := rfl
@[simp] theorem clearRegs_flt (base lo hi : Nat) (s : State) : (clearRegs base lo hi s).flt = s.flt := rfl
@[simp] theorem clearRegs_rot (base lo hi : Nat) (s : State) : (clearRegs base lo hi s).rot = s.rot := rfl
@[simp] theorem clearRegs_dev (base lo hi : Nat) (s : State) : (clearRegs base lo hi s).dev = s.dev := rfl
@[simp] theorem clearRegs_waited (base lo hi : Nat) (s : State) : (clearRegs base lo hi s).waited = s.waited := rfl
@[simp] theorem clearRegs_heldBack (base lo hi : Nat) (s : State) : (clearRegs base lo hi s).heldBack = s.heldBack := rfl
@[simp] theorem clearRegs_passed (base lo hi : Nat) (s : State) : (clearRegs base lo hi s).passed = s.passed := rfl
@[simp] theorem clearRegs_nfree (base lo hi : Nat) (s : State) : (clearRegs base lo hi s).nfree = s.nfree := rfl

/-! noteWork -/

@[simp] theorem noteWork_pending (k : Nat) (s : State) : (noteWork k s).pending = s.pending := rfl
@[simp] theorem noteWork_regs (k : Nat) (s : State) : (noteWork k s).regs = s.regs := rfl
@[simp] theorem noteWork_hdrs (k : Nat) (s : State) : (noteWork k s).hdrs = s.hdrs := rfl
@[simp] theorem noteWork_masters (k : Nat) (s : State) : (noteWork k s).masters = s.masters := rfl
@[simp] theorem noteWork_out (k : Nat) (s : State) : (noteWork k s).out = s.out := rfl
@[simp] theorem noteWork_items (k : Nat) (s : State) : (noteWork k s).items = s.items := rfl
@[simp] theorem noteWork_tiles (k : Nat) (s : State) : (noteWork k s).tiles = s.tiles := rfl
@[simp] theorem noteWork_quads (k : Nat) (s : State) : (noteWork k s).quads = s.quads := rfl
@[simp] theorem noteWork_hbm (k : Nat) (s : State) : (noteWork k s).hbm = s.hbm := rfl
@[simp] theorem noteWork_hbmErr (k : Nat) (s : State) : (noteWork k s).hbmErr = s.hbmErr := rfl
@[simp] theorem noteWork_hbmStacks (k : Nat) (s : State) : (noteWork k s).hbmStacks = s.hbmStacks := rfl
@[simp] theorem noteWork_evac (k : Nat) (s : State) : (noteWork k s).evac = s.evac := rfl
@[simp] theorem noteWork_portXlate (k : Nat) (s : State) : (noteWork k s).portXlate = s.portXlate := rfl
@[simp] theorem noteWork_camXlate (k : Nat) (s : State) : (noteWork k s).camXlate = s.camXlate := rfl
@[simp] theorem noteWork_walkXlate (k : Nat) (s : State) : (noteWork k s).walkXlate = s.walkXlate := rfl
@[simp] theorem noteWork_ports (k : Nat) (s : State) : (noteWork k s).ports = s.ports := rfl
@[simp] theorem noteWork_fabQs (k : Nat) (s : State) : (noteWork k s).fabQs = s.fabQs := rfl
@[simp] theorem noteWork_teleQs (k : Nat) (s : State) : (noteWork k s).teleQs = s.teleQs := rfl
@[simp] theorem noteWork_fabReqs (k : Nat) (s : State) : (noteWork k s).fabReqs = s.fabReqs := rfl
@[simp] theorem noteWork_fabEpochs (k : Nat) (s : State) : (noteWork k s).fabEpochs = s.fabEpochs := rfl
@[simp] theorem noteWork_cams (k : Nat) (s : State) : (noteWork k s).cams = s.cams := rfl
@[simp] theorem noteWork_pwr (k : Nat) (s : State) : (noteWork k s).pwr = s.pwr := rfl
@[simp] theorem noteWork_mtr (k : Nat) (s : State) : (noteWork k s).mtr = s.mtr := rfl
@[simp] theorem noteWork_flt (k : Nat) (s : State) : (noteWork k s).flt = s.flt := rfl
@[simp] theorem noteWork_rot (k : Nat) (s : State) : (noteWork k s).rot = s.rot := rfl
@[simp] theorem noteWork_dev (k : Nat) (s : State) : (noteWork k s).dev = s.dev := rfl
@[simp] theorem noteWork_waited (k : Nat) (s : State) : (noteWork k s).waited = fset (fun _ => false) s.waited k true := rfl
@[simp] theorem noteWork_nfree (k : Nat) (s : State) : (noteWork k s).nfree = s.nfree := rfl

/-! takeFree -/

@[simp] theorem takeFree_fst (s : State) : (takeFree s).1 = Config.free s.nfree := rfl
@[simp] theorem takeFree_pending (s : State) : (takeFree s).2.pending = s.pending := rfl
@[simp] theorem takeFree_regs (s : State) : (takeFree s).2.regs = s.regs := rfl
@[simp] theorem takeFree_hdrs (s : State) : (takeFree s).2.hdrs = s.hdrs := rfl
@[simp] theorem takeFree_masters (s : State) : (takeFree s).2.masters = s.masters := rfl
@[simp] theorem takeFree_out (s : State) : (takeFree s).2.out = s.out := rfl
@[simp] theorem takeFree_items (s : State) : (takeFree s).2.items = s.items := rfl
@[simp] theorem takeFree_tiles (s : State) : (takeFree s).2.tiles = s.tiles := rfl
@[simp] theorem takeFree_quads (s : State) : (takeFree s).2.quads = s.quads := rfl
@[simp] theorem takeFree_hbm (s : State) : (takeFree s).2.hbm = s.hbm := rfl
@[simp] theorem takeFree_hbmErr (s : State) : (takeFree s).2.hbmErr = s.hbmErr := rfl
@[simp] theorem takeFree_hbmStacks (s : State) : (takeFree s).2.hbmStacks = s.hbmStacks := rfl
@[simp] theorem takeFree_evac (s : State) : (takeFree s).2.evac = s.evac := rfl
@[simp] theorem takeFree_portXlate (s : State) : (takeFree s).2.portXlate = s.portXlate := rfl
@[simp] theorem takeFree_camXlate (s : State) : (takeFree s).2.camXlate = s.camXlate := rfl
@[simp] theorem takeFree_walkXlate (s : State) : (takeFree s).2.walkXlate = s.walkXlate := rfl
@[simp] theorem takeFree_ports (s : State) : (takeFree s).2.ports = s.ports := rfl
@[simp] theorem takeFree_fabQs (s : State) : (takeFree s).2.fabQs = s.fabQs := rfl
@[simp] theorem takeFree_teleQs (s : State) : (takeFree s).2.teleQs = s.teleQs := rfl
@[simp] theorem takeFree_fabReqs (s : State) : (takeFree s).2.fabReqs = s.fabReqs := rfl
@[simp] theorem takeFree_fabEpochs (s : State) : (takeFree s).2.fabEpochs = s.fabEpochs := rfl
@[simp] theorem takeFree_cams (s : State) : (takeFree s).2.cams = s.cams := rfl
@[simp] theorem takeFree_pwr (s : State) : (takeFree s).2.pwr = s.pwr := rfl
@[simp] theorem takeFree_mtr (s : State) : (takeFree s).2.mtr = s.mtr := rfl
@[simp] theorem takeFree_flt (s : State) : (takeFree s).2.flt = s.flt := rfl
@[simp] theorem takeFree_rot (s : State) : (takeFree s).2.rot = s.rot := rfl
@[simp] theorem takeFree_dev (s : State) : (takeFree s).2.dev = s.dev := rfl
@[simp] theorem takeFree_waited (s : State) : (takeFree s).2.waited = s.waited := rfl
@[simp] theorem takeFree_heldBack (s : State) : (takeFree s).2.heldBack = s.heldBack := rfl
@[simp] theorem takeFree_passed (s : State) : (takeFree s).2.passed = s.passed := rfl
@[simp] theorem takeFree_nfree (s : State) : (takeFree s).2.nfree = s.nfree + 1 := rfl

end Sys2Proof.Machine
end

