-- ==== Sys2Proof/Laws/Hbm.lean ====
section
/-! SUPPORT. A demand read of main memory whose code words hold no fault changes nothing but the cache slices, their
counters and the free values taken (R333, R335): the bytes read are those that the memory held. -/

namespace Sys2Proof.Machine
open Sys2Proof

/-- No controller and no router makes a request wait, and no request to main memory is promoted (R336, R501, R503). -/
def Granted (s : State) : Prop :=
  (∀ k : StackId, s.hbmStacks[k].promoted = [] ∧ stackHeld s k = false) ∧ ∀ x : TileId, routerStops s x = false

/-- t is s but for its cache slices, registers, packets emitted, waits noted and free values, and no channel has lost data, no code word
an on-die fault or a marker of its own, in either that the other has not. Nothing waits in it where nothing makes requests wait. -/
structure SliceOnly (s t : State) : Prop where
  rest : t = { s with regs := t.regs, hdrs := t.hdrs, hbmStacks := t.hbmStacks, waited := t.waited, heldBack := t.heldBack,
                      passed := t.passed, nfree := t.nfree }
  stack : ∀ k : StackId, t.hbmStacks[k].lostChans = s.hbmStacks[k].lostChans ∧ t.hbmStacks[k].onDie = s.hbmStacks[k].onDie ∧
    t.hbmStacks[k].marked = s.hbmStacks[k].marked
  hdr : ∀ b, Machine.hdr t b = { Machine.hdr s b with sent := (Machine.hdr t b).sent }
  goes : Granted s → Granted t ∧ t.heldBack = s.heldBack ∧ t.passed = s.passed

theorem SliceOnly.refl (s : State) : SliceOnly s s :=
  ⟨rfl, fun _ => ⟨rfl, rfl, rfl⟩, fun _ => rfl, fun h => ⟨h, rfl, rfl⟩⟩

theorem SliceOnly.trans {s t u : State} (h : SliceOnly s t) (g : SliceOnly t u) : SliceOnly s u where
  rest := by rw [g.rest, h.rest]
  stack k := ⟨(g.stack k).1.trans (h.stack k).1, (g.stack k).2.1.trans (h.stack k).2.1, (g.stack k).2.2.trans (h.stack k).2.2⟩
  hdr b := by rw [g.hdr, h.hdr]
  goes c := ⟨(g.goes (h.goes c).1).1, (g.goes (h.goes c).1).2.1.trans (h.goes c).2.1,
    (g.goes (h.goes c).1).2.2.trans (h.goes c).2.2⟩

/-- A change of registers, waits noted and free values only. -/
theorem SliceOnly.of_hdrs {s t : State} (h : t = { s with regs := t.regs, waited := t.waited, nfree := t.nfree }) :
    SliceOnly s t := by
  refine ⟨by rw [h], fun k => by rw [h]; exact ⟨rfl, rfl, rfl⟩, fun b => by rw [h]; rfl, fun c => ?_⟩
  rw [h]
  exact ⟨c, rfl, rfl⟩

theorem SliceOnly.hbm {s t : State} (h : SliceOnly s t) : t.hbm = s.hbm := by rw [h.rest]
theorem SliceOnly.hbmErr {s t : State} (h : SliceOnly s t) : t.hbmErr = s.hbmErr := by rw [h.rest]
theorem SliceOnly.tiles {s t : State} (h : SliceOnly s t) : t.tiles = s.tiles := by rw [h.rest]
theorem SliceOnly.rot {s t : State} (h : SliceOnly s t) : t.rot = s.rot := by rw [h.rest]
theorem SliceOnly.flt {s t : State} (h : SliceOnly s t) : t.flt = s.flt := by rw [h.rest]
theorem SliceOnly.items {s t : State} (h : SliceOnly s t) : t.items = s.items := by rw [h.rest]
theorem SliceOnly.quads {s t : State} (h : SliceOnly s t) : t.quads = s.quads := by rw [h.rest]

theorem SliceOnly.bump (b : Block) (o n : Nat) (s : State) : SliceOnly s (bump b o n s) := .of_hdrs rfl

theorem SliceOnly.takeFree (s : State) : SliceOnly s (takeFree s).2 := .of_hdrs rfl

theorem SliceOnly.noteWork (k : Nat) (s : State) : SliceOnly s (noteWork k s) := .of_hdrs rfl

theorem SliceOnly.modStack (k : StackId) (f : HbmSt → HbmSt) (s : State)
    (h : (f s.hbmStacks[k]).lostChans = s.hbmStacks[k].lostChans ∧ (f s.hbmStacks[k]).onDie = s.hbmStacks[k].onDie ∧
      (f s.hbmStacks[k]).marked = s.hbmStacks[k].marked ∧
      (s.hbmStacks[k].promoted = [] → (f s.hbmStacks[k]).promoted = [])) :
    SliceOnly s (modStack k f s) := by
  have one : ∀ j : StackId, (Machine.modStack k f s).hbmStacks[j] = if k = j then f s.hbmStacks[k] else s.hbmStacks[j] := by
    intro j
    simp only [Machine.modStack, Fin.getElem_fin, Vector.getElem_set, Fin.ext_iff]
  refine ⟨rfl, fun j => ?_, fun _ => rfl, fun c => ⟨⟨fun j => ⟨?_, (c.1 j).2⟩, c.2⟩, rfl, rfl⟩⟩
  · rw [one]
    split
    · rename_i he
      subst he
      exact ⟨h.1, h.2.1, h.2.2.1⟩
    · exact ⟨rfl, rfl, rfl⟩
  · rw [one]
    split
    · exact h.2.2.2 (c.1 k).1
    · exact (c.1 j).1

/-- Nothing is armed for a stack, no code word is listed with a fault, and no channel has lost its data. -/
structure CleanHbm (s : State) : Prop where
  armed : s.flt.armed = []
  err : s.hbmErr = []
  stack : ∀ k : StackId, s.hbmStacks[k].lostChans = 0 ∧ s.hbmStacks[k].onDie = [] ∧ s.hbmStacks[k].marked = []

theorem CleanHbm.keep {s t : State} (h : CleanHbm s) (g : SliceOnly s t) : CleanHbm t :=
  ⟨by rw [g.flt, h.armed], by rw [g.hbmErr, h.err], fun k => ⟨(g.stack k).1.trans (h.stack k).1,
    (g.stack k).2.1.trans (h.stack k).2.1, (g.stack k).2.2.trans (h.stack k).2.2⟩⟩

theorem cwErr_clean {s : State} (h : CleanHbm s) (cw : Nat) : cwErr s cw = 0 := by
  have hl := (h.stack (stackOfPa (32 * cw))).1
  simp only [cwErr, h.err, fget, List.find?_nil, cwDefault, maskHas, hl]
  simp

theorem onDieBad_clean {s : State} (h : CleanHbm s) (cw : Nat) : onDieBad s cw = false := by
  unfold onDieBad
  rw [(h.stack _).2.1]
  rfl

theorem checkSector_clean {s : State} (h : CleanHbm s) (r : HbmReq) (sec : Nat) : checkSector r sec s = s := by
  simp [checkSector, checkCw, onDieBad_clean h, cwErr_clean h]

theorem serveHbm_only (scrub : Bool) (pa : Nat) (s : State) : SliceOnly s (serveHbm scrub pa s) := by
  unfold serveHbm
  simp only
  split
  · exact .refl s
  · exact .modStack _ _ _ ⟨rfl, rfl, rfl, fun h => by rw [h]; rfl⟩

/-- With nothing promoted no request is outranked (R336). -/
theorem outranked_none {s : State} (h : Granted s) (scrub : Bool) (pa : Nat) : outranked s scrub pa = false := by
  simp only [outranked, promotions, (h.1 _).1, List.filter_nil, List.any_nil, Bool.false_and]

theorem SliceOnly.mark {s : State} (held : Bool) (ps : List Nat) (h : Granted s → held = s.heldBack ∧ ps = s.passed) :
    SliceOnly s { s with heldBack := held, passed := ps } :=
  ⟨rfl, fun _ => ⟨rfl, rfl, rfl⟩, fun _ => rfl, fun c => ⟨c, (h c).1, (h c).2⟩⟩

theorem SliceOnly.emitN (b : Block) (n : Nat) (s : State) : SliceOnly s (emitN b n s) := by
  have hh : ∀ c, Machine.hdr (Machine.emitN b n s) c = { Machine.hdr s c with sent := (Machine.hdr (Machine.emitN b n s) c).sent } := by
    intro c
    unfold Machine.emitN Machine.hdr Machine.modHdr
    simp only [fget_fset]
    split
    · rename_i e
      rw [e]
      rfl
    · rfl
  have stops : ∀ c, blockStops (Machine.emitN b n s) c = blockStops s c := by
    intro c
    unfold blockStops
    rw [hh c]
  refine ⟨rfl, fun _ => ⟨rfl, rfl, rfl⟩, hh, fun c => ⟨⟨fun k => ⟨(c.1 k).1, ?_⟩, fun x => ?_⟩, rfl, rfl⟩⟩
  · exact (stops _).trans (c.1 k).2
  · exact (stops _).trans (c.2 x)

theorem atStack_only (pa : Nat) (s : State) : SliceOnly s (atStack pa s) := by
  unfold atStack
  split
  · rename_i c
    refine .mark true s.passed fun g => ?_
    rw [(g.1 _).2] at c
    cases c
  · exact .refl s

theorem atBank_only (pa : Nat) (s : State) : SliceOnly s (atBank pa s) := by
  unfold atBank
  split
  · rename_i c
    refine .trans (.mark s.heldBack (pa :: s.passed) fun g => ?_) (serveHbm_only false pa _)
    rw [outranked_none g] at c
    cases c
  · exact serveHbm_only false pa s

theorem leaves_only (x : TileId) (s : State) : SliceOnly s (leaves x s) := by
  unfold leaves
  split
  · rename_i c
    refine .mark true s.passed fun g => ?_
    rw [g.2] at c
    cases c
  · exact .refl s

/-- A block's packets that ask for sectors change nothing else. -/
theorem askSectors_only (r : VaReq) (pa len : Nat) (s : State) : SliceOnly s (askSectors r pa len s) := by
  unfold askSectors
  refine .trans ?_ (.emitN _ _ _)
  split
  · exact leaves_only _ _
  · exact .refl s

theorem injectHbm_clean {s : State} (h : CleanHbm s) (k : StackId) (sec : Nat) : injectHbm k sec s = s := by
  simp [injectHbm, armedAt, h.armed]

theorem freshSector_only {s : State} (h : CleanHbm s) (sec : Nat) : SliceOnly s (freshSector sec s) := by
  have hk := h.stack (stackOfPa (64 * sec))
  simp only [Fin.getElem_fin] at hk
  unfold freshSector
  refine .modStack (stackOfPa (64 * sec)) _ s ⟨rfl, ?_, ?_, id⟩
  · simp [hk.2.1]
  · simp [hk.2.2]

theorem leaveSector_clean {s : State} (h : CleanHbm s) (sec : Nat) : leaveSector sec s = s := by
  unfold leaveSector
  simp only [(h.stack _).2.2]
  simp

theorem writeBackLine_only {s : State} (h : CleanHbm s) (k : StackId) (l : CacheLine) : SliceOnly s (writeBackLine k l s) := by
  have one : ∀ (i : Nat) (t : State), CleanHbm t → SliceOnly t (if maskHas l.dirty i then
      injectHbm k (2 * l.line + i) (freshSector (2 * l.line + i) (bump (.hbm k) Off.hbmWb 1 t))
      else leaveSector (2 * l.line + i) t) := by
    intro i t ht
    split
    · have hb := SliceOnly.bump (.hbm k) Off.hbmWb 1 t
      have hf := hb.trans (freshSector_only (ht.keep hb) (2 * l.line + i))
      rw [injectHbm_clean (ht.keep hf)]
      exact hf
    · rw [leaveSector_clean ht]
      exact .refl t
  have h0 := one 0 s h
  exact h0.trans (one 1 _ (h.keep h0))

theorem makeRoom_only {s : State} (h : CleanHbm s) (k : StackId) (line : Nat) : SliceOnly s (makeRoom k line s) := by
  unfold makeRoom
  simp only
  split
  · exact .refl s
  · split
    · exact .takeFree s
    · have hf := SliceOnly.takeFree s
      have hw := writeBackLine_only (h.keep hf) k (by assumption)
      exact (hf.trans hw).trans (.modStack _ _ _ ⟨rfl, rfl, rfl, id⟩)

theorem touchLineOf_only {s : State} (h : CleanHbm s) (sec : Nat) (f : CacheLine → CacheLine) :
    SliceOnly s (touchLineOf sec f s) := by
  unfold touchLineOf
  simp only
  split
  · exact .modStack _ _ _ ⟨rfl, rfl, rfl, id⟩
  · exact (makeRoom_only h _ _).trans (.modStack _ _ _ ⟨rfl, rfl, rfl, id⟩)

theorem demandSector_only {s : State} (h : CleanHbm s) (r : HbmReq) (fill : Bool) (sec : Nat) :
    SliceOnly s (demandSector r fill sec s) := by
  have h1 : SliceOnly s (atStack (64 * sec) (Machine.emitN (.hbm (stackOfPa (64 * sec))) 1
      (noteWork (blockId (.hbm (stackOfPa (64 * sec)))) s))) :=
    ((SliceOnly.noteWork _ s).trans (.emitN _ _ _)).trans (atStack_only _ _)
  unfold demandSector
  simp only
  generalize atStack (64 * sec) (Machine.emitN (.hbm (stackOfPa (64 * sec))) 1
    (noteWork (blockId (.hbm (stackOfPa (64 * sec)))) s)) = a at h1 ⊢
  have c1 := h.keep h1
  refine h1.trans ?_
  split
  · have h2 := SliceOnly.bump (.hbm (stackOfPa (64 * sec))) Off.hbmHit 1 a
    refine h2.trans ?_
    have c2 := c1.keep h2
    generalize bump (.hbm (stackOfPa (64 * sec))) Off.hbmHit 1 a = d at c2 ⊢
    have key : ∀ u, SliceOnly d u → SliceOnly d (touchLineOf sec id u) :=
      fun u hu => hu.trans (touchLineOf_only (c2.keep hu) sec id)
    refine key _ ?_
    split
    · split
      · exact .bump _ _ _ d
      · exact .refl d
    · exact .refl d
  · have h2 := SliceOnly.bump (.hbm (stackOfPa (64 * sec))) Off.hbmMiss 1 a
    refine h2.trans ?_
    have c2 := c1.keep h2
    generalize bump (.hbm (stackOfPa (64 * sec))) Off.hbmMiss 1 a = d at c2 ⊢
    split
    · have h3 := atBank_only (64 * sec) d
      have c3 := c2.keep h3
      rw [checkSector_clean c3]
      exact h3.trans (touchLineOf_only c3 _ _)
    · exact touchLineOf_only c2 _ _

theorem demandSectors_only (r : HbmReq) (ps : List (Nat × Nat)) (s : State) (h : CleanHbm s) :
    SliceOnly s (ps.foldl (fun a p => demandSector r true (p.1 / 64) a) s) := by
  induction ps generalizing s with
  | nil => exact .refl s
  | cons p ps ih =>
    have h1 := demandSector_only h r true (p.1 / 64)
    exact h1.trans (ih _ (h.keep h1))

/-- A demand read of clean memory leaves all but the slices. -/
theorem hbmRead_only {s : State} (h : CleanHbm s) (r : HbmReq) (pa len : Nat) :
    SliceOnly s (hbmRead r pa len s).2 :=
  demandSectors_only r _ s h

/-- The bytes in the clear do not depend on the slices. -/
theorem SliceOnly.hbmGet {s t : State} (g : SliceOnly s t) (pa len : Nat) : hbmGet t pa len = hbmGet s pa len := by
  have hs : ∀ a n, hbmStored t a n = hbmStored s a n := by
    intro a n
    unfold hbmStored hbmDefault
    simp only [(g.stack _).1]
    rw [g.hbm]
  have hk : memKey t (quadOfPa pa) = memKey s (quadOfPa pa) := by
    rw [g.rest]
    rfl
  unfold Machine.hbmGet
  simp only [hs, hk]

/-- A demand read of clean memory answers the bytes that the memory holds. -/
theorem hbmRead_bytes {s : State} (h : CleanHbm s) (r : HbmReq) (pa len : Nat) :
    (hbmRead r pa len s).1.1 = hbmGet s pa len :=
  (hbmRead_only h r pa len).hbmGet pa len

theorem SliceOnly.xlateOf {s t : State} (h : SliceOnly s t) (a : XAgent) : xlateOf t a = xlateOf s a := by
  rw [h.rest]
  cases a <;> rfl

theorem SliceOnly.leafCheck {s t : State} (h : SliceOnly s t) (e : TlbEntry) (wr : Bool) :
    leafCheck t e wr = leafCheck s e wr := by
  rw [h.rest]
  rfl

theorem SliceOnly.srvReq {s t : State} (h : SliceOnly s t) (p : Fin 4) : srvReq t p = srvReq s p := by
  rw [h.rest]
  rfl

/-- A read of virtual addresses within one 2 MiB piece that a cached entry translates, from clean memory: the bytes that
memory holds behind the entry, and only the slices change. -/
theorem vaRead_hit {s : State} (h : CleanHbm s) (r : VaReq) (va len : Nat) (e : TlbEntry)
    (hp : piecesOf (2 ^ 21) va len = [(va, len)]) (hf : (xlateOf s r.agent).tlb.find? (entryHits r.part va) = some e)
    (hl : leafCheck s e false = none) :
    (∃ bad, (vaRead r va len s).1 = .ok (hbmGet s (entryPa e va) len, bad)) ∧ SliceOnly s (vaRead r va len s).2 := by
  have ht : translate r va false s = (.ok e, s) := by simp [translate, hf, hl]
  have ha := askSectors_only r (entryPa e va) len s
  have hv : vaRead r va len s = (.ok (hbmRead r.hbm (entryPa e va) len (askSectors r (entryPa e va) len s)).1,
      (hbmRead r.hbm (entryPa e va) len (askSectors r (entryPa e va) len s)).2) := by
    rw [vaRead, hp]
    simp [ht]
  rw [hv]
  have hb := (hbmRead_bytes (h.keep ha) r.hbm (entryPa e va) len).trans (ha.hbmGet _ _)
  exact ⟨⟨_, by rw [← hb]⟩, ha.trans (hbmRead_only (h.keep ha) r.hbm _ _)⟩

end Sys2Proof.Machine
end

