-- ==== Sys2Proof/Laws/Ops.lean ====
section
/-! SUPPORT. What the shared operations of Machine/Ops.lean do: registers and counters, headers, packets emitted, fault
reports, and tile memories, whose canonical form every operation keeps. -/

namespace Sys2Proof.Machine
open Sys2Proof

/-! ## Registers and counters -/

theorem regAt_setRegAt (a b v : Nat) (s : State) :
    regAt (setRegAt a v s) b = if b = a then v % 2 ^ 64 else regAt s b := by
  unfold regAt setRegAt
  rw [fget_fset]
  split <;> simp

theorem regAt_setRegAt_same (a v : Nat) (s : State) (h : v < 2 ^ 64) : regAt (setRegAt a v s) a = v := by
  rw [regAt_setRegAt, if_pos rfl, Nat.mod_eq_of_lt h]

theorem regAt_setRegAt_ne (a b v : Nat) (s : State) (h : b ≠ a) : regAt (setRegAt a v s) b = regAt s b := by
  rw [regAt_setRegAt, if_neg h]

/-- A 48-bit counter gains n and saturates; no other register changes. -/
theorem regAt_bumpAt (a b n : Nat) (s : State) :
    regAt (bumpAt a n s) b = if b = a then min (regAt s a + n) (2 ^ 48 - 1) else regAt s b := by
  unfold bumpAt
  rw [regAt_setRegAt, Nat.mod_eq_of_lt (lt_of_le_of_lt (Nat.min_le_right _ _) (by norm_num))]

/-- A 32-bit counter gains 1 and saturates; no other register changes. -/
theorem regAt_bump32 (b : Block) (o a : Nat) (s : State) :
    regAt (bump32 b o s) a = if a = pageBase b 0 + o then min (reg s b o + 1) (2 ^ 32 - 1) else regAt s a := by
  unfold bump32 setReg
  rw [regAt_setRegAt, Nat.mod_eq_of_lt (lt_of_le_of_lt (Nat.min_le_right _ _) (by norm_num))]

/-- A counter's update changes the registers only. -/
theorem bumpAt_frame (a n : Nat) (s : State) : bumpAt a n s = { s with regs := (bumpAt a n s).regs } := rfl
theorem bump_frame (b : Block) (o n : Nat) (s : State) : bump b o n s = { s with regs := (bump b o n s).regs } := rfl
theorem bump32_frame (b : Block) (o : Nat) (s : State) : bump32 b o s = { s with regs := (bump32 b o s).regs } := rfl

/-! ## Headers, packets and fault reports -/

/-- A header's update changes that header only. -/
theorem hdr_modHdr (b c : Block) (f : Hdr → Hdr) (s : State) :
    hdr (modHdr b f s) c = if blockId c = blockId b then f (hdr s b) else hdr s c := by
  unfold hdr modHdr
  rw [fget_fset]
  rfl

theorem hdr_modHdr_same (b : Block) (f : Hdr → Hdr) (s : State) : hdr (modHdr b f s) b = f (hdr s b) := by
  rw [hdr_modHdr, if_pos rfl]

theorem hdr_modHdr_ne (b c : Block) (f : Hdr → Hdr) (s : State) (h : blockId c ≠ blockId b) :
    hdr (modHdr b f s) c = hdr s c := by
  rw [hdr_modHdr, if_neg h]

/-- A packet emitted carries the block's next SEQ, which its header then shows (R36). -/
theorem hdr_emitN (b : Block) (n : Nat) (s : State) : hdr (emitN b n s) b = { hdr s b with sent := (hdr s b).sent + n } := by
  rw [emitN, hdr_modHdr_same]

theorem hdr_emit (b : Block) (s : State) : hdr (emit b s).2 b = { hdr s b with sent := (hdr s b).sent + 1 } :=
  hdr_emitN b 1 s

/-- A report waits for the collector behind those before it, with its source's next SEQ; nothing else changes (R421). -/
theorem raiseFault_eq (b : Block) (kind addr item detail : Nat) (s : State) :
    raiseFault b kind addr item detail s =
      { s with hdrs := (emitN b 1 s).hdrs,
               flt := { s.flt with inflight := s.flt.inflight ++
                 [⟨BitVec.ofNat 12 (blockId b), BitVec.ofNat 8 kind, BitVec.ofNat 48 addr, BitVec.ofNat 16 item,
                   BitVec.ofNat 16 (((hdr s b).sent + 1) % 65536), BitVec.ofNat 25 detail⟩] } } := rfl

/-! ## Steps that wait (R243, R336, R429) -/

/-- A step in whose outcome nothing waits is that outcome. -/
theorem unlessHeld_goes (f : State → State) (s : State)
    (h : (f (Safety.unmarked s)).heldBack = false) (g : (f (Safety.unmarked s)).passed = []) :
    unlessHeld f s = f (Safety.unmarked s) := by
  have e : unlessHeld f s = (fun u : State =>
      if u.heldBack || u.passed.any (outranked u false) then s else { u with passed := [] }) (f (Safety.unmarked s)) := rfl
  rw [e]
  generalize f (Safety.unmarked s) = u at h g ⊢
  cases u
  simp only at h g
  subst h g
  rfl

/-- A step that a reserved bank, a controller or a router holds back leaves the state as it is. -/
theorem unlessHeld_waits (f : State → State) (s : State) (h : (f (Safety.unmarked s)).heldBack = true) :
    unlessHeld f s = s := by
  have e : unlessHeld f s = (fun u : State =>
      if u.heldBack || u.passed.any (outranked u false) then s else { u with passed := [] }) (f (Safety.unmarked s)) := rfl
  rw [e]
  simp [h]

/-- A step of a tile's engine that reports nothing, or whose reports the tile's fault port has room for, does not wait for it. -/
theorem viaPort_free (t : TileId) (f : State → State) (s : State)
    (h : portCount (unlessHeld f s) t ≤ portCount s t ∨ portCount (unlessHeld f s) t ≤ 8 ∨ portCount s t = 0) :
    viaPort t f s = unlessHeld f s := by
  unfold viaPort
  simp only
  split
  · rename_i c
    simp only [Bool.and_eq_true, decide_eq_true_eq] at c
    omega
  · rfl

/-- While the port holds reports and has no room for those of a step, the step leaves the state as it is (R429). -/
theorem viaPort_waits (t : TileId) (f : State → State) (s : State) (h : portCount s t ≠ 0)
    (g : portCount s t < portCount (unlessHeld f s) t) (k : 8 < portCount (unlessHeld f s) t) : viaPort t f s = s := by
  simp [viaPort, h, g, k]

/-! ## Items -/

theorem modItem_key (k : ItemKey) (f : Item → Item) (s : State) (h : ∀ i, (f i).key = i.key) :
    (modItem k f s).items.map (·.key) = s.items.map (·.key) := by
  simp only [modItem_items, List.map_map]
  refine List.map_congr_left fun i _ => ?_
  simp only [Function.comp]
  split
  · exact h i
  · rfl

/-! ## Tile memories -/

/-- A tile memory set is that memory, and no other of any tile. -/
theorem tmem_setTmem (t u : TileId) (m n : MemSel) (v : TMem) (s : State) :
    tmem (setTmem t m v s) u n = if u = t ∧ n = m then v else tmem s u n := by
  by_cases h : u = t
  · subst h
    cases m <;> cases n <;> simp [tmem, setTmem]
  · have h' : t.val ≠ u.val := fun e => h (Fin.ext e.symm)
    cases n <;> simp [tmem, setTmem, h, h']

theorem tmemWf_iff (m : TMem) : Safety.tmemWf m = true ↔ fwf zeroByte m.bytes = true ∧ fwf noErr m.err = true := by
  rw [Safety.tmemWf, Bool.and_eq_true]
  exact Iff.rfl

theorem tmemWf_markWord (w : Nat) (m : TMem) (h : Safety.tmemWf m = true) : Safety.tmemWf (markWord w m) = true := by
  rw [tmemWf_iff] at *
  exact ⟨fwf_fwrite _ _ _ _ h.1, fwf_fwrite _ _ _ _ h.2⟩

theorem tmemWf_markLine (l : Nat) (m : TMem) (h : Safety.tmemWf m = true) : Safety.tmemWf (markLine l m) = true := by
  rw [tmemWf_iff] at *
  exact ⟨fwf_fwrite _ _ _ _ h.1, fwf_fset _ _ _ _ h.2⟩

theorem tmemWf_foldl {α : Type} (f : TMem → α → TMem) (hf : ∀ m a, Safety.tmemWf m = true → Safety.tmemWf (f m a) = true)
    (as : List α) (m : TMem) (h : Safety.tmemWf m = true) : Safety.tmemWf (as.foldl f m) = true := by
  induction as generalizing m with
  | nil => exact h
  | cons a as ih => exact ih _ (hf _ _ h)

/-- The repair of a read keeps the form of its memory. -/
theorem tmemWf_readLine (mem : MemSel) (m : TMem) (line lo len : Nat) (h : Safety.tmemWf m = true) :
    Safety.tmemWf (readLine mem m line lo len).2.2.2.2.2 = true := by
  have par : ∀ ws : List Nat, Safety.tmemWf (ws.foldl (fun a w => markWord w a) m) = true := fun ws =>
    tmemWf_foldl _ (fun m w => tmemWf_markWord w m) ws m h
  cases mem
  case wmem =>
    simp only [readLine]
    split
    · exact h
    split
    · rw [tmemWf_iff] at *
      exact ⟨h.1, fwf_fset _ _ _ _ h.2⟩
    split
    · exact h
    · exact tmemWf_markLine _ _ h
  all_goals
    simp only [readLine]
    split
    · exact h
    · exact par _

/-- Every tile memory is in canonical form. -/
def TilesWf (s : State) : Prop := ∀ t m, Safety.tmemWf (tmem s t m) = true

theorem tilesWf_iff (s : State) : s.tiles.toList.all Safety.tileWf = true ↔ TilesWf s := by
  constructor
  · intro h t m
    have := List.all_eq_true.mp h s.tiles[t] (Vector.mem_toList_iff.mpr (Vector.getElem_mem t.isLt))
    simp only [Safety.tileWf, Bool.and_eq_true] at this
    cases m
    · exact this.1.1
    · exact this.1.2
    · exact this.2
  · intro h
    refine List.all_eq_true.mpr fun x hx => ?_
    obtain ⟨i, hi, rfl⟩ := Vector.getElem_of_mem (Vector.mem_toList_iff.mp hx)
    have g := h ⟨i, hi⟩
    simp only [Safety.tileWf, Bool.and_eq_true]
    exact ⟨⟨g .amem, g .pmem⟩, g .wmem⟩

theorem TilesWf.of_tiles {s u : State} (h : TilesWf s) (e : u.tiles = s.tiles) : TilesWf u := by
  intro t m
  have g := h t m
  cases m <;> simpa only [tmem, e] using g

theorem TilesWf.setTmem {s : State} (h : TilesWf s) (t : TileId) (m : MemSel) (v : TMem) (hv : Safety.tmemWf v = true) :
    TilesWf (setTmem t m v s) := by
  intro u n
  rw [tmem_setTmem]
  split
  · exact hv
  · exact h u n

/-- An update of a tile that leaves its three memories keeps the form of every memory. -/
theorem TilesWf.modTile {s : State} (h : TilesWf s) (t : TileId) (f : TileSt → TileSt)
    (hf : ∀ x, (f x).amem = x.amem ∧ (f x).pmem = x.pmem ∧ (f x).wmem = x.wmem) : TilesWf (modTile t f s) := by
  intro u m
  have g := h u m
  by_cases e : u = t
  · subst e
    obtain ⟨ka, kp, kw⟩ := hf s.tiles[u]
    simp only [Fin.getElem_fin] at ka kp kw
    cases m <;> simpa [tmem, ka, kp, kw] using g
  · have e' : t.val ≠ u.val := fun x => e (Fin.ext x.symm)
    cases m <;> simpa [tmem, e'] using g

theorem tilesWf_applyInject {s : State} (h : TilesWf s) (t : TileId) (m : MemSel) (lo len : Nat) :
    TilesWf (applyInject t m lo len s) := by
  unfold applyInject
  split
  · exact h
  · refine TilesWf.of_tiles (TilesWf.setTmem h t m _ ?_) rfl
    have g := (tmemWf_iff _).mp (h t m)
    cases m
    · exact (tmemWf_iff _).mpr ⟨g.1, fwf_fwrite _ _ _ _ g.2⟩
    · exact (tmemWf_iff _).mpr ⟨g.1, fwf_fwrite _ _ _ _ g.2⟩
    · simp only
      split
      · exact h t .wmem
      · exact (tmemWf_iff _).mpr ⟨g.1, fwf_fset _ _ _ _ g.2⟩

theorem tilesWf_tmWriteRaw {s : State} (h : TilesWf s) (t : TileId) (m : MemSel) (lo : Nat) (bs : List Byte) (ps : List Bool) :
    TilesWf (tmWriteRaw t m lo bs ps s) := by
  have g := (tmemWf_iff _).mp (h t m)
  cases m
  · exact h.setTmem _ _ _ (tmemWf_foldl _ (fun m w => tmemWf_markWord w m) _ _
      ((tmemWf_iff _).mpr ⟨fwf_fwrite _ _ _ _ g.1, fwf_fclear _ _ _ _ g.2⟩))
  · exact h.setTmem _ _ _ (tmemWf_foldl _ (fun m w => tmemWf_markWord w m) _ _
      ((tmemWf_iff _).mpr ⟨fwf_fwrite _ _ _ _ g.1, fwf_fclear _ _ _ _ g.2⟩))
  · exact h.setTmem _ _ _ (tmemWf_foldl _ (fun m l => tmemWf_markLine l m) _ _
      ((tmemWf_iff _).mpr ⟨fwf_fwrite _ _ _ _ g.1, fwf_fclear _ _ _ _ g.2⟩))

theorem tilesWf_grantAccess {s : State} (h : TilesWf s) (r : MemReq) (lo len : Nat) : TilesWf (grantAccess r lo len s) := by
  have a : (answerAccess r s).tiles = s.tiles := by
    unfold answerAccess
    split <;> rfl
  have c : TilesWf (countAccess r lo len s) := by
    unfold countAccess
    simp only
    split
    · exact h
    split <;> exact h.of_tiles a
  have k : TilesWf (servePromoted r lo len (countAccess r lo len s)) := by
    unfold servePromoted
    split
    · exact c
    · exact c.modTile _ _ fun _ => ⟨rfl, rfl, rfl⟩
  unfold grantAccess
  simp only
  split
  · exact k.of_tiles rfl
  · exact k

theorem tilesWf_touchLine {s : State} (h : TilesWf s) (r : MemReq) (lo len line : Nat) :
    TilesWf (touchLine r lo len s line) := by
  have k := tmemWf_readLine r.mem (tmem s r.tile r.mem) line lo len (h _ _)
  unfold touchLine
  simp only
  split <;> split
  · exact h.of_tiles rfl
  · exact (h.setTmem r.tile r.mem _ k).of_tiles rfl
  · exact h
  · exact (h.setTmem r.tile r.mem _ k).of_tiles rfl

/-- A read of a tile memory keeps the form of every memory. -/
theorem tilesWf_tmRead {s : State} (h : TilesWf s) (r : MemReq) (lo len : Nat) : TilesWf (tmRead r lo len s).2 := by
  have fold : ∀ (ls : List Nat) (s : State), TilesWf s → TilesWf (ls.foldl (touchLine r lo len) s) := by
    intro ls
    induction ls with
    | nil => exact fun s h => h
    | cons l ls ih => exact fun s h => ih _ (tilesWf_touchLine h r lo len l)
  exact fold _ _ (tilesWf_grantAccess h r lo len)

/-- A write of a tile memory keeps the form of every memory. -/
theorem tilesWf_tmWrite {s : State} (h : TilesWf s) (r : MemReq) (lo : Nat) (bs : List Byte) (ps : List Bool) :
    TilesWf (tmWrite r lo bs ps s) := by
  refine tilesWf_applyInject ?_ _ _ _ _
  have k := tilesWf_tmWriteRaw (tilesWf_grantAccess h r lo bs.length) r.tile r.mem lo bs ps
  unfold noteDisturb
  simp only
  split
  · exact k
  · exact k.modTile _ _ fun _ => ⟨rfl, rfl, rfl⟩

end Sys2Proof.Machine
end

