-- ==== Sys2Proof/WellFormed.lean ====
section
/-! DEFINITION. What makes a command's operands well formed: the widths and counts that the spec gives the thing
an operand stands for. A command outside these bounds stands for nothing that the device can meet. -/

namespace Sys2Proof

/-- A Gwetre packet has eight header words, at most 4,032 payload bytes in whole sectors, and the 12 RSVD bytes of its trailer
(R351, R352). -/
def GwPacket.wellFormed (p : GwPacket) : Bool :=
  decide (p.header.length = 8) && decide (p.payload.length ≤ 4032) && decide (p.payload.length % 64 = 0) &&
    decide (p.rsvd.length = 12)

/-- A Cammos flit carries 120 stream bytes (R378). -/
def CamFlit.wellFormed (f : CamFlit) : Bool := decide (f.stream.length = 120)

/-- A Gwetre packet command. -/
def gwWellFormed (p : GwPacket) : Bool := p.wellFormed

/-- The device has 72 junction sensors (R404): one per tile and one per stack. -/
def sensorCount : Nat := 72

/-- The meter has 16 channels (R412). -/
def meterChannels : Nat := 16

/-- The operands of a command are well formed. -/
def Instr.wellFormed : Instr → Bool
  | .registerWrite _ n _ _ => decide (1 ≤ n ∧ n ≤ 64)
  | .lowWordRead _ n _ => decide (1 ≤ n ∧ n ≤ 64)
  | .securePageRead _ _ off => decide (off.toNat % 4 = 0)
  | .handshakeStall _ _ n => decide (n < 2 ^ 24)
  | .selftestComplete rs => rs.all (fun r => decide (r.columns.length ≤ 256))
  | .queuePacketWrite _ ws _ _ bad => decide (0 < ws.length) &&
      (match bad with | some i => decide (i < ws.length) | none => true)
  | .hbmAccess _ _ pa data _ _ _ => decide (0 < data.length) && decide (pa.toNat % 64 + data.length ≤ 64)
  | .gwWrite _ p => gwWellFormed p
  | .gwRead _ p => gwWellFormed p
  | .gwWriteAck _ p => gwWellFormed p
  | .gwReadData _ p => gwWellFormed p
  | .gwError _ p => gwWellFormed p
  | .linkCtrl _ p => gwWellFormed p
  | .camDataFlit _ f => f.wellFormed
  | .camControlFlit _ f => f.wellFormed
  | .sensorSample ts => decide (ts.length = sensorCount)
  | .rotSensorSample ts => decide (ts.length = sensorCount)
  | .estimationWindowEnd es => es.all (fun e => !(e.array && e.vector))
  | .meterReading ms => decide (ms.length = meterChannels)
  | .meterApportion ms => decide (ms.length = meterChannels)
  | _ => true

end Sys2Proof
end

