-- ==== Sys2Proof/Tests/Slice0.lean ====
section
/-! SUPPORT. Small tests: an ill-formed operand for each check of WellFormed.lean, and for each statement of
Certificates/Slice0/Obligations.lean a state and operands that meet the hypotheses of its clauses. -/

namespace Sys2Proof.Tests
open Sys2Proof Sys2Proof.Machine

set_option Elab.async false

/-! ## Ill-formed operands -/

def okPacket : GwPacket := ⟨List.replicate 8 0, [], List.replicate 12 0, .good, true⟩

theorem test_wf_registers :
    (Instr.registerWrite .hp0 0 0 0).wellFormed = false ∧ (Instr.registerWrite .hp0 65 0 0).wellFormed = false ∧
    (Instr.registerWrite .hp0 64 0 0).wellFormed = true ∧ (Instr.lowWordRead .hp0 0 0).wellFormed = false ∧
    (Instr.securePageRead .hp0 1 6).wellFormed = false ∧ (Instr.securePageRead .hp0 1 8).wellFormed = true := by decide +kernel

theorem test_wf_stall :
    (Instr.handshakeStall 0 (.tile 1 .tl) (2 ^ 24)).wellFormed = false ∧
    (Instr.handshakeStall 0 (.tile 1 .tl) (2 ^ 24 - 1)).wellFormed = true := by decide +kernel

theorem test_wf_queue_packet :
    (Instr.queuePacketWrite (.work 0) [] 0 false none).wellFormed = false ∧
    (Instr.queuePacketWrite (.work 0) [1] 0 false (some 1)).wellFormed = false ∧
    (Instr.queuePacketWrite (.work 0) [1] 0 false (some 0)).wellFormed = true := by decide +kernel

theorem test_wf_gw_header : (Instr.gwWrite 0 ⟨[], [], List.replicate 12 0, .good, true⟩).wellFormed = false := by decide +kernel

theorem test_wf_lengths :
    (Instr.camDataFlit 0 ⟨0, List.replicate 119 0, true⟩).wellFormed = false ∧
    (Instr.sensorSample (List.replicate 71 0)).wellFormed = false ∧
    (Instr.meterReading (List.replicate 15 0)).wellFormed = false ∧
    (Instr.meterApportion (List.replicate 16 0)).wellFormed = true ∧
    (Instr.selftestComplete [⟨0, List.replicate 257 0, []⟩]).wellFormed = false := by decide +kernel

theorem test_wf_hbm :
    (Instr.hbmAccess 0 .write 60 [1, 2, 3, 4, 5] 0 false false).wellFormed = false ∧
    (Instr.hbmAccess 0 .write 60 [1, 2, 3, 4] 0 false false).wellFormed = true ∧
    (Instr.hbmAccess 0 .demandRead 0 [] 0 false false).wellFormed = false := by decide +kernel

/-! ## States that the witnesses stand on -/

/-- The device in service, without an owner. -/
def free : State :=
  { State.reset with dev := { State.reset.dev with phase := 8, ready := true, powered := true, resetLow := false } }

/-- The device in service, owned by host port 0. -/
def up : State := { free with dev := { free.dev with owner := some .hp0 } }

/-- The same with block b's header changed. -/
def upB (b : Block) (f : Hdr → Hdr) : State := modHdr b f up

/-- A running item of partition 0 on tile 0. -/
def item0 : Item :=
  { key := ⟨0, 1⟩, job := 1, gen := 0, det := false, layer := 5, tile := 0, rank := 0, entry := 0, args := [], sq := 0,
    cq := 0, wd := 0, cookie := 7, state := .running, errs := [], remote := 0, fenced := false, cancelled := false,
    poisoned := false, flags := 0, detail := 0, listEnded := false, usedArray := false, usedVector := false,
    beatsArray := 0, beatsVector := 0, beatsMover := 0, sparse := false, sumRb := 0, sumDb := 0, energyPj := 0, taps := 0 }

/-! ## Control space -/

theorem witness_StepRunsCommands : State.reset.pending = [] := rfl

theorem up_owned : Safety.owns .hp0 up := by unfold Safety.owns; decide +kernel

/-- QSTAT's step register, RW; TL_STAT, RO; TL_HS_LIMIT, RWS. -/
def qstatRow : RegRow := ⟨128, 1, 4, false, .rw, 0, 4095⟩
def tlRow (n : Nat) (a : Acc) (r m : Nat) : RegRow := ⟨n, 1, 4, false, a, r, m⟩

theorem qstat_access : Safety.regAccess up 0x101080 ⟨.qstat 0, 0, .qstat⟩ qstatRow 0x80 := by
  unfold Safety.regAccess; decide +kernel
theorem tl_access_ro : Safety.regAccess up 0x1000080 ⟨.tile 0 .tl, 0, .tl⟩ (tlRow 0x80 .ro 0 0) 0x80 := by
  unfold Safety.regAccess; decide +kernel
theorem tl_access_rws : Safety.regAccess up 0x1000088 ⟨.tile 0 .tl, 0, .tl⟩ (tlRow 0x88 .rws 0x100000 0xFFFFFF) 0x88 := by
  unfold Safety.regAccess; decide +kernel

theorem witness_RegisterWrites :
    writeOwn 0 ⟨.qstat 0, 0, .qstat⟩ 0x80 4095 up = none ∧ mustBeZero .qstat 0x80 = 0 ∧ mustBeZero .tl 0x80 = 0 ∧
    mustBeZero .tl 0x88 = 0 ∧ frozen up ⟨.tile 0 .tl, 0, .tl⟩ = false := by decide +kernel

theorem witness_CounterClear :
    pageAt (pageBase (.tile 0 .sqc) 0 / 4096) = some ⟨.tile 0 .sqc, 0, .sqc⟩ ∧
    regNamed ⟨.tile 0 .sqc, 0, .sqc⟩ 0xC0 = some (⟨0xC0, 1, 4, false, .w1s, 0, 0⟩, 0xC0) ∧
    leadRefused up ⟨.tile 0 .sqc, 0, .sqc⟩ 0xC0 = false ∧ Nat.land 1 (mustBeZero .sqc 0xC0) = 0 ∧
    writeOwn 0 ⟨.tile 0 .sqc, 0, .sqc⟩ 0xC0 1 up = none := by decide +kernel

theorem witness_AccessRefused :
    ctlRuns up = true ∧ ownerId up ≠ (masterIdx .hp1).val ∧ ownSlot (masterIdx .hp1) ⟨.tile 0 .tl, 0, .tl⟩ = false ∧
    assignedReg up (masterIdx .hp1) ⟨.tile 0 .tl, 0, .tl⟩ 0x88 = false ∧ ownerId up = (masterIdx .hp0).val := by decide +kernel

theorem witness_ReadAfterWrite :
    timeDriven .qstat 0x80 = false ∧ (∀ t : State, shownVal t 0 ⟨.qstat 0, 0, .qstat⟩ 0x80 = none) :=
  ⟨by decide +kernel, fun _ => rfl⟩

theorem witness_WideRegisterRead :
    pageAt (0x1001100 / 4096) = some ⟨.tile 0 .sqc, 0, .sqc⟩ ∧
    regNamed ⟨.tile 0 .sqc, 0, .sqc⟩ 0x100 = some (⟨0x100, 1, 8, true, .ro, 0, 0⟩, 0x100) ∧
    regNamed ⟨.tile 0 .sqc, 0, .sqc⟩ 0x104 = some (⟨0x100, 1, 8, true, .ro, 0, 0⟩, 0x100) ∧
    timeDriven .sqc 0x188 = true ∧ up.masters[masterIdx .hp0].holdAddr = none := by decide +kernel

/-! ## Packets and the common header -/

/-- The tag of a packet with these fields. -/
def pktTag (gen job item cls poison seq : Nat) : DWord :=
  BitVec.ofNat 64 (tagOf 0 job gen 0 item cls (poison == 1) false seq)

def withItem : State := { up with items := [item0] }
def dmv0 : Block := .tile 0 .dmv
def pending1 : State := modHdr dmv0 (fun h => { h with genPend := true, genStaged := 1 }) withItem

theorem witness_PacketArrival :
    inOrder withItem dmv0 (.tile 1 .dmv) (pktTag 0 1 1 1 0 1) = true ∧
    inOrder (noteArrival dmv0 (.tile 1 .dmv) (pktTag 0 1 1 1 0 1) withItem) dmv0 (.tile 1 .dmv) (pktTag 0 1 1 1 0 1) = false ∧
    wrongPart withItem dmv0 (pktTag 0 1 1 1 0 1) = false ∧ isFenced withItem dmv0 = false ∧
    BitVec.ofNat 8 (tagGen (pktTag 0 1 1 1 0 1).toNat) = (hdr withItem dmv0).genLive ∧
    fabricArrival (pktTag 9 0 0xFFFF 1 0 1) = true ∧
    (hdr pending1 dmv0).genStaged = BitVec.ofNat 8 (tagGen (pktTag 1 1 1 1 0 1).toNat) ∧
    findItem withItem (tagKey (pktTag 2 1 1 1 0 1)) = some item0 := by decide +kernel

theorem witness_PacketDropped :
    poisonedCommand (pktTag 0 1 1 0 1 1) = true ∧
    wrongPart withItem dmv0 (pktTag 0 1 1 1 0 1 + BitVec.ofNat 64 (2 ^ 62)) = true ∧
    wrongPart withItem dmv0 (pktTag 0 1 1 3 0 1 + BitVec.ofNat 64 (2 ^ 62)) = true ∧
    (let s := modHdr dmv0 (fun h => { h with mode := .fenced }) withItem
     isFenced s dmv0 = true ∧ (itemsIn s dmv0).contains (tagKey (pktTag 0 1 1 1 0 1)) = false) := by decide +kernel

/-- TL_HS_LIMIT of tile 0 is 100 beats. -/
def limited : State := setRegAt (pageBase (.tile 0 .tl) 0 + Off.tlHsLimit) 100 up

theorem witness_HandshakeStall :
    fld (reg limited (.tile 0 .tl) Off.tlHsLimit) 23 0 = 100 ∧ sameStall limited 0 (.tile 1 .tl) 100 = false ∧
    sameStall (noteStall 0 (.tile 1 .tl) 100 limited) 0 (.tile 1 .tl) 101 = true ∧
    fld (reg (setRegAt (pageBase (.tile 0 .tl) 0 + Off.tlHsLimit) 0 up) (.tile 0 .tl) Off.tlHsLimit) 23 0 = 0 := by decide +kernel

theorem witness_EnableAndDrain :
    (hdr up dmv0).en = false ∧ (hdr up dmv0).mode = .off ∧ stuckBlock up dmv0 = false ∧ blockFailed up dmv0 = false ∧
    stuckBlock (modFlt (fun f => { f with wedged := [0x406] }) up) dmv0 = true ∧ drainable dmv0 = true ∧
    drainable .dev = false ∧
    (let s := modFlt (fun f => { f with safe := true }) up; ctlRuns s = true ∧ ownerId s = (masterIdx .hp0).val) ∧
    (let s := upB dmv0 (fun h => { h with en := true, mode := .updating }); (hdr s dmv0).mode = .updating) ∧
    (let s := upB dmv0 (fun h => { h with en := true, mode := .drained })
     (hdr s dmv0).en = true ∧ (hdr s dmv0).mode = .drained ∧ tableWaits s dmv0 = false) ∧
    (let s := upB dmv0 (fun h => { h with en := true, mode := .fenced }); busy s dmv0 = false) ∧
    (let s := upB dmv0 (fun h => { h with en := true, mode := .on }); (hdr s dmv0).mode = .on) := by decide +kernel

theorem witness_DrainAndRearm :
    (let s := upB dmv0 (fun h => { h with mode := .draining })
     (hdr s dmv0).mode = .draining ∧ (hdr s dmv0).probe = false ∧ busy s dmv0 = false) ∧
    (let s := upB dmv0 (fun h => { h with probe := true })
     (hdr s dmv0).probe = true ∧ (hdr s dmv0).enPend = false) ∧
    (let s := upB dmv0 (fun h => { h with probe := true, enPend := true })
     (hdr s dmv0).enPend = true ∧ busy s dmv0 = false ∧ isWedged s dmv0 = false) ∧
    (let s := setRegAt (pageBase (.gwp 23) 0 + Off.gwpCfg) 1 (upB (.gwp 23) (fun h => { h with rearmReq := true }))
     bitOf (reg s (.gwp 23) Off.gwpCfg) 0 = true ∧ s.ports[(23 : PortId)].link ≠ .up ∧ busy s (.gwp 23) = false) ∧
    (let s := setRegAt (pageBase (.cam 1) 0 + Off.camCfg) 1 (upB (.cam 1) (fun h => { h with rearmReq := true }))
     bitOf (reg s (.cam 1) Off.camCfg) 0 = true ∧ s.cams[(1 : HostId)].link ≠ .up ∧ busy s (.cam 1) = false) := by decide +kernel

/-! ## Ownership and generations -/

theorem witness_Ownership :
    ctlRuns free = true ∧ free.dev.owner = none ∧ fld 0xC501 15 8 = 0xC5 ∧ fld 0xC501 1 0 = (masterIdx .hp1).val ∧
    fld 0xC501 7 2 = 0 ∧ fld 0xC501 31 16 = 0 ∧ 7 ≤ free.dev.phase ∧
    (let s := modDev (fun d => { d with handover := some .hp1 }) up
     s.dev.owner ≠ some .hp1 ∧ s.dev.handover = some .hp1) ∧ up.dev.handover ≠ some .hp1 := by decide +kernel

theorem witness_GenerationCommit :
    up.dev.genPend = false ∧ up.dev.genQueued = false ∧ up.dev.qfail = 0 ∧
    ((1 : Word).toNat = (up.dev.genTarget + 1).toNat) ∧ (∀ t : TileId, up.tiles[t].retired = false) := by decide +kernel
theorem witness_GenerationCommit_accepted : firstRefuser up = none := by decide +kernel
/-- Tile 0's staged program base lies outside A-mem. -/
def refusing : State := setRegAt (pageBase (.tile 0 .sqc) 0 + Off.sqcProgBase + 0x800) 48 up
theorem witness_GenerationCommit_refused : firstRefuser refusing = some (.tile 0 .sqc) ∧ refusing.dev.genPend = false := by
  decide +kernel

/-- A commit to generation 1 is pending, its notice is at every dispatcher. -/
def committing : State :=
  { up with dev := { up.dev with genPend := true, genTarget := 1 },
            hdrs := (([.qdsp 0, .qdsp 1, .gwp 0, .mtr, .tile 0 .tl] : List Block).foldl (fun s b => modHdr b (fun h => { h with genStaged := 1, genPend := true }) s) up).hdrs,
            quads := Vector.replicate 4 { quadReset with notice := true } }

theorem witness_GenerationSwitch :
    committing.quads[(0 : QuadId)].notice = true ∧ committing.dev.genPend = true ∧
    (∀ t : TileId, committing.tiles[t].retired = false ∧ committing.tiles[t].work.lines = 0 ∧
      spillWords committing.tiles[t].work ≤ 30) ∧
    (hdr committing (.qdsp 1)).genPend = true ∧
    (let s := modHdr (.tile 0 .tl) (fun h => { h with markers := 1 }) committing
     (hdr s (.tile 0 .tl)).markers ≠ 0 ∧ oldItemsDone s (.tile 0 .tl) = true) ∧
    (let s := modHdr (.gwp 0) (fun h => { h with markers := BitVec.allOnes 64 }) committing
     (hdr s (.gwp 0)).markers = BitVec.allOnes 64 ∧ (hdr s (.gwp 0)).mode = .off) ∧
    (let s := modQuad 0 (fun x => { x with stat := { x.stat with taps := [⟨⟨0, 1⟩, 1, 0, false, 5, 0, 0, false, false, false⟩] } })
       (modHdr (.qstat 0) (fun h => { h with markers := BitVec.allOnes 64, mode := .on, genPend := true }) committing)
     (hdr s (.qstat 0)).mode ≠ .off ∧ (hdr s (.qstat 0)).mode ≠ .fenced ∧ (hdr s (.qstat 0)).genLive ∈ pathGens s (.qstat 0) ∧
     Block.qstat 0 ∈ pathBlocks) ∧
    (hdr committing (.gwp 0)).genPend = true ∧
    bitOf (stagedReg committing (.gwp 0) Off.gwpCfg) 0 = bitOf (reg committing (.gwp 0) Off.gwpCfg) 0 ∧ Block.gwp 0 ∈ pathBlocks ∧ Block.mtr ∈ systemBlocks := by decide +kernel

theorem witness_GenerationSwitch_host : (∀ (q : QuadId) (k : Fin 16), ringPort committing (.sq q k) = none) ∧
    bitOf (stagedReg committing (.cam 0) Off.camCfg) 0 = bitOf (reg committing (.cam 0) Off.camCfg) 0 := by decide +kernel

theorem witness_MarkerTake :
    (let s := modTile 0 (fun x => { x with work := { x.work with pkts := [⟨.marker 1, 2⟩] } }) committing
     s.tiles[(0 : TileId)].work.pkts = [⟨.marker 1, 2⟩] ∧ s.tiles[(0 : TileId)].seq.running = none ∧
     s.tiles[(0 : TileId)].work.lines = 0 ∧ s.tiles[(0 : TileId)].work.bad = []) ∧
    (let s : State := { committing with hdrs := [], quads := Vector.replicate 4 { quadReset with placed := true } }
     (∀ q : QuadId, s.quads[q].placed = true) ∧ tileSwitched s 0 = true ∧ maskHas s.dev.routerSent 0 = false) := by decide +kernel

/-! ## Reset, start-up and service -/

theorem witness_FullReset :
    up.dev.ready = true ∧ up.dev.powered = true ∧ up.dev.resetLow = false ∧
    (let s := modDev (fun d => { d with ready := false }) up; ctlRuns s = true ∧ ownerId s = 0 ∧ s.flt.safe = false) ∧
    up.rot.lostClks = [] ∧ slotFails up up.dev.slotB = false := by decide +kernel

theorem witness_PowerUpAndLoss :
    State.reset.dev.resetLow = true ∧ slotFails State.reset State.reset.dev.slotB = false ∧
    (let s := modRot (fun r => { r with badSlots := 3 }) State.reset; slotFails s false = true ∧ slotFails s true = true) ∧
    (RefClk.hbm ∈ (modRot (fun r => { r with lostClks := [.hbm] }) up).rot.lostClks) ∧ RefClk.pwr ∉ up.rot.lostClks ∧
    (let s := modRot (fun r => { r with zeroing := 1 }) up; partOf s 0 = 0 ∧ maskHas s.rot.zeroing 0 = true) := by decide +kernel

/-- Rail VDD of quadrant 0 asked for v mV, read back at n mV. -/
def railAt (v n : Nat) : State := modPq 0 (setRailBusy false true ∘ setRailGoal false v ∘ setRailNow false n) up

theorem witness_AvsActionComplete :
    (let s := railAt (railTarget up 0 false + 1) (railTarget up 0 false)
     s.dev.phase ≠ 2 ∧ railBusy (pq s 0) false = true ∧ railTarget s 0 false ≠ railGoal (pq s 0) false ∧
     railFailed (pq s 0) false = false) ∧
    (let s := railAt (railTarget up 0 false) (railTarget up 0 false + 1)
     railTarget s 0 false = railGoal (pq s 0) false ∧ railBusy (pq s 0) false = true ∧ (pq s 0).tableNew = false) ∧
    (let s := modPq 0 (setRailFailed false true) (railAt 300 300); railFailed (pq s 0) false = true) ∧
    railBusy (pq up 0) false = false := by
  refine ⟨⟨by decide +kernel, rfl, ?_, by decide +kernel⟩, ⟨rfl, rfl, by decide +kernel⟩, rfl, rfl⟩
  show railTarget up 0 false ≠ railTarget up 0 false + 1; omega

theorem witness_SensorSample :
    pwrRuns up = true ∧ 2 ≤ up.dev.phase ∧
    (let s := upB .pwr (fun h => { h with mode := .updating }); s.dev.powered = true ∧ pwrRuns s = false) := by
  decide +kernel

/-- Tile x's blocks are all DRAINED. -/
def drainedTile : State := tileUnits.foldl (fun s u => modHdr (.tile 0 u) (fun h => { h with en := true, mode := .drained }) s) up

theorem witness_SelfTest :
    (let s := modDev (fun d => { d with phase := 3, ready := false }) free; s.dev.phase = 3) ∧
    (let s := modDev (fun d => { d with selftest := 1 }) drainedTile
     s.dev.phase ≠ 3 ∧ s.dev.selftest = 1 ∧ (shownCols s s.dev.selftestTile).length ≤ 8 ∧
     gangDrained s s.dev.selftestTile = true ∧ ownerId s = 0) ∧
    selftestRefused drainedTile 0 = false ∧ gangDrained up up.dev.selftestTile = false := by decide +kernel

/-- Start-up step 7, with the stacks as they are. -/
def step7 (x : HbmSt) : State := { free with dev := { free.dev with phase := 4, ready := false }, hbmStacks := Vector.replicate 8 x }
def stackNew : HbmSt := State.reset.hbmStacks[(0 : StackId)]

theorem witness_StartUpSteps :
    (let s := step7 stackNew
     s.hbmStacks[(0 : StackId)].trained = false ∧ quadFailed s 0 = false ∧ s.hbmStacks[(7 : StackId)].trained = false) ∧
    (let s := step7 { stackNew with trained := true }
     s.hbmStacks[(0 : StackId)].trained = true ∧ s.dev.retain = false ∧ s.hbmStacks[(7 : StackId)].filled = false) ∧
    (let s := modStack 7 (fun x => { x with filled := false }) (step7 { stackNew with trained := true, filled := true })
     s.rot.lostClks = [] ∧ (∀ j : StackId, s.hbmStacks[j].trained = true ∧ (j ≠ 7 → s.hbmStacks[j].filled = true))) ∧
    (let s := modDev (fun d => { d with phase := 6, ready := false }) free; s.dev.phase = 6) := by decide +kernel

/-! ## Sequencer -/

/-- Tile 0 runs item 0 of its live generation and stands at word w; scalars 0 to 15 as given. -/
def seqWith (w : Nat) (regs : List Word) : State :=
  { withItem with
    tiles := withItem.tiles.set 0 { tileReset with
      amem := ⟨fwrite zeroByte [] 0 (bytesOfNat 4 w), []⟩
      seq := { seqReset with running := some item0.key, sreg := regs.foldl (fun (v : Vector Word 16 × Nat) x =>
        (vput v.1 v.2 x, v.2 + 1)) (seqReset.sreg, 0) |>.1 } } }

/-- The words of an instruction's fields (R300). -/
def insn (op rd ra low : Nat) : Nat := op * 2 ^ 26 + rd * 2 ^ 22 + ra * 2 ^ 18 + low

/-- `Safety.seqAt` of the state of `seqWith`, in a form that decides. -/
theorem seq_at (w : Nat) (regs : List Word)
    (h : let s := seqWith w regs; let a := reg s (sqc 0) Off.sqcProgBase * 65536 + s.tiles[(0 : TileId)].seq.pc.toNat
      seqItem s 0 = some item0 ∧ s.tiles[(0 : TileId)].seq.waiting = none ∧ s.tiles[(0 : TileId)].seq.pc.toNat % 4 = 0 ∧
      s.tiles[(0 : TileId)].seq.pc.toNat < 65536 ∧ bankReserved s 0 .amem a 4 = false ∧
      (tmem s 0 .amem).err.any (fun e => e.1 / 4 == a / 4) = false ∧ Safety.memWord s 0 .amem a = w) :
    Safety.seqAt (seqWith w regs) 0 item0 w := by
  unfold Safety.seqAt Safety.wordClean; exact h

theorem witness_SeqArithmetic : Safety.seqAt (seqWith (insn 0x09 15 1 0x3FFFF) [0, 0]) 0 item0 (insn 0x09 15 1 0x3FFFF) :=
  seq_at _ _ (by decide +kernel)

theorem witness_SeqBranches :
    Safety.seqAt (seqWith (insn 0x1A 1 2 0x3FFFF) [0, 0xFFFFFFFF, 1]) 0 item0 (insn 0x1A 1 2 0x3FFFF) ∧
    spoisoned (seqWith (insn 0x1A 1 2 0x3FFFF) [0, 0xFFFFFFFF, 1]) 0 1 = false :=
  ⟨seq_at _ _ (by decide +kernel), by decide +kernel⟩

/-- LD of the last word of A-mem, ST there, and ST to W-mem. -/
theorem witness_SeqLoadStore :
    (let s := seqWith (insn 0x10 2 1 0) [0, BitVec.ofNat 32 (memBytes .amem - 4)]
     Safety.seqAt s 0 item0 (insn 0x10 2 1 0)) ∧
    memIndex .amem * 2 ^ 22 + (memBytes .amem - 4) = memBytes .amem - 4 ∧ (memBytes .amem - 4) % 4 = 0 ∧
    (let s := seqWith (insn 0x10 2 1 0) [0, BitVec.ofNat 32 (memBytes .amem - 4)]
     bankReserved s 0 .amem (memBytes .amem - 4) 4 = false) ∧
    (let s := seqWith (insn 0x11 2 1 0) [0, BitVec.ofNat 32 (memBytes .amem - 4)]; s.flt.armed = []) ∧
    (let s := seqWith (insn 0x11 2 1 0) [0, BitVec.ofNat 32 (memIndex .wmem * 2 ^ 22)]
     (sreg s 0 1 + BitVec.ofInt 32 (sext 0 18)).toNat = memIndex .wmem * 2 ^ 22 + 0) :=
  ⟨seq_at _ _ (by decide +kernel), by decide +kernel, by decide +kernel, by decide +kernel, by decide +kernel⟩

/-- The seven blocks' mode ON on tile 0. -/
def allOn (s : State) : State := tileUnits.foldl (fun s u => modHdr (.tile 0 u) (fun h => { h with en := true, mode := .on }) s) s

/-- ISSUE of one vector instruction, of one move descriptor and of one array descriptor from address 64. -/
theorem witness_SeqIssue :
    (∀ p ∈ [2, 0, 1], let w := insn 0x20 0 1 (p * 2 ^ 12); let s := allOn (seqWith w [0, 64])
      fld w 31 26 = 0x20 ∧ fld w 17 14 = 0 ∧ fld w 13 12 = p ∧ fld w 25 22 = 0 ∧ fld w 10 7 = 0 ∧ bitOf w 11 = false ∧
      spoisoned s 0 1 = false ∧ (sreg s 0 1).toNat = 64 ∧ (tmem s 0 .amem).err = [] ∧
      (hdr s (.tile 0 .vec)).mode = .on ∧ (hdr s (.tile 0 .dmv)).mode = .on ∧ (hdr s (.tile 0 .mnt)).mode ≠ .off ∧
      (Safety.freeTokens s 0).length = 32 ∧ s.tiles[(0 : TileId)].vec.queue = [] ∧
      s.tiles[liveLeader s 0].mnt.gang.input = [] ∧ s.tiles[liveLeader s 0].mnt.gang.descs = [] ∧
      Safety.memWord s 0 .amem 0 = w ∧ bankReserved s 0 .amem 64 64 = false) ∧
    (let s := modSeq 0 (fun q => { q with tokens := Vector.replicate 32 (some ⟨.mover, 0, item0.key⟩) })
       (allOn (seqWith (insn 0x20 0 1 0) [0, 64])); Safety.freeTokens s 0 = []) := by decide +kernel

theorem witness_SeqWaits :
    (let s := seqWith (insn 0x21 0 1 0) [0, 0xFFFFFFFF]
     Safety.seqAt s 0 item0 (insn 0x21 0 1 0) ∧ (∀ k < 32, vat s.tiles[(0 : TileId)].seq.tokens k none = none)) ∧
    (let s := seqWith (insn 0x21 0 1 1) [0, 0]; (counterOf s 0 0 - sreg s 0 1).toNat < 2 ^ 31) ∧
    (let s := seqWith (insn 0x21 0 1 1) [0, 1]; 2 ^ 31 ≤ (counterOf s 0 0 - sreg s 0 1).toNat) ∧
    (let s := seqWith (insn 0x22 0 0 4) []; (∀ e ∈ [Engine.mover, .array, .vector], engineHolds s 0 item0.key e = false)) ∧
    (let s := seqWith (insn 0x23 0 1 1) [0, 0]
     partOfTile s 0 = item0.key.part ∧ writesAcked s 0 item0.key = true ∧ routerStops s 0 = false) :=
  ⟨⟨seq_at _ _ (by decide +kernel), by decide +kernel⟩, by decide +kernel, by decide +kernel, by decide +kernel,
    by decide +kernel⟩

theorem witness_SeqWaits_held :
    (let s := modSeq 0 (fun q => { q with waiting := some (.counter 15 1) }) (seqWith 0 [])
     seqItem s 0 = some item0 ∧ waitOver s 0 item0.key (.counter 15 1) = false ∧
     waitOver s 0 item0.key (.counter 15 0) = true) ∧
    (let s := modVec 0 (fun v => { v with queue := [⟨0, [], 0, item0.key, none⟩] }) (seqWith (insn 0x22 0 0 4) [])
     engineHolds s 0 item0.key .vector = true) := by decide +kernel

theorem witness_SeqSpecial :
    Safety.seqAt (seqWith (insn 0x25 3 0 0x14) []) 0 item0 (insn 0x25 3 0 0x14) ∧
    Safety.seqAt (seqWith (insn 0x3F 0 0 0) []) 0 item0 (insn 0x3F 0 0 0) ∧ fld (insn 0x3F 0 0 0) 31 26 ∉ seqOps ∧
    (let s := modSeq 0 (fun q => { q with pc := 65536 }) (seqWith 0 [])
     seqItem s 0 = some item0 ∧ s.tiles[(0 : TileId)].seq.pc.toNat = 65536 ∧ s.tiles[(0 : TileId)].seq.waiting = none) :=
  ⟨seq_at _ _ (by decide +kernel), seq_at _ _ (by decide +kernel), by decide +kernel, by decide +kernel⟩

/-- GENMARK by the dispatcher's job on the head tile, its mask naming every tile. -/
def genmark : State :=
  let s := seqWith (insn 0x24 0 1 (2 * 2 ^ 14)) [0, 1, 0xFFFF]
  { s with items := [{ item0 with job := 0 }], dev := { s.dev with genPend := true, genTarget := 1 } }

theorem witness_SeqGenmark :
    headTile (quadOf 0) = 0 ∧ fld (sreg genmark 0 1).toNat 7 0 = genmark.dev.genTarget.toNat ∧
    seqItem genmark 0 = some { item0 with job := 0 } ∧
    (∀ k : Fin 16, maskHas (sreg genmark 0 2) k.val = true ∧ genmark.tiles[quadTile 0 k].retired = false) ∧
    (∀ x : TileId, queRoom genmark (.work x) 2 = true ∧ genmark.tiles[x].wideReserved = none) := by
  decide +kernel

/-- Item 0 at the front of tile 0's work stream, QUEUED. -/
def queued : State :=
  let s := allOn { up with items := [{ item0 with state := .queued }] }
  modTile 0 (fun x => { x with work := { x.work with pkts := [⟨.item item0.key, 8⟩] } }) s

theorem witness_ItemStart :
    queued.flt.safe = false ∧ meterHold queued = false ∧ queued.tiles[(0 : TileId)].seq.running = none ∧
    (hdr queued (sqc 0)).mode = .on ∧ queued.tiles[(0 : TileId)].work.lines = 0 ∧ queued.tiles[(0 : TileId)].work.bad = [] ∧
    queued.tiles[(0 : TileId)].work.pkts = [⟨.item item0.key, 8⟩] ∧ findItem queued item0.key = some { item0 with state := .queued } := by decide +kernel

/-- Item 0 FINISHING; and the same with a tap accumulator of its own. -/
def finishing : State := { up with items := [{ item0 with state := .finishing }] }
def tapping : State :=
  modTile 0 (fun x => { x with taps := x.taps.set 1 (some ⟨item0.key, 5, 0, ⟨true, 7, false, false, false⟩⟩) }) finishing

theorem witness_ItemEnd :
    finishing.items.find? (fun x => decide (x.tile = 0) && decide (x.key.item = 1) && decide (x.state = .finishing)) =
      some { item0 with state := .finishing } ∧
    outstanding finishing { item0 with state := .finishing } = false ∧ tapsOf finishing item0.key = [] ∧
    finishing.tiles[(0 : TileId)].comp.lines = 0 ∧ findItem tapping item0.key = some { item0 with state := .finishing } ∧
    outstanding tapping { item0 with state := .finishing } = false ∧ routerStops tapping 0 = false ∧ spillWords finishing.tiles[(0 : TileId)].comp ≤ 28 ∧
    tapsOf tapping item0.key = [(0, .vst)] ∧
    tapOpen tapping 0 .vst = some ⟨item0.key, 5, 0, ⟨true, 7, false, false, false⟩⟩ ∧
    outstanding tapping { item0 with state := .finishing, taps := 1 } = true := by decide +kernel

theorem witness_ItemStatus :
    itemStatus { item0 with cancelled := true } = 0x03 ∧ itemStatus { item0 with fenced := true } = 0x02 ∧
    itemStatus { item0 with poisoned := true } = 0x01 ∧ itemStatus { item0 with errs := [(0x13, 0x401), (0x10, 0x402)] } = 0x10 := by
  decide +kernel

/-! ## Vector engine -/

/-- The words of a vector instruction's fields (R166). -/
def vinsn (opc fmt vd va vb vc x : Nat) : DWord :=
  BitVec.ofNat 64 (opc * 2 ^ 56 + fmt * 2 ^ 52 + vd * 2 ^ 47 + va * 2 ^ 42 + vb * 2 ^ 37 + vc * 2 ^ 32 + x)

/-- Tile 0's vector engine has this instruction of item 0 in front, its function slots their built-in tables. -/
def vecWith (w : DWord) (scalars : List Word) : State :=
  modTile 0 (fun x => { x with ftb := bootSlots })
    (modVec 0 (fun v => { v with queue := [⟨w, scalars, 0, item0.key, none⟩] }) (allOn withItem))

/-- The instruction of `vecWith`. -/
def insOf (w : DWord) (scalars : List Word) : VIns := vinsOf ⟨w, scalars, 0, item0.key, none⟩

/-- `Safety.vecAt` in a form that decides. -/
def vecAtB (s : State) (v : VIns) : Bool :=
  decide (vecHead s 0 = some (v, item0)) && decide (s.tiles[(0 : TileId)].vec.badLines = []) && decide (s.flt.armed = [])

theorem vec_at (s : State) (v : VIns) (h : vecAtB s v = true) : Safety.vecAt s 0 v item0 := by
  simp only [vecAtB, Bool.and_eq_true, decide_eq_true_eq] at h
  exact ⟨h.1.1, h.1.2, h.2⟩

/-- `Safety.tileReady` of tile 0 in a form that decides. -/
theorem tile_ready (s : State) (h : ((tmem s 0 .amem).err = [] ∧ (tmem s 0 .pmem).err = [] ∧ (tmem s 0 .wmem).err = []) ∧
    s.tiles[(0 : TileId)].wideReserved = none ∧ routerStops s 0 = false) : Safety.tileReady s 0 :=
  ⟨fun m => match m with
    | .amem => h.1.1
    | .pmem => h.1.2.1
    | .wmem => h.1.2.2, fun m lo len => by unfold bankReserved; rw [h.2.1], h.2.2⟩

theorem witness_tileReady : Safety.tileReady (vecWith 0 []) 0 := tile_ready _ (by decide +kernel)

theorem witness_VectorElementwise :
    (∀ opc ∈ [0x10, 0x11, 0x12, 0x14, 0x15], ∀ fmt ∈ [0, 2], let w := vinsn opc fmt 31 30 29 0 0
      vecAtB (vecWith w []) (insOf w []) = true ∧ aUnused (insOf w []) useAB = false ∧ (insOf w []).fmt ≤ 2) ∧
    (let w := vinsn 0x13 1 31 30 0 29 (2 ^ 31); vecAtB (vecWith w [7]) (insOf w [7]) = true ∧
      aUnused (insOf w [7]) useABC = false ∧ (insOf w [7]).bs = true) ∧
    (let w := vinsn 0x16 3 31 0 29 0 0; vecAtB (vecWith w []) (insOf w []) = true ∧
      aUnused (insOf w []) ⟨false, true, false⟩ = false) ∧
    (∀ opc ∈ List.range' 0x18 9, let w := vinsn opc 3 31 31 31 0 0
      vecAtB (vecWith w []) (insOf w []) = true ∧ aUnused (insOf w []) useAB = false ∧ (insOf w []).fmt = 3) := by
  decide +kernel

theorem witness_VectorCompareMove :
    (let w := vinsn 0x28 3 31 30 29 0 (6 * 2 ^ 20); vecAtB (vecWith w []) (insOf w []) = true ∧
      aUnused (insOf w []) useAB = false ∧ (insOf w []).sub = 6) ∧
    (let w := vinsn 0x29 0 31 30 29 28 0; vecAtB (vecWith w []) (insOf w []) = true ∧ aUnused (insOf w []) useABC = false) ∧
    (∀ p ∈ [(3, 0, 0, 31), (0, 3, 0, 31), (0, 2, 30, 0), (1, 0, 31, 30)],
      let w := vinsn 0x17 p.1 p.2.2.1 p.2.2.2 0 0 (p.2.1 * 2 ^ 18)
      vecAtB (vecWith w []) (insOf w []) = true ∧ aUnused (insOf w []) useA = false ∧ (insOf w []).sfmt = p.2.1 ∧
        (insOf w []).fmt = p.1 ∧ (insOf w []).roundA = false) ∧
    (∀ opc ∈ [0x30, 0x31, 0x32], let w := vinsn opc 0 31 31 0 0 (5 * 2 ^ 20)
      vecAtB (vecWith w []) (insOf w []) = true ∧ aUnused (insOf w []) useA = false ∧ (insOf w []).sub = 5) ∧
    (let w := vinsn 0x38 0 28 24 0 0 0; vecAtB (vecWith w []) (insOf w []) = true ∧ aUnused (insOf w []) useA = false) ∧
    (let w := vinsn 0x39 3 31 30 29 0 0; vecAtB (vecWith w []) (insOf w []) = true ∧ aUnused (insOf w []) useAB = false) := by
  decide +kernel

/-- A plain region of FP32 elements, 256 bytes a row: s1 its base, s2 its strides. -/
def plainArgs : List Word := [0, 0, BitVec.ofNat 32 (2 ^ 16 + 64)]
/-- Base scalar 1, stride scalar 2. -/
def plainX : Nat := 1 * 2 ^ 28 + 2 * 2 ^ 24
/-- The same with cast context 7, one block a row. -/
def blockCtx (s : State) : State :=
  modVec 0 (fun v => { v with ctx := vput v.ctx 7 { castCtxZero with tscale := 0x3F800000, kb := 1, rowBytes := 64, rowGroups := 1,
                                                                     listStart := 128 } }) s
def blockX : Nat := plainX + 7 * 2 ^ 15

theorem witness_VectorLoads :
    (let w := vinsn 0x01 9 31 0 0 0 (plainX + 2 * 2 ^ 22); let s := vecWith w plainArgs; let v := insOf w plainArgs
     let m := mArgs v
     vecAtB s v = true ∧ (tmem s 0 .wmem).err = [] ∧ mPoisoned v true = false ∧ memOfIndex m.mem = some .wmem ∧
       mFormatBad m = false ∧ mUnused v true false false true true = false ∧ 6 < m.mf ∧ packedFmt m.rf = false ∧
       m.round = false ∧ m.base + 15 * m.rs + 63 * m.es * 4 + 4 ≤ memBytes .wmem) ∧
    (let w := vinsn 0x01 4 31 0 0 0 blockX; let s := blockCtx (vecWith w plainArgs); let v := insOf w plainArgs
     let m := mArgs v
     vecAtB s v = true ∧ mFormatBad m = false ∧ mUnused v true false false true true = false ∧ m.mf ≤ 6 ∧ m.es = 1 ∧
       m.rf = 0 ∧ tscaleOk (mCtx s 0 m).tscale = true ∧ firstFail (blockRegion m (mCtx s 0 m)) = none) ∧
    (let a : List Word := [0, 0, 1]; let w := vinsn 0x03 9 31 30 0 0 plainX; let s := vecWith w a; let v := insOf w a
     let m := mArgs v
     vecAtB s v = true ∧ mUnused v true true false true false = false ∧ gatherFmts m = true ∧ mSS v = 1 ∧
       mFormatBad m = false ∧ (∀ k ∈ [0, 1023], (Safety.lane s 0 v.va k).toNat < mSS v)) := by decide +kernel

/-- No line of a register is poisoned where the engine's poison map is empty. -/
theorem no_poison (s : State) (h : s.tiles[(0 : TileId)].vec.poison = []) : ∀ r j, Safety.line s 0 r j = false := by
  intro r j; unfold Safety.line; rw [h]; rfl

theorem witness_VectorStores :
    (let w := vinsn 0x02 9 31 0 0 0 (plainX + 2 ^ 22); let s := vecWith w plainArgs; let v := insOf w plainArgs
     let m := mArgs v
     vecAtB s v = true ∧ s.tiles[(0 : TileId)].vec.poison = [] ∧ memOfIndex m.mem = some .pmem ∧
       mUnused v true false false false false = false ∧ m.prune = 0 ∧ mFormatBad m = false ∧ m.round = false) ∧
    (let w := vinsn 0x02 4 31 0 0 0 blockX; let s := blockCtx (vecWith w plainArgs); let v := insOf w plainArgs
     let m := mArgs v
     vecAtB s v = true ∧ mUnused v true false false false false = false ∧ m.prune = 0 ∧ m.es = 1 ∧
       headerAhead s 0 m (mCtx s 0 m) = false ∧ firstFail (blockRegion m (mCtx s 0 m)) = none) ∧
    (let a : List Word := [0, 0, 0]; let w := vinsn 0x02 4 30 0 0 0 (blockX + 4 * 2 ^ 12)
     let s := blockCtx (vecWith w a); let v := insOf w a; let m := mArgs v; let c := mCtx s 0 m
     vecAtB s v = true ∧ mUnused v true false false false false = false ∧ m.prune = 4 ∧ v.vd < 31 ∧
       pruneOrderBad c (mSS v) m.sk = false ∧ tscaleOk c.tscale = true ∧ cursorOf c % 64 = 0 ∧ m.sk < c.kb ∧
       mSS v < c.rowGroups ∧
       m.base + c.rowGroups * mapBytes c.kb + cursorOf c + listBytes (prunedBlocks s 0 item0 v) ≤ memBytes .amem) ∧
    (∀ opc ∈ [0x04, 0x05], let a : List Word := [0, 0, 1]; let w := vinsn opc 9 0 30 31 0 plainX; let s := vecWith w a
     let v := insOf w a; let m := mArgs v
     vecAtB s v = true ∧ mUnused v false true true false false = false ∧ gatherFmts m = true ∧ m.mf = 9 ∧ mSS v = 1) := by
  decide +kernel

/-- A-mem holds these words from address 0. -/
def withAmem (ws : List Word) (s : State) : State :=
  modTile 0 (fun x => { x with amem := ⟨fwrite zeroByte [] 0 (bytesOfWords ws), []⟩ }) s

/-- A program of one input, one output, which copies its element: IN 0 into e0, OUT 0 from e0. -/
def copyProg : List Word :=
  [BitVec.ofNat 32 (2 + 1 * 64 + 1 * 512)] ++ List.replicate 15 0 ++ [insnU 0x30, insnU 0x31] ++ List.replicate 46 0
where insnU (op : Nat) : Word := BitVec.ofNat 32 (op * 2 ^ 26)

theorem witness_VectorContexts :
    (∀ opc ∈ [0x06, 0x07, 0x08], let w := vinsn opc 0 0 0 0 0 0; vecAtB (vecWith w []) (insOf w []) = true ∧
      noRegs (insOf w []) = true) ∧
    (Prog.mk copyProg).ok = true ∧ (Prog.mk (List.replicate 64 0)).ok = false ∧
    (let s := withAmem copyProg (vecWith (vinsn 0x07 0 0 0 0 0 0) [])
     (List.range 64).map (fun k => Safety.wordAt s 0 .amem (4 * k)) = copyProg) := by decide +kernel

theorem witness_VectorScans :
    (∀ op ∈ [0, 4], let w := vinsn 0x40 0 30 29 (if op = 4 then 28 else 0) 0 (63 + op * 2 ^ 7 + (if op = 4 then 2 ^ 12 else 0))
      let v := insOf w []; let a := sArgs v
      vecAtB (vecWith w []) v = true ∧ a.op = op ∧ a.slot = 63 ∧ a.use = false ∧ a.seg = false ∧ fld v.x 27 15 = 0 ∧
        beyond v.vd 2 = false ∧ clash v.vd 2 v.va 1 = false ∧ clash v.vd 2 v.vb 1 = false) ∧
    (∀ act ∈ [0, 1, 2, 3], let w := vinsn 0x41 0 0 0 0 0 (act * 2 ^ 13); let v := insOf w []
      vecAtB (vecWith w []) v = true ∧ (sArgs v).act = act ∧ noRegs v = true ∧ fld v.x 27 15 = 0 ∧
        (seqSlot (vecWith w []) 0 0).owner = none) ∧
    (let w := vinsn 0x41 0 0 0 0 0 (2 * 2 ^ 13); let s := withAmem [1] (vecWith w [])
     fld (Safety.wordAt s 0 .amem 0).toNat 7 0 = jobByte item0.key.part item0.job) ∧
    (let w := vinsn 0x41 0 0 0 0 0 0
     let s := modVec 0 (fun x => { x with slots := vput x.slots 0 { seqSlotFree with owner := some (0, 2) } }) (vecWith w [])
     (seqSlot s 0 0).owner ≠ none ∧ (seqSlot s 0 0).owner ≠ itemOwner item0) := by decide +kernel

theorem witness_VectorTables :
    (let w := vinsn 0x48 0 31 30 0 0 0; let s := vecWith w []; vecAtB s (insOf w []) = true ∧
      aUnused (insOf w []) useA = false ∧ slotEmpty s 0 0 = false ∧ (ftSlot s 0 0).activeBank.badLines = []) ∧
    (let w := vinsn 0x49 0 0 0 0 0 (2 * 2 ^ 20); let s := vecWith w []; vecAtB s (insOf w []) = true ∧
      noRegs (insOf w []) = true ∧ genSwapPending s 0 2 = false ∧ (ftSlot s 0 2).inactive = .empty ∧
      bankRefs s 0 2 (!(ftSlot s 0 2).active) = 0) ∧
    (∀ act ∈ [0, 1], let w := vinsn 0x50 0 29 28 0 0 (act * 2 ^ 14); let v := insOf w []
      vecAtB (vecWith w []) v = true ∧ actOf v = act ∧ nrOf v = 0 ∧ v.va + nrOf v < 32 ∧ validCols v ≤ 64 * (nrOf v + 1)) ∧
    (let w := vinsn 0x50 0 29 0 0 0 (2 * 2 ^ 14); vecAtB (vecWith w []) (insOf w []) = true ∧ actOf (insOf w []) = 2) := by
  decide +kernel

/-- SMAX_STEP of one register, its record at address 0 of A-mem: state rows at 0x1F0000, O at 0, a ring of 256, one lane. -/
def smaxWith (act : Nat) : State × VIns :=
  let a : List Word := [0, 0]
  let w := vinsn 0x51 0 (if act = 2 then 0 else 1) (if act = 2 then 0 else 2) 0 0 (1 * 2 ^ 24 + act * 2 ^ 14)
  (withAmem [0x1F0000, 0, 0x10100] (vecWith w a), insOf w a)

theorem witness_VectorSmax :
    (∀ act ∈ [0, 1, 2], let s := (smaxWith act).1; let v := (smaxWith act).2
      let ws := (List.range 16).map (fun k => Safety.wordAt s 0 .amem (amemScalar v + 4 * k))
      vecAtB s v = true ∧ actOf v = act ∧ bitOf v.x 23 = false ∧ fld (v.scalar (fld v.x 27 24)).toNat 31 19 = 0 ∧
        smaxRsvd ws = false ∧ firstFail (smaxChecks s 0 v (smaxArgs v ws) true) = none ∧ heldStep s 0 = none ∧
        (ftSlot s 0 v.sub).activeBank.badLines = [] ∧
        tagReady s 0 (fld v.x 19 16) (smaxArgs v ws).v = false ∧
        tagReady (modTile 0 (fun x => { x with mnt := { x.mnt with rtag := vput x.mnt.rtag 0 255 } }) s) 0 (fld v.x 19 16)
          (smaxArgs v ws).v = true) ∧
    (let v := (smaxWith 0).2; let h : FoldHold := ⟨[0x1F0000, 0, 0x10100], some (0, false), [(0, none, false)]⟩
     let s := holdStep 0 item0 (smaxBeats v) h (smaxWith 0).1
     let s1 := modTile 0 (fun x => { x with mnt := { x.mnt with rtag := vput x.mnt.rtag 0 255 } }) s
     heldStep s 0 = some h ∧ tagReady s 0 (fld v.x 19 16) (smaxArgs v h.record).v = false ∧ heldStep s1 0 = some h ∧
       tagReady s1 0 (fld v.x 19 16) (smaxArgs v h.record).v = true) := by decide +kernel

theorem witness_VectorPrograms :
    (let w := vinsn 0x58 0 31 30 0 0 0; let v := insOf w []
     let s := modVec 0 (fun x => { x with progs := vput x.progs 0 (some copyProg) }) (vecWith w [])
     vecAtB s v = true ∧ progSlot s 0 v = some ⟨copyProg⟩ ∧ (Prog.mk copyProg).nin = 1 ∧ (Prog.mk copyProg).nout = 1 ∧
       (Prog.mk copyProg).draws = false ∧ (Prog.mk copyProg).luts = [] ∧ runLen v = 1 ∧ progIns v ⟨copyProg⟩ = [30] ∧
       progOuts v ⟨copyProg⟩ = [31] ∧ progSlot (vecWith w []) 0 v = none ∧
       (∀ k : Fin 8, (s.tiles[(0 : TileId)].ftb[k]).activeBank.badLines = [])) ∧
    (let w := vinsn 0x59 0 0 0 0 0 0; let v := insOf w []
     let ws : List Word := [2, 0, BitVec.ofNat 32 (9 * 2 ^ 24 + 1024), 1] ++ List.replicate 6 0 ++
       [BitVec.ofNat 32 (9 * 2 ^ 24 + 1 * 2 ^ 22), 1] ++ List.replicate 4 0
     let s := withAmem ws (modVec 0 (fun x => { x with progs := vput x.progs 0 (some copyProg) }) (vecWith w []))
     vecAtB s v = true ∧ noRegs v = true ∧ progPoisoned s 0 0 = false ∧
       (List.range 16).map (fun k => Safety.wordAt s 0 .amem (4 * k)) = ws ∧
       (progStreams ⟨copyProg⟩ ws).2.all (fun x => decide (x.mem < 2 ∧ 1 ≤ x.stride)) = true ∧
       ((progStreams ⟨copyProg⟩ ws).1 ++ (progStreams ⟨copyProg⟩ ws).2).all (fun x => decide (x.mem < 3 ∧ 7 ≤ x.fmt ∧
         x.fmt ≤ 10 ∧ x.base % x.width = 0 ∧ x.beyond 2 = false)) = true) := by decide +kernel

/-! ## Stage chains, tables, tile memories -/

/-- A chain that fills one line of A-mem at 64 with a word. -/
def fillCtrl : Nat := 2 ^ 2 + 15 * 2 ^ 16 + 15 * 2 ^ 20

theorem witness_StageChain :
    (pgState up (vecB 0) = 0 ∧ up.tiles[(0 : TileId)].vec.sc.running = false ∧
      (let s := setRegAt (pageBase (vecB 0) 0 + Off.vecScCtrl + 12) 1 up
       let cfg := Nat.land fillCtrl 0xFFFFFC :: (List.range 8).map (fun k => reg s (vecB 0) (Off.vecScCtrl + 4 * (k + 1)))
       firstFail ((scCfgOf cfg).checks (slotEmpty s 0 (scCfgOf cfg).tslot)) = none)) ∧
    (firstFail ((scCfgOf (5 * 2 ^ 20 :: List.replicate 8 0)).checks true)).isSome = true ∧
    pgState (allOn up) (vecB 0) = 1 ∧
    (let s := modVec 0 (fun x => { x with sc := ⟨true, false, false, [fillCtrl, 0, 64, 1, 0, 0, 0, 0, 0x11223344]⟩ }) up
     let c := scCfgOf s.tiles[(0 : TileId)].vec.sc.cfg
     memOfIndex c.dmem = some .amem ∧ c.fillSrc = true ∧ c.raw = true ∧ c.ofmt = 15 ∧ c.wmode = 0 ∧ c.fill < 2 ^ 32 ∧
       c.dst = 64 ∧ c.lines = 1 ∧ s.tiles[(0 : TileId)].vec.sc.running = true ∧ s.tiles[(0 : TileId)].vec.sc.byRot = false ∧
       s.flt.safe = false ∧ s.flt.armed = [] ∧ portCount s 0 = 0 ∧ s.tiles[(0 : TileId)].wideReserved = none) := by
  decide +kernel

/-- A load of built-in table 10, and of an image at the end of A-mem, into slot 7. -/
def builtinLoad : Word := BitVec.ofNat 32 (7 + 8 + 10 * 16)
def imageLoad0 : Word := BitVec.ofNat 32 (7 + (memBytes .amem - 1088) / 64 * 256)

theorem witness_TableLoad :
    Nat.land builtinLoad.toNat 0xFF000000 = 0 ∧ fld builtinLoad.toNat 3 3 = 1 ∧ fld builtinLoad.toNat 7 4 < 11 ∧
    fld imageLoad0.toNat 3 3 = 0 ∧ 64 * fld imageLoad0.toNat 23 8 + 1088 ≤ memBytes .amem ∧
    (ftSlot up 0 7).inactive ≠ .loading ∧ genSwapPending up 0 7 = false ∧
    11 ≤ fld (BitVec.ofNat 32 (7 + 8 + 11 * 16) : Word).toNat 7 4 ∧
    memBytes .amem < 64 * fld (imageLoad0 + 256).toNat 23 8 + 1088 ∧
    (let s := setFtSlot 0 7 { ftSlotEmpty with inactive := .loading, load := some (builtinLoad, false) } up
     (ftSlot s 0 7).load = some (builtinLoad, false) ∧ bankRefs s 0 7 (!(ftSlot s 0 7).active) = 0) := by
  decide +kernel

theorem witness_Scrub :
    (hdr (allOn up) (.tile 0 .scrb)).mode = .on ∧
    (let s := modTile 0 (fun x => { x with scrub := ⟨1, 1, 1⟩ }) (allOn up)
     (∀ m ∈ [MemSel.amem, .pmem, .wmem], scrubRate s 0 m ≠ 0 ∧ creditOf s.tiles[(0 : TileId)].scrub m ≠ 0 ∧
         (tmem s 0 m).err = [] ∧ bankReserved s 0 m (64 * fld (reg s (.tile 0 .scrb) (scrubPosOff m)) 15 0) 64 = false) ∧
       portCount s 0 = 0) ∧
    up.tiles[(0 : TileId)].wideReserved = none ∧ 2048 * (1023 : BitVec 11).toNat < memBytes .amem ∧
    0 < fld (reg up (.tile 0 .dmv) Off.dmvAge) 7 0 ∧ (0 : BitVec 6).toNat < memBanks .amem ∧
    up.tiles[(0 : TileId)].promoted = [] := by decide +kernel

/-- A descriptor of tile 0's mover waits for the wide view. -/
def wideQueued : State :=
  modTile 0 (fun x => { x with mov := { x.mov with
    queue := [mvNew (List.replicate 16 (BitVec.allOnes 32)) item0.key 0 0 none 0] } }) up

theorem witness_WideReserve : wideWaits wideQueued = true ∧ wideQueued.tiles[(0 : TileId)].wideReserved = none ∧
    wideWaits up = false := by decide +kernel

/-! ## Arrays and data movement -/

/-- An ADD descriptor of one step of one K-block, both operands of format 2. -/
def arrWords : List Word :=
  [BitVec.ofNat 32 (1 + 2 * 2 ^ 8 + 2 * 2 ^ 12 + 2 ^ 18), 0, 0x10001, 0, 0, 0, 0, 0, 0, 0x3F800000, 0x3F800000] ++ List.replicate 5 0
def arrDesc : ArrDesc := ⟨arrWords, item0.key, 0, 0, 0, some 15, 0, 0, 0, 1, false, []⟩

/-- Tile 0's array, its blocks ON, with this gang state. -/
def gangWith (g : GangSt) : State := setGang 0 g (allOn withItem)

theorem witness_ArrayAccept :
    (let s := gangWith { gangIdle with input := [arrDesc] }
     (gangOf s 0).input = [arrDesc] ∧ (gangOf s 0).descs.length < 4 ∧ firstFail (acceptChecks s 0 arrDesc) = none ∧
     (∀ m ∈ (0 : TileId) :: arrDesc.issuer :: liveMembers s 0,
       (hdr s (mnt m)).genLive = arrDesc.gen ∧ (hdr s (mnt m)).mode = .on)) ∧
    (let d := { arrDesc with gen := 1 }; (hdr (gangWith { gangIdle with input := [d] }) (mnt 0)).genLive ≠ d.gen) ∧
    (let d := { arrDesc with words := 2 :: arrWords.drop 1 }
     firstFail (acceptChecks (gangWith { gangIdle with input := [d] }) 0 d) = some eFormat) ∧
    (let d := { arrDesc with words := arrWords.take 9 ++ [0, 0x3F800000] ++ List.replicate 5 0 }; let a := arrArgs d.words
     a.op = 1 ∧ a.rsvd = false ∧ arrPairOk a = true ∧ tscaleOk a.a.tscale = false) ∧
    (let d := { arrDesc with words := arrWords.take 2 ++ [0] ++ arrWords.drop 3 }; let a := arrArgs d.words
     a.rsvd = false ∧ tscaleOk a.a.tscale = true ∧ tscaleOk a.b.tscale = true ∧ a.kb = 0) ∧
    (let s := modHdr (mnt 0) (fun h => { h with mode := .fenced }) (gangWith { gangIdle with input := [arrDesc] })
     (hdr s (mnt 0)).genLive = arrDesc.gen ∧ (hdr s (mnt 0)).mode = .fenced ∧ (0 : TileId) ∈ (0 : TileId) :: arrDesc.issuer :: liveMembers s 0 ∧
     ∀ m ∈ (0 : TileId) :: arrDesc.issuer :: liveMembers s 0, (hdr s (mnt m)).genLive = arrDesc.gen) := by decide +kernel

/-- A descriptor shaped right, of misaligned A, and one whose region ends beyond P-mem. -/
theorem witness_ArrayAccept_checks :
    ∀ x ∈ [(3, (4 : Word)), (7, BitVec.ofNat 32 (memBytes .pmem - 1024))],
      let d := { arrDesc with words := arrWords.set x.1 x.2 }
      let a := arrArgs d.words
      let s := gangWith { gangIdle with input := [d] }
      a.op = 1 ∧ a.rsvd = false ∧ arrPairOk a = true ∧ tscaleOk a.a.tscale = true ∧ tscaleOk a.b.tscale = true ∧
        (a.kb ≠ 0 ∧ a.steps ≠ 0 ∧ a.add = true ∧ d.issuer = 0 ∧ (gangGeo s 0).n ≠ 0 ∧ gangUnusable s 0 = false ∧
          ∀ m ∈ liveMembers s 0, (hdr s (mnt m)).mode ≠ .draining ∧ (hdr s (mnt m)).mode ≠ .drained ∧
            (hdr s (mnt m)).mode ≠ .updating) ∧
        ((x.1 = 3 ∧ a.a.base % 64 ≠ 0) ∨
          (a.a.base % 64 = 0 ∧ a.a.stride % 64 = 0 ∧ a.b.base % 64 = 0 ∧ a.b.stride % 64 = 0 ∧ a.drainBase % 1024 = 0 ∧
            a.a.sparse = false ∧ a.b.sparse = false ∧ memBytes .pmem < a.drainBase + 1024 * (256 * (gangGeo s 0).n))) := by
  decide +kernel

/-- A step being fed at its first slot. -/
def feeding : GangSt :=
  { gangIdle with descs := [{ arrDesc with nextStep := 1 }], plan := some ⟨0, 0, [], 32, 32, 32, 0, 0⟩, runOpen := true }

theorem witness_ArrayBeat :
    (let s := gangWith feeding
     liveLeader s 0 = 0 ∧ (gangDesc (gangOf s 0) 0).isSome = true ∧ 15 * rampLen s 0 / 32 < slotsLeft (gangGeo s 0) (gangOf s 0) ∧
       s.pwr.quads[quadOf 0].fa = 0 ∧ genWaits s 0 = none ∧ (∀ x : TileId, s.tiles[x].wideReserved = none)) ∧ gangActive (gangWith gangIdle) 0 = false := by decide +kernel

theorem witness_ArrayEnd :
    (let s := gangWith { feeding with haltRun := 64 }; (gangOf s 0).runOpen = true ∧ 64 ≤ (gangOf s 0).haltRun) ∧
    (let d := { arrDesc with nextStep := 1, stepsDrained := 1 }
     (gangOf (gangWith { gangIdle with descs := [d] }) 0).descs = [d] ∧ d.stepsDrained = d.stepsTotal ∧ d.nextStep = d.stepsTotal) ∧
    (0xFFFF : Word).toNat < 2 ^ 16 := by decide +kernel

/-- COPY of one FP32 word from the end of A-mem to the end of P-mem. -/
def copyWords : List Word :=
  [1 + 2 ^ 11, 9 + 9 * 16, BitVec.ofNat 32 (memBytes .amem - 4), 0x10000, BitVec.ofNat 32 (memBytes .pmem - 4), 0x10000,
   0x10001, 1, 0, 0, 0, 0, 0x40000, 0, 0, 0]
def moveOf (ws : List Word) : MvDesc := mvNew ws item0.key 0 0 (some 15) 0

/-- Tile 0's mover has this descriptor in front. -/
def moving (d : MvDesc) : State := modMov 0 (fun m => { m with queue := [d] }) (allOn withItem)

theorem witness_Move :
    (let s := moving (moveOf copyWords); let a := mvArgs copyWords
     findItem s item0.key = some item0 ∧ (moveOf copyWords).gen = (hdr s (dmv 0)).genLive ∧ (hdr s (dmv 0)).mode = .on ∧
     portCount s 0 = 0 ∧ routerStops s 0 = false ∧ s.tiles[(0 : TileId)].wideReserved = none ∧ a.op = 1 ∧ a.xform = 0 ∧ a.sspace = 0 ∧ a.dspace = 1 ∧ a.splt = false ∧ a.dplt = false ∧
     a.wide = false ∧ a.predict = false ∧ a.release = false ∧ a.useStream = false ∧ a.sfmt = 9 ∧ a.dfmt = 9 ∧
     a.sSparse = false ∧ a.dSparse = false ∧ a.addSrc = false ∧ a.rsvd = 0 ∧ a.srec = 0 ∧ a.drec = 0 ∧ a.hems = false ∧
     a.d0 = 1 ∧ a.d1 = 1 ∧ a.d2 = 1 ∧ a.d3 = 1 ∧ a.d4 = 1 ∧ a.ss1 = 0 ∧ a.ss2 = 0 ∧ a.ss3 = 0 ∧ a.ss4 = 0 ∧ a.ds1 = 4 ∧
     a.ds2 = 0 ∧ a.ds3 = 0 ∧ a.ds4 = 0 ∧ a.src + 4 * a.d0 = memBytes .amem ∧ a.dst + 4 * a.d0 = memBytes .pmem ∧
     s.flt.armed = []) ∧
    (mvArgs (List.replicate 16 0)).op = 0 ∧
    (let d := { moveOf copyWords with moved := true }; let s := modMov 0 (fun m => { m with active := [d] }) (allOn withItem)
     s.tiles[(0 : TileId)].mov.active.find? (fun d => d.token == 0) = some d ∧ d.todo = [] ∧ d.outstanding = 0) := by
  decide +kernel

/-- STREAM_OPEN of slot 255, one FP32 word of device memory; and STREAM_CLOSE. -/
def streamWords (op : Nat) : List Word :=
  [BitVec.ofNat 32 (op + 3 * 2 ^ 8 + 255 * 2 ^ 24), 9 + 9 * 16, 0, 0x10000, 0, 0x10000, 0x10001, 1] ++ List.replicate 8 0
def stream0 : StreamSt := ⟨0, 1, 0, [5], 0, 0, false, false⟩
def setStream0 (s : State) : State := modQuad 0 (fun q => { q with streams := [(255, some stream0)] }) s

theorem witness_Streams :
    (∀ op ∈ [2, 3], let ws := streamWords op; let s := moving (moveOf ws); let a := mvArgs ws
     a.op = op ∧ formatBad 0 a = false ∧ a.sspace = 3 ∧ a.sfmt = 9 ∧ a.hems = false ∧ a.release = false ∧ a.sh = 255 ∧
     a.d0 = 1 ∧ a.d1 = 1 ∧ a.d2 = 1 ∧ a.d3 = 1 ∧ a.d4 = 1 ∧ a.srec = 0 ∧ a.drec = 0 ∧ streamAt s (quadOf 0) 255 = none ∧
     (moveOf ws).checked = false ∧ (hdr s (dmv 0)).mode = .on) ∧
    (let s := setStream0 up
     streamAt s 0 255 = some stream0 ∧ stream0.part = item0.key.part ∧ stream0.job = item0.job) ∧
    ({ stream0 with next := 1 }).lines.length ≤ max ({ stream0 with next := 1 }).next ({ stream0 with next := 1 }).pointer ∧
    stream0.lines[0]? = some 5 ∧ (0 : Nat) < stream0.pointer + 512 := by decide +kernel

/-- An entry of a translation cache: the first 2 MiB of partition 0, writable. -/
def mapped : TlbEntry := ⟨0, false, 0, 0, true, true, false, 0, []⟩

/-- A line that does not translate, since no table is mapped; and one through an entry that is kept. -/
theorem witness_StreamPrefetch :
    (∃ c, (translate (streamReq 0 stream0) (128 * 5) false (Safety.unmarked (setStream0 up))).1 = .error c) ∧
    (let s := { setStream0 up with walkXlate := Vector.replicate 4 { xlateReset with tlb := [mapped] } }
     ∃ e, (translate (streamReq 0 stream0) (128 * 5) false (Safety.unmarked s)).1 = .ok e ∧ e.nra = false ∧
       yields (Safety.unmarked s) false (entryPa e (128 * 5)) = false) := by
  exact ⟨⟨ePage, by decide +kernel⟩, ⟨mapped, by decide +kernel⟩⟩

/-! ## Work submission and queues -/

/-- Quadrant 0's dispatcher and head tile run; submission queue 0 and completion queue 0 are enabled, and this descriptor is
in the submission queue's cuffs. -/
def submitted (ws : List Word) : State :=
  let s := modHdr (.qdsp 0) (fun h => { h with en := true, mode := .on }) (allOn up)
  let s := setQueReg (.sq 0 0) Off.queCtrl 1 (setQueReg (.cq 0 0) Off.queCtrl 1 s)
  setQue (.sq 0 0) { spillEmpty with pkts := [⟨.desc 0 ws 0, 8⟩] } s
def entryOf (ws : List Word) : SqEntry := ⟨0, ws, 0⟩
def popped (ws : List Word) : State := popEntry 0 0 (readRings 0 (Safety.unmarked (submitted ws)))

/-- `Safety.unheld` in a form that decides. -/
theorem un_held (s : State)
    (h : (∀ t : TileId, s.tiles[t].wideReserved = none ∧ routerStops s t = false) ∧
      ∀ k : StackId, s.hbmStacks[k].promoted = [] ∧ stackHeld s k = false) : Safety.unheld s := h

/-- `Safety.inTurn` in a form that decides. -/
theorem in_turn (s : State) (ws : List Word)
    (h : ((∀ t : TileId, s.tiles[t].wideReserved = none ∧ routerStops s t = false) ∧
        ∀ k : StackId, s.hbmStacks[k].promoted = [] ∧ stackHeld s k = false) ∧
      dispatchHeld s 0 = false ∧
      (let r := readRings 0 (Safety.unmarked s)
       nextEntry 0 0 r = some (entryOf ws) ∧ (queOf r (.sq 0 0)).lines = 0 ∧ (queOf r (.sq 0 0)).bad = [] ∧
         ∀ j : Fin 16, j ≠ 0 → nextEntry 0 j r = none)) :
    Safety.inTurn s 0 0 (entryOf ws) (popEntry 0 0 (readRings 0 (Safety.unmarked s))) :=
  ⟨h.1, h.2.1, h.2.2.1, h.2.2.2.1, h.2.2.2.2.1, rfl, h.2.2.2.2.2⟩

/-- RUN of job 0 on tiles 0 and 1; JOB_START, JOB_END and JOB_ABORT of job 63. -/
def runWords : List Word := [1, 0, 3] ++ List.replicate 13 0
def jobWords (op : Nat) : List Word := BitVec.ofNat 32 (op + 63 * 2 ^ 8) :: List.replicate 15 0

theorem witness_RunPlacesItems :
    Safety.inTurn (submitted runWords) 0 0 (entryOf runWords) (popped runWords) ∧
    (descOf runWords).op = opRun ∧ Safety.cqReady (popped runWords) 0 0 (entryOf runWords) ∧
    runFails (popped runWords) 0 runWords (descOf runWords) = none ∧
    runWaits (popped runWords) (queNumber 0 0) (descOf runWords) = false ∧
    (tilesOf (descOf runWords).tiles) = [0, 1] ∧
    descReserved (List.replicate 16 0) = true ∧
    runFails (popped runWords) 0 ([1, 0, 3, 0, 2] ++ List.replicate 11 0) (descOf ([1, 0, 3, 0, 2] ++ List.replicate 11 0)) =
      some eAlign := by
  refine ⟨in_turn _ _ (by decide +kernel), by decide +kernel, by unfold Safety.cqReady; decide +kernel, by decide +kernel,
    by decide +kernel, by decide +kernel, by decide +kernel, by decide +kernel⟩

/-- A failed quadrant, a retired tile, a job that is not granted, and a fenced block each stop the same RUN. -/
def runOn (f : State → State) : State := f (submitted runWords)
theorem witness_RunRefused :
    (let ws : List Word := [1, 0, 0x80] ++ List.replicate 13 0
     let s := modDev (fun d => { d with qfail := 2 }) (submitted ws)
     (descOf ws).op = opRun ∧ (tilesOf (descOf ws).tiles).any (fun x => quadFailed s (quadOf x)) = true) ∧
    (let s := runOn (modTile 1 (fun x => { x with retired := true })); s.tiles[(1 : TileId)].retired = true) ∧
    (let ws : List Word := [1 + 5 * 2 ^ 8, 0, 3] ++ List.replicate 13 0
     (descOf ws).op = opRun ∧ maskHas (popped ws).quads[leadQuad (popped ws) 0].granted (descOf ws).job.toNat = false) ∧
    (let s := runOn (modHdr (.tile 1 .mnt) (fun h => { h with mode := .fenced })); (hdr s (.tile 1 .mnt)).mode = .fenced) := by
  decide +kernel

theorem witness_RunRefused_turn :
    (∀ s ∈ [runOn (modTile 1 (fun x => { x with retired := true })),
        runOn (modHdr (.tile 1 .mnt) (fun h => { h with mode := .fenced }))],
      Safety.inTurn s 0 0 (entryOf runWords) (popEntry 0 0 (readRings 0 (Safety.unmarked s)))) ∧
    (let ws : List Word := [1 + 5 * 2 ^ 8, 0, 3] ++ List.replicate 13 0
     Safety.inTurn (submitted ws) 0 0 (entryOf ws) (popped ws)) := by
  refine ⟨fun s h => ?_, in_turn _ _ (by decide +kernel)⟩
  fin_cases h <;> exact in_turn _ _ (by decide +kernel)

theorem witness_RunDropped :
    cqTakes (setQueReg (.cq 0 0) Off.queCtrl 0 (popped runWords)) 0 0 = false ∧
    (let ws := runWords.take 2 ++ [BitVec.ofNat 32 0] ++ runWords.drop 3
     runFails (popped ws) 0 ws (descOf ws) = some eProgram) := by decide +kernel

/-- Job 63 is granted to partition 0. -/
def granted63 (s : State) : State := modQuad (leadQuad s 0) (fun x => { x with granted := maskSet x.granted 63 }) s

theorem witness_Jobs :
    Safety.inTurn (submitted (jobWords 2)) 0 0 (entryOf (jobWords 2)) (popped (jobWords 2)) ∧
    (descOf (jobWords 2)).op = opJobStart ∧ jobStartFails (popped (jobWords 2)) 0 (jobWords 2) (descOf (jobWords 2)) = none ∧
    markRoom (popped (jobWords 2)) 1 = true ∧
    (∀ op ∈ [3, 4], jobEndFails (granted63 (popped (jobWords op))) 0 (jobWords op) (descOf (jobWords op)) = none ∧
      (descOf (jobWords op)).op = op) := by
  refine ⟨in_turn _ _ (by decide +kernel), by decide +kernel, by decide +kernel, by decide +kernel, by decide +kernel⟩

theorem witness_JobNumberFree :
    (let r : BitVec 6 × Nat × Nat × Nat × BitVec 16 × Byte := (63, 0, 0, 0, 7, 0)
     let s := modQuad 0 (fun x => { x with ending := maskSet 0 63, jobEnds := [r] }) (submitted runWords)
     leadQuad s 0 = 0 ∧ maskHas s.quads[(0 : QuadId)].ending 63 = true ∧ s.items = [] ∧ markRoom s 1 = true ∧
       queRoom s (.cq 0 0) 4 = true ∧ s.quads[(0 : QuadId)].jobEnds.find? (fun x => decide (x.1 = 63)) = some r) ∧
    (∃ i ∈ withItem.items, i.key.part = 0 ∧ i.job = 1) := by
  refine ⟨by decide +kernel, ⟨item0, by decide +kernel, rfl, rfl⟩⟩

/-- The ring of a queue set to 2 ^ n entries in device memory, of partition 0 and master 0. -/
def ringOf (id : QueueId) (n : Nat) (s : State) : State := setQueReg id Off.queRingCfg n s

theorem witness_QueueRegisters :
    (let s := ringOf (.sq 0 0) 6 (setQueReg (.sq 0 0) Off.queCtrl 1 up)
     queEn s (.sq 0 0) = true ∧ ringSize s (.sq 0 0) = 64 ∧ ownerId s = 0) ∧ queEn up (.sq 0 0) = false ∧
    (let s := ringOf (.cq 0 0) 6 (setQueReg (.cq 0 0) Off.queCtrl 1 up)
     (0 + ringSize s (.cq 0 0) - cqHead s (.cq 0 0)) % ringSize s (.cq 0 0) ≤ cqHeld s (.cq 0 0) ∧
       cqHeld s (.cq 0 0) < (63 + ringSize s (.cq 0 0) - cqHead s (.cq 0 0)) % ringSize s (.cq 0 0)) ∧
    enableRefused up (.cq 0 0) = none ∧ enableRefused (setQueReg (.cq 0 0) Off.queSpillBase 64 up) (.cq 0 0) = some eAlign ∧
    dataQueue (.cq 0 0) = false ∧ queQuad (.cq 0 0) = some 0 ∧ fld 6 4 0 = 6 ∧ (partOf up 0).val = fld 6 9 8 := by
  decide +kernel

theorem witness_QueuePacketWrite :
    spillWords (queOf up (.sq 0 0)) + 16 ≤ 32 ∧ (queOf up (.sq 0 0)).dropping = false ∧ dataQueue (.sq 0 0) = false ∧
    (let s := modTile 0 (fun x => { x with comp := { x.comp with pkts := List.replicate 8 ⟨.raw [], 4⟩ } })
       (setQueReg (.comp 0) Off.queSpillSize 12 up)
     32 < spillWords (queOf s (.comp 0)) + 16 ∧ queRoom s (.comp 0) 16 = true ∧ 64 ≤ spillSize s (.comp 0) ∧ s.tiles[(0 : TileId)].wideReserved = none ∧
       (queOf s (.comp 0)).partWords = []) ∧
    dataQueue (.fab 23) = true ∧ (dataOf up (.fab 23)).words.length < dataRoom 16 ∧
    (let s := setQue (.sq 0 0) { spillEmpty with dropping := true } up; (queOf s (.sq 0 0)).dropping = true) ∧
    (let s := modTile 0 (fun x => { x with comp := { x.comp with pkts := [⟨.raw [], 2 ^ 20⟩] } }) up
     queRoom s (.comp 0) 1 = false) := by decide +kernel

/-- Item 0's record in tile 0's completion stream, its completion queue enabled. -/
def recorded : State :=
  modTile 0 (fun x => { x with comp := { x.comp with pkts := [⟨.record (itemRecord { item0 with state := .ended }), 4⟩] } })
    { submitted runWords with items := [{ item0 with state := .ended }] }

theorem witness_QueuePacketTake :
    (findItem recorded (recordKey (itemRecord { item0 with state := .ended }))).isSome = true ∧
    spillWords (queOf recorded (.cq 0 0)) ≤ 28 ∧ (queOf recorded (.comp 0)).lines = 0 ∧ (queOf recorded (.comp 0)).bad = [] ∧
    routerStops recorded 0 = false ∧ blockStops recorded (sqc (headTile (quadOf 0))) = false ∧ (queOf recorded (.cq 0 0)).lines = 0 ∧
    (let s := { up with fabQs := Vector.replicate 24 { dataEmpty with words := [⟨5, true, true, true⟩] } }
     (dataOf s (.fab 23)).words = [⟨5, true, true, true⟩]) ∧ queued.tiles[(0 : TileId)].work.pkts = [⟨.item item0.key, 8⟩] ∧
    Safety.inTurn (submitted (jobWords 3)) 0 0 (entryOf (jobWords 3)) (popped (jobWords 3)) := by
  refine ⟨by decide +kernel, by decide +kernel, by decide +kernel, by decide +kernel, by decide +kernel, by decide +kernel,
    by decide +kernel, by decide +kernel, by decide +kernel, in_turn _ _ (by decide +kernel)⟩

/-- Completion queue 0 of quadrant 0 holds a record; its ring is mapped by an entry that the walker keeps. -/
def posting : State :=
  let s := ringOf (.cq 0 0) 6 (submitted runWords)
  let s := setQue (.cq 0 0) { spillEmpty with pkts := [⟨.record (List.replicate 8 1), 4⟩] } s
  { s with walkXlate := Vector.replicate 4 { xlateReset with tlb := [mapped] } }

theorem witness_CompletionRecords :
    queEn posting (.cq 0 0) = true ∧ cqFull posting (.cq 0 0) = false ∧
    posting.quads[(0 : QuadId)].cqs[(0 : Fin 16)].half = none ∧ ringPort posting (.cq 0 0) = none ∧
    ringLog posting (.cq 0 0) ≤ 16 ∧
    posting.quads[(0 : QuadId)].cqs[(0 : Fin 16)].q.lines = 0 ∧ posting.quads[(0 : QuadId)].cqs[(0 : Fin 16)].q.bad = [] := by
  decide +kernel

theorem witness_CompletionRecords_held : Safety.unheld posting := un_held _ (by decide +kernel)

/-! ## Main memory -/

/-- Main memory with these code faults, all controllers ON. -/
def hbmWith (err : FMap Nat) : State :=
  modHdr (.hbm 0) (fun h => { h with en := true, mode := .on }) { withItem with hbmErr := err }

/-- The same after a demand read of its first sector. -/
def hbmTouched : State := match exec (.hbmAccess 0 .demandRead 0 [0] 1 false false) (hbmWith []) with
  | .next t => t
  | _ => hbmWith []

theorem witness_HbmAccesses :
    stackOfPa 0 = 0 ∧ stackOfPa 0 ≠ 7 ∧
    (let s := hbmWith []
     s.hbmStacks[(0 : StackId)].marked = [] ∧ s.hbmStacks[(0 : StackId)].promoted = [] ∧ s.hbmStacks[(0 : StackId)].onDie = [] ∧
       sectorCached s 0 = false ∧ cwErr s 0 = 0 ∧ cwErr s 1 = 0 ∧ outranked s false 0 = false ∧ mappedAt s 0 = none) ∧
    cwErr (hbmWith [(0, 1)]) 0 = 1 ∧ cwErr (hbmWith [(0, 2)]) 0 = 2 ∧
    (let s := hbmTouched; sectorCached s 0 = true ∧ sectorBad s 0 = false) := by decide +kernel

/-- A request that a promoted one at another bank of its pseudo-channel outranks, whichever bank is its own. -/
theorem witness_Outranked :
    ∃ b : BitVec 6, outranked (modStack 0 (fun x => { x with promoted := [(0, false, b, false)] }) (hbmWith [])) false 0 = true := by
  have key (b : BitVec 6) (h : (b.toNat == bankOfPa 0) = false) :
      outranked (modStack 0 (fun x => { x with promoted := [(0, false, b, false)] }) (hbmWith [])) false 0 = true := by
    show (true && !((true && (b.toNat == bankOfPa 0)) && true || false)) = true
    rw [h]; rfl
  by_cases h : bankOfPa 0 = 0
  · exact ⟨1, key 1 (by rw [h]; rfl)⟩
  · exact ⟨0, key 0 (by simpa using fun e => h e.symm)⟩

/-- A prefetch yields to a demand request that waits for its pseudo-channel; a controller that drains serves nothing. -/
theorem witness_HbmWaits :
    (let s := { hbmWith [] with pending := [.hbmAccess 0 .demandRead 0 [0] 1 false false] }
     yields s false 0 = true ∧ needsStack s .prefetch 0 1 = true ∧ yields s true 0 = true ∧ yields (hbmWith []) true 0 = false) ∧
    (let s := modHdr (.hbm 0) (fun h => { h with mode := .draining }) (hbmWith [])
     stackHeld s 0 = true ∧ stackHeld (hbmWith []) 0 = false) ∧
    (let s := modStack 0 (fun x => { x with promoted := [(31, true, 63, false)] }) (hbmWith [])
     (∃ x ∈ s.hbmStacks[(0 : StackId)].promoted, x.1 = 31 ∧ x.2.1 = true ∧ x.2.2.1 = 63)) ∧
    (let s := modRot (fun r => { r with lostClks := [.hbm] }) (hbmWith []); RefClk.hbm ∈ s.rot.lostClks) := by decide +kernel

theorem witness_HbmUpkeep :
    (let s := hbmWith []
     fld (phyReg s 0 Off.hbmScrubRate) 15 0 ≠ 0 ∧ (hdr s (.hbm 0)).mode = .on ∧ phyReg s 0 Off.hbmScrubPos = 0 ∧
       s.evac[quadOfStack 0].regions = [] ∧ walkedPa s (stackSectorPa 0 0) = some 0 ∧ outranked s false 0 = false ∧
       onDieBad s 0 = false ∧ onDieBad s 1 = false ∧ 0 < fld (reg s (.hbm 0) Off.hbmAge) 15 0 ∧
       s.hbmStacks[(0 : StackId)].selfRefresh = false) ∧
    (let s := modStack 0 (fun x => { x with onDie := [0] }) (hbmWith []); onDieBad s 0 = true ∧ sectorCached s 0 = false) ∧
    (let s := modEvac 0 (fun e => { e with regions := [(false, 0, false)] }) (hbmWith [])
     walkedPa s (stackSectorPa 0 0) = none) ∧
    (let s := modEvac 0 (fun e => { e with confirmed := true }) up
     chanRefused s 0 true 31 = false ∧ s.evac[(0 : QuadId)].phase = 0) ∧
    chanRefused (modEvac 0 (fun e => { e with phase := 1 }) up) 0 true 31 = true ∧
    (let s := modEvac 0 (fun e => { e with phase := 2 }) up
     s.evac[(0 : QuadId)].phase = 2 ∧ phyReg s (quadStack 0 false) Off.hbmTrainStat < 2 ^ 32) := by decide +kernel

/-! ## Gwetre -/

/-- Port 0 of chip 0 is UP without keys, its route table leads to chip 1 through port 0 itself, and tile 0's DMV runs. -/
def linked : State :=
  modPort 0 (fun g => { g with link := .up, lanes := 8, credits := Vector.replicate 3 256, routes := [(1, 0x20)] })
    { allOn withItem with rot := { withItem.rot with lc := 0 } }

/-- A packet from chip 1 to chip `dst`, of n sectors, with a payload. -/
def packet (opc dst n : Nat) (payload : List Byte) (addr : Nat) : GwPacket :=
  ⟨gwWords ⟨opc, if gwIsRequest opc then 0 else 1, flitsOf (if carriesData opc then n else 0), 0, dst, 1, 0, n, 0, 0, 0, false,
    tagOf 0 0 0 0 0xFFFF 1 false false 1, addr⟩, payload, List.replicate 12 0, .good, true⟩

/-- The fabric address of a byte of tile 0's A-mem. -/
def fabAmem (a : Nat) : Nat := 0xFF * 2 ^ 40 + a

/-- `Safety.gwIn` in a form that decides. -/
theorem gw_in (s : State) (p : PortId) (opc : Nat) (pk : GwPacket)
    (h : portUp s p = true ∧ (gwHdrOf pk.header).opc = opc ∧ pk.crc = .good ∧ pk.tagOk = true ∧
      (gwHdrOf pk.header).lseq = s.ports[p].rxSeq.toNat ∧ (gwHdrOf pk.header).ackV = false ∧ gwMalformed pk = false ∧
      s.ports[p].held = []) :
    Safety.gwIn s p opc pk := ⟨h.1, h.2.1, h.2.2.1, .inl h.2.2.2.1, h.2.2.2.2⟩

theorem linked_route : Safety.gwRoute linked 0 1 0 false 1 1 := by unfold Safety.gwRoute; decide +kernel

theorem witness_GwetreRequests :
    Safety.noMoves linked ∧ blockStops linked (gwp 0) = false ∧ Safety.tileReady linked 0 ∧
    (let pk := packet gwWrite 0 1 (List.replicate 64 7) (fabAmem (memBytes .amem - 64))
     Safety.gwIn linked 0 gwWrite pk ∧ windowAt linked.ports[(0 : PortId)] 0 (gwHdrOf pk.header).addr 64 = none ∧
       tagPoison (gwHdrOf pk.header).tag = false ∧ (gwHdrOf pk.header).dchip = ownChip linked ∧
       fabPlace linked 0 (gwHdrOf pk.header).addr 64 = .ok (.mem 0 .amem (memBytes .amem - 64)) ∧
       fabPlace linked 0 (fabAmem (memBytes .amem)) 64 = .error eExtent) ∧
    (let pk := packet gwRead 0 1 [] (fabAmem 0); Safety.gwIn linked 0 gwRead pk) ∧
    (let pk := packet gwWrite 1 1 (List.replicate 64 7) 0
     Safety.gwIn linked 0 gwWrite pk ∧ (gwHdrOf pk.header).dchip ≠ ownChip linked ∧ (gwHdrOf pk.header).vc < 3) ∧
    (let pk := packet gwWrite 2 1 (List.replicate 64 7) 0
     Safety.gwIn linked 0 gwWrite pk ∧ routeOf linked.ports[(0 : PortId)].routes 2 = none) ∧ portUp up 0 = false := by
  refine ⟨by unfold Safety.noMoves; decide +kernel, by decide +kernel, tile_ready _ (by decide +kernel), ⟨gw_in _ _ _ _ (by decide +kernel), by decide +kernel⟩,
    gw_in _ _ _ _ (by decide +kernel), ⟨gw_in _ _ _ _ (by decide +kernel), by decide +kernel⟩,
    ⟨gw_in _ _ _ _ (by decide +kernel), by decide +kernel⟩, by decide +kernel⟩

/-- A port that drains, and one at which a packet stands already; a route to a port without credit. -/
def heldPk : GwPacket := packet gwRead 0 1 [] (fabAmem 0)
theorem witness_GwetreHeld :
    (let s := modHdr (gwp 0) (fun h => { h with mode := .draining }) linked
     blockStops s (gwp 0) = true ∧ s.ports[(0 : PortId)].held = [] ∧ portUp s 0 = true ∧
       (let s := modPort 0 (fun g => { g with held := [⟨heldPk, true, true⟩] }) s
        s.ports[(0 : PortId)].held = [⟨heldPk, true, true⟩] ∧ blockStops s (gwp 0) = true ∧ (gwHdrOf heldPk.header).schip = 1)) ∧
    (let s := modPort 0 (fun g => { g with credits := Vector.replicate 3 0 }) linked
     let pk := packet gwWrite 1 1 (List.replicate 64 7) 0; let h := gwHdrOf pk.header
     h.dchip ≠ ownChip s ∧ routeOf s.ports[(0 : PortId)].routes h.dchip = some (0, false) ∧ portUp s 0 = true ∧
       s.ports[(0 : PortId)].waiting = [] ∧ vat s.ports[(0 : PortId)].credits (routedHdr false h).vc 0 < h.flits) := by
  decide +kernel

/-- A reduce window over 4 KiB at the start of tile 0's A-mem, BF16 in and FP32 there. -/
theorem witness_GwetreWindow :
    (let s := modPort 0 (fun g => { g with rdw := [(0, BitVec.ofNat 64 (fabAmem 0 + 2 ^ 50 + 2 ^ 52)), (1, 1)] }) linked
     let w : Window := ⟨fabAmem 0, 4096, 0, 2, 4⟩
     windowAt s.ports[(0 : PortId)] 0 (fabAmem 64) 64 = some w ∧ windowHolds w (fabAmem 64) 64 = true ∧
       reduceRange w (fabAmem 64) 64 = (fabAmem 128, 128) ∧ windowHolds w (fabAmem 128) 128 = true ∧
       sectorSpan (fabAmem 128) 128 = (fabAmem 128, 128) ∧
       fabPlace s 0 (fabAmem 128) 128 = .ok (.mem 0 .amem 128)) := by decide +kernel

/-- Tile 0's mover has a descriptor with two requests outstanding, one of which is request 0. -/
def remoteReq : FabReq := ⟨0, 0, 0, 1, item0.key, some 0, true, 0, 1, .va 0, false⟩
def waitingData : State :=
  { modMov 0 (fun m => { m with active := [{ moveOf copyWords with moved := true, outstanding := 2 }] }) linked with
    fabReqs := [remoteReq] }

/-- A response with one sector of data where it carries data. -/
def reply (opc : Nat) : GwPacket :=
  packet opc 0 (if opc = gwReadData then 1 else 0) (List.replicate (if opc = gwReadData then 64 else 0) 9) 0

theorem waiting_none_failed : Safety.noneFailed waitingData ∧ Safety.noneFailed linked := by
  unfold Safety.noneFailed; decide +kernel

/-- A response for another chip: its route's port is DOWN; stomped, its route's port is UP. -/
theorem witness_GwetreTransit :
    (let s := modPort 0 (fun g => { g with routes := [(2, 0x21)] }) linked
     let pk := packet gwWriteAck 2 0 [] 0; let h := gwHdrOf pk.header
     Safety.gwIn s 0 gwWriteAck pk ∧ fabReqAt s h.rqid = none ∧ h.dchip ≠ ownChip s ∧
       routeOf s.ports[(0 : PortId)].routes h.dchip = some (1, false) ∧ portUp s 1 = false) ∧
    (let pk := { packet gwWriteAck 1 0 [] 0 with crc := .stomped }; let h := gwHdrOf pk.header
     portUp linked 0 = true ∧ h.opc = gwWriteAck ∧ gwMalformed pk = false ∧ linked.flt.safe = false ∧
       Safety.gwRoute linked 0 h.dchip 0 false h.vc h.flits) := by
  refine ⟨⟨gw_in _ _ _ _ (by decide +kernel), by decide +kernel⟩, ?_⟩
  unfold Safety.gwRoute; decide +kernel

theorem witness_GwetreResponses :
    (∀ opc ∈ [gwWriteAck, gwReadData, gwError], let pk := reply opc
      portUp waitingData 0 = true ∧ (gwHdrOf pk.header).opc = opc ∧ (gwHdrOf pk.header).lseq = 0 ∧
        (gwHdrOf pk.header).ackV = false ∧ gwMalformed pk = false ∧ (gwHdrOf pk.header).dchip = ownChip waitingData ∧
        fabReqAt waitingData (gwHdrOf pk.header).rqid = some remoteReq ∧ fabReqAt linked (gwHdrOf pk.header).rqid = none ∧
        (gwHdrOf pk.header).status ≠ eLinkDown ∧ packetPasses waitingData 0 ({ pk with crc := .bad } : GwPacket) = false) ∧
    (waitingData.tiles[(0 : TileId)].mov.active.find? (fun x => x.serial == 0)).isSome = true ∧
    waitingData.ports[(0 : PortId)].nakSent = false ∧ (∀ q : QuadId, linked.quads[q].srv.todo = []) ∧
    fld (BitVec.ofNat 32 (0xA50000 + 1) : Word).toNat 23 16 = 0xA5 := by decide +kernel

/-- A LINK_CTRL packet with these three words. -/
def ctrl (w3 w6 w7 : Nat) : GwPacket :=
  ⟨[BitVec.ofNat 32 gwLinkCtrl, 0, 0, BitVec.ofNat 32 w3, 0, 0, BitVec.ofNat 32 w6, BitVec.ofNat 32 w7], [], List.replicate 12 0,
    .good, true⟩

/-- Port 0 holds one sent packet of LSEQ 0. -/
def sent : State :=
  modPort 0 (fun g => { g with retry := [⟨⟨(packet gwRead 1 1 [] 0).header, [], false, []⟩, 0⟩] }) linked

theorem witness_GwetreLinks :
    (∀ pk ∈ [ctrl 0 (256 + 2 ^ 29) 0, ctrl (2 ^ 12) 0 0, ctrl 0 0 (2 ^ 12)], portUp linked 0 = true ∧
      (gwHdrOf pk.header).opc = gwLinkCtrl ∧ ctrlMalformed pk = false) ∧
    ctrlMalformed (ctrl 0 (2 ^ 30) 0) = true ∧
    (gwHdrOf ((sent.ports[(0 : PortId)].retry.map (·.tx.header)).headD [])).lseq = 0 ∧
    (∀ k ∈ [0, 1, 2], vat linked.ports[(0 : PortId)].credits k 0 ≤ 256) ∧
    (let s := modPort 0 (fun g => { g with retry := g.retry.map (fun x => { x with fails := 9 }) }) sent
     (s.ports[(0 : PortId)].retry.any (fun x => decide (8 < x.fails))) = true) ∧
    (let s := modPort 0 (fun g => { g with rxFails := 9 }) linked
     8 < s.ports[(0 : PortId)].rxFails ∧ s.ports[(0 : PortId)].retry = []) ∧
    (let s := modPort 0 (fun g => { g with link := .training }) up
     s.ports[(0 : PortId)].link = .training ∧ (s.rot.lc = 1 ∨ s.rot.lc = 2)) ∧ linked.rot.lc = 0 ∧
    (let pk := { ctrl 0 0 0 with crc := .bad }
     (gwHdrOf pk.header).opc = gwLinkCtrl ∧ packetPasses linked 0 pk = false) := by decide +kernel

/-! ## Cammos -/

/-- Port 0 of the host is UP with credits. -/
def hosted : State :=
  modCam 0 (fun c => { c with link := .up, lanes := 8, creditsP := 1000, creditsNP := 1000, creditsCpl := 1000 }) (allOn withItem)

/-- A transaction, and a state in which port 0 has it next. -/
def camTx (h : CamHdr) (payload : List Byte) : CamTx := ⟨camWords h, payload, []⟩
def received (x : CamTx) (s : State) : State := modCam 0 (fun c => { c with rx := [x] }) s

/-- `Safety.camIn` in a form that decides. -/
theorem cam_in (s : State) (h : HostId) (tt : Nat) (x : CamTx) (rest : List CamTx)
    (g : ctlRuns s = true ∧ s.cams[h].rx = x :: rest ∧ (camHdrOf x.header).ttype = tt ∧ camReserved x.header = false) :
    Safety.camIn s h tt x rest := g

/-- A register access of port 0's master, of length n to address a. -/
def regTx (tt n a : Nat) : CamTx := camTx ⟨tt, n, 5, 0, a, false, false⟩ (if tt = ttRegWr then [1, 0, 0, 0, 0, 0, 0, 0] else [])

def answers (o : Host.Outcome State Fault Refusal) : Bool := match o with | .next _ => true | _ => false

theorem witness_CammosRegisters :
    (∀ tt ∈ [ttRegRd, ttRegWr], ∀ n ∈ [0, 1, 2], ∀ a ∈ [0x101080, 0x101081, 2 ^ 25],
      let x := regTx tt n a
      ctlRuns (received x hosted) = true ∧ (received x hosted).cams[(0 : HostId)].rx = x :: [] ∧
        (camHdrOf x.header).ttype = tt ∧ camReserved x.header = false ∧ (camHdrOf x.header).len = n ∧
        (camHdrOf x.header).addr = a ∧ (camHdrOf x.header).conf = false) ∧
    (0x101080 ≠ pageBase .own 0 + Off.devReset) ∧
    answers (exec (.lowWordRead (Safety.portMaster 0) 4 (BitVec.ofNat 25 0x101080)) (returnCredit 0 (regTx ttRegRd 1 0x101080)
      (received (regTx ttRegRd 1 0x101080) hosted))) = true ∧
    answers (exec (.registerWrite (Safety.portMaster 0) 4 (BitVec.ofNat 25 0x101080) 1)
      (Safety.camTaken 0 (regTx ttRegWr 1 0x101080) [] (received (regTx ttRegWr 1 0x101080) hosted))) = true := by decide +kernel

/-- A doorbell of the last queue of port 0's master, to entry v. -/
def dbTx63 (v : Nat) : CamTx := camTx ⟨ttDb, 1, 0, 0, 63, false, false⟩ (bytesOfNat 8 v)
def ringing (en : Nat) (v : Nat) : State :=
  received (dbTx63 v) (setQueReg (.sq (dbQueue 63).1 (dbQueue 63).2) Off.queRingCfg 6
    (setQueReg (.sq (dbQueue 63).1 (dbQueue 63).2) Off.queCtrl en hosted))

theorem witness_CammosDoorbell :
    (∀ en ∈ [0, 1], ∀ v ∈ [63, 64], let s := ringing en v
      let id := QueueId.sq (dbQueue 63).1 (dbQueue 63).2
      ctlRuns s = true ∧ s.cams[(0 : HostId)].rx = dbTx63 v :: [] ∧ (camHdrOf (dbTx63 v).header).ttype = ttDb ∧
        camReserved (dbTx63 v).header = false ∧ (camHdrOf (dbTx63 v).header).len = 1 ∧
        s.flt.safe = false ∧ s.cams[(0 : HostId)].sess[ringPart s id].state = .none ∧
        payloadWord (dbTx63 v).payload = v ∧ ownerId s = (hostMaster 0).val ∧ ringSize s id = 64 ∧
        queEn s id = decide (en = 1)) := by decide +kernel

/-- A fetch of one entry is outstanding in slot 3, epoch 1; the completion that answers it. -/
def fetchRead : CamRead := ⟨3, 1, some (0, 0), 16⟩
def fetchCpl (epoch : Nat) : CamTx := camTx ⟨ttCpl, 16, 3 + 2 ^ 8 * epoch, 0, 0, false, false⟩ (List.replicate 64 1)
def fetching (epoch : Nat) : State :=
  modCam 0 (fun c => { c with reads := [fetchRead], epochs := [(3, 1)] }) (received (fetchCpl epoch) hosted)

theorem witness_CammosCompletion :
    (∀ e ∈ [0, 1], let s := fetching e
      let hd := camHdrOf (fetchCpl e).header
      ctlRuns s = true ∧ s.cams[(0 : HostId)].rx = fetchCpl e :: [] ∧ hd.ttype = ttCpl ∧ camReserved (fetchCpl e).header = false ∧
        (fget (fun _ => 0) s.cams[(0 : HostId)].epochs (fld hd.tagid 7 0) = fld hd.tagid 9 8 ↔ e = 1) ∧
        hd.conf = false ∧ hd.status = stDone ∧ hd.poison = false ∧ hd.len = fetchRead.words ∧
        s.cams[(0 : HostId)].reads.find? (fun y => decide (y.slot.toNat = fld hd.tagid 7 0)) = some fetchRead) ∧
    camUp hosted 0 = true ∧ hosted.cams[(0 : HostId)].waiting = [] ∧ hosted.cams[(0 : HostId)].flits = [] ∧
    camUnits ⟨ttCpl, 128, 0, 0, 0, false, false⟩ ≤ hosted.cams[(0 : HostId)].creditsCpl ∧
    flitsFor (camBytes ⟨ttCpl, 128, 0, 0, 0, false, false⟩) ≤ 256 := by decide +kernel

/-- Window 0 of port 0 opens the first 4 KiB of tile 0's A-mem, for reads and writes or for neither. -/
def windowed (perm : Nat) (s : State) : State :=
  setReg (camB 0) Off.camDwinBase (0xFF * 2 ^ 40 + 2 ^ 50 + perm * 2 ^ 51)
    (setReg (camB 0) Off.camDwinSize 1 s)
def memTx0 (tt n a : Nat) : CamTx := camTx ⟨tt, n, 5, 0, a, false, false⟩ (if tt = ttMemWr then List.replicate (4 * n) 7 else [])
def memIn (tt n a perm : Nat) : State := received (memTx0 tt n a) (windowed perm hosted)

theorem witness_CammosMemory :
    (∀ tt ∈ [ttMemRd, ttMemWr], let s := memIn tt 4 4080 3
      let x := memTx0 tt 4 4080
      ctlRuns s = true ∧ s.cams[(0 : HostId)].rx = x :: [] ∧ (camHdrOf x.header).ttype = tt ∧ camReserved x.header = false ∧
        s.flt.safe = false ∧ s.flt.armed = [] ∧ (camHdrOf x.header).conf = false ∧ (camHdrOf x.header).poison = false ∧
        memChecks s 0 x (devWindow s 0 0) (tt == ttMemWr) = none ∧
        memPlace s (devWindow s 0 0) 4080 (tt == ttMemWr) = .ok (.mem 0 .amem 4080) ∧
        (memChecks (memIn tt 4 4080 0) 0 x (devWindow (memIn tt 4 4080 0) 0 0) (tt == ttMemWr) = none ∧
          memPlace (memIn tt 4 4080 0) (devWindow (memIn tt 4 4080 0) 0 0) 4080 (tt == ttMemWr) = .error ePerm) ∧
        memChecks s 0 (memTx0 tt 4 4084) (devWindow s 0 0) (tt == ttMemWr) = some eAlign ∧
        memChecks s 0 (memTx0 tt 1 4096) (devWindow s 0 0) (tt == ttMemWr) = some eExtent ∧
        memChecks s 0 (memTx0 tt 0 0) (devWindow s 0 0) (tt == ttMemWr) = some eFormat ∧
        memChecks s 0 (memTx0 tt 129 0) (devWindow s 0 0) (tt == ttMemWr) = some eFormat) ∧
    (camHdrOf (memTx0 ttMemWr 4 0).header).ttype = ttMemWr ∧
    Nat.land (0xF : Word).toNat (mustBeZero .camSess Off.camSessClose) = 0 := by decide +kernel

theorem witness_CammosMemory_ready : Safety.tileReady (memIn ttMemRd 4 4080 3) 0 := tile_ready _ (by decide +kernel)

/-- A data flit of FSEQ n with one register read in its stream, and a flit of link word w. -/
def readFlit (n : Nat) (ok : Bool) : CamFlit :=
  ⟨BitVec.ofNat 32 n, fitBytes 120 (bytesOfWords (regTx ttRegRd 1 0x101080).header), ok⟩
def linkFlit (w p : Nat) : CamFlit := ⟨BitVec.ofNat 32 w, fitBytes 120 (bytesOfNat 4 p), true⟩

/-- Two flits held for retry, the first at its ninth failure where `fails` says so, with the posted writes in them. -/
def held (fails : Nat) : State :=
  modCam 0 (fun c => { c with flits := [⟨0, List.replicate 120 0, fails⟩, ⟨1, List.replicate 120 0, 0⟩]
                              retry := [(0, memTx0 ttMemWr 4 0), (1, memTx0 ttMemRd 4 0)] }) hosted

theorem witness_CammosLinks :
    (camUp hosted 0 = true ∧ bitOf (readFlit 0 true).link.toNat 26 = false ∧ fld (readFlit 0 true).link.toNat 11 0 = 0 ∧
      hosted.cams[(0 : HostId)].rxSeq = 0 ∧ bitOf (readFlit 0 true).link.toNat 25 = false ∧ bitOf (readFlit 0 true).link.toNat 24 = false ∧
      parseCam 2048 (hosted.cams[(0 : HostId)].partBytes ++ fitBytes 120 (readFlit 0 true).stream) =
        ([regTx ttRegRd 1 0x101080], [])) ∧
    ((readFlit 0 false).crcOk = false ∧ fld (readFlit 7 true).link.toNat 11 0 = 7 ∧ hosted.cams[(0 : HostId)].nakSent = false) ∧
    (let s := modCam 0 (fun c => { c with nakSent := true }) hosted; s.cams[(0 : HostId)].nakSent = true ∧ camUp s 0 = true) ∧
    (camUp up 0 = false ∧ bitOf (linkFlit (2 ^ 26) 0).link.toNat 26 = true ∧ (linkFlit (2 ^ 26) 0).crcOk = true ∧
      hosted.cams[(0 : HostId)].waiting = []) ∧
    (let f := linkFlit (2 ^ 24 + 2 ^ 26) 9
     bitOf f.link.toNat 24 = true ∧ bitOf f.link.toNat 25 = false ∧ fld f.link.toNat 23 12 = 0 ∧
       (held 0).cams[(0 : HostId)].flits.map (·.fseq) = [0, 1]) ∧
    (let f := linkFlit (2 ^ 25 + 2 ^ 26) 0
     bitOf f.link.toNat 25 = true ∧ ∀ x ∈ (held 0).cams[(0 : HostId)].flits, (x.fseq.toNat + 4096 - fld f.link.toNat 23 12) % 4096 < 2048) ∧
    (let x := memTx0 ttMemWr 1 0
     let s := modCam 0 (fun c => { c with waiting := [x, x], creditsP := 0 }) hosted
     s.cams[(0 : HostId)].waiting = [x, x] ∧ (linkFlit (2 ^ 26) 8).link.toNat = 2 ^ 26 ∧
       2 * camUnits (camHdrOf x.header) ≤ fld (streamWord (linkFlit (2 ^ 26) 8) 0) 11 0 ∧
       s.cams[(0 : HostId)].flits.length + flitsFor (2 * camBytes (camHdrOf x.header)) ≤ 256) := by decide +kernel

/-- A port that drains, and a flit with one memory read in its stream. -/
theorem witness_CammosLate :
    blockStops (modHdr (camB 0) (fun h => { h with mode := .draining }) hosted) (camB 0) = true ∧
    parseCam 2048 (hosted.cams[(0 : HostId)].partBytes ++ fitBytes 120 (bytesOfWords (memTx0 ttMemRd 4 0).header)) =
      ([memTx0 ttMemRd 4 0], []) ∧
    (camHdrOf (memTx0 ttMemRd 4 0).header).ttype ∈ [ttMemRd, ttMemWr, ttDb] := by decide +kernel

theorem witness_CammosLinkDown :
    (Safety.noHostRings up ∧ Safety.noHostRings (held 8) ∧ Safety.noHostRings (held 9)) ∧
    (up.cams[(0 : HostId)].link = .down ∧ up.dev.phase ≠ 5) ∧
    ((held 8).cams[(0 : HostId)].link = .up ∧ (∀ x ∈ (held 8).cams[(0 : HostId)].flits, x.fails ≤ 8) ∧
      (held 8).cams[(0 : HostId)].rxFails ≤ 8) ∧
    (∃ x ∈ (held 9).cams[(0 : HostId)].flits, 8 < x.fails) ∧
    (let c := (modCam 0 (fun c => { c with link := .training }) up).cams[(0 : HostId)]
     c.link = .training ∧ c.waiting = [] ∧ c.irqPending = 0) ∧
    (Nat.land (0x5A00 : Word).toNat (mustBeZero .cam Off.camAbandon) = 0 ∧ fld (0x5A00 : Word).toNat 15 8 = 0x5A ∧
      ((fetching 1).cams[(0 : HostId)].reads.map (·.slot)).Nodup) := by
  have h (s : State) (g : (List.finRange 4).all (fun q => (List.finRange 16).all (fun k => (ringPort s (.sq q k)).isNone)) = true) :
      Safety.noHostRings s := by
    intro q k
    simpa using List.all_eq_true.1 (List.all_eq_true.1 g q (List.mem_finRange q)) k (List.mem_finRange k)
  exact ⟨⟨h _ (by decide +kernel), h _ (by decide +kernel), h _ (by decide +kernel)⟩, by decide +kernel⟩

/-! ## Power and the meter -/

/-- Quadrant 0 over a share of the limit, with the other quadrants within theirs. -/
def sharesOf (share : Nat) : State := setReg .pwr Off.pwrShare share up

theorem witness_EnergyEstimate :
    ((hdr (upB .pwr (fun h => { h with mode := .updating })) .pwr).mode = .updating) ∧
    (let s := modDev (fun d => { d with phase := 1 }) up; (hdr s .pwr).mode ≠ .updating ∧ s.dev.phase < 2) ∧
    (pwrRuns up = true ∧ up.dev.resetLow = false ∧ 2 ≤ up.dev.phase) ∧
    (modDev (fun d => { d with powered := false }) up).dev.powered = false ∧ up.dev.powered = true ∧ up.pwr.meterLost = false ∧
    (modPwr (fun p => { p with meterLost := true }) up).pwr.meterLost = true := by decide +kernel

/-- A meter that runs, every quadrant in partition 0, with one open job there. -/
def metered : State :=
  modMtr (fun m => { m with running := true, link := true, quads := #v[0xF, 0, 0, 0], jobs := [⟨0, 5, 100, false⟩] }) up
def markOf (kind : Nat) : Mark := ⟨kind, 0, 5, 1, 3⟩
def marked (kind last : Nat) : State :=
  modMtr (fun m => { m with marks := [markOf kind], lastMseq := some (BitVec.ofNat 16 last) }) metered

theorem witness_MeterRecords :
    (modMtr (fun m => { m with running := false }) up).mtr.running = false ∧ metered.mtr.running = true ∧ metered.mtr.updating = false ∧ metered.pwr.meterLost = false ∧
    (∀ q < 4, maskHas metered.mtr.quads[(0 : Fin 4)] q = true ∧ ∀ r : Fin 4, r ≠ 0 → maskHas metered.mtr.quads[r] q = false) ∧
    (meterParts metered.mtr)[0]? = some 0 ∧
    (∀ k ∈ [markJobStart, markJobStop, markPartMap, markReset], (marked k 2).mtr.marks = markOf k :: [] ∧
      (marked k 2).mtr.running = true ∧ (markOf k).kind = k ∧ (markOf k).mseq = 2 + 1 ∧ (markOf k).mseq ≠ 0 + 1) ∧
    markJobStart ≠ markJobStop ∧
    metered.mtr.jobs.find? (fun j => decide (j.part = (markOf 0).part ∧ j.job = (markOf 0).job)) = some ⟨0, 5, 100, false⟩ ∧
    (metered.mtr.jobs.map (fun j => (j.part, j.job))).Nodup := by decide +kernel

/-- A mark of the partition map at the mailbox's head, a sender that waits for room, and a meter being updated. -/
theorem witness_MeterRecords_wait :
    (let s := modMtr (fun m => { m with waitMarks := [(markJobStart, 0, 5, 1)] }) (marked markPartMap 2)
     s.mtr.marks = markOf markPartMap :: [] ∧ s.mtr.running = true ∧ (markOf markPartMap).kind = markPartMap ∧
       s.mtr.waitMarks = [(markJobStart, 0, 5, 1)] ∧ s.pwr.meterLost = false) ∧
    metered.mtr.waitMarks = [] ∧ metered.mtr.marks.length ≤ 60 ∧
    (modMtr (fun m => { m with updating := true }) metered).mtr.updating = true := by decide +kernel

/-! ## The fault collector -/

/-- A message of this KIND of tile 0's mover, on its way; a block FENCED; the safe state. -/
def faultOf (kind : Nat) (detail : Nat) : FMsg := ⟨BitVec.ofNat 12 (blockId dmv0), BitVec.ofNat 8 kind, 0, 1, 1, BitVec.ofNat 25 detail⟩
def faulted (kind detail : Nat) : State :=
  modFlt (fun f => { f with inflight := [faultOf kind detail] }) (allOn withItem)
def fencedAt (b : Block) (s : State) : State := modHdr b (fun h => { h with mode := .fenced }) s

/-- The DETAIL of a stall at another block. -/
theorem witness_FaultMessages :
    (up.flt.inflight.find? (fun x => decide (x.source.toNat = blockId dmv0)) = none) ∧
    (∀ y ∈ [(0x02, clsCorrected), (0x01, clsPoisoned), (0x11, clsFenced), (0x40, clsFatal), (0x99, clsFatal)],
      (faulted y.1 0).flt.inflight.find? (fun x => decide (x.source.toNat = blockId dmv0)) = some (faultOf y.1 0) ∧
      classOf (normalKind (faultOf y.1 0)) = y.2) ∧
    (faulted 0x02 0).flt.log = [] ∧ bitOf (reg (faulted 0x02 0) .flt Off.fltIrqMask) clsCorrected = false ∧
    (let m : FMsg := ⟨BitVec.ofNat 12 (blockId (.qdsp 0)), 0x21, 0, 0, 1, 0⟩
     classOf m = clsFenced ∧ fenceTargets m = [.qdsp 0] ∧ tileRetired up (.qdsp 0) = false ∧ isFenced up (.qdsp 0) = false) ∧
    (let m := faultOf 0x30 (blockId (.tile 1 .tl))
     let s := fencedAt (.tile 1 .tl) (faulted 0x30 (blockId (.tile 1 .tl)))
     classOf m = clsFenced ∧ fenceTargets m = [.tile 1 .tl] ∧ isFenced s (.tile 1 .tl) = true) ∧
    (let m := faultOf 0x30 (blockId (.tile 1 .tl))
     let s := fencedAt dmv0 (faulted 0x30 (blockId (.tile 1 .tl)))
     blockOfId m.source.toNat = some dmv0 ∧ dmv0 ≠ .tile 1 .tl ∧ isFenced s dmv0 = true ∧ isFenced s (.tile 1 .tl) = false) ∧
    ((faulted 0x40 0).flt.safe = false ∧ (modFlt (fun f => { f with safe := true }) (faulted 0x40 0)).flt.safe = true) := by
  decide +kernel

/-- A log that has no room for a Fatal message. -/
theorem witness_FaultMessages_full : ∃ s : State, 4096 ≤ s.flt.log.length + 0 := by
  refine ⟨modFlt (fun f => { f with log := List.replicate 4096 (faultOf 1 0, 1) }) up, ?_⟩
  show 4096 ≤ (List.replicate 4096 (faultOf 1 0, 1)).length + 0
  rw [List.length_replicate]

/-- FLT_INJECT with MODE m and KIND 0x40 for tile 0's mover. -/
def injectWord (mode : Nat) : Word := BitVec.ofNat 32 (mode + 2 ^ 2 * blockId dmv0 + 2 ^ 14 * 0x40)

theorem witness_FaultRegisters :
    ctlRuns up = true ∧ ownerId up = (masterIdx .hp0).val ∧ ownerId up ≠ (masterIdx .hp1).val ∧ up.flt.log = [] ∧
    (modFlt (fun f => { f with log := [(faultOf 2 0, 0)] }) up).flt.log = (faultOf 2 0, 0) :: [] ∧
    Nat.land ((injectWord 1 &&& ~~~ 3) ||| 3).toNat (mustBeZero .flt Off.fltInject) = 0 ∧
    up.rot.factory = false ∧ (modRot (fun r => { r with factory := true }) up).rot.factory = true ∧
    blockOfId (fld (injectWord 1).toNat 13 2) = some dmv0 ∧
    fld (BitVec.ofNat 32 (2 ^ 22) : Word).toNat 23 22 ≠ 0 ∧
    Nat.land (((BitVec.ofNat 32 (2 ^ 22) : Word) &&& ~~~ 3) ||| 3).toNat (mustBeZero .flt Off.fltInject) = 0 ∧
    blockOfId (fld (BitVec.ofNat 32 (1 + 2 ^ 2 * 0xFFE) : Word).toNat 13 2) = none ∧
    Nat.land (((BitVec.ofNat 32 (1 + 2 ^ 2 * 0xFFE) : Word) &&& ~~~ 3) ||| 3).toNat (mustBeZero .flt Off.fltInject) = 0 ∧
    (∀ k ∈ [0x02, 0x28, 0x38, 0x11, 0x41, 0x05], (faultOf k 0).kind.toNat = k) ∧
    portFull (modFlt (fun f => { f with inflight := List.replicate 8 (faultOf 2 0) }) up) 0 = true := by decide +kernel

/-- A tile whose fault port is full has nothing to do in its mover. -/
theorem witness_FaultPort :
    Safety.engineStep 0 (.move 0) ∧
    (let s := modFlt (fun f => { f with inflight := List.replicate 8 (faultOf 2 0) }) up
     portFull s 0 = true ∧ answers (exec (.move 0) s) = true) := by
  refine ⟨.inl (by decide), by decide +kernel⟩

/-! ## Training -/

/-- Quadrant 0 serves job 1 of partition 0 with a point every `n` steps; its engine has this state. -/
def serving (n : Nat) (f : SrvSt → SrvSt) : State :=
  modSrv 0 f (setReg (.srv 0) Off.srvPeriod n (setReg (.srv 0) Off.srvJob (2 ^ 6 + 1) (allOn withItem)))
def tapOf (job : BitVec 6) (late : Bool := false) : TapPkt := ⟨item0.key, job, 0, false, 5, 1, 9, false, false, late⟩

theorem witness_TrainingMarks :
    up.quads[(0 : QuadId)].stat.taps = [] ∧
    (∀ j ∈ [1, 2], let s := modQuad 0 (fun q => { q with stat := { q.stat with taps := [tapOf j] } }) (serving 4 id)
      s.quads[(0 : QuadId)].stat.taps = tapOf j :: [] ∧ served s 0 j.toNat = decide (j = 1)) ∧
    (let s := modHdr (.qstat 0) (fun h => { h with mode := .draining })
       (modQuad 0 (fun q => { q with stat := { q.stat with taps := [tapOf 1 true] } }) (serving 4 id))
     s.quads[(0 : QuadId)].stat.taps = tapOf 1 true :: [] ∧ (tapOf 1 true).late = true ∧ blockStops s (.qstat 0) = true) ∧
    leadQuad up (partOf up 1) ≠ 1 ∧ leadQuad up (partOf up 0) = 0 ∧
    (let s := serving 4 (fun v => { v with step := some 7 })
     s.quads[(0 : QuadId)].srv.state ≠ .restoring ∧ bitOf (reg s (.srv 0) Off.srvJob) 6 = true ∧
       reg s (.srv 0) Off.srvPeriod = 4 ∧ (7 : Word) + 1 = 8 ∧ (7 : Word) + 1 ≠ 9 ∧ (8 : Word).toNat % 4 = 0 ∧ srvStops s 0 = false ∧
       s.quads[(0 : QuadId)].srv.state ≠ .streaming ∧ s.quads[(0 : QuadId)].srv.state ≠ .complete) ∧
    (∀ z ∈ [SrvState.streaming, .complete, .restoring, .idle],
      (serving 4 (fun v => { v with state := z, taken := 8, step := some 7 })).quads[(0 : QuadId)].srv.state = z) ∧
    fld (reg (setReg (.srv 0) Off.srvVerify 1 up) (.srv 0) Off.srvVerify) 1 0 = 1 := by decide +kernel

/-- The head tile's mover keeps the translation of the survival record, the slices hold the first n lines, and main memory
these bytes. -/
def recorded64 (n : Nat) (cells : List Host.Cell) (f : SrvSt → SrvSt) : State :=
  let lines (x : HbmSt) : HbmSt := { x with cache := (List.range n).map (fun l => ⟨l, 3, 0, 0⟩) }
  modStack 0 lines (modStack 1 lines
    { modXlate (.tile (headTile 0)) (fun x => { x with tlb := [mapped] }) (serving 4 f) with hbm := cells })

/-- The bytes of a read that completes. -/
def bytesRead (x : Except Nat (List Byte × List Bool) × State) : Option (List Byte) :=
  match x.1 with
  | .ok d => some d.1
  | .error _ => none

/-- The replay log's entry for step 1 in such a state. -/
def logEntry (s : State) : Option (List Word) :=
  (bytesRead (vaRead (srvReq (survRec 0 s).2 0) (recWide (survRec 0 s).1 16 + 64 * ((0 : Word) + 1).toNat) 64 (survRec 0 s).2)).map
    (wordsOfBytes 6)

theorem witness_ReplayVerdict :
    logEntry (recorded64 4 [(65, 1), (320, 1)] id) = some [1, 0, 0, 0, 0, 0] ∧
    logEntry (recorded64 4 [(65, 1), (320, 1), (333, 7)] id) = some [1, 0, 0, 0x700, 0, 0] ∧
    bitOf 0x700 8 = true ∧ bitOf 0x700 9 = true ∧ bitOf 0x700 10 = true := by decide +kernel

/-- A mirrored block at the start of partition 0's memory is the next to leave. -/
def pointWith (t : Nat) : State :=
  recorded64 4 [(0, 1)] (fun v => { v with state := .streaming, taken := 8, pending := [⟨t, 0, 0, true, 0⟩] })
def streamingPoint : State := pointWith 0

/-- Nothing waits there, the mirror is another chip's, and a block of the engine's own slot tensor may be the next. -/
theorem witness_TrainingPoints_free : (∀ t ∈ [0, slotTensor], Safety.unheld (pointWith t) ∧ Safety.nothingHeld (pointWith t) ∧
      hword (survRec 0 (pointWith t)).1 0 % 2 ^ 16 ≠ ownChip (pointWith t)) ∧
    srvStops (modHdr (.srv 0) (fun h => { h with mode := .drained }) (serving 4 id)) 0 = true := by
  refine ⟨fun t h => ?_, by decide +kernel⟩
  rw [List.mem_cons, List.mem_singleton] at h
  obtain rfl | rfl := h <;> exact ⟨un_held _ (by decide +kernel), ⟨by decide +kernel, by decide +kernel⟩, by decide +kernel⟩

theorem witness_TrainingPoints :
    (let v := streamingPoint.quads[(0 : QuadId)].srv
     leadQuad streamingPoint (partOf streamingPoint 0) = 0 ∧ v.state = .streaming ∧ v.broken = false ∧ v.todo = [] ∧
       v.pending = [⟨0, 0, 0, true, 0⟩]) ∧
    (let r := survRec 0 streamingPoint
     (bytesRead (pointContent 0 r.1 0 (readEnt 0 r.1 0 r.2).2)).isSome = true) ∧
    (up.quads[(0 : QuadId)].srv.state ≠ .streaming) ∧
    (∀ z ∈ [SrvState.restoring, .failed], ∀ b ∈ [true, false],
      let s := serving 4 (fun v => { v with state := z, broken := b })
      s.quads[(0 : QuadId)].srv.state = z ∧ s.quads[(0 : QuadId)].srv.broken = b ∧ s.quads[(0 : QuadId)].srv.todo = [] ∧
        srvWaits s (partOf s 0) = false) ∧
    srvWaits { up with fabReqs := [⟨0, 0, 0, 1, ⟨0, 0xFFFF⟩, none, true, 0, 1, .va 0, false⟩] } 0 = true := by decide +kernel

/-- A delta of the point in progress from source 0, for parity block 0, in slot 0 of its ring, on a holder of one column. -/
def foldingPoint : State :=
  recorded64 0 [(34, 1), (60, 1), (65540, 8)] (fun v => { v with state := .streaming, taken := 8 })

theorem folding_free : Safety.unheld foldingPoint := un_held _ (by decide +kernel)

theorem folding_clean : CleanHbm foldingPoint :=
  ⟨by decide +kernel, by decide +kernel, by decide +kernel⟩

/-- What the head tile reads from the first 2 MiB of partition 0 there, before or after other reads. -/
theorem folding_read {t : State} (g : SliceOnly foldingPoint t) (va len : Nat)
    (hp : piecesOf (2 ^ 21) va len = [(va, len)]) (hv : va < 2 ^ 21) :
    ∃ bad u, vaRead (srvReq t 0) va len t = (.ok (hbmGet foldingPoint va len, bad), u) ∧ SliceOnly foldingPoint u := by
  have ht := folding_clean.keep g
  have hr : srvReq t 0 = ⟨.tile (headTile 0), 0, 0, 0, .srv 0⟩ := g.srvReq 0
  have h := vaRead_hit ht (srvReq t 0) va len mapped hp
    (by rw [g.xlateOf, hr]
        show [mapped].find? (entryHits 0 va) = some mapped
        simp [entryHits, mapped]; omega)
    (by rw [g.leafCheck]; decide +kernel)
  obtain ⟨⟨bad, hb⟩, hs⟩ := h
  have ha : entryPa mapped va = va := by simp [entryPa, mapped]; omega
  have hg := g.hbmGet va len
  refine ⟨bad, _, ?_, g.trans hs⟩
  rw [ha, hg] at hb
  exact Prod.ext hb rfl

theorem witness_DeltaFold : ∃ r s1 d s2 old s3, survRec 0 foldingPoint = (r, s1) ∧
    vaRead (srvReq s1 0) (ringAddr r 0 0) (kib64 + 64) s1 = (.ok d, s2) ∧
    wordsOfBytes 3 d.1 = [0, 8, 0] ∧ fld (hword r 15) 4 0 = 1 ∧ fld (hword r 15) 9 5 = 0 ∧
    vaRead (srvReq s2 0) (parityAddr r 1 0) kib64 s2 = (.ok old, s3) ∧
    foldingPoint.quads[(0 : QuadId)].srv.folded = [] := by
  obtain ⟨b1, s1, h1, g1⟩ := folding_read (.refl foldingPoint) 0 256 (by decide +kernel) (by omega)
  have hr : survRec 0 foldingPoint = (wordsOfBytes 64 (hbmGet foldingPoint 0 256), s1) := by
    unfold survRec
    have hb : reg foldingPoint (.srv (leadQuad foldingPoint 0)) Off.srvRecBase = 0 := by decide +kernel
    rw [hb, h1]
  have hw : wordsOfBytes 64 (hbmGet foldingPoint 0 256) = List.replicate 8 0 ++ [0x10000] ++ List.replicate 6 0 ++ [1] ++ List.replicate 48 0 := by
    decide +kernel
  have ha : ringAddr (wordsOfBytes 64 (hbmGet foldingPoint 0 256)) 0 0 = 65536 := by rw [hw]; decide
  have hq : parityAddr (wordsOfBytes 64 (hbmGet foldingPoint 0 256)) 1 0 = 0 := by rw [hw]; decide
  obtain ⟨b2, s2, h2, g2⟩ := folding_read g1 65536 (kib64 + 64) (by decide +kernel) (by omega)
  obtain ⟨b3, s3, h3, g3⟩ := folding_read g2 0 kib64 (by decide +kernel) (by omega)
  have hd : wordsOfBytes 3 (hbmGet foldingPoint 65536 (kib64 + 64)) = [0, 8, 0] := by decide +kernel
  generalize hbmGet foldingPoint 65536 (kib64 + 64) = x at h2 hd
  exact ⟨_, s1, (x, b2), s2, _, s3, hr, by rw [ha]; exact h2, hd, by rw [hw]; decide, by rw [hw]; decide,
    by rw [hq]; exact h3, by decide +kernel⟩

/-! ## The slots of a point restored -/

/-- A restore of job 0 of partition 0 to whose slots' records the partner sent zeros: those of slots of job 0, not taken. -/
def restoring0 : State :=
  Safety.unmarked (modSrv 0 (fun v => { v with state := .restoring, restoring := 4 }) (setReg (.srv 0) Off.srvJob (2 ^ 6) (allOn withItem)))

/-- Every slot is free or job 0's, the engine is as it was, and no corruption is armed. -/
def SlotsOpen (s : State) : Prop :=
  s.quads = restoring0.quads ∧ s.regs = restoring0.regs ∧ s.rot = restoring0.rot ∧ s.flt.armed = [] ∧
    ∀ t k, (seqSlot s t k).owner = none ∨ (seqSlot s t k).owner = some (0, 0)

theorem vat_vput {α : Type} {n : Nat} (v : Vector α n) (i j : Nat) (a d : α) :
    vat (vput v i a) j d = a ∨ vat (vput v i a) j d = vat v j d := by
  unfold vat vput
  rw [Vector.getElem?_setIfInBounds]
  split
  · split
    · exact .inl rfl
    · right
      rename_i e h
      rw [Vector.getElem?_eq_none (by omega)]
  · exact .inr rfl

/-- A slot written: it, and no other, may have changed, and nothing beside the tile. -/
theorem writeSlot_frame (t : TileId) (k n : Nat) (x : SeqSlot) (s : State) (h : s.flt.armed = []) :
    (writeSlot t k n x s).quads = s.quads ∧ (writeSlot t k n x s).regs = s.regs ∧ (writeSlot t k n x s).rot = s.rot ∧
      (writeSlot t k n x s).flt = s.flt ∧
      ∀ u j, seqSlot (writeSlot t k n x s) u j = x ∨ seqSlot (writeSlot t k n x s) u j = seqSlot s u j := by
  have ha : ∀ (f : VecSt → VecSt) p, armedAt (modVec t f (setSeqSlot t k x s)) (vecB t) p = none := by
    intro f p
    show List.find? _ s.flt.armed = none
    rw [h]; rfl
  unfold writeSlot goodLines
  simp only [ha]
  refine ⟨rfl, rfl, rfl, rfl, fun u j => ?_⟩
  simp only [seqSlot, setSeqSlot, modVec, modTile, Fin.getElem_fin, Vector.getElem_set]
  split
  · rename_i e
    simp only [e, if_true]
    exact vat_vput _ _ _ _ _
  · exact .inr rfl

theorem restoreSlot_open {s : State} (h : SlotsOpen s) (x : TileId × Nat × Nat) : SlotsOpen (restoreSlot 0 0 s x) := by
  obtain ⟨hq, hr, ho, ha, hs⟩ := h
  have hp : partOf s = partOf restoring0 := by funext q; simp only [partOf, ho]
  have hl : leadQuad s 0 = 0 := by
    have h0 : leadQuad restoring0 0 = 0 := by decide +kernel
    unfold leadQuad quadsOf at h0 ⊢; rw [hp]; exact h0
  have hm : s.quads[(0 : QuadId)].srv.slotMem = [] ∧ s.quads[(0 : QuadId)].srv.slotBad = [] := by rw [hq]; decide +kernel
  have hz : ∀ n, wordOf (fread (fun _ => (0 : Byte)) [] n 576) = 0 := by
    intro n
    show wordOf ((List.range 576).map (fun _ => (0 : Byte))) = 0
    decide +kernel
  have hb : ∀ n, ((fread (fun _ => false) ([] : FMap Bool) n 576).any (fun b => b)) = false := by
    intro n
    show ((List.range 576).map (fun _ => false)).any (fun b => b) = false
    decide +kernel
  unfold restoreSlot
  simp only [hl, hm.1, hm.2, hz, hb]
  rw [if_neg (by decide), if_neg (by
    rintro (h | h | h | ⟨h, g⟩)
    · exact h (by decide)
    · exact absurd h (by decide)
    · exact h (by decide)
    · rcases hs x.1 x.2.1 with e | e <;> simp_all)]
  obtain ⟨eq_, er, eo, ef, es⟩ := writeSlot_frame x.1 x.2.1 8 _ s ha
  refine ⟨eq_.trans hq, er.trans hr, eo.trans ho, by rw [ef]; exact ha, fun t k => ?_⟩
  rcases es t k with e | e
  · rw [e]; exact .inr rfl
  · rw [e]; exact hs t k

theorem restoreSlots_fold (xs : List (TileId × Nat × Nat)) :
    ∀ {s : State}, SlotsOpen s → SlotsOpen (xs.foldl (restoreSlot 0 0) s) := by
  induction xs with
  | nil => exact id
  | cons x xs ih => exact fun h => ih (restoreSlot_open h x)

theorem restoreSlots_open : SlotsOpen (restoreSlots 0 restoring0) := by
  have hv : ∀ t : TileId, restoring0.tiles[t].vec.slots = Vector.replicate 64 seqSlotFree := by decide +kernel
  have h0 : SlotsOpen restoring0 := by
    refine ⟨rfl, rfl, rfl, by decide +kernel, fun t k => .inl ?_⟩
    unfold seqSlot vat
    rw [hv, Vector.getElem?_replicate]
    split <;> rfl
  have hj : BitVec.ofNat 6 (fld (reg restoring0 (.srv (leadQuad restoring0 0)) Off.srvJob) 5 0) = 0 := by decide +kernel
  unfold restoreSlots
  rw [hj]
  exact restoreSlots_fold _ h0

theorem witness_RestoreComplete : leadQuad restoring0 (partOf restoring0 0) = 0 ∧ restoring0 = Safety.unmarked restoring0 ∧
    restoring0.quads[(0 : QuadId)].srv.state = .restoring ∧ restoring0.quads[(0 : QuadId)].srv.todo = [] ∧
    srvWaits restoring0 (partOf restoring0 0) = false ∧ restoring0.quads[(0 : QuadId)].srv.broken = false ∧
    (restoreSlots (partOf restoring0 0) (Safety.unmarked restoring0)).quads[(0 : QuadId)].srv.broken = false ∧
    Safety.unheld restoring0 := by
  have hu : Safety.unmarked restoring0 = restoring0 := rfl
  have hp : partOf restoring0 0 = 0 := by decide +kernel
  refine ⟨by decide +kernel, rfl, by decide +kernel, by decide +kernel, by decide +kernel, by decide +kernel, ?_,
    un_held _ (by decide +kernel)⟩
  rw [hu, hp, restoreSlots_open.1]
  decide +kernel

/-- The same restore whose first record is another job's. -/
def restoring5 : State := modSrv 0 (fun v => { v with slotMem := [(0, 5)] }) restoring0

def SlotsBroken (s : State) : Prop := s.flt.armed = [] ∧ leadQuad s 0 = 0 ∧ s.quads[(0 : QuadId)].srv.broken = true

theorem restoreSlot_broken {s : State} (h : SlotsBroken s) (x : TileId × Nat × Nat) : SlotsBroken (restoreSlot 0 0 s x) := by
  obtain ⟨ha, hl, hb⟩ := h
  unfold restoreSlot
  simp only [hl]
  split
  · exact ⟨ha, hl, hb⟩
  split
  · exact ⟨ha, hl, by simp [srvBroken, modQuad]⟩
  · obtain ⟨eq_, _, eo, ef, _⟩ := writeSlot_frame x.1 x.2.1 8 _ s ha
    refine ⟨ef.symm ▸ ha, ?_, by rw [eq_]; exact hb⟩
    have hp : ∀ u : State, u.rot = s.rot → leadQuad u 0 = leadQuad s 0 := by
      intro u e
      have hp : partOf u = partOf s := by funext q; simp only [partOf, e]
      unfold leadQuad quadsOf; rw [hp]
    exact (hp _ eo).trans hl

theorem restoreSlots_broken_fold (xs : List (TileId × Nat × Nat)) :
    ∀ {s : State}, SlotsBroken s → SlotsBroken (xs.foldl (restoreSlot 0 0) s) := by
  induction xs with
  | nil => exact id
  | cons x xs ih => exact fun h => ih (restoreSlot_broken h x)

theorem restoreSlots_broken_head (xs : List (TileId × Nat × Nat)) {s : State} {x : TileId × Nat × Nat} (e : xs.head? = some x)
    (h : SlotsBroken (restoreSlot 0 0 s x)) : SlotsBroken (xs.foldl (restoreSlot 0 0) s) := by
  cases xs with
  | nil => exact absurd e (by simp)
  | cons y ys =>
    obtain rfl : y = x := by simpa using e
    exact restoreSlots_broken_fold ys h

theorem witness_RestoreComplete_slots : restoring5 = Safety.unmarked restoring5 ∧ leadQuad restoring5 (partOf restoring5 0) = 0 ∧
    restoring5.quads[(0 : QuadId)].srv.state = .restoring ∧ restoring5.quads[(0 : QuadId)].srv.todo = [] ∧
    srvWaits restoring5 (partOf restoring5 0) = false ∧ restoring5.quads[(0 : QuadId)].srv.broken = false ∧
    (restoreSlots (partOf restoring5 0) (Safety.unmarked restoring5)).quads[(0 : QuadId)].srv.broken = true := by
  have hu : Safety.unmarked restoring5 = restoring5 := rfl
  have hp : partOf restoring5 0 = 0 := by decide +kernel
  have hj : BitVec.ofNat 6 (fld (reg restoring5 (.srv (leadQuad restoring5 0)) Off.srvJob) 5 0) = 0 := by decide +kernel
  have hs : SlotsBroken (restoreSlot 0 0 restoring5 (headTile 0, 0, 0)) := ⟨by decide +kernel, by decide +kernel, by decide +kernel⟩
  have hx : ((((slotTiles restoring5 0).flatMap (fun t => (List.range 64).map (fun k => (t, k)))).zipIdx.map
      (fun y => (y.1.1, y.1.2, y.2))).head?) = some (headTile 0, 0, 0) := by decide +kernel
  have hb : SlotsBroken (restoreSlots 0 restoring5) := by
    unfold restoreSlots
    rw [hj]
    exact restoreSlots_broken_head _ hx hs
  have hw : SlotsBroken (restoreSlots (partOf restoring5 0) (Safety.unmarked restoring5)) := by rw [hu, hp]; exact hb
  obtain ⟨_, _, hw⟩ := hw
  refine ⟨rfl, by decide +kernel, by decide +kernel, by decide +kernel, by decide +kernel, by decide +kernel, ?_⟩
  generalize restoreSlots (partOf restoring5 0) (Safety.unmarked restoring5) = u at hw ⊢
  exact hw

/-! ## The root of trust -/

/-- Host port 0's master has this command waiting, with challenge 0; installer key slot 0 and an operator key of partition 0
are in use, in life-cycle state PROVISIONED. -/
def commandSlot (opc role part : Nat) (body : List Byte) : FMap Word :=
  (0, BitVec.ofNat 32 (opc + 2 ^ 8 * role + 2 ^ 10 * part + 2 ^ 16 * body.length)) ::
    ((List.range ((body.length + 3) / 4)).map (fun k => (16 + k, BitVec.ofNat 32 (natOfBytes (fitBytes 4 (body.drop (4 * k)))))))
def commanding (opc role : Nat) (body : List Byte) (s : State) : State :=
  modRot (fun r => { r with slots := r.slots.set 0 (commandSlot opc role 0 body), waiting := 1, lc := 1, instKeys := [[1]]
                            instActive := 0, opKeys := [(0, some [2])], challenge := 0 }) s
def othersKnown (s : State) : Bool :=
  (List.finRange 3).all (fun k => decide (k = 0) || !maskHas s.rot.waiting k.val || opcKnown (cmdOf s k).opc)

theorem rest_known {s : State} (h : othersKnown s = true) : Safety.restKnown s .hp0 := by
  intro k hk hw
  have := List.all_eq_true.mp h k (List.mem_finRange k)
  rw [hw] at this
  simpa [show k ≠ 0 from hk] using this

/-- What `Safety.cmdSigned` says, and that the body passes. -/
def signedOk (opc : Nat) (roles : List Nat) (bad : RotCmd → Bool) (s : State) : Bool :=
  let c := cmdOf s 0
  rotNext s 0 opc && othersKnown s && !cmdBad c roles && decide (c.role ≠ roleUnsigned) && decide (c.challenge = s.rot.challenge.toNat) &&
    keyHeld s c && lcAccepts s c && !bad c
def unsignedOk (opc : Nat) (bad : RotCmd → Bool) (s : State) : Bool :=
  let c := cmdOf s 0
  rotNext s 0 opc && othersKnown s && !cmdBad c [roleUnsigned] && decide (c.role = roleUnsigned) && lcAccepts s c && !bad c

theorem cmd_signed (opc : Nat) (roles : List Nat) (bad : RotCmd → Bool) (s : State) (h : signedOk opc roles bad s = true) :
    Safety.cmdSigned s .hp0 opc roles (cmdOf s 0) ∧ bad (cmdOf s 0) = false := by
  unfold signedOk at h
  simp only [Bool.and_eq_true, Bool.not_eq_true', decide_eq_true_eq] at h
  obtain ⟨⟨⟨⟨⟨⟨⟨a, k⟩, b⟩, c⟩, d⟩, e⟩, f⟩, g⟩ := h
  exact ⟨⟨a, rest_known k, rfl, b, c, d, e, f⟩, g⟩

theorem cmd_unsigned (opc : Nat) (bad : RotCmd → Bool) (s : State) (h : unsignedOk opc bad s = true) :
    Safety.cmdUnsigned s .hp0 opc (cmdOf s 0) ∧ bad (cmdOf s 0) = false := by
  unfold unsignedOk at h
  simp only [Bool.and_eq_true, Bool.not_eq_true', decide_eq_true_eq] at h
  obtain ⟨⟨⟨⟨⟨a, k⟩, b⟩, c⟩, d⟩, e⟩ := h
  exact ⟨⟨a, rest_known k, rfl, b, c, d⟩, e⟩

theorem witness_MailboxChecks :
    rotNext up 0 0x01 = false ∧
    (∀ o ∈ [0x01, 0x02, 0x03, 0x04, 0x05, 0x06, 0x07, 0x10, 0x11, 0x12, 0x20, 0x21, 0x30, 0x31, 0x32, 0x33],
      rotNext (commanding o 1 [] up) 0 o = true) ∧
    (let s := modRot (fun r => { r with slots := r.slots.set 0 [(0, 0x0641_0100)] }) (commanding 0 1 [] up)
     rotNext s 0 0x00 = true ∧ 1600 < (cmdOf s 0).len) ∧
    (let s := modRot (fun r => { r with waiting := 3, slots := (r.slots.set 0 [(0, 0x0641_0100)]).set 1 [(0, 0x99)] }) (commanding 0 1 [] up)
     s.rot.waiting = maskSet (maskSet 0 (masterIdx .hp0).val) 1 ∧ opcKnown (cmdOf s 1).opc = false ∧ rotNext s 0 0x00 = true ∧
       1600 < (cmdOf s 0).len) ∧
    othersKnown (commanding 0x01 1 [0] up) = true ∧
    (let c := cmdOf (commanding 0x01 1 [0] up) 0; cmdBad c [roleInstaller] = false ∧ bitsBad 2 c = false) ∧
    cmdBad (cmdOf (commanding 0x01 2 [0] up) 0) [roleInstaller] = true ∧ bitsBad 2 (cmdOf (commanding 0x01 1 [4] up) 0) = true ∧
    (let s := modRot (fun r => { r with challenge := 5 }) (commanding 0x01 1 [0] up); (cmdOf s 0).challenge ≠ s.rot.challenge.toNat) ∧
    (let s := modRot (fun r => { r with lc := 3 }) (commanding 0x01 1 [0] up)
     keyHeld s (cmdOf s 0) = true ∧ lcAccepts s (cmdOf s 0) = false) := by decide +kernel

/-- Every block of the device is OFF but for the root of trust's own. -/
def pwrPair : List Byte := bytesOfNat 4 Off.pwrLimit ++ bytesOfNat 4 300

theorem witness_InstallerCommands :
    (∀ b ∈ [0, 3], signedOk 0x01 [roleInstaller] (bitsBad 2) (commanding 0x01 1 [b] up) = true) ∧
    (cmdOf (commanding 0x01 1 [3] up) 0).num 0 1 = 3 ∧
    signedOk 0x02 [roleInstaller] (bitsBad 1) (commanding 0x02 1 [1] up) = true ∧ resetRuns up = false ∧
    (let s := commanding 0x02 1 [1] (modDev (fun d => { d with ready := false }) up)
     signedOk 0x02 [roleInstaller] (bitsBad 1) s = true ∧ resetRuns s = true) ∧
    (∀ m ∈ [0x50, 0x51], signedOk 0x03 [roleInstaller] (bitsBad 12) (commanding 0x03 1 [m, 0] up) = true) ∧
    mapAccepted 0x51 = false ∧
    signedOk 0x04 [roleInstaller] pwrSetBad (commanding 0x04 1 pwrPair up) = true ∧
    (cmdOf (commanding 0x04 1 pwrPair up) 0).len = 8 ∧ up.dev.genPend = false ∧
    pwrStagedAt Off.pwrLimit = some (pageBase .pwr 0 + Off.pwrLimit + 0x800, 2 ^ 11 - 1) := by decide +kernel

/-- A map that gives quadrants 2 and 3 to partition 1 is accepted while partition 0 has no job but 0. -/
def unloaded (s : State) : State := modQuad 0 (fun q => { q with granted := 1 }) s
theorem witness_PartSet :
    (let s := commanding 0x03 1 [0x50, 0] (unloaded { up with hdrs := [] })
     signedOk 0x03 [roleInstaller] (bitsBad 12) s = true ∧ (cmdOf s 0).num 0 2 = 0x50 ∧ partRefused s 0x50 = false) := by decide +kernel

def key57 : List Byte := List.replicate 57 9

theorem witness_KeysAndLifeCycle :
    (∀ b ∈ [[0, 1, 0] ++ key57, [1, 1, 0] ++ key57, [0, 1, 1]], signedOk 0x06 [roleInstaller] enrollBad (commanding 0x06 1 b up) = true) ∧
    partLive up 0 = true ∧ partLive up 1 = false ∧
    signedOk 0x07 [roleInstaller] (shortBody 57) (commanding 0x07 1 key57 up) = true ∧
    (let s := modRot (fun r => { r with instKeys := List.replicate 4 [1] }) (commanding 0x07 1 key57 up)
     signedOk 0x07 [roleInstaller] (shortBody 57) s = true ∧ 4 ≤ s.rot.instKeys.length) ∧
    (let s := commanding 0x20 0 (0 :: List.replicate 56 3) up
     signedOk 0x20 [roleOperator] openBad s = true ∧ (cmdOf s 0).num 0 1 = 0 ∧ partLive s (cmdOf s 0).part.val = true ∧
       s.cams[(0 : HostId)].sess[(cmdOf s 0).part].state = .none ∧ reassigned s (cmdOf s 0).part = false ∧ isFenced s (camB 0) = false) ∧
    (let s := commanding 0x20 0 (0 :: List.replicate 56 3) up
     fget (fun _ => none) s.rot.opKeys (4 * 1 + (cmdOf s 0).kslot) = none ∧
       let u := modRot (fun r => { r with opKeys := [(0, some [2]), (4, some [3])] }) s
       signedOk 0x20 [roleOperator] openBad u = true ∧ (1 : Fin 4) ≠ (cmdOf u 0).part ∧
         fget (fun _ => none) u.rot.opKeys (4 * 1 + (cmdOf u 0).kslot) ≠ none) ∧
    (let s := commanding 0x21 0 [0] up; partLive s (cmdOf s 0).part.val = true ∧ signedOk 0x21 [roleOperator] (bitsBad 1) s = true ∧ (cmdOf s 0).num 0 1 = 0) ∧
    (let s := commanding 0x10 2 [2] up
     signedOk 0x10 [roleMaker] lcBad s = true ∧ lcStep s.rot.lc ((cmdOf s 0).num 0 1) = true ∧ s.rot.instKeys.length < 4) ∧
    (let s := commanding 0x10 2 [3] up; signedOk 0x10 [roleMaker] lcBad s = true ∧ lcStep s.rot.lc ((cmdOf s 0).num 0 1) = false) ∧
    (∀ l ∈ [1, 2], let s := modRot (fun r => { r with lc := l }) (commanding 0x11 2 [1] up)
      signedOk 0x11 [roleMaker] (bitsBad 1) s = true ∧ s.rot.lc = l) ∧
    (∀ k ∈ [0, 1, 2], let s := commanding 0x12 2 (bytesOfNat 4 k) up
      signedOk 0x12 [roleMaker] repairBad s = true ∧ (cmdOf s 0).len = 4 ∧ fld ((cmdOf s 0).num 0 4) 1 0 = k) ∧
    (up.dev.powered = true ∧ up.dev.resetLow = false ∧ up.rot.factory = false ∧
      (modRot (fun r => { r with factory := true }) up).rot.factory = true) := by decide +kernel

/-- An image for component `comp` of version 2^32 − 1 without a payload, in tile 0's A-mem, that target block DRAINED. -/
def emptyDigest (i : Nat) : Byte := (fitBytes 32 (Config.shake256 [] 32)).getD i 0
def imageHead (comp flags : Nat) : List Byte :=
  [0x4F, 0x4E, 0x55, 0x44] ++ bytesOfNat 2 comp ++ [BitVec.ofNat 8 flags, 0] ++ List.replicate 4 0xFF ++ [0, 0, 0, 0]
def imageBody (len : Nat) : List Byte := bytesOfNat 8 (fabAmem 0) ++ bytesOfNat 4 len ++ bytesOfNat 4 0
def imageCells (comp : Nat) : List Host.Cell :=
  (List.range 16).zip (imageHead comp 0) ++ (List.range 32).map (fun i => (16 + i, emptyDigest i))
def imaged (comp : Nat) : State :=
  commanding 0x05 2 (imageBody 356) (modHdr (.gwp 0) (fun h => { h with mode := .drained })
    (modTile 0 (fun x => { x with amem := { x.amem with bytes := imageCells comp } }) up))

/-- A granted access changes no memory. -/
theorem grantAccess_tmem (r : MemReq) (lo len : Nat) (s : State) (t : TileId) (m : MemSel) :
    tmem (grantAccess r lo len s) t m = tmem s t m := by
  have a : (answerAccess r s).tiles = s.tiles := by
    unfold answerAccess
    split <;> rfl
  have c : (countAccess r lo len s).tiles = s.tiles := by
    unfold countAccess
    simp only
    split
    · rfl
    split <;> exact a
  have k : tmem (servePromoted r lo len (countAccess r lo len s)) t m = tmem s t m := by
    unfold servePromoted
    split
    · cases m <;> simp only [tmem, c]
    · cases m <;> simp only [tmem, modTile, c, Fin.getElem_fin, Vector.getElem_set] <;> split <;> simp_all
  unfold grantAccess
  simp only
  split
  · rw [← k]; cases m <;> rfl
  · exact k

/-- A read of a memory without code faults. -/
theorem tmRead_clean (r : MemReq) (lo len : Nat) (s : State) (h : (tmem s r.tile r.mem).err = []) :
    tmRead r lo len s = ((memGet s r.tile r.mem lo len, List.replicate len false), grantAccess r lo len s) := by
  have hf : faultyLines r.mem (tmem (grantAccess r lo len s) r.tile r.mem) lo len = [] := by
    rw [grantAccess_tmem, faultyLines, h]
    simp
  unfold tmRead
  simp only [hf, List.foldl_nil]
  simp only [memGet, memPoison, grantAccess_tmem, h]
  rfl

/-- What a read of the image in that A-mem gives. -/
theorem imaged_read (s : State) (lo n : Nat) (ht : tmem s 0 .amem = ⟨imageCells 6, []⟩)
    (hp : checkRange ⟨.walker (leadQuad s (cmdOf (imaged 6) 0).part), (cmdOf (imaged 6) 0).part, 0xFFFF, 0, .rot⟩
      (imageAddr (cmdOf (imaged 6) 0) + lo) n false s = (.ok (.mem 0 .amem lo), s)) :
    readImage (cmdOf (imaged 6) 0) lo n s =
      (some (fread zeroByte (imageCells 6) lo n, List.replicate n false), grantAccess (fabMem 0 .amem lo n) lo n s) := by
  have hr := tmRead_clean (fabMem 0 .amem lo n) lo n s (by show (tmem s 0 .amem).err = []; rw [ht])
  unfold readImage
  simp only [hp, readFab, hr]
  simp only [fabMem, memGet, ht]

/-- The state in which that image's first 128 bytes have been read. -/
def imagedTaken : State := Safety.cmdTaken .hp0 (imaged 6)
def imagedHead : State := grantAccess (fabMem 0 .amem 0 128) 0 128 imagedTaken

/-- The image at its bytes [lo, lo + n). -/
def imagePart (lo n : Nat) : List Byte := fread zeroByte (imageCells 6) lo n

theorem fitBytes_length (n : Nat) (bs : List Byte) : (fitBytes n bs).length = n := by
  simp only [fitBytes, List.length_take, List.length_append, List.length_replicate]
  omega

theorem imageCells_digest : ∀ i < 32, fget zeroByte (frange (imageCells 6) 0 128) (0 + (16 + i)) = emptyDigest i := by
  intro i hi
  interval_cases i <;> rfl

theorem imaged_digest : fitBytes 32 ((imagePart 0 128 ++ imagePart 128 228).drop 16) = fitBytes 32 (Config.shake256 [] 32) := by
  refine List.ext_getElem (by rw [fitBytes_length, fitBytes_length]) fun i h1 h2 => ?_
  have hi : i < 32 := by rwa [fitBytes_length] at h2
  have hr : (fitBytes 32 ((imagePart 0 128 ++ imagePart 128 228).drop 16))[i] = fget zeroByte (frange (imageCells 6) 0 128) (0 + (16 + i)) := by
    simp only [fitBytes, imagePart, fread, List.getElem_take]
    rw [List.getElem_append_left (by simp; omega), List.getElem_drop, List.getElem_append_left (by simp; omega), List.getElem_map,
      List.getElem_range]
  refine hr.trans ((imageCells_digest i hi).trans ?_)
  unfold emptyDigest
  generalize fitBytes 32 (Config.shake256 [] 32) = x at h2 ⊢
  simp [List.getD_eq_getElem?_getD, List.getElem?_eq_getElem h2]

theorem digest_matches {x : List Byte} (hp : (imageOfBytes x).payload = [])
    (hd : fitBytes 32 (x.drop 16) = fitBytes 32 (Config.shake256 [] 32)) :
    fitBytes 32 (Config.shake256 (imageOfBytes x).payload 32) = (imageOfBytes x).digest := by
  rw [hp]
  exact hd.symm

/-- A good image: read in its two parts, its header as R475 asks, its signature the maker's, its digest its payload's. -/
theorem witness_ImagesAndReports_good : ∃ d s1 e s2,
    readImage (cmdOf (imaged 6) 0) 0 128 (Safety.cmdTaken .hp0 (imaged 6)) = (some d, s1) ∧
    readImage (cmdOf (imaged 6) 0) 128 (imageLen (cmdOf (imaged 6) 0) - 128) s1 = (some e, s2) ∧
    (∀ b ∈ d.2, b = false) ∧ d.1.take 4 = [0x4F, 0x4E, 0x55, 0x44] ∧
    (imageOfBytes d.1).comp = 6 ∧ targetReady s1 6 0 = true ∧ pageless s1 6 = true ∧
    floorOf s1 6 ≤ (imageOfBytes d.1).version ∧
    (∀ b ∈ e.2, b = false) ∧ (imageOfBytes (d.1 ++ e.1)).magic = true ∧
    imageSigned (imageOfBytes (d.1 ++ e.1)) (cmdOf (imaged 6) 0).role true false = true ∧
    fitBytes 32 (Config.shake256 (imageOfBytes (d.1 ++ e.1)).payload 32) = (imageOfBytes (d.1 ++ e.1)).digest := by
  have h1 := imaged_read imagedTaken 0 128 rfl (by
    unfold checkRange
    rw [if_neg (by decide +kernel), show fabPlace imagedTaken _ _ _ = .ok (.mem 0 .amem 0) from by rfl])
  have h2 := imaged_read imagedHead 128 228 (by unfold imagedHead; rw [grantAccess_tmem]; rfl) (by
    unfold checkRange
    rw [if_neg (by decide +kernel), show fabPlace imagedHead _ _ _ = .ok (.mem 0 .amem 128) from by rfl])
  have hn : imageLen (cmdOf (imaged 6) 0) - 128 = 228 := by decide +kernel
  have hp : (imageOfBytes (imagePart 0 128 ++ imagePart 128 228)).payload = [] := by decide +kernel
  have hf : floorOf imagedHead 6 ≤ 2 ^ 32 - 1 := by
    have h : fget (fun _ => 0) imagedHead.rot.floors 6 = 0 := by decide +kernel
    rw [floorOf, h]
    have := (Config.fusedFloor 6).isLt
    omega
  have hv : (imageOfBytes (imagePart 0 128)).version = 2 ^ 32 - 1 := by decide +kernel
  refine ⟨_, _, _, _, h1, by rw [hn]; exact h2, fun b hb => List.eq_of_mem_replicate hb, by decide +kernel, by decide +kernel, by decide +kernel, by decide +kernel,
    hv ▸ hf, fun b hb => List.eq_of_mem_replicate hb, by decide +kernel, by decide +kernel, ?_⟩
  exact digest_matches hp imaged_digest

/-- The audit log holds one entry, of index 1. -/
def oneEntry (s : State) : State := modRot (fun r => { r with audit := [⟨1, 0, 0, 0, 0, []⟩], auditNext := 2 }) s

theorem witness_ImagesAndReports :
    signedOk 0x05 [roleInstaller, roleMaker] imageBad (imaged 6) = true ∧ imageLen (cmdOf (imaged 6) 0) = 356 ∧
    (let s := commanding 0x05 2 (imageBody (imageMax + 64)) up
     signedOk 0x05 [roleInstaller, roleMaker] imageBad s = true ∧ imageMax < imageLen (cmdOf s 0)) ∧
    (let s := commanding 0x05 2 (List.replicate 6 0xFF ++ [0, 0] ++ bytesOfNat 4 356 ++ [0, 0, 0, 0]) up
     signedOk 0x05 [roleInstaller, roleMaker] imageBad s = true ∧
       (readImage (cmdOf s 0) 0 128 (Safety.cmdTaken .hp0 s)).1 = none) ∧
    (let s := commanding 0x05 2 (imageBody 355) up
     signedOk 0x05 [roleInstaller, roleMaker] imageBad s = true ∧ imageLen (cmdOf s 0) < 356) ∧
    (up.rot.applying.find? (fun x => x.1 == 6 && x.2.1 == 0) = none) ∧
    (let s := modRot (fun r => { r with applying := [(6, 0, 1, [])] }) up
     s.rot.applying.find? (fun x => x.1 == 6 && x.2.1 == 0) = some (6, 0, 1, [])) ∧
    imageBlocks up 6 0 = some [.gwp 0] ∧
    unsignedOk 0x30 (fun c => decide (c.len ≠ 32)) (commanding 0x30 3 (List.replicate 32 1) up) = true ∧
    unsignedOk 0x31 bodyless (commanding 0x31 3 [] up) = true ∧ up.tiles[(0 : TileId)].retired = false ∧
    (∀ k ∈ [0, 1, 2], unsignedOk 0x32 certBad (commanding 0x32 3 [k] up) = true) ∧
    (∀ i ∈ [0, 1, 2], let s := oneEntry (commanding 0x33 3 (bytesOfNat 4 i) up)
      unsignedOk 0x33 (fun c => decide (c.len ≠ 4)) s = true ∧ s.rot.auditNext = 2) := by decide +kernel

/-! ## The whole device -/

theorem witness_MemoryFormKept : Safety.memoriesWf State.reset = true := by decide +kernel
theorem witness_MemoryFormKept_step : step State.reset = .next State.reset := rfl

end Sys2Proof.Tests
end

section
/-! SUPPORT. The vector engine's registers as functions of the lane and of the line (R161, R162), and what completing a
vector instruction leaves of the state (R165 to R168, R202, R410). -/

namespace Sys2Proof.Machine
open Sys2Proof

/-! ## Lists given by their index -/

theorem fread_eq_map {α : Type} (d : Nat → α) (m : FMap α) (start len : Nat) :
    fread d m start len = (List.range len).map (fun k => fget d m (start + k)) := by
  refine List.map_congr_left fun k hk => ?_
  have hk : k < len := List.mem_range.mp hk
  exact fget_filter d m (fun x => decide (start ≤ x) && decide (x < start + len)) (start + k) (by simp [hk])

/-- Rows of m elements each, laid end to end. -/
theorem flatMap_range_map {α : Type} (n m : Nat) (g : Nat → Nat → α) :
    (List.range n).flatMap (fun r => (List.range m).map (g r)) =
      (List.range (n * m)).map (fun k => g (k / m) (k % m)) := by
  induction n with
  | zero => simp
  | succ n ih =>
    rw [List.range_succ, List.flatMap_append, ih, Nat.succ_mul, List.range_add, List.map_append, List.map_map]
    congr 1
    rw [List.flatMap_singleton]
    refine List.map_congr_left fun c hc => ?_
    have hc : c < m := List.mem_range.mp hc
    simp only [Function.comp]
    rw [Nat.mul_comm n m, Nat.mul_add_div (by omega), Nat.mul_add_mod, Nat.div_eq_of_lt hc, Nat.mod_eq_of_lt hc,
      Nat.add_zero]

theorem getD_map_range {α : Type} (f : Nat → α) (d : α) {n k : Nat} (h : k < n) :
    ((List.range n).map f).getD k d = f k := by
  simp [List.getD, h]

/-- A run of m elements from the start-th on. -/
theorem take_drop_map_range {α : Type} (f : Nat → α) {n start m : Nat} (h : start + m ≤ n) :
    (((List.range n).map f).drop start).take m = (List.range m).map (fun c => f (start + c)) := by
  refine List.ext_getElem (by simp; omega) fun k hk _ => ?_
  simp

theorem replicate_eq_map_range {α : Type} (n : Nat) (a : α) : List.replicate n a = (List.range n).map (fun _ => a) := by
  simp

theorem zip3_map {ι : Type} (f : Word → Word → Word → Word) (a b c : ι → Word) (l : List ι) :
    zip3 f (l.map a) (l.map b) (l.map c) = l.map (fun k => f (a k) (b k) (c k)) := by
  induction l with
  | nil => rfl
  | cons x l ih => simp [zip3, ih]

theorem orLines_map {ι : Type} (a b : ι → Bool) (l : List ι) :
    orLines (l.map a) (l.map b) = l.map (fun j => a j || b j) := by
  induction l with
  | nil => rfl
  | cons x l ih => simp [orLines, ih]

/-! ## Registers given by their lanes and lines -/

/-- A register whose lane k is f k and the poison of whose line j is p j. -/
def vregOf (f : Nat → Word) (p : Nat → Bool) : VReg := ⟨(List.range 1024).map f, (List.range 64).map p⟩

theorem vregOf_congr {f g : Nat → Word} {p q : Nat → Bool} (hf : ∀ k < 1024, f k = g k) (hp : ∀ j < 64, p j = q j) :
    vregOf f p = vregOf g q := by
  rw [vregOf, vregOf, List.map_congr_left fun k hk => hf k (List.mem_range.mp hk),
    List.map_congr_left fun j hj => hp j (List.mem_range.mp hj)]

theorem vregOf_lane (f : Nat → Word) (p : Nat → Bool) {k : Nat} (h : k < 1024) : (vregOf f p).lanes.getD k 0 = f k := by
  rw [vregOf, getD_map_range f 0 h]

theorem vregOf_line (f : Nat → Word) (p : Nat → Bool) {j : Nat} (h : j < 64) : (vregOf f p).poison.getD j false = p j := by
  rw [vregOf, getD_map_range p false h]

/-- A register as stored is what its lanes and lines read as. -/
theorem vregRaw_eq (s : State) (t : TileId) (r : Nat) :
    vregRaw s.tiles[t].vec r = vregOf (Safety.lane s t r) (Safety.line s t r) := by
  rw [vregRaw, fread_eq_map, fread_eq_map]
  rfl

theorem replicate_eq_vregOf (a : Word) (b : Bool) :
    (⟨List.replicate 1024 a, List.replicate 64 b⟩ : VReg) = vregOf (fun _ => a) (fun _ => b) := by
  rw [vregOf, replicate_eq_map_range, replicate_eq_map_range]

/-- Registers d to d + n − 1 written in order, register d + i with lanes f i and lines p i. -/
def writeRegs (t : TileId) (d n : Nat) (f : Nat → Nat → Word) (p : Nat → Nat → Bool) (s : State) : State :=
  (List.range n).foldl (fun a i => writeReg t (d + i) (vregOf (f i) (p i)) a) s

theorem writeRegs_succ (t : TileId) (d n : Nat) (f : Nat → Nat → Word) (p : Nat → Nat → Bool) (s : State) :
    writeRegs t d (n + 1) f p s = writeReg t (d + n) (vregOf (f n) (p n)) (writeRegs t d n f p s) := by
  simp [writeRegs, List.range_succ]

/-! ## The state that a tile's vector engine leaves -/

/-- An update of a tile's vector engine shows in that tile alone. -/
theorem modVec_tile (t x : TileId) (f : VecSt → VecSt) (s : State) :
    (modVec t f s).tiles[x] = if x = t then { s.tiles[t] with vec := f s.tiles[t].vec } else s.tiles[x] := by
  simp only [modVec, modTile_tiles, Fin.getElem_fin, Vector.getElem_set, Fin.ext_iff, eq_comm]

theorem modVec_tile_same (t : TileId) (f : VecSt → VecSt) (s : State) :
    (modVec t f s).tiles[t] = { s.tiles[t] with vec := f s.tiles[t].vec } := by
  rw [modVec_tile, if_pos rfl]

/-- An update that leaves the vector engine as it is leaves the state. -/
theorem modVec_self (t : TileId) (f : VecSt → VecSt) (s : State) (h : f s.tiles[t].vec = s.tiles[t].vec) :
    modVec t f s = s := by
  have e : s.tiles.set t s.tiles[t] = s.tiles := Vector.set_getElem_self t.isLt
  simp only [modVec, modTile, h, e]

/-- No line of tile t's vector engine has bad parity (R163), and no fault injection is armed (R440). -/
structure VecClean (t : TileId) (s : State) : Prop where
  good : s.tiles[t].vec.badLines = []
  unarmed : s.flt.armed = []

/-- w is s but for the registers of tile t's vector engine among rs. -/
structure RegsOnly (t : TileId) (rs : List Nat) (s w : State) : Prop where
  rest : w = { s with tiles := w.tiles }
  other : ∀ x, x ≠ t → w.tiles[x] = s.tiles[x]
  tile : w.tiles[t] = { s.tiles[t] with vec := { s.tiles[t].vec with
    regs := w.tiles[t].vec.regs, poison := w.tiles[t].vec.poison } }
  keep : ∀ r k j, r ∉ rs → k < 1024 → j < 64 →
    Safety.lane w t r k = Safety.lane s t r k ∧ Safety.line w t r j = Safety.line s t r j

theorem RegsOnly.refl (t : TileId) (rs : List Nat) (s : State) : RegsOnly t rs s s :=
  ⟨rfl, fun _ _ => rfl, rfl, fun _ _ _ _ _ _ => ⟨rfl, rfl⟩⟩

theorem RegsOnly.trans {t : TileId} {rs : List Nat} {s w u : State} (h : RegsOnly t rs s w) (g : RegsOnly t rs w u) :
    RegsOnly t rs s u where
  rest := by rw [g.rest, h.rest]
  other x hx := (g.other x hx).trans (h.other x hx)
  tile := by rw [g.tile, h.tile]
  keep r k j hr hk hj :=
    ⟨(g.keep r k j hr hk hj).1.trans (h.keep r k j hr hk hj).1, (g.keep r k j hr hk hj).2.trans (h.keep r k j hr hk hj).2⟩

theorem RegsOnly.mono {t : TileId} {rs qs : List Nat} {s w : State} (h : RegsOnly t rs s w) (hs : ∀ r ∈ rs, r ∈ qs) :
    RegsOnly t qs s w :=
  { h with keep := fun r k j hr => h.keep r k j (fun m => hr (hs r m)) }

theorem VecClean.regsOnly {t : TileId} {rs : List Nat} {s w : State} (h : VecClean t s) (g : RegsOnly t rs s w) :
    VecClean t w :=
  ⟨by rw [g.tile]; exact h.good, by rw [g.rest]; exact h.unarmed⟩

/-- Registers of good parity are read without a report (R163). -/
theorem checkRegs_clean {t : TileId} {s : State} (h : VecClean t s) (item : Nat) (rs : List Nat) :
    checkRegs t item rs s = s := by
  rw [checkRegs, h.good]
  rfl

/-- With nothing armed, a line written has good parity. -/
theorem goodLines_clean {t : TileId} {s : State} (h : VecClean t s) (k n : Nat) : goodLines t k n s = s := by
  have e : modVec t (fun x => { x with badLines := fclear x.badLines k n }) s = s :=
    modVec_self t _ s (by simp only [h.good, fclear, List.filter_nil]; rw [← h.good])
  simp only [goodLines, e, armedAt, h.unarmed, List.find?_nil]

theorem writeReg_clean {t : TileId} {s : State} (h : VecClean t s) (r : Nat) (v : VReg) :
    writeReg t r v s = modVec t (fun x => { x with
      regs := fwrite zeroWord x.regs (1024 * r) v.lanes, poison := fwrite falseAt x.poison (64 * r) v.poison }) s :=
  goodLines_clean (s := modVec t _ s) ⟨by rw [modVec_tile_same]; exact h.good, h.unarmed⟩ _ _

/-- A register written holds the lanes written, and no other register changes. -/
theorem lane_writeReg {t : TileId} {s : State} (h : VecClean t s) (d r : Nat) (f : Nat → Word) (p : Nat → Bool) {k : Nat}
    (hk : k < 1024) :
    Safety.lane (writeReg t d (vregOf f p) s) t r k = if r = d then f k else Safety.lane s t r k := by
  have hl : (vregOf f p).lanes.length = 1024 := by simp [vregOf]
  rw [writeReg_clean h, Safety.lane, modVec_tile_same]
  split
  · next e =>
    rw [e, fget_fwrite_in _ _ _ _ _ (by omega)]
    simp [vregOf]
  · exact fget_fwrite_out _ _ _ _ _ (by omega)

theorem line_writeReg {t : TileId} {s : State} (h : VecClean t s) (d r : Nat) (f : Nat → Word) (p : Nat → Bool) {j : Nat}
    (hj : j < 64) :
    Safety.line (writeReg t d (vregOf f p) s) t r j = if r = d then p j else Safety.line s t r j := by
  have hl : (vregOf f p).poison.length = 64 := by simp [vregOf]
  rw [writeReg_clean h, Safety.line, modVec_tile_same]
  split
  · next e =>
    rw [e, fget_fwrite_in _ _ _ _ _ (by omega)]
    simp [vregOf]
  · exact fget_fwrite_out _ _ _ _ _ (by omega)

theorem regsOnly_writeReg {t : TileId} {s : State} (h : VecClean t s) (d : Nat) (f : Nat → Word) (p : Nat → Bool) :
    RegsOnly t [d] s (writeReg t d (vregOf f p) s) where
  rest := by rw [writeReg_clean h]; rfl
  other x hx := by rw [writeReg_clean h, modVec_tile, if_neg hx]
  tile := by rw [writeReg_clean h, modVec_tile_same]
  keep r k j hr hk hj := by
    have hr : r ≠ d := by simpa using hr
    rw [lane_writeReg h d r f p hk, line_writeReg h d r f p hj, if_neg hr, if_neg hr]
    exact ⟨rfl, rfl⟩

theorem regsOnly_writeRegs {t : TileId} {s : State} (h : VecClean t s) (d n : Nat) (f : Nat → Nat → Word)
    (p : Nat → Nat → Bool) : RegsOnly t ((List.range n).map (d + ·)) s (writeRegs t d n f p s) := by
  induction n with
  | zero => exact .refl t _ s
  | succ n ih =>
    rw [writeRegs_succ]
    refine (ih.mono fun r hr => ?_).trans ((regsOnly_writeReg (h.regsOnly ih) _ _ _).mono fun r hr => ?_)
    · rw [List.range_succ, List.map_append]
      exact List.mem_append_left _ hr
    · rw [List.mem_singleton.mp hr]
      exact List.mem_map_of_mem List.self_mem_range_succ

/-- Register d + i of those written holds what was written to it. -/
theorem writeRegs_reads {t : TileId} {s : State} (h : VecClean t s) (d : Nat) {n i : Nat} (f : Nat → Nat → Word)
    (p : Nat → Nat → Bool) (hi : i < n) :
    (∀ k < 1024, Safety.lane (writeRegs t d n f p s) t (d + i) k = f i k) ∧
      ∀ j < 64, Safety.line (writeRegs t d n f p s) t (d + i) j = p i j := by
  induction n with
  | zero => omega
  | succ n ih =>
    have hc := h.regsOnly (regsOnly_writeRegs h d n f p)
    rw [writeRegs_succ]
    refine ⟨fun k hk => ?_, fun j hj => ?_⟩
    · rw [lane_writeReg hc _ _ _ _ hk]
      split
      · next e => rw [Nat.add_left_cancel e]
      · exact (ih (by omega)).1 k hk
    · rw [line_writeReg hc _ _ _ _ hj]
      split
      · next e => rw [Nat.add_left_cancel e]
      · exact (ih (by omega)).2 j hj

/-! ## Completion (R202, R410) -/

theorem modItem_self (k : ItemKey) (f : Item → Item) (s : State) (h : ∀ x, f x = x) : modItem k f s = s := by
  have e : s.items.map (fun x => if x.key = k then f x else x) = s.items := by simp [h]
  rw [modItem, e]

/-- An item consumes poison where a line that was read carries it, and nothing else changes (R162). -/
theorem notePoison_eq (k : ItemKey) (ps : List Bool) (s : State) :
    notePoison k ps s = modItem k (fun x => { x with poisoned := x.poisoned || ps.any (fun b => b) }) s := by
  unfold notePoison
  split
  · next h => simp [itemPoison, h]
  · next h => exact (modItem_self k _ s (by simp [h])).symm

/-- Power bubbles set the item's flag BUBBLED or not, and count in one register only (R410). -/
theorem vecBubbled_spec (t : TileId) (k : ItemKey) (beats : Nat) (s : State) :
    let u := vecBubbled t k beats s
    (∃ f : Byte, (f = 0 ∨ f = 64) ∧
      u = { modItem k (fun x => { x with flags := x.flags ||| f }) s with regs := u.regs, nfree := u.nfree }) ∧
    ∀ a, a ≠ pageBase (vecB t) 0 + Off.vecStall + 56 ∨ s.pwr.quads[quadOf t].fv = 0 → regAt u a = regAt s a := by
  have e : modItem k (fun x => { x with flags := x.flags ||| (0 : Byte) }) s = s :=
    modItem_self k _ s fun x => by rw [BitVec.ofNat_eq_ofNat, BitVec.or_zero]
  simp only [vecBubbled]
  split
  · exact ⟨⟨0, .inl rfl, by rw [e]⟩, fun _ _ => rfl⟩
  · next hfv =>
    split
    · exact ⟨⟨0, .inl rfl, by rw [e]; rfl⟩, fun _ _ => rfl⟩
    · refine ⟨⟨64, .inr rfl, rfl⟩, fun a ha => ?_⟩
      exact (regAt_bumpAt _ a _ _).trans (if_neg (ha.resolve_right hfv))

/-- u is s with an instruction of item i completed in `beats` beats: it has left the queue of tile t's vector engine, and the counters of
R202, the item's beats and the power bubbles have moved. -/
structure VecCompleted (t : TileId) (i : Item) (beats : Nat) (s u : State) : Prop where
  rest : u = { popVec t s with regs := u.regs, items := u.items, nfree := u.nfree }
  items : ∃ f : Byte, (f = 0 ∨ f = 64) ∧ u.items = s.items.map (fun x => if x.key = i.key then
    { x with flags := x.flags ||| f, beatsVector := x.beatsVector + beats } else x)
  instr : reg u (vecB t) Off.vecInstr = min (reg s (vecB t) Off.vecInstr + 1) (2 ^ 48 - 1)
  counted : reg u (vecB t) Off.vecBeats = min (reg s (vecB t) Off.vecBeats + beats) (2 ^ 48 - 1)
  regs : ∀ a, a ≠ pageBase (vecB t) 0 + Off.vecInstr → a ≠ pageBase (vecB t) 0 + Off.vecBeats →
    a ≠ pageBase (vecB t) 0 + Off.vecStall + 56 ∨ s.pwr.quads[quadOf t].fv = 0 → regAt u a = regAt s a

theorem vecDone_completed (t : TileId) (i : Item) (beats : Nat) (s : State) :
    VecCompleted t i beats s (vecDone t i beats s) := by
  obtain ⟨⟨f, hf, hb⟩, hr⟩ := vecBubbled_spec t i.key beats s
  have regs : ∀ a, regAt (vecDone t i beats s) a =
      regAt (bump (vecB t) Off.vecBeats beats (bump (vecB t) Off.vecInstr 1 (vecBubbled t i.key beats s))) a := fun _ => rfl
  have hi : Off.vecInstr = 0x108 := rfl
  have hv : Off.vecBeats = 0x100 := rfl
  have hs : Off.vecStall = 0x180 := rfl
  refine ⟨?_, ⟨f, hf, ?_⟩, ?_, ?_, fun a h1 h2 h3 => ?_⟩
  · unfold vecDone
    rw [hb]
    rfl
  · have e : (vecDone t i beats s).items = (modItem i.key (fun x => { x with beatsVector := x.beatsVector + beats })
        (modItem i.key (fun x => { x with flags := x.flags ||| f }) s)).items := by
      unfold vecDone
      rw [hb]
      rfl
    rw [e, modItem_items, modItem_items, List.map_map]
    refine List.map_congr_left fun x _ => ?_
    by_cases hx : x.key = i.key <;> simp [hx]
  · rw [reg, regs, bump, regAt_bumpAt, if_neg (by omega), bump, regAt_bumpAt, if_pos rfl, hr _ (.inl (by omega)), reg]
  · rw [reg, regs, bump, regAt_bumpAt, if_pos rfl, bump, regAt_bumpAt, if_neg (by omega), hr _ (.inl (by omega)), reg]
  · rw [regs, bump, regAt_bumpAt, if_neg h2, bump, regAt_bumpAt, if_neg h1, hr _ h3]

theorem VecCompleted.tile {t : TileId} {i : Item} {beats : Nat} {s u : State} (h : VecCompleted t i beats s u) (x : TileId) :
    u.tiles[x] = if x = t then
      { s.tiles[t] with vec := { s.tiles[t].vec with queue := s.tiles[t].vec.queue.drop 1 } } else s.tiles[x] := by
  have e : u.tiles = (popVec t s).tiles := by rw [h.rest]
  rw [e, popVec]
  exact modVec_tile t x _ s

/-- Completion leaves every register of the register file. -/
theorem VecCompleted.reads {t : TileId} {i : Item} {beats : Nat} {s u : State} (h : VecCompleted t i beats s u)
    (r k j : Nat) : Safety.lane u t r k = Safety.lane s t r k ∧ Safety.line u t r j = Safety.line s t r j := by
  rw [Safety.lane, Safety.line, h.tile, if_pos rfl]
  exact ⟨rfl, rfl⟩

/-- Registers written, poison noted, and completed: the frame of the statements. -/
theorem vecFrame_vecDone {t : TileId} {rs : List Nat} {s w : State} (h : RegsOnly t rs (Safety.unmarked s) w) (i : Item)
    (beats : Nat) (ps : List Bool) : Safety.vecFrame t i rs beats s (vecDone t i beats (notePoison i.key ps w)) := by
  rw [notePoison_eq]
  have c := vecDone_completed t i beats
    (modItem i.key (fun x => { x with poisoned := x.poisoned || ps.any (fun b => b) }) w)
  generalize vecDone t i beats _ = u at c
  obtain ⟨f, hf, items⟩ := c.items
  have witems : w.items = s.items := by rw [h.rest]; rfl
  have wregs : ∀ a, regAt w a = regAt s a := fun a => by rw [h.rest]; rfl
  have wpwr : w.pwr = s.pwr := by rw [h.rest]; rfl
  refine ⟨fun x hx => ?_, ?_, fun r k j hr hk hj => ?_, ?_, ⟨ps.any (fun b => b), f, hf, ?_⟩, ?_, ?_, fun a h1 h2 h3 => ?_⟩
  · rw [c.tile, if_neg hx]
    exact h.other x hx
  · have e := h.tile
    rw [c.tile, if_pos rfl]
    simp only [modItem_tiles]
    rw [e]
    rfl
  · rw [(c.reads r k j).1, (c.reads r k j).2]
    exact h.keep r k j hr hk hj
  · conv_lhs => rw [c.rest, show modItem i.key _ w = { w with items := _ } from rfl, h.rest]
    have e : u.tiles = (popVec t w).tiles := by rw [c.rest]; rfl
    rw [e]
    rfl
  · rw [items, modItem_items, List.map_map, witems]
    refine List.map_congr_left fun x _ => ?_
    by_cases hx : x.key = i.key <;> simp [hx]
  · rw [c.instr]
    exact congrArg (fun n => min (n + 1) _) (wregs _)
  · rw [c.counted]
    exact congrArg (fun n => min (n + beats) _) (wregs _)
  · rw [c.regs a h1 h2 (h3.imp_right fun z => by rw [← z, ← wpwr]; rfl)]
    exact wregs a

/-! ## Instructions that complete -/

/-- The register fields of the instruction at the head name registers t0 to t31 (R171). -/
theorem vecHead_fields {s : State} {t : TileId} {v : VIns} {i : Item} (h : vecHead s t = some (v, i)) :
    v.vd < 32 ∧ v.va < 32 := by
  have of_entry : ∀ e, (vinsOf e).vd < 32 ∧ (vinsOf e).va < 32 := fun e =>
    ⟨Nat.mod_lt _ (by decide), Nat.mod_lt _ (by decide)⟩
  unfold vecHead at h
  split at h
  · cases h
  split at h
  · cases h
  split at h
  · cases h
  split at h
  · cases h
    exact of_entry _
  · cases h

theorem VecClean.of_vecAt {s : State} {t : TileId} {v : VIns} {i : Item} (h : Safety.vecAt s t v i) :
    VecClean t (Safety.unmarked s) :=
  ⟨h.2.1, h.2.2⟩

theorem vecChecked_pass {cs : List (Bool × Nat)} (h : firstFail cs = none) (t : TileId) (i : Item) (v : VIns)
    (eff : State → State) (s : State) : vecChecked t i v cs eff s = eff s := by
  rw [vecChecked, h]

/-- An instruction that raises no fault and meets nothing that makes it wait is carried out at once. -/
theorem vecRow_goes {opc : Nat} {body : TileId → Item → VIns → State → State} {t : TileId} {s : State} {v : VIns} {i : Item}
    (h : vecHead s t = some (v, i)) (ho : v.opc = opc) (hin : vecOpcs.contains opc = true)
    (hb : (body t i v (Safety.unmarked s)).heldBack = false) (hp : (body t i v (Safety.unmarked s)).passed = [])
    (hf : (body t i v (Safety.unmarked s)).flt = s.flt) :
    vecRow opc body t s = body t i v (Safety.unmarked s) := by
  have e := unlessHeld_goes (body t i v) s hb hp
  have n : portCount (unlessHeld (body t i v) s) t = portCount s t := by rw [e, portCount, hf, portCount]
  simp only [vecRow, h, ho, hin, Bool.not_true, Bool.false_eq_true, if_false, if_true]
  rw [viaPort_free t _ s (.inl n.le), e]

/-- A command whose instruction writes registers d to d + n − 1, notes poison and completes. -/
theorem exec_writeRegs {c : Instr} {opc : Nat} {body : TileId → Item → VIns → State → State} {t : TileId} {i : Item}
    {v : VIns} {s : State} (hat : Safety.vecAt s t v i) (ho : v.opc = opc) (hc : exec c s = .next (vecRow opc body t s))
    (hin : vecOpcs.contains opc = true) {d n beats : Nat} {f : Nat → Nat → Word} {p : Nat → Nat → Bool} {ps : List Bool}
    (hb : body t i v (Safety.unmarked s) =
      vecDone t i beats (notePoison i.key ps (writeRegs t d n f p (Safety.unmarked s)))) :
    ∃ u, exec c s = .next u ∧ Safety.vecFrame t i ((List.range n).map (d + ·)) beats s u ∧
      ∀ m < n, (∀ k < 1024, Safety.lane u t (d + m) k = f m k) ∧ ∀ j < 64, Safety.line u t (d + m) j = p m j := by
  have ro := regsOnly_writeRegs (VecClean.of_vecAt hat) d n f p
  have fr := vecFrame_vecDone ro i beats ps
  have cd := vecDone_completed t i beats (notePoison i.key ps (writeRegs t d n f p (Safety.unmarked s)))
  have nt : (notePoison i.key ps (writeRegs t d n f p (Safety.unmarked s))).tiles =
      (writeRegs t d n f p (Safety.unmarked s)).tiles := by rw [notePoison_eq]; rfl
  rw [← hb] at fr cd
  obtain ⟨-, -, -, rest, -⟩ := id fr
  refine ⟨_, hc.trans (congrArg _ (vecRow_goes hat.1 ho hin ?_ ?_ ?_)), fr, fun m hm => ⟨fun k hk => ?_, fun j hj => ?_⟩⟩
  · rw [rest]; rfl
  · rw [rest]; rfl
  · rw [rest]; rfl
  · rw [(cd.reads _ k 0).1, ← (writeRegs_reads (VecClean.of_vecAt hat) d f p hm).1 k hk, Safety.lane, nt]
    rfl
  · rw [(cd.reads _ 0 j).2, ← (writeRegs_reads (VecClean.of_vecAt hat) d f p hm).2 j hj, Safety.line, nt]
    rfl

/-- A command whose instruction writes one register, notes poison and completes. -/
theorem vecMakes_of_body {c : Instr} {opc : Nat} {body : TileId → Item → VIns → State → State} {t : TileId} {i : Item}
    {v : VIns} {s : State} (hat : Safety.vecAt s t v i) (ho : v.opc = opc) (hc : exec c s = .next (vecRow opc body t s))
    (hin : vecOpcs.contains opc = true) {d beats : Nat} {f : Nat → Word} {p : Nat → Bool} {ps : List Bool}
    (hb : body t i v (Safety.unmarked s) =
      vecDone t i beats (notePoison i.key ps (writeReg t d (vregOf f p) (Safety.unmarked s)))) :
    Safety.vecMakes c t i s d beats f p := by
  obtain ⟨u, hu, fr, reads⟩ := exec_writeRegs (d := d) (n := 1) (f := fun _ => f) (p := fun _ => p) hat ho hc hin hb
  exact ⟨u, hu, fr, reads 0 Nat.one_pos⟩

end Sys2Proof.Machine
end

section
/-! SUPPORT. What the bodies of the vector arithmetic instructions make of clean registers: element-wise operations (R172),
reductions (R183), VTR4, VPERM and VCVT (R173), each as one write of registers given by their lanes and lines. -/

namespace Sys2Proof.Machine
open Sys2Proof

theorem firstFail_cons (b : Bool) (c : Nat) (cs : List (Bool × Nat)) :
    firstFail ((b, c) :: cs) = none ↔ b = false ∧ firstFail cs = none := by
  cases b <;> simp [firstFail]

theorem beyond_eq_false {r n : Nat} : beyond r n = false ↔ r + n ≤ 32 := by simp [beyond]

/-! ## Element-wise operations (R172) -/

/-- Lane k, and the poison of line j, of a source register that an instruction uses; zero where it uses none. -/
def srcLane (use : Bool) (s : State) (t : TileId) (r k : Nat) : Word := if use then Safety.lane s t r k else 0
def srcLine (use : Bool) (s : State) (t : TileId) (r j : Nat) : Bool := if use then Safety.line s t r j else false

/-- Lane k, and the poison of line j, of operand b: register VB, or the scalar in every element (R171). -/
def bLane (v : VIns) (s : State) (t : TileId) (k : Nat) : Word :=
  if v.bs then
    (if v.fmt = 1 ∨ v.fmt = 2 then packLane (loHalf (v.scalar v.sbA)) (loHalf (v.scalar v.sbA)) else v.scalar v.sbA)
  else Safety.lane s t v.vb k
def bLine (v : VIns) (s : State) (t : TileId) (j : Nat) : Bool :=
  if v.bs then v.scalarPoisoned v.sbA else Safety.line s t v.vb j

theorem operandB_eq (v : VIns) (s : State) (t : TileId) : operandB v s t = vregOf (bLane v s t) (bLine v s t) := by
  unfold operandB
  split
  · next h => rw [replicate_eq_vregOf]; exact vregOf_congr (by simp [bLane, h]) (by simp [bLine, h])
  · next h => rw [vregRaw_eq]; exact vregOf_congr (by simp [bLane, h]) (by simp [bLine, h])

/-- A source register as an element-wise instruction reads it. -/
theorem srcReg_eq (use : Bool) (s : State) (t : TileId) (r : Nat) :
    (if use then vregRaw s.tiles[t].vec r else ⟨List.replicate 1024 0, List.replicate 64 false⟩) =
      vregOf (srcLane use s t r) (srcLine use s t r) := by
  cases use
  · exact replicate_eq_vregOf 0 false
  · exact vregRaw_eq s t r

/-- The poison of line j of an element-wise result: that of each line read (R162). -/
def elemLine (u : AUse) (v : VIns) (s : State) (t : TileId) (j : Nat) : Bool :=
  srcLine u.va s t v.va j || bLine v s t j || srcLine u.vc s t v.vc j

/-- Lane k of an element-wise result. -/
def elemLane (u : AUse) (f : Nat → Nat → Nat → Nat → Nat) (v : VIns) (s : State) (t : TileId) (k : Nat) : Word :=
  laneOp v.fmt (f v.fmt) (srcLane u.va s t v.va k) (bLane v s t k) (srcLane u.vc s t v.vc k)

theorem elementwise_eq {u : AUse} {fmts : List Nat} {v : VIns} {t : TileId} {s : State} (h : VecClean t s)
    (hu : aUnused v u = false) (hf : fmts.contains v.fmt = true) (f : Nat → Nat → Nat → Nat → Nat) (i : Item) :
    elementwise u fmts f t i v s =
      vecDone t i 1 (notePoison i.key ((List.range 64).map (elemLine u v s t))
        (writeReg t v.vd (vregOf (elemLane u f v s t) (elemLine u v s t)) s)) := by
  unfold elementwise
  rw [vecChecked_pass (by rw [firstFail_cons, firstFail_cons, hu, hf]; exact ⟨rfl, rfl, rfl⟩)]
  simp only [checkRegs_clean h, srcReg_eq, operandB_eq]
  simp only [vregOf, zip3_map, orLines_map]
  rfl

/-- A command whose body is an element-wise instruction makes its elements, in one beat. -/
theorem vecMakes_elementwise {c : Instr} {opc : Nat} {u : AUse} {fmts : List Nat} {f : Nat → Nat → Nat → Nat → Nat}
    {body : TileId → Item → VIns → State → State} {t : TileId} {i : Item} {v : VIns} {s : State}
    (hat : Safety.vecAt s t v i) (ho : v.opc = opc) (hc : exec c s = .next (vecRow opc body t s))
    (hin : vecOpcs.contains opc = true)
    (hb : body t i v (Safety.unmarked s) = elementwise u fmts f t i v (Safety.unmarked s))
    (hu : aUnused v u = false) (hf : fmts.contains v.fmt = true) :
    Safety.vecMakes c t i s v.vd 1 (elemLane u f v s t) (elemLine u v s t) :=
  vecMakes_of_body hat ho hc hin (hb.trans (elementwise_eq (VecClean.of_vecAt hat) hu hf f i))

/-! ## Reductions (R183) -/

theorem rowOf_map (a : Nat → Word) {r : Nat} (h : r < 16) :
    rowOf ((List.range 1024).map a) r = (List.range 64).map (fun c => a (64 * r + c)) :=
  take_drop_map_range a (by omega)

theorem colOf_map (a : Nat → Word) {c : Nat} (hc : c < 64) :
    colOf ((List.range 1024).map a) c = (List.range 16).map (fun r => a (64 * r + c)) := by
  refine List.map_congr_left fun r hr => ?_
  have hr : r < 16 := List.mem_range.mp hr
  exact getD_map_range a 0 (by omega)

theorem rowLines_map (p : Nat → Bool) {j : Nat} (h : j < 64) :
    rowLines ((List.range 64).map p) j = (List.range 4).any (fun m => p (j / 4 * 4 + m)) := by
  unfold rowLines
  rw [Bool.eq_iff_iff, List.any_eq_true, List.any_eq_true]
  refine exists_congr fun m => and_congr_right fun hm => ?_
  have hm : m < 4 := List.mem_range.mp hm
  rw [getD_map_range p false (by omega)]

theorem colLines_map (p : Nat → Bool) (j : Nat) :
    colLines ((List.range 64).map p) j = (List.range 16).any (fun r => p (4 * r + j % 4)) := by
  unfold colLines
  rw [Bool.eq_iff_iff, List.any_eq_true, List.any_eq_true]
  refine exists_congr fun r => and_congr_right fun hr => ?_
  have hr : r < 16 := List.mem_range.mp hr
  rw [getD_map_range p false (by omega)]

/-- Lane k of a reduction of lanes a by operator op: of its row (kind 0), of its column (kind 1) or of the register. -/
def reducedLane (kind op : Nat) (a : Nat → Word) (k : Nat) : Word :=
  match kind with
  | 0 => reduceList op 6 ((List.range 64).map (fun c => a (64 * (k / 64) + c)))
  | 1 => reduceList op 4 ((List.range 16).map (fun r => a (64 * r + k % 64)))
  | _ => reduceList op 10 ((List.range 1024).map a)

/-- The poison of line j of a reduction: that of each line which contributes to it (R162). -/
def reducedLine (kind : Nat) (p : Nat → Bool) (j : Nat) : Bool :=
  match kind with
  | 0 => (List.range 4).any (fun m => p (j / 4 * 4 + m))
  | 1 => (List.range 16).any (fun r => p (4 * r + j % 4))
  | _ => (List.range 64).any p

theorem reduction_eq {v : VIns} {t : TileId} {s : State} (h : VecClean t s) (hu : aUnused v useA = false)
    (hf : v.fmt = 0) (hs : v.sub ≤ 5) (kind beats : Nat) (i : Item) :
    reduction kind beats t i v s =
      vecDone t i beats (notePoison i.key ((List.range 64).map (reducedLine kind (Safety.line s t v.va)))
        (writeReg t v.vd (vregOf (reducedLane kind v.sub (Safety.lane s t v.va)) (reducedLine kind (Safety.line s t v.va))) s)) := by
  have hc : firstFail [(decide (6 ≤ v.sub) || aUnused v ⟨true, false, false⟩, eProgram),
      (decide (v.fmt ≠ 0), eFormat)] = none := by
    have e : decide (6 ≤ v.sub) = false := decide_eq_false (by omega)
    rw [firstFail_cons, firstFail_cons, e, hf]
    exact ⟨hu, rfl, rfl⟩
  unfold reduction
  rw [vecChecked_pass hc]
  simp only [checkRegs_clean h, vregRaw_eq]
  match kind with
  | 0 =>
    simp only [if_true]
    have hl : (List.range 16).flatMap (fun r => List.replicate 64 (reduceList v.sub 6
        (rowOf (vregOf (Safety.lane s t v.va) (Safety.line s t v.va)).lanes r))) =
        (List.range 1024).map (reducedLane 0 v.sub (Safety.lane s t v.va)) := by
      simp only [replicate_eq_map_range]
      rw [flatMap_range_map 16 64]
      refine List.map_congr_left fun k hk => ?_
      have hk : k < 16 * 64 := List.mem_range.mp hk
      rw [vregOf, rowOf_map _ (by omega)]
      rfl
    have hp : (List.range 64).map (rowLines (vregOf (Safety.lane s t v.va) (Safety.line s t v.va)).poison) =
        (List.range 64).map (reducedLine 0 (Safety.line s t v.va)) :=
      List.map_congr_left fun j hj => rowLines_map _ (List.mem_range.mp hj)
    rw [hl, hp]
    rfl
  | 1 =>
    simp only [Nat.one_ne_zero, if_true, if_false]
    have hl : (List.range 16).flatMap (fun _ => (List.range 64).map (fun c => reduceList v.sub 4
        (colOf (vregOf (Safety.lane s t v.va) (Safety.line s t v.va)).lanes c))) =
        (List.range 1024).map (reducedLane 1 v.sub (Safety.lane s t v.va)) := by
      rw [flatMap_range_map 16 64]
      refine List.map_congr_left fun k _ => ?_
      rw [vregOf, colOf_map _ (by omega)]
      rfl
    have hp : (List.range 64).map (colLines (vregOf (Safety.lane s t v.va) (Safety.line s t v.va)).poison) =
        (List.range 64).map (reducedLine 1 (Safety.line s t v.va)) :=
      List.map_congr_left fun j _ => colLines_map _ j
    rw [hl, hp]
    rfl
  | n + 2 =>
    have h0 : n + 2 ≠ 0 := by omega
    have h1 : n + 2 ≠ 1 := by omega
    simp only [if_neg h0, if_neg h1, vregOf, List.any_map, replicate_eq_map_range]
    rfl

/-! ## VTR4 and VPERM (R172) -/

/-- Lane k of register m of the transpose of the 64 × 64 matrix whose rows 16 n to 16 n + 15 are the lanes src n: its row
16 m + k / 64 is a column of that matrix. -/
def transLane (src : Nat → Nat → Word) (m k : Nat) : Word :=
  src (k % 64 / 16) (64 * (k % 64 % 16) + 16 * m + k / 64)

/-- The poison of line j of register m of the transpose: that of each line its 16 columns come from (R162). -/
def transLine (src : Nat → Nat → Bool) (m j : Nat) : Bool := (List.range 16).any (fun rr => src (j % 4) (4 * rr + m))

theorem vtr4Body_eq {v : VIns} {t : TileId} {s : State} (h : VecClean t s) (hu : aUnused v useA = false)
    (hf : v.fmt = 0) (hd : v.vd ≤ 28) (ha : v.va ≤ 28) (hx : v.vd + 4 ≤ v.va ∨ v.va + 4 ≤ v.vd ∨ v.vd = v.va) (i : Item) :
    ∃ ps, vtr4Body t i v s = vecDone t i 4 (notePoison i.key ps
      (writeRegs t v.vd 4 (transLane (fun m => Safety.lane s t (v.va + m))) (transLine (fun m => Safety.line s t (v.va + m))) s)) := by
  have hc : firstFail [(aUnused v useA, eProgram), (decide (v.fmt ≠ 0), eFormat),
      (beyond v.vd 4 || beyond v.va 4 || clash v.vd 4 v.va 4, eShape)] = none := by
    have e : clash v.vd 4 v.va 4 = false := by simp [clash]; omega
    rw [firstFail_cons, firstFail_cons, firstFail_cons, beyond_eq_false.mpr (by omega), beyond_eq_false.mpr (by omega), e, hf]
    exact ⟨hu, rfl, rfl, rfl⟩
  unfold vtr4Body
  rw [vecChecked_pass hc]
  simp only [checkRegs_clean h, vregRaw_eq, List.map_map]
  refine ⟨_, congrArg (fun w => vecDone t i 4 (notePoison i.key _ w)) ?_⟩
  unfold writeRegs
  refine List.foldl_ext _ _ _ fun a m hm => congrArg (fun x => writeReg t (v.vd + m) x a) ?_
  have hm : m < 4 := List.mem_range.mp hm
  have src : ∀ n < 4, ((List.range 4).map ((fun r => vregOf (Safety.lane s t r) (Safety.line s t r)) ∘ (v.va + ·))).getD n ⟨[], []⟩ =
      vregOf (Safety.lane s t (v.va + n)) (Safety.line s t (v.va + n)) := fun n hn => getD_map_range _ _ hn
  rw [flatMap_range_map 16 64]
  refine vregOf_congr (fun k hk => ?_) (fun j hj => ?_)
  · rw [src _ (by omega), vregOf_lane _ _ (by omega)]
    rfl
  · unfold transLine
    rw [Bool.eq_iff_iff, List.any_eq_true, List.any_eq_true]
    refine exists_congr fun rr => and_congr_right fun hr => ?_
    have hr : rr < 16 := List.mem_range.mp hr
    rw [src _ (by omega), vregOf_line _ _ (by omega)]

/-- Lane k of VPERM's index operand: register VB, or the scalar in every lane. -/
def permLane (v : VIns) (s : State) (t : TileId) (k : Nat) : Word :=
  if v.bs then v.scalar v.sbA else Safety.lane s t v.vb k

theorem permReg_eq (v : VIns) (s : State) (t : TileId) :
    (if v.bs then ⟨List.replicate 1024 (v.scalar v.sbA), List.replicate 64 (v.scalarPoisoned v.sbA)⟩
      else vregRaw s.tiles[t].vec v.vb) = vregOf (permLane v s t) (bLine v s t) := by
  split
  · next h => rw [replicate_eq_vregOf]; exact vregOf_congr (by simp [permLane, h]) (by simp [bLine, h])
  · next h => rw [vregRaw_eq]; exact vregOf_congr (by simp [permLane, h]) (by simp [bLine, h])

/-- The poison of line j of VPERM's result: the index line's, and that of each line that its lanes come from (R162). -/
def permLine (v : VIns) (s : State) (t : TileId) (j : Nat) : Bool :=
  bLine v s t j || (List.range 16).any (fun n => Safety.line s t v.va ((permLane v s t (16 * j + n)).toNat % 1024 / 16))

theorem vpermBody_eq {v : VIns} {t : TileId} {s : State} (h : VecClean t s) (hu : aUnused v useAB = false) (hf : v.fmt ≤ 3)
    (i : Item) :
    vpermBody t i v s = vecDone t i 4 (notePoison i.key ((List.range 64).map (permLine v s t))
      (writeReg t v.vd (vregOf (fun k => Safety.lane s t v.va ((permLane v s t k).toNat % 1024)) (permLine v s t)) s)) := by
  have hp : (List.range 64).map (fun j => (vregOf (permLane v s t) (bLine v s t)).poison.getD j false ||
      ((((List.range 1024).map (fun k => (permLane v s t k).toNat % 1024)).drop (16 * j)).take 16).any (fun k =>
        (vregOf (Safety.lane s t v.va) (Safety.line s t v.va)).poison.getD (k / 16) false)) =
      (List.range 64).map (permLine v s t) := by
    refine List.map_congr_left fun j hj => ?_
    have hj : j < 64 := List.mem_range.mp hj
    rw [vregOf_line _ _ hj, take_drop_map_range _ (by omega), List.any_map, permLine]
    congr 2
    funext n
    have hn : (permLane v s t (16 * j + n)).toNat % 1024 / 16 < 64 := by omega
    exact vregOf_line _ _ hn
  have hl : (List.range 1024).map ((fun k => (vregOf (Safety.lane s t v.va) (Safety.line s t v.va)).lanes.getD k 0) ∘
      fun k => (permLane v s t k).toNat % 1024) =
      (List.range 1024).map (fun k => Safety.lane s t v.va ((permLane v s t k).toNat % 1024)) :=
    List.map_congr_left fun k _ => by rw [Function.comp, vregOf_lane _ _ (by omega)]
  have hi : (vregOf (permLane v s t) (bLine v s t)).lanes.map (fun w => w.toNat % 1024) =
      (List.range 1024).map (fun k => (permLane v s t k).toNat % 1024) := by
    rw [vregOf, List.map_map]
    rfl
  have hc : firstFail [(aUnused v useAB, eProgram), (decide (3 < v.fmt), eFormat)] = none := by
    rw [firstFail_cons, firstFail_cons, decide_eq_false (by omega)]
    exact ⟨hu, rfl, rfl⟩
  unfold vpermBody
  rw [vecChecked_pass hc]
  simp only [checkRegs_clean h, permReg_eq]
  simp only [vregRaw_eq, hi, hp, List.map_map, hl]
  rw [← vregOf]

/-! ## VCVT (R173) -/

/-- The checks of VCVT, from the kind of its formats, the registers it writes and reads, and the seed of its job. -/
theorem vcvt_checks {v : VIns} {s : State} {i : Item} {k nd ns : Nat} (hk : cvtKind v.sfmt v.fmt = some k)
    (hu : aUnused v useA = false) (hf : v.fmt ≤ 3) (hd : v.vd + nd ≤ 32) (ha : v.va + ns ≤ 32)
    (hx : clash v.vd nd v.va ns = false) (hs : k = 1 → v.roundA = true → (itemJob s i).seed.isSome = true) :
    firstFail [(aUnused v ⟨true, false, false⟩, eProgram), ((cvtKind v.sfmt v.fmt).isNone || decide (3 < v.fmt), eFormat),
      (beyond v.vd nd || beyond v.va ns || clash v.vd nd v.va ns, eShape),
      (decide (cvtKind v.sfmt v.fmt = some 1) && v.roundA && (itemJob s i).seed.isNone, eNoseed)] = none := by
  have seed : (decide (k = 1) && v.roundA && (itemJob s i).seed.isNone) = false := by
    by_contra hn
    simp only [Bool.not_eq_false, Bool.and_eq_true, decide_eq_true_eq] at hn
    obtain ⟨⟨h1, h2⟩, h3⟩ := hn
    have hsome := hs h1 h2
    rw [Option.isNone_iff_eq_none.mp h3] at hsome
    cases hsome
  have one : decide (some k = some 1) = decide (k = 1) := by simp
  rw [firstFail_cons, firstFail_cons, firstFail_cons, firstFail_cons, hk, decide_eq_false (by omega), beyond_eq_false.mpr hd,
    beyond_eq_false.mpr ha, hx, one, seed]
  exact ⟨hu, rfl, rfl, rfl, rfl⟩

/-- One register written from lanes a, in one beat: FP32 to INT32 and INT32 to FP32. -/
theorem vcvtBody_lanes {v : VIns} {t : TileId} {s : State} (h : VecClean t s) (hu : aUnused v useA = false)
    (hd : v.vd < 32) (ha : v.va < 32) (i : Item) :
    (v.sfmt = 0 → v.fmt = 3 → vcvtBody t i v s =
      vecDone t i 1 (notePoison i.key ((List.range 64).map (Safety.line s t v.va))
        (writeReg t v.vd (vregOf (fun k => f32ToInt32 (Safety.lane s t v.va k)) (Safety.line s t v.va)) s))) ∧
    (v.sfmt = 3 → v.fmt = 0 → vcvtBody t i v s =
      vecDone t i 1 (notePoison i.key ((List.range 64).map (Safety.line s t v.va))
        (writeReg t v.vd (vregOf (fun k => int32ToF32 (Safety.lane s t v.va k)) (Safety.line s t v.va)) s))) := by
  have hx : clash v.vd 1 v.va 1 = false := by simp [clash]; omega
  refine ⟨fun hs hf => ?_, fun hs hf => ?_⟩
  · have hk : cvtKind v.sfmt v.fmt = some 2 := by rw [hs, hf]; rfl
    have hc := vcvt_checks (s := s) (i := i) hk hu (by omega) hd ha hx (by omega)
    unfold vcvtBody
    simp only [hk] at hc ⊢
    rw [vecChecked_pass (by exact hc)]
    simp only [checkRegs_clean h, vregRaw_eq, vregOf, List.map_map]
    rfl
  · have hk : cvtKind v.sfmt v.fmt = some 3 := by rw [hs, hf]; rfl
    have hc := vcvt_checks (s := s) (i := i) hk hu (by omega) hd ha hx (by omega)
    unfold vcvtBody
    simp only [hk] at hc ⊢
    rw [vecChecked_pass (by exact hc)]
    simp only [checkRegs_clean h, vregRaw_eq, vregOf, List.map_map]
    rfl

/-- Element (r, col) of a packed register with lanes a. -/
def packedElem (a : Nat → Word) (r col : Nat) : Nat :=
  if col % 2 = 0 then loHalf (a (64 * r + col / 2)) else hiHalf (a (64 * r + col / 2))

/-- Lane k of half m of a widened register. -/
def widenLane (sf : Nat) (a : Nat → Word) (m k : Nat) : Word :=
  f32 (decodeFloat (regSpec sf) (packedElem a (k / 64) (64 * m + k % 64)))

/-- The poison of line j of half m of a widened register: that of the line which holds its elements (R162). -/
def widenLine (p : Nat → Bool) (m j : Nat) : Bool := p (4 * (j / 4) + 2 * m + j % 4 / 2)

theorem widenHalf_eq (sf : Nat) {m : Nat} (hm : m < 2) (a : Nat → Word) (p : Nat → Bool) :
    widenHalf sf m (vregOf a p) = vregOf (widenLane sf a m) (widenLine p m) := by
  unfold widenHalf
  simp only
  rw [flatMap_range_map 16 64]
  refine vregOf_congr (fun k hk => ?_) (fun j hj => vregOf_line a p (by omega))
  rw [vregOf_lane a p (by omega)]
  rfl

theorem vcvtBody_widen {v : VIns} {t : TileId} {s : State} (h : VecClean t s) (hu : aUnused v useA = false)
    (hs : v.sfmt = 1 ∨ v.sfmt = 2) (hf : v.fmt = 0) (hd : v.vd < 31) (ha : v.va < 32)
    (hx : ¬ (v.vd ≤ v.va ∧ v.va ≤ v.vd + 1)) (i : Item) :
    vcvtBody t i v s = vecDone t i 2 (notePoison i.key ((List.range 64).map (Safety.line s t v.va))
      (writeRegs t v.vd 2 (widenLane v.sfmt (Safety.lane s t v.va)) (widenLine (Safety.line s t v.va)) s)) := by
  have hk : cvtKind v.sfmt v.fmt = some 0 := by simp [cvtKind, hs, hf]
  have hc := vcvt_checks (s := s) (i := i) (nd := 2) (ns := 1) hk hu (by omega) (by omega) ha (by simp [clash]; omega) (by omega)
  unfold vcvtBody
  simp only [hk] at hc ⊢
  rw [vecChecked_pass (by exact hc)]
  simp only [checkRegs_clean h, vregRaw_eq, widenHalf_eq _ Nat.zero_lt_two, widenHalf_eq _ Nat.one_lt_two]
  rfl

/-- The cast of element (r, col) of a narrowing VCVT: columns 0 to 63 come from lanes src 0, columns 64 to 127 from src 1. -/
def narrowCast (df : Nat) (rnd : Nat → Rnd) (c : CastCtx) (src : Nat → Nat → Word) (r col : Nat) : CastRes :=
  castElem (fmtOfReg df) (rnd (elemIndex c r col 0)) (f32v (src (col / 64) (64 * r + col % 64)))

/-- Lane k of the narrowed register. -/
def narrowLane (df : Nat) (rnd : Nat → Rnd) (c : CastCtx) (src : Nat → Nat → Word) (k : Nat) : Word :=
  packLane (narrowCast df rnd c src (k / 64) (2 * (k % 64))).bits (narrowCast df rnd c src (k / 64) (2 * (k % 64) + 1)).bits

/-- The poison of line j of the narrowed register, from lines src m of register m of the pair. -/
def narrowLine (src : Nat → Nat → Bool) (j : Nat) : Bool :=
  src (2 * (j % 4) / 4) (4 * (j / 4) + 2 * (j % 4) % 4) || src ((2 * (j % 4) + 1) / 4) (4 * (j / 4) + (2 * (j % 4) + 1) % 4)

theorem narrowPair_eq (df : Nat) (rnd : Nat → Rnd) (c : CastCtx) (src : Nat → Nat → Word) (p : Nat → Nat → Bool) :
    (narrowPair df rnd c (vregOf (src 0) (p 0)) (vregOf (src 1) (p 1))).1 = vregOf (narrowLane df rnd c src) (narrowLine p) := by
  unfold narrowPair
  simp only
  rw [flatMap_range_map 16 128]
  have cast : ∀ k < 2048, ((List.range (16 * 128)).map (fun k => castElem (fmtOfReg df) (rnd (elemIndex c (k / 128) (k % 128) 0))
      (f32v (if k % 128 < 64 then (vregOf (src 0) (p 0)).lanes.getD (64 * (k / 128) + k % 128) 0
        else (vregOf (src 1) (p 1)).lanes.getD (64 * (k / 128) + k % 128 - 64) 0)))).getD k ⟨0, false, false, false⟩ =
      narrowCast df rnd c src (k / 128) (k % 128) := by
    intro k hk
    rw [getD_map_range _ _ hk, narrowCast]
    split
    · next hl => rw [vregOf_lane _ _ (by omega), Nat.div_eq_of_lt hl, Nat.mod_eq_of_lt hl]
    · next hl =>
      rw [vregOf_lane _ _ (by omega), show k % 128 / 64 = 1 by omega,
        show 64 * (k / 128) + k % 128 - 64 = 64 * (k / 128) + k % 128 % 64 by omega]
  have line : ∀ j k, k < 8 → (if k < 4 then (vregOf (src 0) (p 0)).poison.getD (4 * (j % 64 / 4) + k) false
      else (vregOf (src 1) (p 1)).poison.getD (4 * (j % 64 / 4) + k - 4) false) = p (k / 4) (4 * (j % 64 / 4) + k % 4) := by
    intro j k hk
    split
    · next hl => rw [vregOf_line _ _ (by omega), Nat.div_eq_of_lt hl, Nat.mod_eq_of_lt hl]
    · next hl =>
      rw [vregOf_line _ _ (by omega), show k / 4 = 1 by omega,
        show 4 * (j % 64 / 4) + k - 4 = 4 * (j % 64 / 4) + k % 4 by omega]
  refine vregOf_congr (fun k hk => ?_) (fun j hj => ?_)
  case refine_2 =>
    rw [← Nat.mod_eq_of_lt hj, line _ _ (by omega), line _ _ (by omega)]
    rfl
  rw [cast _ (by omega), cast _ (by omega), narrowLane, show 2 * k / 128 = k / 64 by omega,
    show 2 * k % 128 = 2 * (k % 64) by omega, show (2 * k + 1) / 128 = k / 64 by omega,
    show (2 * k + 1) % 128 = 2 * (k % 64) + 1 by omega]

/-- An element of the narrowed register is its cast. -/
theorem packedElem_narrowLane (df : Nat) (rnd : Nat → Rnd) (c : CastCtx) (src : Nat → Nat → Word) {r col : Nat} (hc : col < 128) :
    packedElem (narrowLane df rnd c src) r col = (narrowCast df rnd c src r col).bits % 65536 := by
  have lo : ∀ x y, loHalf (packLane x y) = x % 65536 := fun x y => by simp [loHalf, packLane]
  have hi : ∀ x y, hiHalf (packLane x y) = y % 65536 := fun x y => by simp [hiHalf, packLane]; omega
  have e : (64 * r + col / 2) / 64 = r := by omega
  unfold packedElem narrowLane
  split
  · rw [lo, e, show 2 * ((64 * r + col / 2) % 64) = col by omega]
  · rw [hi, e, show 2 * ((64 * r + col / 2) % 64) + 1 = col by omega]

theorem vcvtBody_narrow {v : VIns} {t : TileId} {s : State} (h : VecClean t s) (hu : aUnused v useA = false)
    (hs : v.sfmt = 0) (hf : v.fmt = 1 ∨ v.fmt = 2) (hd : v.vd < 32) (ha : v.va < 31)
    (hx : ¬ (v.va ≤ v.vd ∧ v.vd ≤ v.va + 1)) (i : Item) (hseed : v.roundA = true → (itemJob s i).seed.isSome = true) :
    let c := vat s.tiles[t].vec.ctx v.cxA castCtxZero
    ∃ cnt ps, vcvtBody t i v s = vecDone t i 1 (notePoison i.key ps (recordCasts t i.key i.layer.toNat cnt
      (writeReg t v.vd (vregOf (narrowLane v.fmt (ctxRnd v.roundA (itemSeed s i) c) c (fun m => Safety.lane s t (v.va + m)))
        (narrowLine (fun m => Safety.line s t (v.va + m)))) s))) := by
  have hk : cvtKind v.sfmt v.fmt = some 1 := by rcases hf with hf | hf <;> simp [cvtKind, hs, hf]
  have hc := vcvt_checks (s := s) (i := i) (nd := 1) (ns := 2) hk hu (by omega) (by omega) (by omega) (by simp [clash]; omega)
    (fun _ => hseed)
  intro c
  have hz := narrowPair_eq v.fmt (ctxRnd v.roundA (itemSeed s i) c) c (fun m => Safety.lane s t (v.va + m))
    (fun m => Safety.line s t (v.va + m))
  unfold vcvtBody
  simp only [hk] at hc ⊢
  rw [vecChecked_pass (by exact hc)]
  simp only [checkRegs_clean h, vregRaw_eq]
  rw [← hz]
  exact ⟨_, _, rfl⟩

end Sys2Proof.Machine
end

section
/-! SUPPORT. What completing a cast leaves (R89, R173), and the statement of compare, select, convert, reduce, transpose and
permute (R172, R173, R183). -/

namespace Sys2Proof.Machine
open Sys2Proof

/-! ## Casts recorded (R89, R448) -/

/-- The counts of a cast reach the item's flags and the quadrants' statistics only. -/
theorem recordCasts_eq (t : TileId) (k : ItemKey) (layer : Nat) (c : CastCounts) (s : State) :
    recordCasts t k layer c s =
      { modItem k (fun x => { x with flags := x.flags ||| BitVec.ofNat 8 (castFlags c) }) s with
        quads := (recordCasts t k layer c s).quads } := by
  unfold recordCasts countLayer
  split <;> rfl

theorem mem_modItem_of_ne {k : ItemKey} {f : Item → Item} {s : State} {x : Item} (h : x ∈ s.items) (hk : x.key ≠ k) :
    x ∈ (modItem k f s).items :=
  List.mem_map.mpr ⟨x, h, if_neg hk⟩

/-- Registers written, casts recorded, poison noted, and completed: the frame of an instruction that casts. -/
theorem vecMemFrame_vecDone {t : TileId} {rs : List Nat} {s w : State} (h : RegsOnly t rs (Safety.unmarked s) w) (i : Item)
    (beats layer : Nat) (cnt : CastCounts) (ps : List Bool) :
    let u := vecDone t i beats (notePoison i.key ps (recordCasts t i.key layer cnt w))
    Safety.vecMemFrame t i rs s u ∧ Safety.sameMemory s u ∧ u.heldBack = false ∧ u.passed = [] ∧
      ∀ r k, Safety.lane u t r k = Safety.lane w t r k := by
  intro u
  have c : VecCompleted t i beats _ u := vecDone_completed t i beats _
  rw [notePoison_eq, recordCasts_eq] at c
  clear_value u
  generalize (recordCasts t i.key layer cnt w).quads = quads at c
  obtain ⟨f, -, items⟩ := c.items
  have rest : u = { popVec t w with regs := u.regs, items := u.items, nfree := u.nfree, quads := quads } := c.rest
  have tile : ∀ x, u.tiles[x] = if x = t then { w.tiles[t] with vec :=
      { w.tiles[t].vec with queue := w.tiles[t].vec.queue.drop 1 } } else w.tiles[x] := c.tile
  have same : u.tiles[t] = { s.tiles[t] with vec := { s.tiles[t].vec with
      queue := s.tiles[t].vec.queue.drop 1, regs := w.tiles[t].vec.regs, poison := w.tiles[t].vec.poison } } := by
    have e := h.tile
    rw [tile, if_pos rfl, e]
    rfl
  have other : ∀ x, x ≠ t → u.tiles[x] = s.tiles[x] := fun x hx => by
    rw [tile, if_neg hx]
    exact h.other x hx
  have witems : w.items = s.items := by rw [h.rest]; rfl
  have key : u.items.map (·.key) = s.items.map (·.key) := by
    rw [items, ← witems]
    simp only [modItem_items, List.map_map]
    refine List.map_congr_left fun x _ => ?_
    by_cases hx : x.key = i.key <;> simp [hx]
  refine ⟨⟨other, ?_, ?_, ?_, ?_, fun r k j hr hk hj => ?_, ?_, ?_, ?_, key, fun x hx hk => ⟨x.taps, ?_⟩, ?_⟩,
    ⟨?_, ?_, fun x => ?_⟩, ?_, ?_, fun r k => (c.reads r k 0).1⟩
  · rw [same]
  · rw [same]
  · rw [same]
  · rw [same]
  · rw [(c.reads r k j).1, (c.reads r k j).2]
    exact h.keep r k j hr hk hj
  · rw [rest, h.rest]; rfl
  · rw [rest, h.rest]; rfl
  · rw [rest, h.rest]; rfl
  · rw [items]
    exact mem_modItem_of_ne (mem_modItem_of_ne (mem_modItem_of_ne (witems ▸ hx) hk) hk) hk
  · rw [c.instr]
    have wr : reg w (vecB t) Off.vecInstr = reg s (vecB t) Off.vecInstr := by rw [h.rest]; rfl
    exact congrArg (fun n => min (n + 1) _) wr
  · rw [rest, h.rest]; rfl
  · rw [rest, h.rest]; rfl
  · by_cases hx : x = t
    · subst hx
      rw [same]
      exact ⟨rfl, rfl, rfl⟩
    · rw [other x hx]
      exact ⟨rfl, rfl, rfl⟩
  · rw [rest, h.rest]; rfl
  · rw [rest, h.rest]; rfl

/-- A command whose instruction writes one register, records its casts, notes poison and completes. -/
theorem exec_writeReg_cast {c : Instr} {opc : Nat} {body : TileId → Item → VIns → State → State} {t : TileId} {i : Item}
    {v : VIns} {s : State} (hat : Safety.vecAt s t v i) (ho : v.opc = opc) (hc : exec c s = .next (vecRow opc body t s))
    (hin : vecOpcs.contains opc = true) {d beats layer : Nat} {cnt : CastCounts} {f : Nat → Word} {p : Nat → Bool}
    {ps : List Bool} (hb : body t i v (Safety.unmarked s) = vecDone t i beats (notePoison i.key ps
      (recordCasts t i.key layer cnt (writeReg t d (vregOf f p) (Safety.unmarked s))))) :
    ∃ u, exec c s = .next u ∧ Safety.vecMemFrame t i [d] s u ∧ Safety.sameMemory s u ∧
      ∀ k < 1024, Safety.lane u t d k = f k := by
  have clean := VecClean.of_vecAt hat
  obtain ⟨fr, mem, held, passed, lanes⟩ :=
    vecMemFrame_vecDone (regsOnly_writeReg clean d f p) i beats layer cnt ps
  obtain ⟨-, -, -, -, -, -, -, flt, -⟩ := id fr
  have run := vecRow_goes hat.1 ho hin (hb ▸ held) (hb ▸ passed) (hb ▸ flt)
  refine ⟨_, hc.trans (congrArg _ (run.trans hb)), fr, mem, fun k hk => ?_⟩
  rw [lanes, lane_writeReg clean d d f p hk, if_pos rfl]

/-! ## Elements where the statement reads them -/

theorem widenLane_at (sf : Nat) (a : Nat → Word) (r col : Nat) :
    widenLane sf a (col / 64) (64 * r + col % 64) = f32 (decodeFloat (regSpec sf) (packedElem a r col)) := by
  rw [widenLane, show (64 * r + col % 64) / 64 = r by omega,
    show 64 * (col / 64) + (64 * r + col % 64) % 64 = col by omega]

theorem transLane_at (src : Nat → Nat → Word) (r : Nat) {c : Nat} (hc : c < 64) :
    transLane src (r / 16) (64 * (r % 16) + c) = src (c / 16) (64 * (c % 16) + r) := by
  rw [transLane, show (64 * (r % 16) + c) % 64 = c by omega,
    show 64 * (c % 16) + 16 * (r / 16) + (64 * (r % 16) + c) / 64 = 64 * (c % 16) + r by omega]

/-! ## VCVT between FP32 and the packed formats (R173) -/

theorem vcvt_widens {t : TileId} {v : VIns} {i : Item} {s : State} (hat : Safety.vecAt s t v i) (ho : v.opc = 0x17)
    (hu : aUnused v useA = false) (hs : v.sfmt = 1 ∨ v.sfmt = 2) (hf : v.fmt = 0) (hd : v.vd < 31)
    (hx : ¬ (v.vd ≤ v.va ∧ v.va ≤ v.vd + 1)) :
    ∃ u, exec (.vcvt t) s = .next u ∧ Safety.vecFrame t i [v.vd, v.vd + 1] 2 s u ∧
      ∀ r < 16, ∀ col < 128, Safety.lane u t (v.vd + col / 64) (64 * r + col % 64) =
        f32 (decodeFloat (regSpec v.sfmt) (packedElem (Safety.lane s t v.va) r col)) := by
  have hb := vcvtBody_widen (VecClean.of_vecAt hat) hu hs hf hd (vecHead_fields hat.1).2 hx i
  obtain ⟨u, hu, fr, reads⟩ := exec_writeRegs (c := .vcvt t) hat ho rfl (by decide) hb
  refine ⟨u, hu, fr, fun r hr col hc => ?_⟩
  rw [(reads (col / 64) (by omega)).1 _ (by omega), widenLane_at]
  rfl

theorem vcvt_narrows {t : TileId} {v : VIns} {i : Item} {s : State} (hat : Safety.vecAt s t v i) (ho : v.opc = 0x17)
    (hu : aUnused v useA = false) (hs : v.sfmt = 0) (hf : v.fmt = 1 ∨ v.fmt = 2) (ha : v.va < 31)
    (hx : ¬ (v.va ≤ v.vd ∧ v.vd ≤ v.va + 1)) (hseed : v.roundA = true → (itemJob s i).seed.isSome = true) :
    let c := vat s.tiles[t].vec.ctx v.cxA castCtxZero
    ∃ u, exec (.vcvt t) s = .next u ∧ Safety.vecMemFrame t i [v.vd] s u ∧ Safety.sameMemory s u ∧
      ∀ r < 16, ∀ col < 128, packedElem (Safety.lane u t v.vd) r col =
        (narrowCast v.fmt (ctxRnd v.roundA (itemSeed s i) c) c (fun m => Safety.lane s t (v.va + m)) r col).bits % 65536 := by
  intro c
  obtain ⟨cnt, ps, hb⟩ := vcvtBody_narrow (VecClean.of_vecAt hat) hu hs hf (vecHead_fields hat.1).1 ha hx i hseed
  obtain ⟨u, hu, fr, mem, reads⟩ := exec_writeReg_cast (c := .vcvt t) hat ho rfl (by decide) hb
  refine ⟨u, hu, fr, mem, fun r hr col hc => ?_⟩
  rw [← packedElem_narrowLane _ _ _ _ hc]
  unfold packedElem
  rw [reads _ (by omega)]
  rfl

/-! ## The statement -/

/-- Settles O24: the body of each instruction is a write of registers given by their lanes and lines, followed by its
completion, which `vecFrame_vecDone` and `vecMemFrame_vecDone` bound. -/
theorem vectorCompareMove : Obligations.VectorCompareMove := by
  unfold Obligations.VectorCompareMove
  refine ⟨fun t v i s hat => ?_, fun t v i s hat => ?_⟩
  · intro a sc b c pab
    have of_fmt : v.fmt ≤ 3 → [0, 1, 2, 3].contains v.fmt = true := fun h => by
      interval_cases v.fmt <;> rfl
    obtain ⟨hd, ha⟩ := vecHead_fields hat.1
    refine ⟨fun ho hu hsub hf => ?cmp, fun ho hu hf => ?sel, fun ho hu => ⟨fun hs hf => ?_, fun hs hf => ?_,
      fun hs hf hd2 hx => ?widen, fun hs hf ha2 hx hseed => ?narrow⟩⟩
    case cmp =>
      have m := vecMakes_elementwise (c := .vcmp t) (u := useAB) hat ho rfl (by decide) (if_neg hsub) hu (of_fmt hf)
      have line : elemLine useAB v s t = pab := funext fun j => Bool.or_false _
      rw [line] at m
      exact m
    case sel =>
      have m := vecMakes_elementwise (c := .vsel t) hat ho rfl (by decide) rfl hu (of_fmt hf)
      simp only [ne_eq, ite_not] at m
      exact m
    case widen => exact vcvt_widens hat ho hu hs hf hd2 hx
    case narrow => exact vcvt_narrows hat ho hu hs hf ha2 hx hseed
    · exact vecMakes_of_body hat ho rfl (by decide) ((vcvtBody_lanes (VecClean.of_vecAt hat) hu hd ha i).1 hs hf)
    · exact vecMakes_of_body hat ho rfl (by decide) ((vcvtBody_lanes (VecClean.of_vecAt hat) hu hd ha i).2 hs hf)
  · intro a pa
    have clean := VecClean.of_vecAt hat
    refine ⟨fun hu hf hsub => ⟨fun ho => ?_, fun ho => ?_, fun ho => ?_⟩, fun ho hu hf hd ha hx => ?trans, fun ho hu hf => ?perm⟩
    case trans =>
      obtain ⟨ps, hb⟩ := vtr4Body_eq clean hu hf hd ha hx i
      obtain ⟨u, hu, fr, reads⟩ := exec_writeRegs (c := .vtr4 t) hat ho rfl (by decide) hb
      refine ⟨u, hu, fr, fun r hr c hc => ?_⟩
      rw [(reads (r / 16) (by omega)).1 _ (by omega), transLane_at _ _ hc]
      rfl
    case perm => exact vecMakes_of_body hat ho rfl (by decide) (vpermBody_eq clean hu hf i)
    · exact vecMakes_of_body hat ho rfl (by decide) (reduction_eq clean hu hf hsub 0 2 i)
    · exact vecMakes_of_body hat ho rfl (by decide) (reduction_eq clean hu hf hsub 1 2 i)
    · exact vecMakes_of_body hat ho rfl (by decide) (reduction_eq clean hu hf hsub 2 3 i)

end Sys2Proof.Machine
end

section
/-! SUPPORT. Array descriptors at a fenced gang (R133, R134, R306): a state in which an item has two of them. -/

namespace Sys2Proof.Machine
open Sys2Proof

/-- A descriptor whose gang has a fenced member is gone with every waiting entry of its item, which ends FENCED (R133, R134, R306). -/
theorem exec_arrayDescriptorAccept_fenced {t : TileId} {d : ArrDesc} {rest : List ArrDesc} {s : State}
    (hs : s.flt.safe = false) (hi : (gangOf s t).input = d :: rest) (hl : (gangOf s t).descs.length < 4)
    (hg : ∀ m ∈ t :: d.issuer :: liveMembers s t, (hdr s (mnt m)).genLive = d.gen)
    (hf : ∃ m ∈ t :: d.issuer :: liveMembers s t, (hdr s (mnt m)).mode = .fenced) :
    exec (.arrayDescriptorAccept t) s =
      .next (stopItem d.key d.issuer (fenceItem (mnt t) d.key (dropInput t d s))) := by
  have gen : (t :: d.issuer :: liveMembers s t).any (fun m => decide ((hdr s (mnt m)).genLive ≠ d.gen)) = false :=
    List.any_eq_false.mpr fun m hm => by simp [hg m hm]
  have fen : (t :: d.issuer :: liveMembers s t).any (fun m => decide ((hdr s (mnt m)).mode = .fenced)) = true := by
    obtain ⟨m, hm, e⟩ := hf
    exact List.any_eq_true.mpr ⟨m, hm, decide_eq_true e⟩
  have full : ¬(s.flt.safe = true ∨ 4 ≤ (gangOf s t).descs.length) := by simp [hs, hl]
  show execArrayDescriptorAccept t s = _
  unfold execArrayDescriptorAccept
  simp only [hi, full, gen, fen, if_true, if_false, Bool.false_eq_true]

/-- Two descriptors of one item that wait at tile 0's array, by their serial numbers. -/
def waitingDesc (serial : Nat) : ArrDesc := ⟨[], ⟨0, 1⟩, 0, 0, 0, none, serial, 0, 0, 0, false, []⟩

/-- The device at power-on, but that both wait and that the array is fenced. -/
def fencedArray : State :=
  modHdr (mnt 0) (fun h => { h with mode := .fenced })
    (setGang 0 { gangIdle with input := [waitingDesc 0, waitingDesc 1] } State.reset)

theorem fencedArray_fenced : (∀ m ∈ (0 : TileId) :: (waitingDesc 0).issuer :: liveMembers fencedArray 0,
      (hdr fencedArray (mnt m)).genLive = (waitingDesc 0).gen) ∧
    (hdr fencedArray (mnt 0)).mode = .fenced := by decide +kernel

/-- Nothing of the item waits any longer once its list has been stopped (R306). -/
theorem fencedArray_emptied :
    (gangOf (stopItem (waitingDesc 0).key (waitingDesc 0).issuer (fenceItem (mnt 0) (waitingDesc 0).key
      (dropInput 0 (waitingDesc 0) fencedArray))) 0).input = [] := by decide +kernel

/-- Refutes O31: where a member is fenced, the item ends FENCED and its list stops, so that the other descriptors of the item
that wait at the gang's input go too (R306), and not the first one alone. -/
theorem not_arrayAccept : ¬ Obligations.ArrayAccept := by
  unfold Obligations.ArrayAccept
  intro h
  obtain ⟨gen, fen⟩ := fencedArray_fenced
  have hf : ∃ m ∈ (0 : TileId) :: (waitingDesc 0).issuer :: liveMembers fencedArray 0, (hdr fencedArray (mnt m)).mode = .fenced :=
    ⟨0, List.mem_cons_self, fen⟩
  obtain ⟨-, -, fenced, -⟩ := h 0 (waitingDesc 0) [waitingDesc 1] fencedArray rfl rfl (by decide)
  obtain ⟨u, run, -, input, -⟩ := fenced gen hf
  rw [exec_arrayDescriptorAccept_fenced rfl rfl (by decide) gen hf] at run
  injection run with run
  subst run
  rw [fencedArray_emptied] at input
  exact absurd input (by decide)

end Sys2Proof.Machine
end

section
/-! SUPPORT. Fault messages (R425, R430): an array that fences while a drained descriptor stands in it (R134). -/

namespace Sys2Proof.Machine
open Sys2Proof

theorem exec_faultMessage_of_find {src : Block} {m : FMsg} {s : State}
    (h : s.flt.inflight.find? (fun x => decide (x.source.toNat = blockId src)) = some m) :
    exec (.faultMessage src) s = .next (takeMessage m (modFlt (fun f => { f with inflight := f.inflight.erase m }) s)) := by
  show execFaultMessage src s = _
  rw [execFaultMessage, h]

/-- A descriptor whose one step has been fed and drained, and its item. -/
def drainedDesc : ArrDesc := ⟨[], ⟨0, 1⟩, 0, 0, 0, none, 0, 1, 1, 1, false, []⟩
def drainedItem : Item :=
  { key := drainedDesc.key, job := 0, gen := 0, det := false, layer := 0, tile := 0, rank := 0, entry := 0, args := [], sq := 0,
    cq := 0, wd := 0, cookie := 0, state := .running, errs := [], remote := 0, fenced := false, cancelled := false,
    poisoned := false, flags := 0, detail := 0, listEnded := false, usedArray := true, usedVector := false, beatsArray := 0,
    beatsVector := 0, beatsMover := 0, sparse := false, sumRb := 0, sumDb := 0, energyPj := 0, taps := 0 }

/-- Tile 0's router reports a stall on the tile's array. -/
def stallOnArray : FMsg :=
  ⟨BitVec.ofNat 12 (blockId (.tile 0 .tl)), 0x30, 0, 0, 1, BitVec.ofNat 25 (blockId (.tile 0 .mnt))⟩

/-- The device at power-on, but that this report is on its way and the drained descriptor stands in the array. -/
def stalledArray : State :=
  { modMnt 0 (fun x => { x with gang := { gangIdle with descs := [drainedDesc] } })
      (modFlt (fun f => { f with inflight := [stallOnArray] }) State.reset) with items := [drainedItem] }

theorem stallOnArray_fences : classOf (normalKind stallOnArray) = clsFenced ∧
    fenceTargets (normalKind stallOnArray) = [.tile 0 .mnt] ∧
    blockOfId (normalKind stallOnArray).source.toNat = some (.tile 0 .tl) := by decide +kernel

theorem stalledArray_open : tileRetired stalledArray (.tile 0 .mnt) = false ∧ isFenced stalledArray (.tile 0 .mnt) = false ∧
    isFenced stalledArray (.tile 0 .tl) = false ∧ drainedDesc.key ∈ itemsIn stalledArray (.tile 0 .mnt) := by decide +kernel

/-- The descriptor completes before the array fences, so that its item does not end FENCED (R134). -/
theorem stalledArray_keeps : drainedItem ∈
    (takeMessage stallOnArray (modFlt (fun f => { f with inflight := f.inflight.erase stallOnArray }) stalledArray)).items := by
  decide +kernel

/-- Refutes O50: the last row of a descriptor that stands in an array may have been written. It then completes before the array
fences (R134), and its item, which was one of the array's, does not end FENCED. -/
theorem not_faultMessages : ¬ Obligations.FaultMessages := by
  unfold Obligations.FaultMessages
  intro h
  obtain ⟨cls, target, source⟩ := stallOnArray_fences
  obtain ⟨live, clear, reporter, held⟩ := stalledArray_open
  have first : stalledArray.flt.inflight.find? (fun x => decide (x.source.toNat = blockId (.tile 0 .tl))) = some stallOnArray := by
    decide
  obtain ⟨u, run, -, -, -, -, -, -, fences, -⟩ := (h (.tile 0 .tl) stallOnArray stalledArray).2 first
  rw [exec_faultMessage_of_find first] at run
  injection run with run
  subst run
  have silent : ∀ c, blockOfId (normalKind stallOnArray).source.toNat = some c → isFenced stalledArray c = false := by
    rintro c hc
    rw [source] at hc
    exact Option.some.inj hc ▸ reporter
  have ends := (fences _ cls target live clear silent).2 _ stalledArray_keeps held
  exact absurd ends (by decide)

end Sys2Proof.Machine
end

section
/-! SUPPORT. What an access to a memory leaves as it is: a frame for the statements about queues and routers. -/

namespace Sys2Proof.Machine
open Sys2Proof

/-- What each step of a fold leaves the whole fold leaves. -/
theorem foldl_of_steps {α β : Type} {R : β → β → Prop} (refl : ∀ s, R s s) (trans : ∀ {s t u}, R s t → R t u → R s u)
    {f : β → α → β} (h : ∀ s x, R s (f s x)) (l : List α) (s : β) : R s (l.foldl f s) := by
  induction l generalizing s with
  | nil => exact refl s
  | cons x l ih => exact trans (h s x) (ih _)

/-! ## Pages that nothing counts in -/

/-- The pages of the tiles' routers and of the quadrants' queues: no access to a memory and no link counts in them. -/
def QuietPage (p : Nat) : Prop := (4096 ≤ p ∧ p % 64 = 0) ∨ (256 ≤ p ∧ p < 512 ∧ 8 ≤ p % 64 ∧ p % 64 < 40)

/-- The other blocks. -/
def Loud : Block → Prop
  | .tile _ .tl => False
  | .qque _ => False
  | _ => True

theorem Loud.page {b : Block} (h : Loud b) {o : Nat} (ho : o < 4096) : ¬ QuietPage ((pageBase b 0 + o) / 4096) := by
  unfold QuietPage
  cases b
  case tile t u => cases u <;> simp only [Loud] at h <;> simp only [pageBase] <;> omega
  case qque q => exact h.elim
  all_goals simp only [pageBase]; omega

/-! ## Steps that wait for nothing -/

/-- Nothing makes a request wait, and none has waited in the step under way. -/
def Free (s : State) : Prop := s.heldBack = false ∧ s.passed = [] ∧ Safety.unheld s

theorem unheld_of_blocks {s u : State} (h : Safety.unheld s) (hm : ∀ b, blockStops u b = blockStops s b)
    (hp : ∀ k : StackId, s.hbmStacks[k].promoted = [] → u.hbmStacks[k].promoted = [])
    (hw : ∀ t : TileId, s.tiles[t].wideReserved = none → u.tiles[t].wideReserved = none) : Safety.unheld u :=
  ⟨fun t => ⟨hw t (h.1 t).1, (hm _).trans (h.1 t).2⟩, fun k => ⟨hp k (h.2 k).1, (hm _).trans (h.2 k).2⟩⟩

/-- Of s, an access to a memory has left in u: whether the device is in the safe state, the quiet pages, the items, the queues
of the quadrants, the tiles' work streams and movers; and nothing waits in u where nothing makes a request wait in s. -/
structure Steady (s u : State) : Prop where
  safe : u.flt.safe = s.flt.safe
  quiet : ∀ a, QuietPage (a / 4096) → regAt u a = regAt s a
  free : Free s → Free u
  items : u.items = s.items
  queues : ∀ q : QuadId, u.quads[q].sqs = s.quads[q].sqs ∧ u.quads[q].cqs = s.quads[q].cqs
  tiles : ∀ t : TileId, u.tiles[t].work = s.tiles[t].work ∧ u.tiles[t].mov = s.tiles[t].mov

namespace Steady

theorem refl (s : State) : Steady s s :=
  ⟨rfl, fun _ _ => rfl, id, rfl, fun _ => ⟨rfl, rfl⟩, fun _ => ⟨rfl, rfl⟩⟩

theorem trans {s t u : State} (h : Steady s t) (g : Steady t u) : Steady s u where
  safe := g.safe.trans h.safe
  quiet a ha := (g.quiet a ha).trans (h.quiet a ha)
  free c := g.free (h.free c)
  items := g.items.trans h.items
  queues q := ⟨(g.queues q).1.trans (h.queues q).1, (g.queues q).2.trans (h.queues q).2⟩
  tiles t := ⟨(g.tiles t).1.trans (h.tiles t).1, (g.tiles t).2.trans (h.tiles t).2⟩

theorem after {s t u : State} (g : Steady t u) (h : Steady s t) : Steady s u := h.trans g

theorem foldl {α : Type} {f : State → α → State} (h : ∀ s x, Steady s (f s x)) (l : List α) (s : State) :
    Steady s (l.foldl f s) :=
  foldl_of_steps refl trans h l s

theorem foldl_snd {α β : Type} {f : β × State → α → β × State} (h : ∀ a x, Steady a.2 (f a x).2) (l : List α)
    (a : β × State) : Steady a.2 (l.foldl f a).2 :=
  foldl_of_steps (R := fun a b => Steady a.2 b.2) (fun a => refl a.2) trans h l a

/-- A change of main memory, its code faults, the translation caches outside the tiles, waits noted and free values. -/
theorem of_rest {s u : State}
    (h : u = { s with hbm := u.hbm, hbmErr := u.hbmErr, portXlate := u.portXlate, camXlate := u.camXlate,
                      walkXlate := u.walkXlate, waited := u.waited, nfree := u.nfree }) : Steady s u := by
  rw [h]
  exact ⟨rfl, fun _ _ => rfl, id, rfl, fun _ => ⟨rfl, rfl⟩, fun _ => ⟨rfl, rfl⟩⟩

theorem takeFree (s : State) : Steady s (takeFree s).2 := of_rest rfl
theorem noteWork (k : Nat) (s : State) : Steady s (noteWork k s) := of_rest rfl
theorem storeHbm (pa : Nat) (bs : List Byte) (s : State) : Steady s (storeHbm pa bs s) := of_rest rfl
theorem setCwErr (cw n : Nat) (s : State) : Steady s (setCwErr cw n s) := of_rest rfl

theorem setRegAt {a : Nat} (h : ¬ QuietPage (a / 4096)) (v : Nat) (s : State) : Steady s (setRegAt a v s) where
  safe := rfl
  quiet c hc := regAt_setRegAt_ne _ _ _ _ (by rintro rfl; exact h hc)
  free := id
  items := rfl
  queues _ := ⟨rfl, rfl⟩
  tiles _ := ⟨rfl, rfl⟩

theorem setReg {b : Block} (h : Loud b) {o : Nat} (ho : o < 4096) (v : Nat) (s : State) : Steady s (setReg b o v s) :=
  setRegAt (h.page ho) v s
theorem bump {b : Block} (h : Loud b) {o : Nat} (ho : o < 4096) (n : Nat) (s : State) : Steady s (bump b o n s) :=
  setRegAt (h.page ho) _ s
theorem bump32 {b : Block} (h : Loud b) {o : Nat} (ho : o < 4096) (s : State) : Steady s (bump32 b o s) :=
  setRegAt (h.page ho) _ s

/-- A change of the collector that neither enters nor leaves the safe state. -/
theorem of_flt {s u : State} (h : u = { s with flt := u.flt }) (hs : u.flt.safe = s.flt.safe) : Steady s u := by
  rw [h]
  exact ⟨hs, fun _ _ => rfl, id, rfl, fun _ => ⟨rfl, rfl⟩, fun _ => ⟨rfl, rfl⟩⟩

theorem blockStops_emitN (b : Block) (n : Nat) (s : State) (c : Block) : blockStops (emitN b n s) c = blockStops s c := by
  have h : (hdr (Machine.emitN b n s) c).mode = (hdr s c).mode := by
    rw [Machine.emitN, hdr_modHdr]
    split
    · next e => simp only [hdr, e]
    · rfl
  unfold blockStops
  rw [h]

theorem emitN (b : Block) (n : Nat) (s : State) : Steady s (emitN b n s) where
  safe := rfl
  quiet _ _ := rfl
  free h := ⟨h.1, h.2.1, unheld_of_blocks h.2.2 (blockStops_emitN b n s) (fun _ => id) (fun _ => id)⟩
  items := rfl
  queues _ := ⟨rfl, rfl⟩
  tiles _ := ⟨rfl, rfl⟩

theorem raiseFault (b : Block) (kind addr item detail : Nat) (s : State) :
    Steady s (raiseFault b kind addr item detail s) :=
  (emitN b 1 s).trans (of_flt rfl rfl)

theorem modStack (k : StackId) {f : HbmSt → HbmSt} (h : ∀ x, x.promoted = [] → (f x).promoted = []) (s : State) :
    Steady s (modStack k f s) where
  safe := rfl
  quiet _ _ := rfl
  free c := by
    refine ⟨c.1, c.2.1, unheld_of_blocks c.2.2 (fun _ => rfl) (fun j hj => ?_) (fun _ => id)⟩
    simp only [Machine.modStack, Fin.getElem_fin, Vector.getElem_set]
    split
    · exact h _ (c.2.2.2 k).1
    · exact hj
  items := rfl
  queues _ := ⟨rfl, rfl⟩
  tiles _ := ⟨rfl, rfl⟩

theorem modTile (t : TileId) {f : TileSt → TileSt}
    (h : ∀ x, (f x).work = x.work ∧ (f x).mov = x.mov ∧ (x.wideReserved = none → (f x).wideReserved = none)) (s : State) :
    Steady s (modTile t f s) where
  safe := rfl
  quiet _ _ := rfl
  free c := by
    refine ⟨c.1, c.2.1, unheld_of_blocks c.2.2 (fun _ => rfl) (fun _ => id) (fun j hj => ?_)⟩
    simp only [Machine.modTile, Fin.getElem_fin, Vector.getElem_set]
    split
    · exact (h _).2.2 (c.2.2.1 t).1
    · exact hj
  items := rfl
  queues _ := ⟨rfl, rfl⟩
  tiles j := by
    simp only [Machine.modTile, Fin.getElem_fin, Vector.getElem_set]
    split
    · next e => simp only [← e]; exact ⟨(h _).1, (h _).2.1⟩
    · exact ⟨rfl, rfl⟩

theorem modQuad (q : QuadId) {f : QuadSt → QuadSt} (h : ∀ x, (f x).sqs = x.sqs ∧ (f x).cqs = x.cqs) (s : State) :
    Steady s (modQuad q f s) where
  safe := rfl
  quiet _ _ := rfl
  free := id
  items := rfl
  queues j := by
    simp only [Machine.modQuad, Fin.getElem_fin, Vector.getElem_set]
    split
    · next e => simp only [← e]; exact h _
    · exact ⟨rfl, rfl⟩
  tiles _ := ⟨rfl, rfl⟩

end Steady
end Sys2Proof.Machine

end

section
/-! SUPPORT. Accesses to main memory keep the frame. -/

namespace Sys2Proof.Machine
open Sys2Proof

/-! ## Main memory -/

namespace Steady

theorem markCw (cw : Nat) (s : State) : Steady s (markCw s cw) := after (setCwErr _ _ _) (storeHbm _ _ s)

theorem loseCw (cw : Nat) (s : State) : Steady s (loseCw cw s) := by
  unfold Machine.loseCw
  split
  · exact modStack _ (fun _ => by exact id) s
  · exact markCw cw s

theorem hbmReport (r : HbmReq) (cw kind : Nat) (onDie : Bool) (s : State) : Steady s (hbmReport r cw kind onDie s) :=
  raiseFault _ _ _ _ _ s

theorem hbmBump (k : StackId) {o : Nat} (ho : o < 4096) (s : State) : Steady s (Machine.bump (.hbm k) o 1 s) :=
  bump (b := .hbm k) trivial ho 1 s

theorem checkCw (r : HbmReq) (s : State) (cw : Nat) : Steady s (checkCw r s cw) := by
  unfold Machine.checkCw
  simp only
  split
  · have told : Steady s (Machine.bump (.hbm (stackOfPa (32 * cw))) Off.hbmOdecc 1 (onDieTold cw s)) :=
      after (hbmBump _ (by decide) _) (modStack _ (fun _ => by exact id) s)
    split
    · exact told
    · exact after (hbmBump _ (by decide) _) (after (hbmReport _ _ _ _ _) (after (loseCw cw _) told))
  split
  · exact refl s
  split
  · exact after (hbmBump _ (by decide) _) (after (hbmReport _ _ _ _ _) (setCwErr cw 0 s))
  · exact after (hbmBump _ (by decide) _) (after (hbmReport _ _ _ _ _) (markCw cw s))

theorem checkSector (r : HbmReq) (sec : Nat) (s : State) : Steady s (checkSector r sec s) :=
  after (checkCw r _ _) (checkCw r s _)

theorem disarm (a : BitVec 12 × BitVec 48 × Nat) (s : State) : Steady s (disarm a s) := of_flt rfl rfl

theorem injectHbm (k : StackId) (sec : Nat) (s : State) : Steady s (injectHbm k sec s) := by
  unfold Machine.injectHbm
  split
  · exact refl s
  · exact after (disarm _ _) (setCwErr _ _ s)

theorem freshSector (sec : Nat) (s : State) : Steady s (freshSector sec s) := by
  unfold Machine.freshSector
  exact modStack _ (fun _ => by exact id) s

theorem leaveSector (sec : Nat) (s : State) : Steady s (leaveSector sec s) := by
  unfold Machine.leaveSector
  exact foldl (fun a cw => after (modStack _ (fun _ => by exact id) _) (markCw cw a)) _ s

theorem writeBackLine (k : StackId) (l : CacheLine) (s : State) : Steady s (writeBackLine k l s) := by
  refine foldl (fun a i => ?_) _ s
  split
  · exact after (injectHbm _ _ _) (after (freshSector _ _) (hbmBump k (o := Off.hbmWb) (by decide) a))
  · exact leaveSector _ a

theorem makeRoom (k : StackId) (line : Nat) (s : State) : Steady s (makeRoom k line s) := by
  unfold Machine.makeRoom
  simp only
  split
  · exact refl s
  split
  · exact takeFree s
  · exact after (modStack _ (fun _ => by exact id) _) (after (writeBackLine k _ _) (takeFree s))

theorem touchLineOf (sec : Nat) (f : CacheLine → CacheLine) (s : State) : Steady s (touchLineOf sec f s) := by
  unfold Machine.touchLineOf
  simp only
  split
  · exact modStack _ (fun _ => by exact id) s
  · exact after (modStack _ (fun _ => by exact id) _) (makeRoom _ _ s)

theorem serveHbm (scrub : Bool) (pa : Nat) (s : State) : Steady s (serveHbm scrub pa s) := by
  unfold Machine.serveHbm
  simp only
  split
  · exact refl s
  · exact modStack _ (fun _ h => by rw [h]; rfl) s

/-- What a step notes of a request that waits, where none does. -/
theorem mark (held : Bool) (ps : List Nat) (s : State) (h : Free s → held = false ∧ ps = []) :
    Steady s { s with heldBack := held, passed := ps } :=
  ⟨rfl, fun _ _ => rfl, fun c => ⟨(h c).1, (h c).2, c.2.2⟩, rfl, fun _ => ⟨rfl, rfl⟩, fun _ => ⟨rfl, rfl⟩⟩

theorem atStack (pa : Nat) (s : State) : Steady s (atStack pa s) := by
  unfold Machine.atStack
  split
  · next h => exact mark true s.passed s fun ⟨_, _, c⟩ => by rw [(c.2 _).2] at h; cases h
  · exact refl s

theorem atBank (pa : Nat) (s : State) : Steady s (atBank pa s) := by
  unfold Machine.atBank
  split
  · next h =>
    refine after (serveHbm false pa _) (mark s.heldBack (pa :: s.passed) s fun ⟨_, _, c⟩ => ?_)
    simp only [outranked, promotions, (c.2 _).1, List.filter_nil, List.any_nil, Bool.false_and, Bool.false_eq_true] at h
  · exact serveHbm false pa s

theorem leaves (t : TileId) (s : State) : Steady s (leaves t s) := by
  unfold Machine.leaves
  split
  · next h => exact mark true s.passed s fun ⟨_, _, c⟩ => by rw [(c.1 _).2] at h; cases h
  · exact refl s

theorem demandSector (r : HbmReq) (fill : Bool) (sec : Nat) (s : State) : Steady s (demandSector r fill sec s) := by
  have asked : Steady s (Machine.atStack (64 * sec) (Machine.emitN (.hbm (stackOfPa (64 * sec))) 1
      (Machine.noteWork (blockId (.hbm (stackOfPa (64 * sec)))) s))) :=
    after (atStack _ _) (after (emitN _ 1 _) (noteWork _ s))
  unfold Machine.demandSector
  simp only
  refine trans asked ?_
  generalize Machine.atStack (64 * sec) _ = a
  split
  · refine after (touchLineOf _ _ _) (after ?_ (hbmBump (stackOfPa (64 * sec)) (o := Off.hbmHit) (by decide) a))
    split
    · split
      · exact bump (b := .tile _ .dmv) trivial (by decide) 1 _
      · exact refl _
    · exact refl _
  · refine after (touchLineOf _ _ _) (after ?_ (hbmBump (stackOfPa (64 * sec)) (o := Off.hbmMiss) (by decide) a))
    split
    · exact after (checkSector _ _ _) (atBank _ _)
    · exact refl _

theorem hbmRead (r : HbmReq) (pa len : Nat) (s : State) : Steady s (hbmRead r pa len s).2 := by
  unfold Machine.hbmRead
  simp only
  refine foldl (fun a p => ?_) _ s
  exact demandSector r true _ a

theorem hbmPut (pa : Nat) (bs : List Byte) (s : State) : Steady s (hbmPut pa bs s) := by
  unfold Machine.hbmPut
  split <;> exact storeHbm _ _ s

theorem writeSector (r : HbmReq) (pa : Nat) (bs : List Byte) (ps : List Bool) (s : State) :
    Steady s (writeSector r pa bs ps s) := by
  unfold Machine.writeSector
  simp only
  refine after (touchLineOf _ _ _) (after (foldl (fun a cw => ?_) _ _) (after (hbmPut pa bs _) (demandSector _ _ _ s)))
  split
  · exact markCw cw a
  split
  · exact setCwErr cw 0 a
  · exact refl a

theorem hbmWrite (r : HbmReq) (pa : Nat) (bs : List Byte) (ps : List Bool) (s : State) :
    Steady s (hbmWrite r pa bs ps s) := by
  unfold Machine.hbmWrite
  refine foldl (fun a p => ?_) _ s
  exact writeSector r p.1 _ _ a

/-! ## Virtual addresses -/

theorem modXlate (a : XAgent) (f : XlateSt → XlateSt) (s : State) : Steady s (modXlate a f s) := by
  unfold Machine.modXlate
  cases a
  case tile t => exact modTile t (fun _ => by exact ⟨rfl, rfl, id⟩) s
  all_goals exact of_rest rfl

theorem askSectors (r : VaReq) (pa len : Nat) (s : State) : Steady s (askSectors r pa len s) := by
  unfold Machine.askSectors
  refine after (emitN _ _ _) ?_
  split
  · exact leaves _ s
  · exact refl s

theorem askRead (r : VaReq) (pa len : Nat) (s : State) :
    Steady s (Machine.hbmRead r.hbm pa len (Machine.askSectors r pa len s)).2 :=
  after (hbmRead r.hbm pa len _) (askSectors r pa len s)

theorem readEntry (r : VaReq) (pa : Nat) (s : State) : Steady s (readEntry r pa s).2 := by
  unfold Machine.readEntry
  exact askRead r pa 8 s

theorem walk (r : VaReq) (va : Nat) (wr : Bool) (s : State) : Steady s (walk r va wr s).2 := by
  have read : ∀ pa s, Steady s (Machine.readEntry r pa s).2 := readEntry r
  unfold Machine.walk
  generalize Machine.readEntry r = f at read ⊢
  simp only
  split
  · exact refl s
  split
  · exact refl s
  split
  · exact read _ s
  split
  · split <;> exact read _ s
  split
  · exact read _ s
  split
  · exact read _ s
  split <;> exact after (read _ _) (read _ s)

theorem keepEntry (a : XAgent) (e : TlbEntry) (s : State) : Steady s (keepEntry a e s) := by
  unfold Machine.keepEntry
  simp only
  generalize (if e.large = true then 16 else 64 : Nat) = cap
  cases a
  case tile t =>
    simp only
    split
    · exact modXlate _ _ s
    split
    · exact takeFree s
    · exact after (modXlate _ _ _) (takeFree s)
  all_goals exact modXlate _ _ s

theorem translate (r : VaReq) (va : Nat) (wr : Bool) (s : State) : Steady s (translate r va wr s).2 := by
  unfold Machine.translate
  split
  · exact refl s
  · have h := walk r va wr s
    split
    · next e => rw [e] at h; exact h
    · next e => rw [e] at h; exact after (keepEntry _ _ _) h

theorem vaRead (r : VaReq) (va len : Nat) (s : State) : Steady s (vaRead r va len s).2 := by
  unfold Machine.vaRead
  refine foldl_snd (fun a p => ?_) _ (Except.ok ([], []), s)
  split
  · exact refl _
  · next d t =>
    have h := translate r p.1 false t
    split
    · next e => rw [e] at h; exact h
    · next e => rw [e] at h; exact after (askRead r _ _ _) h

theorem setDirty (r : VaReq) (e : TlbEntry) (va : Nat) (s : State) : Steady s (setDirty r e va s) := by
  unfold Machine.setDirty
  simp only
  split
  · exact refl s
  · exact after (modXlate _ _ _) (after (hbmWrite _ _ _ _ _) (askRead r _ 1 s))

theorem vaWriteBlock (r : VaReq) (va : Nat) (bs : List Byte) (ps : List Bool) (s : State) :
    Steady s (vaWriteBlock r va bs ps s).2 := by
  unfold Machine.vaWriteBlock
  have h := translate r va true s
  split
  · next e => rw [e] at h; exact h
  · next e =>
    rw [e] at h
    exact after (hbmWrite _ _ _ _ _) (after (askSectors r _ _ _) (after (setDirty r _ va _) h))

theorem vaWriteRaw (r : VaReq) (va : Nat) (bs : List Byte) (ps : List Bool) (s : State) :
    Steady s (vaWriteRaw r va bs ps s).2 := by
  unfold Machine.vaWriteRaw
  refine foldl_snd (fun a p => ?_) _ (Except.ok (), s)
  split
  · exact refl _
  · exact vaWriteBlock r _ _ _ _

/-! ## The copy of a secure point -/

theorem recWord (p : Fin 4) (n : Nat) (s : State) : Steady s (recWord p n s).2 := by
  rw [Machine.recWord]
  generalize reg s (.srv (leadQuad s p)) Off.srvRecBase = va
  have h := vaRead (srvReq s p) (va + 4 * n) 4 s
  split <;> (next e => rw [e] at h; exact h)

theorem recAddr (p : Fin 4) (n : Nat) (s : State) : Steady s (recAddr p n s).2 := by
  unfold Machine.recAddr
  have low := recWord p n s
  split
  next _ t e =>
  rw [e] at low
  have high := recWord p (n + 1) t
  split
  next _ u e' =>
  rw [e'] at high
  exact low.trans high

theorem stageCopy (p : Fin 4) (blk : Nat) (s : State) : Steady s (stageCopy p blk s).2 := by
  unfold Machine.stageCopy
  have h : Steady s (Machine.recWord p 14 (Machine.recAddr p 12 s).2).2 := after (recWord p 14 _) (recAddr p 12 s)
  simp only
  generalize Machine.recWord p 14 (Machine.recAddr p 12 s).2 = w at h ⊢
  split
  · exact h
  have g := h.trans (vaRead (srvReq w.2 p) blk kib64 w.2)
  split
  · next e => rw [e] at g; exact g
  · next e =>
    rw [e] at g
    dsimp only
    exact after (modQuad _ (fun _ => by exact ⟨rfl, rfl⟩) _) (after (vaWriteRaw _ _ _ _ _) g)

theorem stageBlock (p : Fin 4) (blk : Nat) (s : State) : Steady s (stageBlock p blk s).2 := by
  unfold Machine.stageBlock
  have h := stageCopy p blk s
  split
  · next e => rw [e] at h; exact after (bump (b := .srv _) trivial (by decide) 1 _) h
  · next e => rw [e] at h; exact h

theorem copyBeforeWrite (p : Fin 4) (job va : Nat) (s : State) : Steady s (copyBeforeWrite p job va s).2 := by
  unfold Machine.copyBeforeWrite
  simp only
  split
  · exact stageBlock p _ s
  · exact refl s

theorem vaWrite (r : VaReq) (va : Nat) (bs : List Byte) (ps : List Bool) (s : State) : Steady s (vaWrite r va bs ps s).2 := by
  unfold Machine.vaWrite
  refine foldl_snd (fun a p => ?_) _ (Except.ok (), s)
  split
  · exact refl _
  · next t =>
    have h := translate r p.1 true t
    split
    · next e => rw [e] at h; exact h
    · next u e =>
      rw [e] at h
      have g := h.trans (copyBeforeWrite r.part r.job p.1 u)
      split
      · next e => rw [e] at g; exact g
      · next e => rw [e] at g; exact after (vaWriteBlock r _ _ _ _) g

end Steady
end Sys2Proof.Machine

end

section
/-! SUPPORT. Accesses to tile memories and to spill regions keep the frame. -/

namespace Sys2Proof.Machine
open Sys2Proof

/-! ## Tile memories -/

namespace Steady

theorem answerAccess (r : MemReq) (s : State) : Steady s (answerAccess r s) := by
  unfold Machine.answerAccess
  split
  · exact emitN _ _ s
  · exact refl s

theorem tmemBump (t : TileId) {o : Nat} (ho : o < 4096) (n : Nat) (s : State) :
    Steady s (Machine.bump (.tile t .tmem) o n s) :=
  bump (b := .tile t .tmem) trivial ho n s

theorem countAccess (r : MemReq) (lo len : Nat) (s : State) : Steady s (countAccess r lo len s) := by
  unfold Machine.countAccess
  split
  · exact refl s
  have counted : Steady s (Machine.bump (.tile r.tile .tmem) Off.tmemAcc r.accesses (Machine.answerAccess r s)) :=
    after (tmemBump r.tile (by decide) _ _) (answerAccess r s)
  simp only
  split
  · exact counted
  · exact after (tmemBump r.tile (o := Off.tmemDpB) (by decide) _ _) counted

theorem servePromoted (r : MemReq) (lo len : Nat) (s : State) : Steady s (servePromoted r lo len s) := by
  unfold Machine.servePromoted
  split
  · exact refl s
  · exact modTile _ (fun _ => by exact ⟨rfl, rfl, id⟩) s

theorem grantAccess (r : MemReq) (lo len : Nat) (s : State) : Steady s (grantAccess r lo len s) := by
  have granted : Steady s (Machine.servePromoted r lo len (Machine.countAccess r lo len s)) :=
    after (servePromoted r lo len _) (countAccess r lo len s)
  unfold Machine.grantAccess
  simp only
  split
  · next h =>
    refine ⟨granted.safe, granted.quiet, fun c => ?_, granted.items, granted.queues, granted.tiles⟩
    simp only [bankReserved, (c.2.2.1 r.tile).1, Bool.false_eq_true] at h
  · exact granted

theorem setTmem (t : TileId) (m : MemSel) (v : TMem) (s : State) : Steady s (setTmem t m v s) := by
  unfold Machine.setTmem
  refine modTile t (fun x => ?_) s
  cases m <;> exact ⟨rfl, rfl, id⟩

theorem tmemReport (t : TileId) (mem : MemSel) (scrub portB : Bool) (item line kind word bits words : Nat) (s : State) :
    Steady s (tmemReport t mem scrub portB item line kind word bits words s) := by
  unfold Machine.tmemReport
  refine after (raiseFault _ _ _ _ _ _) (after (setReg (b := .tile t .tmem) trivial (by decide) _ _) (tmemBump t ?_ _ s))
  split
  · decide
  split
  · decide
  split <;> decide

theorem touchLine (r : MemReq) (lo len : Nat) (s : State) (line : Nat) : Steady s (touchLine r lo len s line) := by
  unfold Machine.touchLine
  split
  simp only
  have repaired : ∀ (kind : Nat) (v : TMem) (pb : Bool) (word bits words : Nat), Steady s (if kind = 0 then s
      else Machine.tmemReport r.tile r.mem false pb r.item line kind word bits words (Machine.setTmem r.tile r.mem v s)) := by
    intros
    split
    · exact refl s
    · exact after (tmemReport _ _ _ _ _ _ _ _ _ _ _) (setTmem _ _ _ s)
  split
  · exact after (tmemBump r.tile (o := Off.tmemMark) (by decide) _ _) (repaired _ _ _ _ _ _)
  · exact repaired _ _ _ _ _ _

theorem tmRead (r : MemReq) (lo len : Nat) (s : State) : Steady s (tmRead r lo len s).2 := by
  unfold Machine.tmRead
  exact after (foldl (fun a l => touchLine r lo len a l) _ _) (grantAccess r lo len s)

theorem tmWriteRaw (t : TileId) (mem : MemSel) (lo : Nat) (bs : List Byte) (ps : List Bool) (s : State) :
    Steady s (tmWriteRaw t mem lo bs ps s) := by
  unfold Machine.tmWriteRaw
  cases mem <;> exact setTmem _ _ _ s

theorem noteDisturb (t : TileId) (mem : MemSel) (lo len : Nat) (s : State) : Steady s (noteDisturb t mem lo len s) := by
  unfold Machine.noteDisturb
  simp only
  split
  · exact refl s
  · exact modTile t (fun _ => by exact ⟨rfl, rfl, id⟩) s

theorem applyInject (t : TileId) (mem : MemSel) (lo len : Nat) (s : State) : Steady s (applyInject t mem lo len s) := by
  unfold Machine.applyInject
  split
  · exact refl s
  · exact after (disarm _ _) (setTmem t mem _ s)

theorem tmWrite (r : MemReq) (lo : Nat) (bs : List Byte) (ps : List Bool) (s : State) :
    Steady s (tmWrite r lo bs ps s) := by
  unfold Machine.tmWrite
  exact after (applyInject _ _ _ _ _) (after (noteDisturb _ _ _ _ _) (after (tmWriteRaw _ _ _ _ _ _)
    (grantAccess r lo bs.length s)))

theorem viewRead (v : MemView) (n lo len : Nat) (s : State) : Steady s (viewRead v n lo len s).2 := by
  unfold Machine.viewRead
  split
  · refine after (foldl_snd (fun a p => ?_) _ (_, _)) (countAccess _ lo len s)
    exact tmRead _ _ _ _
  · exact tmRead _ lo len s

theorem viewWrite (v : MemView) (n lo : Nat) (bs : List Byte) (ps : List Bool) (s : State) :
    Steady s (viewWrite v n lo bs ps s) := by
  unfold Machine.viewWrite
  split
  · refine after (foldl (fun a p => ?_) _ _) (countAccess _ lo bs.length s)
    exact tmWrite _ _ _ _ a
  · exact tmWrite _ lo bs ps s

/-! ## Spill regions -/

theorem tileSpill (t : TileId) (id : QueueId) (n : Nat) (s : State) : Steady s (tileSpill t id n s) := by
  unfold Machine.tileSpill
  simp only
  split
  · exact refl s
  · exact after (tmWrite _ _ _ _ _) (takeFree s)

theorem tileFetch (t : TileId) (id : QueueId) (n : Nat) (s : State) : Steady s (tileFetch t id n s).2 := by
  unfold Machine.tileFetch
  simp only
  split
  · exact refl s
  · exact tmRead _ _ 64 s

theorem queSpill (id : QueueId) (n : Nat) (s : State) : Steady s (queSpill id n s) := by
  unfold Machine.queSpill
  split
  · exact tileSpill _ _ n s
  · exact tileSpill _ _ n s
  · exact after (vaWrite _ _ _ _ _) (takeFree s)
  · exact after (vaWrite _ _ _ _ _) (takeFree s)
  · exact refl s

theorem queFetch (id : QueueId) (n : Nat) (s : State) : Steady s (queFetch id n s).2 := by
  have read : ∀ q, Steady s (Machine.vaRead (spillReq q (ringPart s id)) (spillAt s id n) 64 s).2 :=
    fun q => vaRead _ _ 64 s
  unfold Machine.queFetch
  split
  · exact tileFetch _ _ n s
  · exact tileFetch _ _ n s
  · next q k =>
    have h := read q
    split <;> (next e => rw [e] at h; exact h)
  · next q k =>
    have h := read q
    split <;> (next e => rw [e] at h; exact h)
  · exact refl s

end Steady
end Sys2Proof.Machine

end

section
/-! SUPPORT. Queues, ports and counters: the part of the frame that they keep, and a packet that enters a queue. -/

namespace Sys2Proof.Machine
open Sys2Proof

/-! ## Steps that only queues, ports and counters take part in -/

/-- Of s, a step has left in u: whether the device is in the safe state, the quiet pages, and that nothing waits. -/
structure Calm (s u : State) : Prop where
  safe : u.flt.safe = s.flt.safe
  quiet : ∀ a, QuietPage (a / 4096) → regAt u a = regAt s a
  free : Free s → Free u

theorem Steady.calm {s u : State} (h : Steady s u) : Calm s u := ⟨h.safe, h.quiet, h.free⟩

namespace Calm

theorem refl (s : State) : Calm s s := (Steady.refl s).calm

theorem trans {s t u : State} (h : Calm s t) (g : Calm t u) : Calm s u where
  safe := g.safe.trans h.safe
  quiet a ha := (g.quiet a ha).trans (h.quiet a ha)
  free c := g.free (h.free c)

theorem after {s t u : State} (g : Calm t u) (h : Calm s t) : Calm s u := h.trans g

theorem foldl {α : Type} {f : State → α → State} (h : ∀ s x, Calm s (f s x)) (l : List α) (s : State) :
    Calm s (l.foldl f s) :=
  foldl_of_steps refl trans h l s

/-- A change of nothing but items, queues and ports. -/
theorem of_rest {s u : State}
    (h : u = { s with items := u.items, quads := u.quads, cams := u.cams, ports := u.ports, out := u.out, rot := u.rot }) :
    Calm s u := by
  rw [h]
  exact ⟨rfl, fun _ _ => rfl, id⟩

theorem modQuad (q : QuadId) (f : QuadSt → QuadSt) (s : State) : Calm s (modQuad q f s) := of_rest rfl

theorem modTile (t : TileId) {f : TileSt → TileSt} (h : ∀ x, x.wideReserved = none → (f x).wideReserved = none) (s : State) :
    Calm s (modTile t f s) where
  safe := rfl
  quiet _ _ := rfl
  free c := by
    refine ⟨c.1, c.2.1, unheld_of_blocks c.2.2 (fun _ => rfl) (fun _ => id) fun j hj => ?_⟩
    simp only [Machine.modTile, Fin.getElem_fin, Vector.getElem_set]
    split
    · exact h _ (c.2.2.1 t).1
    · exact hj

theorem setQue (id : QueueId) (v : SpillQ) (s : State) : Calm s (setQue id v s) := by
  unfold Machine.setQue
  cases id with
  | sq q k => exact modQuad q _ s
  | cq q k => exact modQuad q _ s
  | work t => exact modTile t (fun _ => by exact id) s
  | comp t => exact modTile t (fun _ => by exact id) s
  | fault => exact (Steady.of_flt (u := modFlt (fun f => { f with q := v }) s) rfl rfl).calm
  | fab p => exact refl s
  | tele q => exact refl s

theorem fetchLines {read : Nat → State → Bool × State} (h : ∀ n s, Steady s (read n s).2) (id : QueueId) (n : Nat)
    (s : State) : Calm s (fetchLines read id n s) := by
  induction n generalizing s with
  | zero => exact refl s
  | succ n ih =>
    refine trans ?_ (ih _)
    unfold fetchLine
    simp only
    split
    · exact refl s
    · exact after (setQue _ _ _) (h _ s).calm

end Calm

/-! ## A packet enters a queue -/

theorem setQue_setQue (id : QueueId) (v w : SpillQ) (s : State) : setQue id v (setQue id w s) = setQue id v s := by
  cases id <;> simp [setQue, modQuad, modTile, modFlt]

theorem queOf_setQue_same (id : QueueId) (h : dataQueue id = false) (v : SpillQ) (s : State) : queOf (setQue id v s) id = v := by
  cases id <;> simp [setQue, queOf, modQuad, modTile, modFlt, dataQueue] at h ⊢

/-- A packet enters a queue behind those in it; of its spill region nothing else is seen. -/
theorem pushQue_steady (id : QueueId) (h : dataQueue id = false) (p : QPkt) (s : State) :
    ∃ v, v.pkts = (queOf s id).pkts ++ [p] ∧ Steady (setQue id v s) (pushQue id p s) := by
  unfold pushQue spillOut
  simp only
  rw [queOf_setQue_same id h]
  split
  · exact ⟨_, rfl, Steady.refl _⟩
  · rw [setQue_setQue]
    exact ⟨_, rfl, Steady.foldl (fun a j => Steady.queSpill id _ a) _ _⟩

theorem Calm.pushQue (id : QueueId) (h : dataQueue id = false) (p : QPkt) (s : State) : Calm s (pushQue id p s) := by
  obtain ⟨v, -, hs⟩ := pushQue_steady id h p s
  exact (Calm.setQue id v s).trans hs.calm

end Sys2Proof.Machine

end

section
/-! SUPPORT. The dispatcher (R312, R314): the ring readers make nothing wait, and the descriptor in turn is served. -/

namespace Sys2Proof.Machine
open Sys2Proof

/-! ## The ring readers make nothing wait -/

/-- A step leaves nothing waiting where nothing makes a request wait. -/
def KeepsFree (s u : State) : Prop := Free s → Free u

theorem camFlush_calm (h : HostId) (s : State) : Calm s (camFlush h s) := by
  unfold camFlush
  simp only
  split
  · exact Calm.refl s
  · exact .after (Steady.bump (b := camB h) trivial (by decide) _ _).calm (Calm.of_rest rfl)

theorem camSend_calm (h : HostId) (x : CamTx) (s : State) : Calm s (camSend h x s) := by
  unfold camSend
  exact .after (camFlush_calm h _) (.after (Calm.of_rest rfl) (Steady.noteWork _ s).calm)

theorem outRefused_calm (h : HostId) (code ttype addr : Nat) (report : Bool) (s : State) :
    Calm s (outRefused h code ttype addr report s) := by
  have noted : ∀ v, Calm s (setReg (camB h) Off.camLastErr v (bump (camB h) Off.camOutRefused 1 s)) := fun v =>
    (Steady.after (Steady.setReg (b := camB h) trivial (by decide) v _)
      (Steady.bump (b := camB h) trivial (by decide) 1 s)).calm
  unfold outRefused
  simp only
  split
  · exact .after (Steady.raiseFault _ _ _ _ _ _).calm (noted _)
  · exact noted _

theorem startRead_calm (h : HostId) (q : QuadId) (k : Fin 16) (addr len : Nat) (s : State) :
    Calm s (startRead h q k addr len s) := by
  unfold startRead
  split
  · exact Calm.refl s
  · exact .after (camSend_calm h _ _) (.after (Calm.modQuad q _ _) (Calm.of_rest rfl))

theorem pumpFetch_calm (q : QuadId) (k : Fin 16) (s : State) : Calm s (pumpFetch q k s) := by
  unfold pumpFetch
  simp only
  split
  · exact Calm.refl s
  split
  · exact Calm.refl s
  split
  · exact Calm.modQuad q _ s
  split
  · exact .after (Calm.modQuad q _ _) (outRefused_calm _ _ _ _ _ s)
  · exact Calm.refl s
  · exact .after (startRead_calm _ q k _ _ _) (Steady.emitN _ 1 s).calm

theorem openEntry_calm (q : QuadId) (k : Fin 16) (h : HostId) (ws : List Word) (s : State) :
    Calm s (openEntry q k h ws s).2.2 := by
  unfold openEntry
  simp only
  split
  · exact Calm.refl s
  split
  · exact Calm.refl s
  · exact .after (Steady.bump (b := camB h) trivial (by decide) 1 _).calm (Calm.of_rest rfl)

theorem ringEntry_calm {q : QuadId} {k : Fin 16} {s u : State} {e : SqEntry} (h : ringEntry q k s = some (e, u)) :
    Calm s u := by
  unfold ringEntry at h
  simp only at h
  split at h
  · cases h
  split at h
  · have read := Steady.vaRead (ringReq q (ringPart s (.sq q k))) (ringBase s (.sq q k) + 64 * sqHeadOf s q k) 64 s
    split at h <;> (next r => cases h; rw [r] at read; exact read.calm)
  split at h
  · cases h
  split at h
  · cases h; exact Calm.refl s
  · cases h; exact openEntry_calm _ _ _ _ s

theorem readRing_free (q : QuadId) (k : Fin 16) (s : State) : KeepsFree s (readRing q k s) := by
  unfold readRing
  split
  · exact id
  split
  · exact id
  · next e t h =>
    intro c
    have taken : Free (advanceSq q k (pushQue (.sq q k) ⟨.desc e.code e.words e.wd, 8⟩ t)) :=
      (Calm.modQuad q _ _).free ((Calm.pushQue (.sq q k) rfl _ t).free ((ringEntry_calm h).free c))
    exact (pumpFetch_calm q k _).free taken

theorem readRings_free (q : QuadId) (s : State) : KeepsFree s (readRings q s) := by
  have pumped : KeepsFree s (pumpQuad q s) := (Calm.foldl (fun a k => pumpFetch_calm q k a) _ s).free
  unfold readRings
  refine fun c => foldl_of_steps (R := KeepsFree) (fun _ => id) (fun h g c => g (h c)) (fun a k => ?_) _ _ (pumped c)
  exact readRing_free q k a

/-! ## The descriptor in turn is the one served -/

theorem queHeadBad_calm (id : QueueId) (s : State) : Calm s (queHeadBad id s).2 := by
  unfold queHeadBad headBad
  exact Calm.fetchLines (Steady.queFetch id) id _ s

theorem sq_quiet (q : QuadId) (k : Fin 16) (o : Nat) (ho : o < 4096) : QuietPage (queAddr (.sq q k) o / 4096) := by
  have hp : queAddr (.sq q k) o = pageBase (.qque q) k.val + o := rfl
  unfold QuietPage
  rw [hp]
  simp only [pageBase]
  omega

theorem queEn_of_calm {s u : State} (h : Calm s u) (q : QuadId) (k : Fin 16) : queEn u (.sq q k) = queEn s (.sq q k) := by
  unfold queEn queReg
  rw [h.quiet _ (sq_quiet q k _ (by decide))]

theorem queEn_rewound (q : QuadId) (k : Fin 16) (s : State) : queEn (rewound (.sq q k) s) (.sq q k) = queEn s (.sq q k) := by
  have counted : queEn (bumpQue32 (.sq q k) Off.queRewindCnt 1 s) (.sq q k) = queEn s (.sq q k) := by
    unfold queEn queReg bumpQue32 setQueReg
    rw [regAt_setRegAt_ne _ _ _ _ (by simp only [queAddr, Off.queRewindCnt, Off.queCtrl]; omega)]
  unfold rewound
  exact (queEn_of_calm (Steady.raiseFault _ _ _ _ _ _).calm q k).trans counted

theorem queEn_rewindHead (q : QuadId) (k : Fin 16) (s : State) :
    queEn (rewindHead (.sq q k) s) (.sq q k) = queEn s (.sq q k) := by
  unfold rewindHead
  split
  · next h => cases h
  split
  · rfl
  · exact (queEn_rewound q k _).trans (queEn_of_calm (Calm.setQue _ _ s) q k)

theorem nextEntry_eq_none {q : QuadId} {k : Fin 16} {s : State} :
    nextEntry q k s = none ↔ queEn s (.sq q k) = false ∨ (queOf s (.sq q k)).pkts = [] := by
  unfold nextEntry
  cases h : queEn s (.sq q k) <;> simp [h]

/-- A queue without a descriptor in its head cuff has none to serve. -/
theorem tryQueue_none {q : QuadId} {k : Fin 16} {s : State} (h : nextEntry q k s = none) : tryQueue q k s = none := by
  have still : nextEntry q k (match queHeadBad (.sq q k) s with
      | (true, s) => rewindHead (.sq q k) s
      | (false, s) => s) = none := by
    rcases nextEntry_eq_none.mp h with off | empty
    · have read := queEn_of_calm (queHeadBad_calm (.sq q k) s) q k
      refine nextEntry_eq_none.mpr (.inl ?_)
      split
      · next e => rw [e] at read; exact (queEn_rewindHead q k _).trans (read.trans off)
      · next e => rw [e] at read; exact read.trans off
    · have read : queHeadBad (.sq q k) s = (false, s) := by
        unfold queHeadBad headBad
        simp [empty, fetchLines]
      rw [read]
      exact h
  unfold tryQueue
  simp only
  split
  · rfl
  · next e => cases still.symm.trans e

/-- A descriptor in its queue's cuffs is acted on once its packet has been taken. -/
theorem tryQueue_acts {q : QuadId} {k : Fin 16} {s u : State} {e : SqEntry} (hn : nextEntry q k s = some e)
    (hl : (queOf s (.sq q k)).lines = 0) (hb : (queOf s (.sq q k)).bad = []) (ha : actOn q k e (popEntry q k s) = some u) :
    tryQueue q k s = some ((descOf e.words).op, modQuad q (fun x => { x with lastSq := k.val }) u) := by
  have read : queHeadBad (.sq q k) s = (false, s) := by
    unfold queHeadBad headBad
    simp [hl, hb, fetchLines]
  unfold tryQueue
  simp only [read, hn, ha]

theorem mem_serviceOrder (s : State) (q : QuadId) (k : Fin 16) : k ∈ serviceOrder s q := by
  have prio : ringPrio s (.sq q k) < 4 := Nat.mod_lt _ (by decide)
  have placed : ringPrio s (.sq q k) ∈ [3, 2, 1, 0] := by
    simp only [List.mem_cons, List.not_mem_nil, or_false]
    omega
  unfold serviceOrder
  refine List.mem_flatMap.mpr ⟨_, placed, List.mem_filter.mpr ⟨List.mem_map.mpr ?_, beq_self_eq_true _⟩⟩
  refine ⟨⟨(k.val + 15 * (s.quads[q].lastSq + 1)) % 16, by omega⟩, List.mem_finRange _, Fin.ext ?_⟩
  simp only
  omega

theorem findSome?_eq_of_only {α β : Type} {f : α → Option β} {l : List α} {a : α} {b : β} (ha : a ∈ l) (hf : f a = some b)
    (hn : ∀ x, x ≠ a → f x = none) : l.findSome? f = some b := by
  induction l with
  | nil => cases ha
  | cons x l ih =>
    rw [List.findSome?_cons]
    by_cases h : x = a
    · rw [h, hf]
    · rw [hn x h]
      exact ih ((List.mem_cons.mp ha).resolve_left (Ne.symm h))

theorem popEntry_calm (q : QuadId) (k : Fin 16) (s : State) : Calm s (popEntry q k s) := by
  unfold popEntry takeQueHead takeHead
  exact .after (Calm.fetchLines (Steady.queFetch _) _ _ _) (Calm.setQue _ _ s)

/-- The descriptor in turn acts, where it is of the row's OP, and nothing makes it wait. -/
theorem dispatchRow_inTurn {row : Nat → Bool} {q : QuadId} {k : Fin 16} {e : SqEntry} {s t u : State}
    (h : Safety.inTurn s q k e t) (ho : row (descOf e.words).op = true) (ha : actOn q k e t = some u) (hu : KeepsFree t u) :
    dispatchRow row q s = modQuad q (fun x => { x with lastSq := k.val }) u := by
  obtain ⟨hfree, hheld, hn, hl, hb, ht, hothers⟩ := h
  rw [ht] at ha hu
  have free : Free (readRings q (Safety.unmarked s)) := readRings_free q _ ⟨rfl, rfl, hfree⟩
  obtain ⟨marked, passed, -⟩ := hu ((popEntry_calm q k _).free free)
  have served : (serviceOrder (readRings q (Safety.unmarked s)) q).findSome?
      (fun j => tryQueue q j (readRings q (Safety.unmarked s))) = some ((descOf e.words).op,
        modQuad q (fun x => { x with lastSq := k.val }) u) :=
    findSome?_eq_of_only (mem_serviceOrder _ q k) (tryQueue_acts hn hl hb ha) fun j hj => tryQueue_none (hothers j hj)
  have outcome : ∀ a, a = Safety.unmarked s → (if dispatchHeld a q then a
      else
        let t := readRings q a
        match (serviceOrder t q).findSome? (fun j => tryQueue q j t) with
        | some (op, u) => if row op then u else t
        | none => t) = modQuad q (fun x => { x with lastSq := k.val }) u := by
    rintro _ rfl
    have held : dispatchHeld (Safety.unmarked s) q = false := hheld
    simp only [held, served, ho, Bool.false_eq_true, if_false, if_true]
  unfold dispatchRow
  refine (unlessHeld_goes _ s ?_ ?_).trans (outcome _ rfl)
  · exact (congrArg State.heldBack (outcome _ rfl)).trans marked
  · exact (congrArg State.passed (outcome _ rfl)).trans passed

end Sys2Proof.Machine

end

section
/-! SUPPORT. The items that a RUN places (R32). -/

namespace Sys2Proof.Machine
open Sys2Proof

/-! ## ITEM values -/

/-- An ITEM value that the dispatcher passes over: 0xFFFF, or in flight (R32). -/
def ItemTaken (s : State) (p : Fin 4) (n : BitVec 16) : Prop := n = 0xFFFF ∨ (findItem s ⟨p, n⟩).isSome

theorem freeItem_free_or_all_taken (s : State) (p : Fin 4) (k : Nat) (n : BitVec 16) :
    ¬ ItemTaken s p (freeItem s p k n) ∨ ∀ j < k, ItemTaken s p (n + BitVec.ofNat 16 j) := by
  induction k generalizing n with
  | zero => exact .inr fun j hj => absurd hj (Nat.not_lt_zero j)
  | succ k ih =>
    unfold freeItem
    split
    · next h =>
      refine (ih (n + 1)).imp_right fun all j hj => ?_
      cases j with
      | zero => simpa [ItemTaken] using h
      | succ j =>
        have e : n + BitVec.ofNat 16 (j + 1) = n + 1 + BitVec.ofNat 16 j := by
          rw [BitVec.ofNat_add]
          ac_rfl
        rw [e]
        exact all j (by omega)
    · next h => exact .inl h

theorem itemTaken_mem {s : State} {p : Fin 4} {n : BitVec 16} (h : ItemTaken s p n) :
    n ∈ 0xFFFF :: s.items.map (·.key.item) := by
  refine List.mem_cons.mpr (h.imp_right fun found => ?_)
  obtain ⟨i, hi⟩ := Option.isSome_iff_exists.mp found
  have key : i.key = ⟨p, n⟩ := by simpa using List.find?_some hi
  exact List.mem_map.mpr ⟨i, List.mem_of_find?_eq_some hi, by rw [key]⟩

/-- Of 4096 ITEM values in a row one is free while fewer than 4095 items are in flight. -/
theorem freeItem_free {s : State} (h : s.items.length + 1 < 4096) (p : Fin 4) (n : BitVec 16) :
    ¬ ItemTaken s p (freeItem s p 4096 n) := by
  refine (freeItem_free_or_all_taken s p 4096 n).resolve_right fun all => ?_
  have tried : ((List.range 4096).map (fun j => n + BitVec.ofNat 16 j)).Nodup := by
    refine List.Nodup.map_on (fun x hx y hy e => ?_) List.nodup_range
    have e' := congrArg BitVec.toNat ((BitVec.add_right_inj n).mp e)
    simp only [BitVec.toNat_ofNat, List.mem_range] at e' hx hy
    omega
  have taken := (tried.subperm (l₂ := 0xFFFF :: s.items.map (·.key.item)) fun x hx => by
    obtain ⟨j, hj, rfl⟩ := List.mem_map.mp hx
    exact itemTaken_mem (all j (List.mem_range.mp hj))).length_le
  simp only [List.length_map, List.length_range, List.length_cons] at taken
  omega

/-! ## One item placed -/

/-- The item that a RUN places on a tile (R32). -/
def placedItem (p : Fin 4) (sq wd : Nat) (d : Desc) (s : State) (x : TileId × Nat) : Item where
  key := ⟨p, freeItem s p 4096 s.quads[leadQuad s p].nextItem⟩
  job := d.job
  gen := stampFor s x.1
  det := (jobParam s x.1 d.job.toNat).det
  layer := d.layer
  tile := x.1
  rank := x.2
  entry := d.entry
  args := d.args
  sq := sq
  cq := d.cq
  wd := wd
  cookie := d.cookie
  state := .queued
  errs := []
  remote := 0
  fenced := false
  cancelled := false
  poisoned := false
  flags := 0
  detail := 0
  listEnded := false
  usedArray := false
  usedVector := false
  beatsArray := 0
  beatsVector := 0
  beatsMover := 0
  sparse := false
  sumRb := 0
  sumDb := 0
  energyPj := 0
  taps := 0

/-- The item in flight, its ITEM value taken, before it enters its tile's work stream. -/
def listItem (p : Fin 4) (sq wd : Nat) (d : Desc) (s : State) (x : TileId × Nat) : State :=
  modQuad (leadQuad s p) (fun y => { y with nextItem := freeItem s p 4096 s.quads[leadQuad s p].nextItem + 1 })
    { s with items := s.items ++ [placedItem p sq wd d s x] }

section
variable (p : Fin 4) (sq wd : Nat) (d : Desc) (s : State) (x : TileId × Nat)

theorem listItem_calm : Calm s (listItem p sq wd d s x) := Calm.of_rest rfl
theorem listItem_items : (listItem p sq wd d s x).items = s.items ++ [placedItem p sq wd d s x] := rfl
theorem listItem_tiles : (listItem p sq wd d s x).tiles = s.tiles := rfl

theorem placeItem_steady : ∃ v, v.pkts = s.tiles[x.1].work.pkts ++ [⟨.item (placedItem p sq wd d s x).key, 8⟩] ∧
    Steady (setQue (.work x.1) v (listItem p sq wd d s x)) (placeItem p sq wd d s x) := by
  obtain ⟨v, hv, hs⟩ := pushQue_steady (.work x.1) rfl ⟨.item (placedItem p sq wd d s x).key, 8⟩ (listItem p sq wd d s x)
  exact ⟨v, hv, hs.trans (Steady.emitN _ 1 _)⟩

theorem placeItem_items : (placeItem p sq wd d s x).items = s.items ++ [placedItem p sq wd d s x] := by
  obtain ⟨v, -, h⟩ := placeItem_steady p sq wd d s x
  exact h.items.trans (listItem_items p sq wd d s x)

theorem placeItem_calm : Calm s (placeItem p sq wd d s x) := by
  obtain ⟨v, -, h⟩ := placeItem_steady p sq wd d s x
  exact (listItem_calm p sq wd d s x).trans ((Calm.setQue _ v _).trans h.calm)

theorem placeItem_work_same : (placeItem p sq wd d s x).tiles[x.1].work.pkts.map (·.body) =
    s.tiles[x.1].work.pkts.map (·.body) ++ [.item (placedItem p sq wd d s x).key] := by
  obtain ⟨v, hv, h⟩ := placeItem_steady p sq wd d s x
  have e : (setQue (.work x.1) v (listItem p sq wd d s x)).tiles[x.1].work = v := queOf_setQue_same (.work x.1) rfl v _
  rw [(h.tiles x.1).1, e, hv, List.map_append]
  rfl

theorem placeItem_work_ne (t : TileId) (ht : t ≠ x.1) : (placeItem p sq wd d s x).tiles[t].work = s.tiles[t].work := by
  obtain ⟨v, -, h⟩ := placeItem_steady p sq wd d s x
  have e : (setQue (.work x.1) v (listItem p sq wd d s x)).tiles[t].work = (listItem p sq wd d s x).tiles[t].work := by
    simp only [setQue, modTile, Fin.getElem_fin, Vector.getElem_set]
    rw [if_neg fun c => ht (Fin.ext c.symm)]
  rw [(h.tiles t).1, e, listItem_tiles]

end

/-! ## The items of a RUN -/

/-- What a placed item says of its RUN, and its place in its tile's work stream. -/
structure PlacedOf (p : Fin 4) (d : Desc) (s u : State) (i : Item) : Prop where
  part : i.key.part = p
  valid : i.key.item ≠ 0xFFFF
  fresh : ∀ x ∈ s.items, x.key ≠ i.key
  queued : i.state = .queued
  job : i.job = d.job
  entry : i.entry = d.entry
  args : i.args = d.args
  layer : i.layer = d.layer
  cookie : i.cookie = d.cookie
  errs : i.errs = []
  listed : u.tiles[i.tile].work.pkts.map (·.body) = s.tiles[i.tile].work.pkts.map (·.body) ++ [.item i.key]

/-- Of s, the items `new` have been placed on the tiles `xs`, each with its rank. -/
structure Places (p : Fin 4) (d : Desc) (xs : List (TileId × Nat)) (new : List Item) (s u : State) : Prop where
  items : u.items = s.items ++ new
  tiles : new.map (·.tile) = xs.map (·.1)
  ranks : new.map (·.rank) = xs.map (·.2)
  keys : (new.map (·.key)).Nodup
  each : ∀ i ∈ new, PlacedOf p d s u i
  others : ∀ t : TileId, t ∉ xs.map (·.1) → u.tiles[t].work = s.tiles[t].work
  calm : Calm s u

theorem Places.cons {p : Fin 4} {sq wd : Nat} {d : Desc} {x : TileId × Nat} {xs : List (TileId × Nat)} {new : List Item}
    {s u : State} (hroom : s.items.length + 1 < 4096) (hx : x.1 ∉ xs.map (·.1))
    (h : Places p d xs new (placeItem p sq wd d s x) u) : Places p d (x :: xs) (placedItem p sq wd d s x :: new) s u := by
  have free := freeItem_free hroom p s.quads[leadQuad s p].nextItem
  have items := placeItem_items p sq wd d s x
  have first : PlacedOf p d s u (placedItem p sq wd d s x) := by
    refine ⟨rfl, fun e => free (.inl e), fun y hy e => free (.inr ?_), rfl, rfl, rfl, rfl, rfl, rfl, rfl, ?_⟩
    · exact List.find?_isSome.mpr ⟨y, hy, decide_eq_true e⟩
    · exact (congrArg (fun w => w.pkts.map (·.body)) (h.others x.1 hx)).trans (placeItem_work_same p sq wd d s x)
  have later : ∀ i ∈ new, PlacedOf p d s u i := fun i hi => by
    have g := h.each i hi
    have apart : i.tile ≠ x.1 := fun e => hx (h.tiles ▸ e ▸ List.mem_map_of_mem hi)
    exact { g with
      fresh := fun y hy => g.fresh y (items ▸ List.mem_append_left _ hy)
      listed := g.listed.trans (by rw [placeItem_work_ne p sq wd d s x i.tile apart]) }
  refine ⟨?_, ?_, ?_, ?_, List.forall_mem_cons.mpr ⟨first, later⟩, fun t ht => ?_, ?_⟩
  · rw [h.items, items, List.append_assoc]
    rfl
  · rw [List.map_cons, List.map_cons, h.tiles]
    rfl
  · rw [List.map_cons, List.map_cons, h.ranks]
    rfl
  · refine List.nodup_cons.mpr ⟨fun hm => ?_, h.keys⟩
    obtain ⟨i, hi, e⟩ := List.mem_map.mp hm
    exact (h.each i hi).fresh _ (items ▸ List.mem_append_right _ (List.mem_singleton_self _)) e.symm
  · obtain ⟨ne, hxs⟩ := not_or.mp (mt List.mem_cons.mpr ht)
    rw [h.others t hxs, placeItem_work_ne p sq wd d s x t ne]
  · exact (placeItem_calm p sq wd d s x).trans h.calm

theorem places_foldl (p : Fin 4) (sq wd : Nat) (d : Desc) (xs : List (TileId × Nat)) (hx : (xs.map (·.1)).Nodup) (s : State)
    (hroom : s.items.length + xs.length < 4096) : ∃ new, Places p d xs new s (xs.foldl (placeItem p sq wd d) s) := by
  induction xs generalizing s with
  | nil => exact ⟨[], (List.append_nil _).symm, rfl, rfl, List.nodup_nil, List.forall_mem_nil _, fun _ _ => rfl, Calm.refl s⟩
  | cons x xs ih =>
    rw [List.map_cons, List.nodup_cons] at hx
    rw [List.length_cons] at hroom
    obtain ⟨new, h⟩ := ih hx.2 (placeItem p sq wd d s x) (by
      rw [placeItem_items, List.length_append, List.length_singleton]; omega)
    exact ⟨_, .cons (by omega) hx.1 h⟩

theorem tilesOf_nodup (m : BitVec 64) : (tilesOf m).Nodup := (List.nodup_finRange 64).filter _

theorem length_tilesOf_le (m : BitVec 64) : (tilesOf m).length ≤ 64 :=
  (List.length_filter_le _ _).trans (List.length_finRange (n := 64)).le

theorem dispatchRun_places (p : Fin 4) (sq wd : Nat) (d : Desc) (s : State) (hroom : s.items.length + 64 < 4096) :
    ∃ new, Places p d (tilesOf d.tiles).zipIdx new s (dispatchRun p sq wd d s) := by
  refine places_foldl p sq wd d _ ?_ s ?_
  · rw [List.zipIdx_map_fst]
    exact tilesOf_nodup _
  · rw [List.length_zipIdx]
    have := length_tilesOf_le d.tiles
    omega

end Sys2Proof.Machine

end

section
/-! SUPPORT. RUN (R32, R314): its checks, its record, and what it does in turn. -/

namespace Sys2Proof.Machine
open Sys2Proof

/-! ## The checks of a RUN -/

theorem mem_tileUnits (b : TileUnit) : b ∈ tileUnits := by cases b <;> decide

theorem tileFenced_iff (s : State) (t : TileId) : tileFenced s t = true ↔ ∃ b, (hdr s (.tile t b)).mode = .fenced := by
  simp [tileFenced, mem_tileUnits]

theorem firstFail_eq_ite (b : Bool) (c : Nat) (cs : List (Bool × Nat)) :
    firstFail ((b, c) :: cs) = if b then some c else firstFail cs := rfl

theorem runFails_reserved {s : State} {p : Fin 4} {ws : List Word} {d : Desc}
    (h : descReserved ws = true ∨ tilesOf d.tiles = []) : runFails s p ws d = some eProgram := by
  unfold runFails
  simp only
  rw [firstFail_eq_ite, if_pos (by simpa using h)]

section
variable {s : State} {p : Fin 4} {ws : List Word} {d : Desc} (hw : descReserved ws = false) (ht : tilesOf d.tiles ≠ [])
include hw ht

/-- The checks of a RUN whose words are well formed and that names a tile. -/
theorem runFails_cons : runFails s p ws d = firstFail [(decide (d.entry.toNat % 4 ≠ 0), eAlign),
    ((tilesOf d.tiles).any (fun t => partOfTile s t != p || quadFailed s (quadOf t)), ePartition),
    ((tilesOf d.tiles).any (fun t => s.tiles[t].retired), eShape), (!jobGranted s p d.job, eDenied),
    ((tilesOf d.tiles).any (tileFenced s), stFenced)] := by
  unfold runFails
  simp only
  rw [firstFail_eq_ite, if_neg (by simpa [hw] using ht)]

theorem runFails_align (h : d.entry.toNat % 4 ≠ 0) : runFails s p ws d = some eAlign := by
  rw [runFails_cons hw ht, firstFail_eq_ite, if_pos (decide_eq_true h)]

variable (ha : d.entry.toNat % 4 = 0)
include ha

theorem runFails_partition (h : ¬ ∀ x ∈ tilesOf d.tiles, partOfTile s x = p ∧ quadFailed s (quadOf x) = false) :
    runFails s p ws d = some ePartition := by
  have out : (tilesOf d.tiles).any (fun t => partOfTile s t != p || quadFailed s (quadOf t)) = true := by
    push Not at h
    obtain ⟨x, hx, hf⟩ := h
    refine List.any_eq_true.mpr ⟨x, hx, ?_⟩
    by_cases e : partOfTile s x = p
    · simp [hf e]
    · simp [e]
  rw [runFails_cons hw ht, firstFail_eq_ite, if_neg (by simpa using ha), firstFail_eq_ite, if_pos out]

variable (hin : ∀ x ∈ tilesOf d.tiles, partOfTile s x = p ∧ quadFailed s (quadOf x) = false)
include hin

theorem runFails_inside : runFails s p ws d = firstFail [((tilesOf d.tiles).any (fun t => s.tiles[t].retired), eShape),
    (!jobGranted s p d.job, eDenied), ((tilesOf d.tiles).any (tileFenced s), stFenced)] := by
  have inside : (tilesOf d.tiles).any (fun t => partOfTile s t != p || quadFailed s (quadOf t)) = false :=
    List.any_eq_false.mpr fun x hx => by simp [hin x hx]
  rw [runFails_cons hw ht, firstFail_eq_ite, if_neg (by simpa using ha), firstFail_eq_ite, if_neg (by simp [inside])]

theorem runFails_retired (h : ∃ x ∈ tilesOf d.tiles, s.tiles[x].retired = true) : runFails s p ws d = some eShape := by
  rw [runFails_inside hw ht ha hin, firstFail_eq_ite, if_pos (List.any_eq_true.mpr h)]

variable (hr : ∀ x ∈ tilesOf d.tiles, s.tiles[x].retired = false)
include hr

theorem runFails_kept : runFails s p ws d = firstFail [(!jobGranted s p d.job, eDenied),
    ((tilesOf d.tiles).any (tileFenced s), stFenced)] := by
  rw [runFails_inside hw ht ha hin, firstFail_eq_ite, if_neg (by simpa using hr)]

theorem runFails_denied (h : jobGranted s p d.job = false) : runFails s p ws d = some eDenied := by
  rw [runFails_kept hw ht ha hin hr, firstFail_eq_ite, if_pos (by simp [h])]

theorem runFails_granted (h : jobGranted s p d.job = true) :
    runFails s p ws d = if (tilesOf d.tiles).any (tileFenced s) then some stFenced else none := by
  rw [runFails_kept hw ht ha hin hr, firstFail_eq_ite, if_neg (by simp [h]), firstFail_eq_ite]
  rfl

end

theorem jobGranted_iff (s : State) (p : Fin 4) (job : BitVec 6) : jobGranted s p job = true ↔
    maskHas s.quads[leadQuad s p].granted job.toNat = true ∧ maskHas s.quads[leadQuad s p].ending job.toNat = false := by
  simp [jobGranted]

theorem firstFail_mem {cs : List (Bool × Nat)} {c : Nat} (h : firstFail cs = some c) : c ∈ cs.map (·.2) := by
  induction cs with
  | nil => cases h
  | cons x cs ih =>
    simp only [firstFail] at h
    split at h
    · cases h; exact List.mem_cons_self
    · exact List.mem_cons_of_mem _ (ih h)

theorem runFails_lt {s : State} {p : Fin 4} {ws : List Word} {d : Desc} {c : Nat} (h : runFails s p ws d = some c) : c < 256 := by
  have hc := firstFail_mem h
  simp only [List.map_cons, List.map_nil, List.mem_cons, List.not_mem_nil, or_false] at hc
  rcases hc with rfl | rfl | rfl | rfl | rfl | rfl <;> decide

/-! ## What a RUN does -/

section
variable (q : QuadId) (k : Fin 16) {e : SqEntry} (t : State) (hc : e.code = 0)
include hc

theorem actOn_run_dropped (h : cqTakes t (ringPart t (.sq q k)) (descOf e.words).cq = false) :
    actOn q k e t = some (dropDescriptor q t) := by
  unfold actOn
  simp only [hc, h, ne_eq, not_true_eq_false, Bool.not_false, if_false, if_true]

variable (ho : (descOf e.words).op = opRun) (hr : Safety.cqReady t q k e)
include ho hr

theorem actOn_run_refused {c : Nat} (hf : runFails t (ringPart t (.sq q k)) e.words (descOf e.words) = some c) :
    actOn q k e t = some (postCommand (descOf e.words).cq c t.dev.genLive (ringPart t (.sq q k)) (descOf e.words).job
      (queNumber q k) e.wd (descOf e.words).cookie t) := by
  obtain ⟨takes, room⟩ := hr
  unfold actOn
  simp [hc, ho, takes, room, hf, opRun, opJobStart, opJobEnd, opJobAbort]

theorem actOn_run_placed (hf : runFails t (ringPart t (.sq q k)) e.words (descOf e.words) = none)
    (hw : runWaits t (queNumber q k) (descOf e.words) = false) :
    actOn q k e t = some (dispatchRun (ringPart t (.sq q k)) (queNumber q k) e.wd (descOf e.words) t) := by
  obtain ⟨takes, room⟩ := hr
  unfold actOn
  simp [hc, ho, takes, room, hf, hw, opRun, opJobStart, opJobEnd, opJobAbort]

end

theorem dropDescriptor_calm (q : QuadId) (s : State) : Calm s (dropDescriptor q s) :=
  (Steady.bump32 (b := .qdsp q) trivial (by decide) s).calm

/-- A record posted in a completion queue enters it behind those in it. -/
theorem postRecord_steady (n : Nat) (ws : List Word) (s : State) :
    ∃ v, v.pkts = s.quads[(cqOfNat n).1].cqs[(cqOfNat n).2].q.pkts ++ [recordPkt ws] ∧
      Steady (setQue (.cq (cqOfNat n).1 (cqOfNat n).2) v s) (postRecord n ws s) :=
  pushQue_steady (.cq (cqOfNat n).1 (cqOfNat n).2) rfl (recordPkt ws) s

theorem postRecord_pkts (n : Nat) (ws : List Word) (s : State) :
    (postRecord n ws s).quads[(cqOfNat n).1].cqs[(cqOfNat n).2].q.pkts =
      s.quads[(cqOfNat n).1].cqs[(cqOfNat n).2].q.pkts ++ [recordPkt ws] := by
  obtain ⟨v, hv, h⟩ := postRecord_steady n ws s
  have e : (setQue (.cq (cqOfNat n).1 (cqOfNat n).2) v s).quads[(cqOfNat n).1].cqs[(cqOfNat n).2].q = v :=
    queOf_setQue_same (.cq (cqOfNat n).1 (cqOfNat n).2) rfl v s
  rw [(h.queues _).2, e, hv]

theorem postRecord_items (n : Nat) (ws : List Word) (s : State) : (postRecord n ws s).items = s.items := by
  obtain ⟨v, -, h⟩ := postRecord_steady n ws s
  exact h.items

theorem postRecord_calm (n : Nat) (ws : List Word) (s : State) : Calm s (postRecord n ws s) :=
  Calm.pushQue (.cq _ _) rfl _ s

theorem commandRecord_fields (status gen job sq wd detail : Nat) (cookie : BitVec 16) (h : status < 256) :
    fld (hword (commandRecord status gen job sq wd detail cookie.toNat) 0) 15 0 = 0xFFFF ∧
    fld (hword (commandRecord status gen job sq wd detail cookie.toNat) 0) 23 16 = status ∧
    fld (hword (commandRecord status gen job sq wd detail cookie.toNat) 6) 31 16 = cookie.toNat := by
  have hc := cookie.isLt
  simp only [commandRecord, recordWords, hword, fld, List.getD_cons_zero, List.getD_cons_succ, BitVec.toNat_ofNat]
  omega

/-- A refused descriptor or a command posts its record, without an item. -/
theorem postCommand_posts (n status : Nat) (gen : Byte) (p : Fin 4) (job : BitVec 6) (sq wd : Nat) (cookie : BitVec 16)
    (s : State) (h : status < 256) : (postCommand n status gen p job sq wd cookie s).items = s.items ∧
      ∃ ws, (postCommand n status gen p job sq wd cookie s).quads[(cqOfNat n).1].cqs[(cqOfNat n).2].q.pkts =
          s.quads[(cqOfNat n).1].cqs[(cqOfNat n).2].q.pkts ++ [⟨.record ws, 4⟩] ∧
        fld (hword ws 0) 15 0 = 0xFFFF ∧ fld (hword ws 0) 23 16 = status ∧ fld (hword ws 6) 31 16 = cookie.toNat := by
  unfold postCommand
  exact ⟨postRecord_items _ _ _, _, postRecord_pkts _ _ _, commandRecord_fields _ _ _ _ _ _ _ h⟩

theorem postCommand_calm (n status : Nat) (gen : Byte) (p : Fin 4) (job : BitVec 6) (sq wd : Nat) (cookie : BitVec 16)
    (s : State) : Calm s (postCommand n status gen p job sq wd cookie s) := by
  unfold postCommand
  exact .after (postRecord_calm _ _ _) (Steady.takeFree s).calm

/-- RUN carries out the RUN descriptor in turn. -/
theorem exec_run_inTurn {q : QuadId} {k : Fin 16} {e : SqEntry} {s t u : State} (h : Safety.inTurn s q k e t)
    (ho : (descOf e.words).op = opRun) (ha : actOn q k e t = some u) (hu : Calm t u) :
    exec (.run q) s = .next (modQuad q (fun x => { x with lastSq := k.val }) u) := by
  have run : exec (.run q) s = execRun q s := rfl
  rw [run, execRun, dispatchRow_inTurn h (by rw [ho]; decide) ha hu.free]

theorem cqs_modQuad_lastSq (q r : QuadId) (k j : Fin 16) (s : State) :
    (modQuad q (fun x => { x with lastSq := k.val }) s).quads[r].cqs[j] = s.quads[r].cqs[j] := by
  simp only [modQuad, Fin.getElem_fin, Vector.getElem_set]
  split
  · next e => simp only [← e]
  · rfl

/-- Settles O35: a RUN in turn places its items tile by tile, and otherwise posts the record of its first failing check or is dropped. -/
theorem runPlacesItems : Obligations.RunPlacesItems := by
  unfold Obligations.RunPlacesItems
  intro q k e s t hturn hcode
  simp only
  intro hop
  refine ⟨fun hready hfails hwaits hitems => ?_, fun hready c hfails => ?_, fun htakes => ?_, ?_, ?_⟩
  · obtain ⟨new, h⟩ := dispatchRun_places (ringPart t (.sq q k)) (queNumber q k) e.wd (descOf e.words) t hitems
    have hact := actOn_run_placed q k t hcode hop hready hfails hwaits
    refine ⟨_, new, exec_run_inTurn hturn hop hact h.calm, h.items, ?_, ?_, h.keys, fun i hi => ?_⟩
    · rw [h.tiles, List.zipIdx_map_fst]
    · rw [h.ranks, List.zipIdx_map_snd, List.range_eq_range']
    · have g := h.each i hi
      exact ⟨g.part, g.valid, g.fresh, g.queued, g.job, g.entry, g.args, g.layer, g.cookie, g.errs, g.listed⟩
  · have hact := actOn_run_refused q k t hcode hop hready hfails
    obtain ⟨items, ws, hpkts, hfields⟩ := postCommand_posts (descOf e.words).cq c t.dev.genLive (ringPart t (.sq q k))
      (descOf e.words).job (queNumber q k) e.wd (descOf e.words).cookie t (runFails_lt hfails)
    refine ⟨_, exec_run_inTurn hturn hop hact (postCommand_calm _ _ _ _ _ _ _ _ t), items, ws, ?_, hfields⟩
    rw [cqs_modQuad_lastSq]
    exact hpkts
  · have hact := actOn_run_dropped q k t hcode htakes
    exact ⟨_, exec_run_inTurn hturn hop hact (dropDescriptor_calm q t), rfl, (regAt_bump32 _ _ _ _).trans (if_pos rfl)⟩
  · exact runFails_reserved
  · intro hw ht
    refine ⟨runFails_align hw ht, fun ha hin => runFails_partition hw ht ha hin, fun ha hin => ⟨runFails_retired hw ht ha hin,
      fun hr => ⟨fun hg => ?_, fun hg hf => ?_, fun hg hf => ?_⟩⟩⟩
    · exact runFails_denied hw ht ha hin hr (Bool.eq_false_iff.mpr (mt (jobGranted_iff t _ _).mp hg))
    · rw [runFails_granted hw ht ha hin hr ((jobGranted_iff t _ _).mpr hg), if_pos]
      obtain ⟨x, hx, hb⟩ := hf
      exact List.any_eq_true.mpr ⟨x, hx, (tileFenced_iff t x).mpr hb⟩
    · rw [runFails_granted hw ht ha hin hr ((jobGranted_iff t _ _).mpr hg), if_neg]
      refine Bool.not_eq_true _ ▸ List.any_eq_false.mpr fun x hx hb => ?_
      obtain ⟨b, hm⟩ := (tileFenced_iff t x).mp hb
      exact hf x hx b hm

end Sys2Proof.Machine

end

section
/-! SUPPORT. A packet delivered at a block (R29, R31, R33, R34, R36, R37), and a router's record of a stall (R24). -/

namespace Sys2Proof.Machine
open Sys2Proof

/-! ## A packet delivered -/

section
variable (dst src : Block) (tag : DWord) (s : State)

theorem hdr_congr {b c : Block} (h : blockId b = blockId c) (s : State) : hdr s b = hdr s c := by
  unfold hdr
  rw [h]

/-- A packet delivered changes no header but its source's PG_SEQ and the order kept at its block. -/
theorem hdr_noteArrival (b : Block) : hdr (noteArrival dst src tag s) b =
    { hdr s b with sent := (hdr (noteArrival dst src tag s) b).sent, last := (hdr (noteArrival dst src tag s) b).last } := by
  unfold noteArrival
  simp only [hdr_modHdr]
  split
  · next e =>
    rw [hdr_congr e]
    split
    · next f => rw [hdr_congr f]
    · rfl
  · split
    · next e => rw [hdr_congr e]
    · rfl

theorem mode_noteArrival (b : Block) : (hdr (noteArrival dst src tag s) b).mode = (hdr s b).mode := by
  rw [hdr_noteArrival]

theorem sent_noteArrival :
    (hdr (noteArrival dst src tag s) src).sent = max (hdr s src).sent (packetNo (hdr s src) (tagSeq tag.toNat)) := by
  unfold noteArrival
  rw [hdr_modHdr]
  split
  · next e => rw [← hdr_congr e, hdr_modHdr_same]
  · rw [hdr_modHdr_same]

theorem last_noteArrival : fget (fun _ => 0) (hdr (noteArrival dst src tag s) dst).last (flowKey src tag) =
    packetNo (hdr s src) (tagSeq tag.toNat) + 1 := by
  unfold noteArrival
  simp only [hdr_modHdr_same, fget_fset, if_true]

end

theorem tagSeq_lt (n : Nat) : tagSeq n < 65536 := Nat.mod_lt _ (by decide)

/-- A source that has emitted a packet still names it by the same SEQ. -/
theorem packetNo_max {h u : Hdr} {q : Nat} (hq : q < 65536) (hs : u.sent = max h.sent (packetNo h q)) :
    packetNo u q = packetNo h q := by
  revert hs
  simp only [packetNo, seqBefore, Bool.or_eq_true, Bool.and_eq_true, decide_eq_true_eq]
  split <;> split <;> omega

theorem seq_of_max {h u : Hdr} {q : Nat} (hq : q < 65536) (hs : u.sent = max h.sent (packetNo h q))
    (hb : seqBefore h.seq.toNat q = true) : u.seq.toNat = q := by
  revert hs hb
  simp only [packetNo, seqBefore, Hdr.seq, BitVec.toNat_ofNat, Bool.or_eq_true, Bool.and_eq_true, decide_eq_true_eq]
  split <;> omega

/-- A packet that has been delivered does not arrive again. -/
theorem inOrder_noteArrival (dst src : Block) (tag : DWord) (s : State) :
    inOrder (noteArrival dst src tag s) dst src tag = false := by
  unfold inOrder
  rw [last_noteArrival, packetNo_max (tagSeq_lt _) (sent_noteArrival dst src tag s)]
  simp

/-! ## What becomes of it -/

section
variable {dst src : Block} {tag : DWord} {s : State}

theorem exec_packetArrival (h : inOrder s dst src tag = true) :
    exec (.packetArrival dst src tag) s = .next (deliver dst tag (noteArrival dst src tag s)) := by
  have run : exec (.packetArrival dst src tag) s = execPacketArrival dst src tag s := rfl
  rw [run, execPacketArrival, if_pos h]

theorem exec_packetArrival_out_of_order (h : inOrder s dst src tag = false) :
    exec (.packetArrival dst src tag) s = .next s := by
  have run : exec (.packetArrival dst src tag) s = execPacketArrival dst src tag s := rfl
  rw [run, execPacketArrival, h]
  rfl

theorem isFenced_noteArrival (b : Block) : isFenced (noteArrival dst src tag s) b = isFenced s b := by
  unfold isFenced
  rw [mode_noteArrival]

theorem dropCommand_of_class {u : State} (h : tagClass tag.toNat = 0) :
    dropCommand dst tag u = bump32 (.tile (watcher u dst) .tl) Off.tlCmdDropCnt u := by
  unfold dropCommand
  rw [if_pos h]

theorem failSender_of_item {k : ItemKey} {i : Item} {code : Nat} {b : Block} {u : State} (h : findItem u k = some i) :
    failSender k code b u = failItem k i.tile code b u := by
  unfold failSender
  rw [h]

theorem findItem_dropCommand (u : State) (k : ItemKey) : findItem (dropCommand dst tag u) k = findItem u k := by
  unfold dropCommand
  split <;> rfl

theorem deliver_poisoned {u : State} (h : poisonedCommand tag = true) :
    deliver dst tag u = bump32 (.tile (watcher u dst) .tl) Off.tlCmdDropCnt u := by
  unfold deliver
  rw [if_pos h, dropCommand_of_class]
  simp only [poisonedCommand, Bool.and_eq_true, decide_eq_true_eq] at h
  exact h.1

theorem deliver_wrongPart {u : State} (hp : poisonedCommand tag = false) (hw : wrongPart u dst tag = true) :
    deliver dst tag u = if tagClass tag.toNat < 2 then failSender (tagKey tag) ePartition dst (dropCommand dst tag u) else u := by
  unfold deliver
  simp only [hp, hw, Bool.false_eq_true, if_false, if_true]

theorem deliver_fenced {u : State} (hp : poisonedCommand tag = false) (hw : wrongPart u dst tag = false)
    (hf : isFenced u dst = true) (hi : (itemsIn u dst).contains (tagKey tag) = false) :
    deliver dst tag u = fenceItem dst (tagKey tag) u := by
  unfold deliver
  simp only [hp, hw, hf, hi, Bool.not_false, Bool.and_self, Bool.false_eq_true, if_false, if_true]

theorem deliver_accepted {u : State} (hp : poisonedCommand tag = false) (hw : wrongPart u dst tag = false)
    (hf : isFenced u dst = false ∨ (itemsIn u dst).contains (tagKey tag) = true) :
    deliver dst tag u = acceptPacket dst tag u := by
  have out : (isFenced u dst && !(itemsIn u dst).contains (tagKey tag)) = false := by
    rcases hf with h | h <;> simp only [h, Bool.false_and, Bool.not_true, Bool.and_false]
  unfold deliver
  simp only [hp, hw, out, Bool.false_eq_true, if_false]

/-- A packet of the staged generation waits, and one of neither generation fails its item. -/
theorem acceptPacket_other {u : State} (hf : fabricArrival tag = false)
    (hg : BitVec.ofNat 8 (tagGen tag.toNat) ≠ (hdr u dst).genLive) :
    acceptPacket dst tag u =
      if (hdr u dst).genPend ∧ BitVec.ofNat 8 (tagGen tag.toNat) = (hdr u dst).genStaged
      then modHdr dst (fun h => { h with held := h.held ++ [tag] }) u else failSender (tagKey tag) eInternal dst u := by
  unfold acceptPacket
  simp only [hf, hg, Bool.false_eq_true, or_self, if_false]

end

/-! ## Stalls -/

theorem blockId_eq_tl {b : Block} {t : TileId} : blockId b = blockId (.tile t .tl) ↔ b = .tile t .tl := by
  refine ⟨fun h => ?_, fun h => h ▸ rfl⟩
  cases b
  case tile x u =>
    have e : u = .tl := by cases u <;> simp only [blockId, TileUnit.index] at h ⊢ <;> omega
    subst e
    exact congrArg (Block.tile · .tl) (Fin.ext (by simp only [blockId] at h; omega))
  all_goals simp only [blockId, TileUnit.index] at h; omega

theorem sameStall_dropStall (t : TileId) (b : Block) (n : Nat) (s : State) : sameStall (dropStall t b s) t b n = false := by
  have kept : (dropStall t b s).tiles[t].stalls = s.tiles[t].stalls.filter (fun e => decide (e.1 ≠ b)) := by
    simp [dropStall, modTile]
  unfold sameStall
  rw [kept, List.any_eq_false]
  intro e he
  have other : e.1 ≠ b := of_decide_eq_true (List.mem_filter.mp he).2
  simp [other]

theorem sameStall_noteStall (t : TileId) (b : Block) {beats n : Nat} (h : beats < n) (s : State) :
    sameStall (noteStall t b beats s) t b n = true := by
  simp [sameStall, noteStall, modTile, h]

end Sys2Proof.Machine

end

section
/-! SUPPORT. The safe-state notice (R439), up to the ports: what it leaves of the routers' pages. -/

namespace Sys2Proof.Machine
open Sys2Proof

/-! ## Steps that leave the routers' counters -/

/-- Of s, a step has left in u: whether the device is in the safe state, and the quiet pages. -/
structure Keeps (s u : State) : Prop where
  safe : u.flt.safe = s.flt.safe
  quiet : ∀ a, QuietPage (a / 4096) → regAt u a = regAt s a

theorem Calm.keeps {s u : State} (h : Calm s u) : Keeps s u := ⟨h.safe, h.quiet⟩
theorem Steady.keeps {s u : State} (h : Steady s u) : Keeps s u := ⟨h.safe, h.quiet⟩

namespace Keeps

theorem of_regs {s u : State} (hs : u.flt.safe = s.flt.safe) (hr : u.regs = s.regs) : Keeps s u :=
  ⟨hs, fun a _ => by unfold regAt; rw [hr]⟩

theorem refl (s : State) : Keeps s s := of_regs rfl rfl

theorem trans {s t u : State} (h : Keeps s t) (g : Keeps t u) : Keeps s u :=
  ⟨g.safe.trans h.safe, fun a ha => (g.quiet a ha).trans (h.quiet a ha)⟩

theorem after {s t u : State} (g : Keeps t u) (h : Keeps s t) : Keeps s u := h.trans g

theorem foldl {α : Type} {f : State → α → State} (h : ∀ s x, Keeps s (f s x)) (l : List α) (s : State) :
    Keeps s (l.foldl f s) :=
  foldl_of_steps refl trans h l s

end Keeps

/-! ## Stage chains -/

namespace Steady

theorem reportTable (t : TileId) (item f : Nat) (bank : Bool) (lines : List FtLine) (s : State) :
    Steady s (reportTable t item f bank lines s) := by
  unfold Machine.reportTable
  refine foldl (fun a l => ?_) _ s
  have kept : ∀ x, Steady a (setFtSlot t f x a) := fun x => modTile t (fun _ => by exact ⟨rfl, rfl, id⟩) a
  simp only
  split
  · exact refl a
  · refine after (raiseFault _ _ _ _ _ _) ?_
    split
    · exact kept _
    · exact after (takeFree _) (kept _)

theorem vecReg (t : TileId) {o : Nat} (ho : o < 4096) (v : Nat) (s : State) : Steady s (Machine.setReg (vecB t) o v s) :=
  setReg (b := vecB t) trivial ho v s

theorem scLine (t : TileId) (c : ScCfg) (sel : Bool) (bank : FtBank) (d : Nat) (s : State) :
    Steady s (scLine t c sel bank d s) := by
  have read : ∀ (x : MemView) lo len s, Steady s (lineRead x lo len s).2 := fun x lo len s => viewRead x _ lo len s
  have write : ∀ (x : MemView) lo bs ps s, Steady s (lineWrite x lo bs ps s) := fun x lo bs ps s => viewWrite x _ lo bs ps s
  have report : ∀ ls s, Steady s (Machine.reportTable t 0 c.tslot sel ls s) := fun ls s => reportTable _ _ _ _ _ s
  unfold Machine.scLine
  generalize lineRead = rd at read ⊢
  generalize lineWrite = wr at write ⊢
  generalize Machine.reportTable t 0 c.tslot sel = rep at report ⊢
  have source : Steady s (if c.fillSrc then ((List.flatten (List.replicate (c.srcLine / 4) (bytesOfNat 4 c.fill)), clean c.srcLine), s)
      else rd (scView t c.smem) (c.src + d * c.srcLine) c.srcLine s).2 := by
    split
    · exact refl s
    · exact read _ _ _ s
  generalize (if c.fillSrc = true then _ else _) = src at source ⊢
  obtain ⟨src, a⟩ := src
  simp only at source ⊢
  generalize c.lineOut bank src.1 = out
  obtain ⟨out, ls⟩ := out
  simp only
  refine after (vecReg t (by decide) _ _) (source.trans ?_)
  have told : Steady a (rep ls a) := report ls a
  split
  · exact told.trans (write _ _ _ _ _)
  split
  · have again := told.trans (read (scView t c.dmem) (c.dst + 64 * d) 64 _)
    split
    · exact again
    · refine after (bump32 (b := vecB t) trivial (by decide) _) (again.trans ?_)
      split
      · exact vecReg t (by decide) _ _
      · exact refl _
  · exact told

theorem scLines (t : TileId) (c : ScCfg) (sel : Bool) (bank : FtBank) (n : Nat) (s : State) :
    Steady s (scLines t c sel bank n s) := by
  unfold Machine.scLines
  exact foldl (fun a d => scLine t c sel bank d a) _ s

theorem stopChain (t : TileId) (s : State) : Steady s (stopChain t s) := by
  unfold Machine.stopChain
  split
  · exact refl s
  refine after (modTile t (fun _ => by exact ⟨rfl, rfl, id⟩) _) ?_
  have lines : ∀ k, Steady s (Machine.scLines t (scCfgOf s.tiles[t].vec.sc.cfg) s.tiles[t].vec.sc.bank
      ((ftSlot (Machine.takeFree s).2 t (scCfgOf s.tiles[t].vec.sc.cfg).tslot).bank s.tiles[t].vec.sc.bank) k
      (Machine.takeFree s).2) := fun k => after (scLines _ _ _ _ _ _) (takeFree s)
  split
  · exact after (viewWrite _ _ _ _ _ _) (lines _)
  · exact lines _

end Steady

/-! ## The safe-state notice -/

theorem fenceItems_keeps (b : Block) (ks : List ItemKey) (s : State) : Keeps s (fenceItems b ks s) := by
  unfold fenceItems
  refine .foldl (fun a k => ?_) ks s
  exact .of_regs rfl rfl

theorem endAllFenced_keeps (s : State) : Keeps s (endAllFenced s) := by
  unfold endAllFenced
  refine (fenceItems_keeps .flt (s.items.map (·.key)) s).trans ?_
  refine (Keeps.foldl (fun a i => ?_) _ _).trans (.of_regs rfl rfl)
  split
  · exact (postRecord_calm _ _ a).keeps
  · exact .refl a

theorem stopTile_keeps (t : TileId) (s : State) : Keeps s (stopTile t s) := by
  unfold stopTile
  exact (Steady.stopChain t s).keeps.trans (.of_regs rfl rfl)

/-- A tile that holds no descriptor in its mover holds none once any tile has stopped, and neither does the tile that stops. -/
theorem stopTile_idle {t j : TileId} {s : State} (h : j = t ∨ s.tiles[j].mov.active = []) :
    (stopTile t s).tiles[j].mov.active = [] := by
  unfold stopTile
  simp only [modTile, Fin.getElem_fin, Vector.getElem_set]
  split
  · rfl
  · next ne =>
    have kept := ((Steady.stopChain t s).tiles j).2
    rw [Fin.getElem_fin] at kept
    rw [kept]
    exact h.resolve_left fun e => ne (congrArg Fin.val e.symm)

theorem stopTiles_idle (l : List TileId) (s : State) (j : TileId) (h : j ∈ l ∨ s.tiles[j].mov.active = []) :
    (l.foldl (fun s t => stopTile t s) s).tiles[j].mov.active = [] := by
  induction l generalizing s with
  | nil => exact h.resolve_left List.not_mem_nil
  | cons t l ih =>
    refine ih (stopTile t s) ?_
    rcases h with hm | hi
    · rcases List.mem_cons.mp hm with e | hl
      · exact .inr (stopTile_idle (.inl e))
      · exact .inl hl
    · exact .inr (stopTile_idle (.inr hi))

/-- Once every tile has stopped no descriptor is in progress in a mover. -/
theorem stopTiles_noMoves {l : List TileId} (hl : ∀ t, t ∈ l) (s : State) :
    Safety.noMoves (l.foldl (fun s t => stopTile t s) s) :=
  fun t => stopTiles_idle l s t (.inl (hl t))

theorem noMoves_of_tiles {s u : State} (h : u.tiles = s.tiles) (hs : Safety.noMoves s) : Safety.noMoves u := fun t => by
  rw [h]
  exact hs t

theorem abandonImage_keeps (s : State) : Keeps s (abandonImage s) := by
  unfold abandonImage
  simp only
  split <;> exact .of_regs rfl rfl

theorem abandonImage_tiles (s : State) : (abandonImage s).tiles = s.tiles := by
  unfold abandonImage
  simp only
  split <;> rfl

end Sys2Proof.Machine

end

section
/-! SUPPORT. The safe-state notice at the ports (R439), and a stall on the collector (R436). -/

namespace Sys2Proof.Machine
open Sys2Proof

/-! ## Ports that answer in the safe state -/

/-- Of s, a port's work has left in u: whether the device is in the safe state, the quiet pages, the requests of this chip on the
fabric, and the movers. -/
structure Serves (s u : State) : Prop where
  keeps : Keeps s u
  reqs : u.fabReqs = s.fabReqs
  moves : ∀ t : TileId, u.tiles[t].mov = s.tiles[t].mov

/-- With no descriptor in any mover none waits to be settled. -/
theorem settleAll_of_noMoves {s : State} (h : Safety.noMoves s) : settleAll s = s := by
  unfold settleAll
  refine List.foldl_fixed' (fun t => ?_) allTiles
  rw [h t]
  rfl

namespace Serves

/-- A change of nothing but ports, headers, what is sent, and waits noted. -/
theorem of_rest {s u : State} (h : u = { s with ports := u.ports, hdrs := u.hdrs, out := u.out, waited := u.waited,
                                                heldBack := u.heldBack, passed := u.passed }) : Serves s u := by
  rw [h]
  exact ⟨.of_regs rfl rfl, rfl, fun _ => rfl⟩

theorem refl (s : State) : Serves s s := of_rest rfl

theorem trans {s t u : State} (h : Serves s t) (g : Serves t u) : Serves s u :=
  ⟨h.keeps.trans g.keeps, g.reqs.trans h.reqs, fun t => (g.moves t).trans (h.moves t)⟩

theorem after {s t u : State} (g : Serves t u) (h : Serves s t) : Serves s u := h.trans g

theorem foldl_snd {α β : Type} {f : β × State → α → β × State} (h : ∀ a x, Serves a.2 (f a x).2) (l : List α)
    (a : β × State) : Serves a.2 (l.foldl f a).2 :=
  foldl_of_steps (R := fun a b => Serves a.2 b.2) (fun a => refl a.2) trans h l a

theorem bump (p : PortId) {o : Nat} (ho : o < 4096) (n : Nat) (s : State) : Serves s (bump (gwp p) o n s) :=
  ⟨(Steady.bump (b := gwp p) trivial ho n s).keeps, rfl, fun _ => rfl⟩

theorem modPort (p : PortId) (f : GwpSt → GwpSt) (s : State) : Serves s (modPort p f s) := of_rest rfl

theorem gwPut (p : PortId) (ws : List Word) (payload : List Byte) (stomp : Bool) (s : State) :
    Serves s (gwPut p ws payload stomp s) := by
  unfold Machine.gwPut
  exact after (bump p (by decide) _ _) (of_rest rfl)

theorem freeBuf (b : Option (PortId × Nat × Nat)) (s : State) : Serves s (freeBuf b s) := by
  unfold Machine.freeBuf
  split
  · split
    · exact gwPut _ _ _ _ s
    · exact refl s
  · exact refl s

theorem sendNow (p : PortId) (x : GwWait) (s : State) : Serves s (sendNow p x s) := by
  unfold Machine.sendNow
  exact after (freeBuf _ _) (after (modPort _ _ _) (gwPut _ _ _ _ s))

theorem flushPort (p : PortId) (s : State) : Serves s (flushPort p s) := by
  unfold Machine.flushPort
  simp only
  refine (modPort p (fun g => { g with waiting := [] }) s).trans ?_
  generalize Machine.modPort p (fun g => { g with waiting := [] }) s = t
  refine foldl_snd (fun a x => ?_) _ ([], t)
  have kept : Serves a.2 (Machine.modPort p (fun g => { g with waiting := g.waiting ++ [x] }) a.2) := modPort p _ a.2
  split
  · exact kept
  · exact sendNow _ _ _

theorem sendOn (p : PortId) (x : GwWait) (s : State) : Serves s (sendOn p x s) := by
  unfold Machine.sendOn
  exact after (flushPort _ _) (of_rest rfl)

theorem dropRsp (p : PortId) (bank : FMap Byte) (chip : Nat) (s : State) : Serves s (dropRsp p bank chip s) := by
  unfold Machine.dropRsp
  split
  · exact bump _ (by decide) _ s
  · exact bump p (by decide) _ s

/-- Work that serves where the device is in the safe state and has no request on the fabric. -/
def WhenSafe (s u : State) : Prop := s.flt.safe = true → s.fabReqs = [] → Serves s u

theorem whenSafe_trans {s t u : State} (h : WhenSafe s t) (g : WhenSafe t u) : WhenSafe s u := fun hs hr => by
  have first := h hs hr
  exact first.trans (g (first.keeps.safe.trans hs) (first.reqs.trans hr))

theorem foldl_whenSafe {α : Type} {f : State → α → State} (h : ∀ s x, WhenSafe s (f s x)) (l : List α) (s : State) :
    WhenSafe s (l.foldl f s) :=
  foldl_of_steps (R := WhenSafe) (fun s _ _ => refl s) whenSafe_trans h l s

theorem foldl_snd_whenSafe {α β : Type} {f : β × State → α → β × State} (h : ∀ a x, WhenSafe a.2 (f a x).2) (l : List α)
    (a : β × State) : WhenSafe a.2 (l.foldl f a).2 :=
  foldl_of_steps (R := fun a b => WhenSafe a.2 b.2) (fun a _ _ => refl a.2) whenSafe_trans h l a

/-- With no request on the fabric a response to this chip is dropped (R365). -/
theorem postResponse (p : PortId) (bank : FMap Byte) (h : GwHdr) (payload : List Byte) {s : State} (hr : s.fabReqs = []) :
    Serves s (postResponse p bank h payload s) := by
  have none : fabReqAt s h.rqid = none := by
    unfold fabReqAt
    rw [hr]
    rfl
  unfold Machine.postResponse
  rw [none]
  split
  · exact bump p (by decide) _ s
  split
  · split
    · exact sendOn _ _ s
    · exact dropRsp _ _ _ s
  · exact dropRsp _ _ _ s

theorem answerErr (p : PortId) (bank : FMap Byte) (rq : GwHdr) (status : Nat) {s : State} (hr : s.fabReqs = []) :
    Serves s (answerErr p bank rq status s) := by
  unfold Machine.answerErr answer
  exact after (postResponse p bank _ _ hr) (of_rest rfl)

/-- In the safe state a packet at its destination is answered or dropped (R439). -/
theorem gwBody {p : PortId} {h : GwHdr} {pk : GwPacket} {s u : State} (hs : s.flt.safe = true) (hr : s.fabReqs = [])
    (e : gwBody p h pk s = some u) : Serves s u := by
  have answered : Serves s (safeRequest p h s) := answerErr p _ h _ hr
  unfold Machine.gwBody at e
  split at e
  · rw [writeBody, if_pos hs] at e
    cases e
    exact answered
  split at e
  · rw [readBody, if_pos hs] at e
    cases e
    exact answered
  · have none : fabReqAt s h.rqid = none := by
      unfold fabReqAt
      rw [hr]
      rfl
    unfold responseBody at e
    simp only [none] at e
    split at e
    · cases e
      exact dropRsp _ _ _ s
    · cases e
      exact postResponse p _ h _ hr

theorem gwServe {p : PortId} {pk : GwPacket} {s u : State} (hs : s.flt.safe = true) (hr : s.fabReqs = [])
    (e : gwServe p pk s = some u) : Serves s u := by
  unfold Machine.gwServe at e
  simp only at e
  split at e
  · cases e
    split
    · exact answerErr p _ _ _ hr
    split
    · exact bump p (by decide) _ s
    · exact refl s
  split at e
  · cases e
  · next w body =>
    have served : Serves s w := .after (gwBody (by exact hs) (by exact hr) body) (of_rest rfl)
    split at e
    · cases e
    · cases e
      exact served.trans (of_rest rfl)

theorem takePacket {p : PortId} {x : GwHold} {s u : State} (hs : s.flt.safe = true) (hr : s.fabReqs = [])
    (e : takePacket p x s = some u) : Serves s u := by
  unfold Machine.takePacket at e
  simp only at e
  split at e
  · cases e
  split at e
  · cases e
    exact sendOn _ _ s
  · obtain ⟨w, hw, rfl⟩ := Option.map_eq_some_iff.mp e
    exact (gwServe hs hr hw).trans (freeBuf _ w)

/-- In the safe state, with no request on the fabric, the packets that stand at a port are answered or dropped. -/
theorem serveHeld (p : PortId) (s : State) : WhenSafe s (serveHeld p s) := by
  intro hs hr
  unfold Machine.serveHeld
  simp only
  have emptied := modPort p (fun g => { g with held := [] }) s
  refine emptied.trans ?_
  replace hs := emptied.keeps.safe.trans hs
  replace hr := emptied.reqs.trans hr
  generalize Machine.modPort p (fun g => { g with held := [] }) s = t at hs hr
  refine foldl_snd_whenSafe (fun a x hs hr => ?_) _ ([], t) hs hr
  have kept : Serves a.2 (Machine.modPort p (fun g => { g with held := g.held ++ [x] }) a.2) := modPort p _ a.2
  split
  · exact kept
  split
  · next e => exact takePacket hs hr e
  · exact kept

/-- In the safe state, with no request on the fabric and no descriptor in a mover, nothing is left to settle at any port. -/
theorem serveAll {s : State} (hs : s.flt.safe = true) (hr : s.fabReqs = [])
    (hm : Safety.noMoves s) : Serves s (serveAll s) := by
  have served : Serves s (allPorts.foldl (fun s p => Machine.serveHeld p s) s) :=
    foldl_whenSafe (fun s p => serveHeld p s) _ s hs hr
  unfold Machine.serveAll
  generalize allPorts.foldl (fun s p => Machine.serveHeld p s) s = u at served ⊢
  rw [settleAll_of_noMoves fun t => (congrArg MovSt.active (served.moves t)).trans (hm t)]
  exact served

end Serves

/-! ## A stall on the collector -/

theorem sendMark_keeps (kind : Nat) (part : Fin 4) (job : BitVec 6) (qmask : BitVec 4) (s : State) :
    Keeps s (sendMark kind part job qmask s) := by
  unfold sendMark
  simp only
  split
  · exact .after (Steady.bump32 (b := .mtr) trivial (by decide) _).keeps (.of_regs rfl rfl)
  split
  · exact .of_regs rfl rfl
  · exact .of_regs rfl rfl

/-- Every block has stopped on the notice: no item is in flight, and nothing of this chip is on the fabric (R439). -/
def haltBlocks (s : State) : State :=
  stopIssued { abandonImage (allTiles.foldl (fun s t => stopTile t s) (endAllFenced s)) with fabReqs := [] }

theorem stopIssued_keeps (s : State) : Keeps s (stopIssued { s with fabReqs := [] }) := .of_regs rfl rfl

theorem stopIssued_tiles (s : State) : (stopIssued { s with fabReqs := [] }).tiles = s.tiles := rfl

theorem haltBlocks_keeps (s : State) : Keeps s (haltBlocks s) := by
  have tiles := (endAllFenced_keeps s).trans (Keeps.foldl (fun a t => stopTile_keeps t a) allTiles _)
  exact tiles.trans ((abandonImage_keeps _).trans (stopIssued_keeps _))

theorem haltBlocks_fabReqs (s : State) : (haltBlocks s).fabReqs = [] := rfl

theorem haltBlocks_tiles (s : State) :
    (haltBlocks s).tiles = (allTiles.foldl (fun s t => stopTile t s) (endAllFenced s)).tiles := by
  unfold haltBlocks
  rw [stopIssued_tiles, abandonImage_tiles]

theorem haltBlocks_noMoves (s : State) : Safety.noMoves (haltBlocks s) :=
  noMoves_of_tiles (haltBlocks_tiles s) (stopTiles_noMoves List.mem_finRange _)

theorem modRot_keeps (f : RotSt → RotSt) (s : State) : Keeps s (modRot f s) := .of_regs rfl rfl

theorem auditAppend_keeps (event who status kslot : Nat) (digest : List Byte) (sign : Bool) (s : State) :
    Keeps s (auditAppend event who status kslot digest sign s) := modRot_keeps _ s

theorem auditNote_keeps (event : Nat) (data : List Byte) (sign : Bool) (s : State) :
    Keeps s (auditNote event data sign s) := by
  have free : Keeps s (freeBytes 32 s).2 := (Steady.takeFree s).keeps
  rw [auditNote]
  generalize freeBytes 32 s = d at free ⊢
  exact free.trans (auditAppend_keeps _ _ _ _ _ _ _)

theorem safeNotice_eq (byTamper : Bool) (note : List Byte) (s : State) : safeNotice byTamper note s =
    auditNote evSafe note true (sendMark markReset 0 0 0 (serveAll (haltBlocks
      (modFlt (fun f => { f with safe := true, byTamper := byTamper }) s)))) := by
  unfold safeNotice haltBlocks
  rfl

/-- The safe-state notice puts the device in the safe state and leaves the routers' counters. -/
theorem safeNotice_safe (byTamper : Bool) (note : List Byte) (s : State) : (safeNotice byTamper note s).flt.safe = true ∧
    ∀ a, QuietPage (a / 4096) → regAt (safeNotice byTamper note s) a = regAt s a := by
  have entered : ∀ a, regAt (modFlt (fun f => { f with safe := true, byTamper := byTamper }) s) a = regAt s a := fun _ => rfl
  have safe : (modFlt (fun f => { f with safe := true, byTamper := byTamper }) s).flt.safe = true := rfl
  rw [safeNotice_eq]
  generalize modFlt (fun f => { f with safe := true, byTamper := byTamper }) s = a at entered safe
  have halted := haltBlocks_keeps a
  have served := (Serves.serveAll (halted.safe.trans safe) (haltBlocks_fabReqs a) (haltBlocks_noMoves a)).keeps
  have noted := ((halted.trans served).trans (sendMark_keeps markReset 0 0 0 _)).trans (auditNote_keeps evSafe note true _)
  exact ⟨noted.safe.trans safe, fun c hc => (noted.quiet c hc).trans (entered c)⟩

theorem collectorStalled_safe (m : FMsg) (s : State) : (collectorStalled m s).flt.safe = true ∧
    ∀ a, QuietPage (a / 4096) → regAt (collectorStalled m s) a = regAt s a := by
  unfold collectorStalled
  split
  · next h => exact ⟨h, fun _ _ => rfl⟩
  · exact safeNotice_safe _ _ _
end Sys2Proof.Machine

end

section
/-! SUPPORT. HANDSHAKE_STALL (R24, R436) and PACKET_ARRIVAL (R31, R33, R34, R364, R430). -/

namespace Sys2Proof.Machine
open Sys2Proof

/-! ## HANDSHAKE_STALL -/

section
variable {t : TileId} {nbr : Block} {beats : Nat} {s : State}

theorem exec_handshakeStall (t : TileId) (nbr : Block) (beats : Nat) (s : State) :
    exec (.handshakeStall t nbr beats) s = execHandshakeStall t nbr beats s := rfl

theorem exec_handshakeStall_off (h : fld (reg s (.tile t .tl) Off.tlHsLimit) 23 0 = 0) :
    exec (.handshakeStall t nbr beats) s = .next s := by
  rw [exec_handshakeStall, execHandshakeStall]
  simp only [h, if_true]

theorem exec_handshakeStall_ended (h : beats < fld (reg s (.tile t .tl) Off.tlHsLimit) 23 0) :
    exec (.handshakeStall t nbr beats) s = .next (dropStall t nbr s) := by
  rw [exec_handshakeStall, execHandshakeStall]
  simp only [h, Nat.ne_of_gt (Nat.zero_lt_of_lt h), if_true, if_false]

variable (hl : fld (reg s (.tile t .tl) Off.tlHsLimit) 23 0 ≠ 0) (hb : fld (reg s (.tile t .tl) Off.tlHsLimit) 23 0 ≤ beats)
include hl hb

theorem exec_handshakeStall_same (h : sameStall s t nbr beats = true) :
    exec (.handshakeStall t nbr beats) s = .next (noteStall t nbr beats s) := by
  rw [exec_handshakeStall, execHandshakeStall]
  simp only [hl, Nat.not_lt.mpr hb, h, if_true, if_false]

theorem exec_handshakeStall_reported (h : sameStall s t nbr beats = false) (hn : nbr ≠ .flt) :
    exec (.handshakeStall t nbr beats) s = .next (raiseFault (.tile t .tl) 0x30 0 0 (blockId nbr)
      (bump32 (.tile t .tl) Off.tlHsStallCnt (noteStall t nbr beats s))) := by
  rw [exec_handshakeStall, execHandshakeStall]
  simp only [hl, Nat.not_lt.mpr hb, h, hn, Bool.false_eq_true, if_false]

theorem exec_handshakeStall_collector (h : sameStall s t .flt beats = false) :
    ∃ m, exec (.handshakeStall t .flt beats) s = .next (collectorStalled m
      (emit (.tile t .tl) (bump32 (.tile t .tl) Off.tlHsStallCnt (noteStall t .flt beats s))).2) := by
  rw [exec_handshakeStall, execHandshakeStall]
  simp only [hl, Nat.not_lt.mpr hb, h, Bool.false_eq_true, if_false, if_true]
  exact ⟨_, rfl⟩

end

/-- A stall counted and reported. -/
def stallReported (t : TileId) (nbr : Block) (beats : Nat) (s : State) : State :=
  raiseFault (.tile t .tl) 0x30 0 0 (blockId nbr) (bump32 (.tile t .tl) Off.tlHsStallCnt (noteStall t nbr beats s))

section
variable (t : TileId) (nbr : Block) (beats : Nat) (s : State)

theorem regAt_stallCounted (a : Nat) : regAt (bump32 (.tile t .tl) Off.tlHsStallCnt (noteStall t nbr beats s)) a =
    if a = pageBase (.tile t .tl) 0 + Off.tlHsStallCnt then min (reg s (.tile t .tl) Off.tlHsStallCnt + 1) (2 ^ 32 - 1)
    else regAt s a := regAt_bump32 _ _ _ _

theorem stallReported_frame : stallReported t nbr beats s =
    { s with tiles := (noteStall t nbr beats s).tiles, regs := (stallReported t nbr beats s).regs,
             hdrs := (stallReported t nbr beats s).hdrs,
             flt := { s.flt with inflight := s.flt.inflight ++
               [⟨BitVec.ofNat 12 (blockId (.tile t .tl)), 0x30, 0, 0, (hdr s (.tile t .tl)).seq + 1,
                 BitVec.ofNat 25 (blockId nbr)⟩] } } := by
  have seq : BitVec.ofNat 16 (((hdr s (.tile t .tl)).sent + 1) % 65536) = (hdr s (.tile t .tl)).seq + 1 := by
    apply BitVec.eq_of_toNat_eq
    simp [Hdr.seq, BitVec.toNat_add]
  rw [← seq]
  rfl

theorem hdr_stallReported (b : Block) : hdr (stallReported t nbr beats s) b =
    if b = .tile t .tl then { hdr s b with sent := (hdr s b).sent + 1 } else hdr s b := by
  have emitted : hdr (stallReported t nbr beats s) b = hdr (emitN (.tile t .tl) 1 s) b := rfl
  rw [emitted]
  split
  · next e => rw [e, hdr_emitN]
  · next e => exact hdr_modHdr_ne _ _ _ s (mt blockId_eq_tl.mp e)

theorem sameStall_stallReported {n : Nat} (h : beats < n) : sameStall (stallReported t nbr beats s) t nbr n = true :=
  sameStall_noteStall t nbr h s

end

theorem tl_quiet (t : TileId) {o : Nat} (ho : o < 4096) : QuietPage ((pageBase (.tile t .tl) 0 + o) / 4096) := by
  unfold QuietPage
  simp only [pageBase]
  omega

/-- A stall on the collector is counted and brings the safe state (R436). -/
theorem handshakeStall_collector {t : TileId} {beats : Nat} {s : State}
    (hl : fld (reg s (.tile t .tl) Off.tlHsLimit) 23 0 ≠ 0) (hb : fld (reg s (.tile t .tl) Off.tlHsLimit) 23 0 ≤ beats)
    (h : sameStall s t .flt beats = false) : ∃ u, exec (.handshakeStall t .flt beats) s = .next u ∧ u.flt.safe = true ∧
      reg u (.tile t .tl) Off.tlHsStallCnt = min (reg s (.tile t .tl) Off.tlHsStallCnt + 1) (2 ^ 32 - 1) := by
  obtain ⟨m, run⟩ := exec_handshakeStall_collector hl hb h
  have counted := (regAt_stallCounted t .flt beats s (pageBase (.tile t .tl) 0 + Off.tlHsStallCnt)).trans (if_pos rfl)
  obtain ⟨safe, kept⟩ := collectorStalled_safe m
    (emit (.tile t .tl) (bump32 (.tile t .tl) Off.tlHsStallCnt (noteStall t .flt beats s))).2
  exact ⟨_, run, safe, (kept _ (tl_quiet t (by decide))).trans counted⟩

/-! ## PACKET_ARRIVAL -/

section
variable {dst src : Block} {tag : DWord} {s : State}

theorem exec_packetArrival_accepted (hin : inOrder s dst src tag = true) (hp : poisonedCommand tag = false)
    (hw : wrongPart s dst tag = false) (hf : isFenced s dst = false ∨ (itemsIn s dst).contains (tagKey tag) = true) :
    exec (.packetArrival dst src tag) s = .next (acceptPacket dst tag (noteArrival dst src tag s)) := by
  rw [exec_packetArrival hin, deliver_accepted hp (by exact hw)]
  rw [isFenced_noteArrival]
  exact hf

theorem genLive_noteArrival (b : Block) : (hdr (noteArrival dst src tag s) b).genLive = (hdr s b).genLive := by
  rw [hdr_noteArrival]

theorem genPend_noteArrival (b : Block) : (hdr (noteArrival dst src tag s) b).genPend = (hdr s b).genPend := by
  rw [hdr_noteArrival]

theorem genStaged_noteArrival (b : Block) : (hdr (noteArrival dst src tag s) b).genStaged = (hdr s b).genStaged := by
  rw [hdr_noteArrival]

theorem acceptPacket_live (h : BitVec.ofNat 8 (tagGen tag.toNat) = (hdr s dst).genLive ∨ fabricArrival tag = true) :
    acceptPacket dst tag (noteArrival dst src tag s) =
      modHdr dst (fun h => { h with rx := h.rx ++ [tag] }) (noteArrival dst src tag s) := by
  unfold acceptPacket
  simp only [genLive_noteArrival]
  exact if_pos h

variable (hf : fabricArrival tag = false) (hg : BitVec.ofNat 8 (tagGen tag.toNat) ≠ (hdr s dst).genLive)
include hf hg

theorem acceptPacket_staged (hp : (hdr s dst).genPend = true) (hs : BitVec.ofNat 8 (tagGen tag.toNat) = (hdr s dst).genStaged) :
    acceptPacket dst tag (noteArrival dst src tag s) =
      modHdr dst (fun h => { h with held := h.held ++ [tag] }) (noteArrival dst src tag s) := by
  rw [acceptPacket_other hf (by rwa [genLive_noteArrival]), genPend_noteArrival, genStaged_noteArrival, if_pos ⟨hp, hs⟩]

theorem acceptPacket_neither
    (hp : (hdr s dst).genPend = false ∨ BitVec.ofNat 8 (tagGen tag.toNat) ≠ (hdr s dst).genStaged) {i : Item}
    (hi : findItem s (tagKey tag) = some i) : acceptPacket dst tag (noteArrival dst src tag s) =
      failItem (tagKey tag) i.tile eInternal dst (noteArrival dst src tag s) := by
  have no : ¬ ((hdr s dst).genPend = true ∧ BitVec.ofNat 8 (tagGen tag.toNat) = (hdr s dst).genStaged) := by
    rintro ⟨pend, staged⟩
    rcases hp with h | h
    · exact absurd pend (Bool.eq_false_iff.mp h)
    · exact h staged
  rw [acceptPacket_other hf (by rwa [genLive_noteArrival]), genPend_noteArrival, genStaged_noteArrival, if_neg no]
  exact failSender_of_item hi

end

/-- Settles O6: a packet in order goes where its tag says, and a stall is counted and reported once. -/
theorem routerEvents : Obligations.RouterEvents := by
  unfold Obligations.RouterEvents
  refine ⟨fun dst src tag s hin => ?_, fun dst src tag s hout => exec_packetArrival_out_of_order hout,
    fun t nbr beats s => ?_⟩
  · simp only
    refine ⟨fun hp hw hfree hg => ?_, fun hp hw hfree hfab hg => ⟨fun pend staged => ?_, fun hpend i hi => ?_⟩, fun hp => ?_,
      fun hp hw hc i hi => ?_, fun hp hw hc => ?_, fun hp hw hfen hnot => ?_,
      rfl, hdr_noteArrival dst src tag s, seq_of_max (tagSeq_lt _) (sent_noteArrival dst src tag s),
      inOrder_noteArrival dst src tag s⟩
    · rw [exec_packetArrival_accepted hin hp hw hfree, acceptPacket_live hg]
    · rw [exec_packetArrival_accepted hin hp hw hfree, acceptPacket_staged hfab hg pend staged]
    · rw [exec_packetArrival_accepted hin hp hw hfree, acceptPacket_neither hfab hg hpend hi]
    · rw [exec_packetArrival hin, deliver_poisoned hp]
      rfl
    · have found : findItem (dropCommand dst tag (noteArrival dst src tag s)) (tagKey tag) = some i :=
        (findItem_dropCommand _ _).trans hi
      rw [exec_packetArrival hin, deliver_wrongPart hp (by exact hw), if_pos hc, failSender_of_item found]
    · rw [exec_packetArrival hin, deliver_wrongPart hp (by exact hw), if_neg (Nat.not_lt.mpr hc)]
    · rw [exec_packetArrival hin, deliver_fenced hp (by exact hw) ((isFenced_noteArrival dst).trans hfen) (by exact hnot)]
  · simp only
    refine ⟨fun hl hb hsame hn => ?_, handshakeStall_collector, exec_handshakeStall_off, exec_handshakeStall_same,
      fun hb => ⟨exec_handshakeStall_ended hb, fun n => sameStall_dropStall t nbr n s⟩⟩
    refine ⟨stallReported t nbr beats s, exec_handshakeStall_reported hl hb hsame hn, stallReported_frame t nbr beats s,
      (regAt_stallCounted t nbr beats s _).trans (if_pos rfl), fun a ha => (regAt_stallCounted t nbr beats s a).trans (if_neg ha),
      hdr_stallReported t nbr beats s, fun n hn => sameStall_stallReported t nbr beats s hn⟩

end Sys2Proof.Machine

end

section
/-! SUPPORT. The device at a power-on reset (R51, R66, R71, R434, R495). -/

namespace Sys2Proof.Machine
open Sys2Proof

theorem reset_tile (t : TileId) : State.reset.tiles[t] = tileReset := Vector.getElem_replicate t.isLt
theorem reset_port (p : PortId) : State.reset.ports[p] = gwpReset := Vector.getElem_replicate p.isLt
theorem reset_cam (h : HostId) : State.reset.cams[h] = camReset := Vector.getElem_replicate h.isLt
theorem reset_hdr (b : Block) : hdr State.reset b = hdrReset := rfl

theorem seqReset_token {k : Nat} (hk : k < 32) : vat seqReset.tokens k none = none := by
  simp [vat, seqReset, hk]

/-- Settles O59: every memory is the empty map. -/
theorem memoryFormAtReset : Obligations.MemoryFormAtReset := by
  unfold Obligations.MemoryFormAtReset
  refine ⟨by decide +kernel, rfl, fun t => ?_⟩
  rw [reset_tile]
  exact ⟨rfl, rfl, rfl⟩

/-- Settles O60: every header, tile, port and host port holds its own reset value. -/
theorem powerOnState : Obligations.PowerOnState := by
  unfold Obligations.PowerOnState
  refine ⟨rfl, rfl, rfl, rfl, rfl, rfl, rfl, rfl, rfl, rfl, fun b => ?_, by decide, fun p => ?_, fun h => ?_, fun t k hk => ?_⟩
  · rw [reset_hdr]
    exact ⟨rfl, rfl, rfl⟩
  · rw [reset_port]
    decide
  · rw [reset_cam]
    decide
  · rw [reset_tile]
    exact seqReset_token hk

end Sys2Proof.Machine
end

section
/-! SUPPORT. Accesses of the control space (R43, R45, R50, R52): the page that holds a block's registers, and what a write
that is carried out, and one that is refused, leave. -/

namespace Sys2Proof.Machine
open Sys2Proof

/-! ## Pages -/

/-- The kind of a block's first page (R49). -/
def firstKind : Block → PageKind
  | .dev => .dev | .own => .own | .rot => .rot | .flt => .flt | .pwr => .pwr | .mtr => .mtr
  | .hbm _ => .hbm | .gwp _ => .gwp | .cam _ => .cam
  | .qdsp _ => .qdsp | .qstat _ => .qstat | .srv _ => .srv | .qque _ => .subQue
  | .tile _ .tl => .tl | .tile _ .sqc => .sqc | .tile _ .vec => .vec | .tile _ .ftb => .ftb | .tile _ .mnt => .mnt
  | .tile _ .tmem => .tmem | .tile _ .dmv => .dmv | .tile _ .scrb => .scrb | .tile _ .stat => .tstat
  | .tile _ .que => .tileQue

def firstPage (b : Block) : PageRef := ⟨b, 0, firstKind b⟩

theorem firstPage_secure (b : Block) : (firstPage b).secure = false := by
  simp [firstPage, PageRef.secure]

theorem firstKind_ne (b : Block) : firstKind b ≠ .rotSlot ∧ firstKind b ≠ .mtrWin := by
  cases b with
  | tile t u => cases u <;> exact ⟨nofun, nofun⟩
  | _ => exact ⟨nofun, nofun⟩

theorem pageBase_page {b : Block} {i o : Nat} (ho : o < 4096) : (pageBase b i + o) / 4096 = pageBase b i / 4096 := by
  unfold pageBase
  omega

theorem pageBase_offset {b : Block} {i o : Nat} (ho : o < 4096) : (pageBase b i + o) % 4096 = o := by
  unfold pageBase
  omega

theorem pageAt_tile (t : TileId) (u : TileUnit) : pageAt (pageBase (.tile t u) 0 / 4096) = some (firstPage (.tile t u)) := by
  cases u <;> revert t <;> decide +kernel

/-- A block's first page is found at its base. -/
theorem pageAt_firstPage (b : Block) : pageAt (pageBase b 0 / 4096) = some (firstPage b) := by
  cases b with
  | tile t u => exact pageAt_tile t u
  | hbm k => revert k; decide +kernel
  | gwp p => revert p; decide +kernel
  | cam h => revert h; decide +kernel
  | qdsp q => revert q; decide +kernel
  | qstat q => revert q; decide +kernel
  | srv q => revert q; decide +kernel
  | qque q => revert q; decide +kernel
  | _ => decide +kernel

/-- The ownership page is the page of no other address. -/
theorem own_page {a : Nat} {p : PageRef} (hp : pageAt (a / 4096) = some p) (ha : a / 4096 = 1) : p = ⟨.own, 0, .own⟩ := by
  rw [ha] at hp
  exact (Option.some.inj hp).symm

theorem masterOf_masterIdx (m : Master) : masterOf (masterIdx m).val = some m := by cases m <;> rfl

theorem masterIdx_inj {m n : Master} (h : (masterIdx m).val = (masterIdx n).val) : m = n := by
  have e := masterOf_masterIdx m
  rw [h, masterOf_masterIdx] at e
  exact (Option.some.inj e).symm

theorem ownerId_some {s : State} {m : Master} (h : s.dev.owner = some m) : ownerId s = (masterIdx m).val := by
  simp [ownerId, h]

theorem ownerId_eq_iff (s : State) (m : Master) : ownerId s = (masterIdx m).val ↔ s.dev.owner = some m := by
  refine ⟨fun h => ?_, ownerId_some⟩
  unfold ownerId at h
  split at h
  · next n hn => rw [hn, masterIdx_inj h]
  · have := (masterIdx m).isLt; omega

theorem ownerId_eq_none_iff (s : State) : ownerId s = 3 ↔ s.dev.owner = none := by
  unfold ownerId
  split
  · next n hn => have := (masterIdx n).isLt; simp [hn]; omega
  · next hn => simp [hn]

/-! ## Writes, by what they answer -/

section
variable {m : Master} {n addr v : Nat} {s t : State}

theorem writeCmd_eq {st : Nat} (run : ctlRuns s = true) (h : writeAt (masterIdx m) n addr v s = (st, t))
    (hr : st = stDone → addr ≠ pageBase .own 0 + Off.devReset) :
    writeCmd m n addr v s = answered (masterIdx m) st 0 (countDenied st t) := by
  have stay : ¬ (addr = pageBase .own 0 + Off.devReset ∧ st = stDone) := fun ⟨a, d⟩ => hr d a
  simp [writeCmd, ctlWrite, afterWrite, run, h, stay]

theorem writeCmd_ok (run : ctlRuns s = true) (h : writeAt (masterIdx m) n addr v s = ok t)
    (hr : addr ≠ pageBase .own 0 + Off.devReset) : writeCmd m n addr v s = Safety.wrote m t :=
  writeCmd_eq run h fun _ => hr

theorem writeCmd_denied (run : ctlRuns s = true) (h : writeAt (masterIdx m) n addr v s = denied t) :
    writeCmd m n addr v s = Safety.denied m t :=
  writeCmd_eq run h fun e => absurd e (by decide)

theorem writeCmd_align (run : ctlRuns s = true) (h : accessBad n addr = true) :
    writeCmd m n addr v s = answered (masterIdx m) eAlign 0 s :=
  writeCmd_eq run (by rw [writeAt, if_pos h]) fun e => absurd e (by decide)

end

/-! ## A write that ownership permits -/

section
variable {m : Fin 3} {addr v : Nat} {s : State} {p : PageRef}

/-- A write that no access rule stops reaches the header or the registers of its page. -/
theorem writeAt_permitted (ha : addr % 4 = 0) (hp : pageAt (addr / 4096) = some p) (hm : mayWrite s m p (addr % 4096) = true)
    (hs : s.flt.safe = false ∨ p.kind = .own) (hk : p.kind ≠ .rotSlot ∧ p.kind ≠ .mtrWin) (hsec : p.secure = false) :
    writeAt m 4 addr v s = if addr % 4096 < 0x80 then writeHdr p (addr % 4096) v s else writeRow m p (addr % 4096) v s := by
  have safe : (s.flt.safe && !safeTakes m p) = false := by
    rcases hs with h | h <;> simp [h, safeTakes]
  simp [writeAt, accessBad, ha, hp, hm, safe, hk, hsec]

/-- A write by a master that may not write there is refused. -/
theorem writeAt_not_permitted (ha : addr % 4 = 0) (hp : pageAt (addr / 4096) = some p)
    (hm : mayWrite s m p (addr % 4096) = false) : writeAt m 4 addr v s = denied s := by
  simp [writeAt, accessBad, ha, hp, hm]

theorem mayWrite_owner {o : Nat} (h : ownerId s = m.val) (hk : p.kind ≠ .rotSlot) : mayWrite s m p o = true := by
  simp [mayWrite, hk, h]

end

/-! ## Rows -/

section
variable {m : Fin 3} {p : PageRef} {o v base : Nat} {s : State} {r : RegRow}

/-- A register of one word with a rule of its own. -/
theorem writeRow_own {e : Eff} (hl : leadRefused s p o = false) (hn : regNamed p o = some (r, base)) (hw : r.wide = false)
    (ha : r.acc ∉ [.ro, .pop, .rws]) (hz : Nat.land v (mustBeZero p.kind base) = 0) (he : writeOwn m p base v s = some e) :
    writeRow m p o v s = e := by
  simp only [writeRow, hl, hn, hz, hw, he, Bool.false_eq_true, if_false, ne_eq, not_true_eq_false]
  cases hr : r.acc <;> simp_all

theorem writeRow_rw (hl : leadRefused s p o = false) (hn : regNamed p o = some (r, base)) (ha : r.acc = .rw)
    (hz : Nat.land v (mustBeZero p.kind base) = 0)
    (he : writeOwn m p base (if r.wide then rowValue r (regAt s (homeBase p + base)) v (highHalf o base) else v) s = none) :
    writeRow m p o v s = ok (setRegAt (homeBase p + base)
      (rowValue r (regAt s (homeBase p + base)) v (highHalf o base)) s) := by
  simp only [writeRow, hl, hn, hz, ha, he, Bool.false_eq_true, if_false, ne_eq, not_true_eq_false, if_true]

theorem writeRow_rws (hl : leadRefused s p o = false) (hn : regNamed p o = some (r, base)) (ha : r.acc = .rws)
    (hz : Nat.land v (mustBeZero p.kind base) = 0) (hk : p.kind ≠ .pwr) (hf : frozen s p = false) :
    writeRow m p o v s = ok (setRegAt (homeBase p + base + 0x800)
      (rowValue r (regAt s (homeBase p + base + 0x800)) v (highHalf o base)) s) := by
  simp only [writeRow, hl, hn, hz, ha, Bool.false_eq_true, if_false, ne_eq, not_true_eq_false]
  simp [writeStaged, hf, hk]

end

/-! ## The owner's writes to a block's first page -/

section
variable {m : Master} {b : Block} {o v : Nat} {s t : State}

theorem writeBlock_permitted (ho : o < 4096) (ha : o % 4 = 0)
    (hm : mayWrite s (masterIdx m) (firstPage b) o = true) (hs : s.flt.safe = false ∨ b = .own) :
    writeAt (masterIdx m) 4 (pageBase b 0 + o) v s =
      if o < 0x80 then writeHdr (firstPage b) o v s else writeRow (masterIdx m) (firstPage b) o v s := by
  have off : (pageBase b 0 + o) % 4096 = o := pageBase_offset ho
  have al : (pageBase b 0 + o) % 4 = 0 := by unfold pageBase; omega
  have page : pageAt ((pageBase b 0 + o) / 4096) = some (firstPage b) := by rw [pageBase_page ho, pageAt_firstPage]
  have safe : s.flt.safe = false ∨ (firstPage b).kind = .own := hs.imp_right fun h => by rw [h]; rfl
  rw [writeAt_permitted al page (by rwa [off]) safe (firstKind_ne b) (firstPage_secure b), off]

theorem writeBlock_hdr (ho : ownerId s = (masterIdx m).val) (hs : s.flt.safe = false) :
    writeAt (masterIdx m) 4 (pageBase b 0 + 0x0C) v s = writePgCtrl b v s :=
  writeBlock_permitted (by decide) rfl (mayWrite_owner ho (firstKind_ne b).1) (.inl hs)

end

end Sys2Proof.Machine
end

section
/-! SUPPORT. Who may write and read (R50, R52), and the owner's part of the ownership page (R54, R56). -/

namespace Sys2Proof.Machine
open Sys2Proof

/-! ## Accesses refused -/

theorem mayWrite_stranger {m : Fin 3} {s : State} {p : PageRef} {o : Nat} (ho : ownerId s ≠ m.val) (hslot : ownSlot m p = false)
    (hc : p.kind = .own → o ≠ Off.devClaim) (hr : assignedReg s m p o = false) : mayWrite s m p o = false := by
  have claim : (p.kind == .own && decide (o = Off.devClaim)) = false := by simpa using hc
  unfold mayWrite
  split
  · exact hslot
  · simp [ho, claim, hr]

/-- A page of the root of trust beyond its first is secure (R50). -/
theorem pageAt_rot (n : Fin 16) : pageAt (pageBase .rot n.val / 4096) =
    some ⟨.rot, n.val, if n.val = 0 then .rot else if n.val ≤ 3 then .rotSlot else .hdrOnly⟩ := by
  revert n
  decide +kernel

theorem readAt_secure {m : Fin 3} {n : Fin 16} {off : BitVec 12} {s : State} (ha : off.toNat % 4 = 0) (hn : n ≠ 0) :
    readAt m 4 (pageBase .rot n.val + off.toNat) s = if ownerId s = m.val then (stDone, 0, s) else (eDenied, 0, s) := by
  have aligned : accessBad 4 (pageBase .rot n.val + off.toNat) = false := by
    have : (pageBase .rot n.val + off.toNat) % 4 = 0 := by unfold pageBase; omega
    simp [accessBad, this]
  have pos : 0 < n.val := Nat.pos_of_ne_zero fun h => hn (Fin.ext h)
  simp [readAt, aligned, pageBase_page off.isLt, pageAt_rot, PageRef.secure, pos]

/-- Settles O3: no access rule lets a master that is not the owner write there, and the secure pages show zeros. -/
theorem accessRefused : Obligations.AccessRefused := by
  unfold Obligations.AccessRefused
  refine ⟨fun m addr v s p run ha hp ho hslot hc hr => ?write, fun m n off s run ha hn => ⟨fun ho => ?deny, fun ho => ?own⟩⟩
  case write =>
    exact congrArg _ (writeCmd_denied run (writeAt_not_permitted ha hp (mayWrite_stranger ho hslot hc hr)))
  case deny =>
    show Host.Outcome.next (readCmd m 4 _ s) = _
    simp [readCmd, ctlRead, run, readAt_secure ha hn, ho, countDenied, Safety.denied]
  case own =>
    show Host.Outcome.next (readCmd m 4 _ s) = _
    have done : stDone ≠ eDenied := by decide
    simp [readCmd, ctlRead, run, readAt_secure ha hn, ho, countDenied, done]

/-! ## Claims and handover -/

section
variable {m : Master} {v : Nat} {s : State}

/-- A write to a register of the ownership page that has a rule of its own. -/
theorem writeAt_own {o : Nat} {r : RegRow} {e : Eff} (ho : o < 4096) (ha : o % 4 = 0) (hl : 0x80 ≤ o)
    (hm : mayWrite s (masterIdx m) (firstPage .own) o = true) (hn : regNamed (firstPage .own) o = some (r, o))
    (hw : r.wide = false) (hacc : r.acc ∉ [.ro, .pop, .rws]) (hz : Nat.land v (mustBeZero .own o) = 0)
    (he : writeOwn (masterIdx m) (firstPage .own) o v s = some e) :
    writeAt (masterIdx m) 4 (pageBase .own 0 + o) v s = e := by
  rw [writeBlock_permitted ho ha hm (.inr rfl), if_neg (Nat.not_lt.mpr hl)]
  exact writeRow_own rfl hn hw hacc hz he

theorem writeAt_devClaim : writeAt (masterIdx m) 4 (pageBase .own 0 + Off.devClaim) v s = claim (masterIdx m) v s := by
  refine writeAt_own (r := ⟨Off.devClaim, 1, 4, false, .wo, 0x0, 0x0⟩) (by decide) rfl (by decide) ?_ (by decide) rfl (by decide)
    (Nat.and_zero v) rfl
  simp [mayWrite, firstPage, firstKind]

theorem writeAt_devHandover (ho : ownerId s = (masterIdx m).val) :
    writeAt (masterIdx m) 4 (pageBase .own 0 + Off.devHandover) v s =
      ok (modDev (fun d => { d with handover := masterOf (fld v 1 0) }) s) :=
  writeAt_own (r := ⟨Off.devHandover, 1, 4, false, .rw, 0x3, 0x3⟩) (by decide) rfl (by decide) (mayWrite_owner ho nofun) (by decide)
    rfl (by decide) (Nat.and_zero v) rfl

theorem exec_devClaim {w : Word} (run : ctlRuns s = true) : exec (.devClaim m w) s = .next
    (answered (masterIdx m) (claim (masterIdx m) w.toNat s).1 0
      (countDenied (claim (masterIdx m) w.toNat s).1 (claim (masterIdx m) w.toNat s).2)) :=
  congrArg _ (writeCmd_eq run writeAt_devClaim fun _ => by decide)

end

/-- A claim with the right key and master id and without a reserved bit, at a time when ownership is open (R54, R496). -/
def ClaimValid (m : Master) (v : Nat) (s : State) : Prop :=
  7 ≤ s.dev.phase ∧ s.dev.halt = false ∧ fld v 15 8 = 0xC5 ∧ fld v 1 0 = (masterIdx m).val ∧ fld v 7 2 = 0 ∧ fld v 31 16 = 0

theorem claim_invalid {m : Master} {v : Nat} {s : State} (h : ¬ ClaimValid m v s) : claim (masterIdx m) v s = denied s := by
  unfold claim
  refine if_pos ?_
  by_contra c
  refine h ?_
  simp only [not_or, Nat.not_lt, Bool.not_eq_true, Bool.not_eq_false', Bool.and_eq_true, decide_eq_true_eq] at c
  obtain ⟨open_, run, ⟨⟨key, id⟩, res⟩, high⟩ := c
  exact ⟨open_, run, key, id, res, high⟩

theorem claim_valid {m : Master} {v : Nat} {s : State} (h : ClaimValid m v s) : claim (masterIdx m) v s =
    if s.dev.owner = some m then ok s
    else if s.dev.owner = none ∨ s.dev.handover = some m then
      ok (modDev (fun d => { d with owner := some m, forced := false, handover := none }) s)
    else denied s := by
  obtain ⟨open_, run, key, id, res, high⟩ := h
  simp [claim, Nat.not_lt.mpr open_, run, key, id, res, high, ownerId_eq_iff, ownerId_eq_none_iff, masterOf_masterIdx]

/-- Settles O8: a claim is judged by its word and by who owns the device. -/
theorem ownership : Obligations.Ownership := by
  unfold Obligations.Ownership
  refine ⟨fun m v s run => ⟨fun hv hown => ?take, fun hv hown => ?again, fun h => ?refused⟩, fun m v s run hown hv => ?handover⟩
  case handover =>
    have e : fld v.toNat 1 0 = v.toNat := by simp [fld]; omega
    have w := writeCmd_ok run (writeAt_devHandover (v := v.toNat) (ownerId_some hown)) (by decide)
    rw [e] at w
    exact congrArg _ w
  case take =>
    have h : s.dev.owner ≠ some m ∧ (s.dev.owner = none ∨ s.dev.handover = some m) := by
      rcases hown with h | ⟨h, g⟩
      · exact ⟨by simp [h], .inl h⟩
      · exact ⟨h, .inr g⟩
    rw [exec_devClaim run, claim_valid hv, if_neg h.1, if_pos h.2]
    rfl
  case again =>
    rw [exec_devClaim run, claim_valid hv, if_pos hown]
    rfl
  case refused =>
    have e : claim (masterIdx m) v.toNat s = denied s := by
      rcases h with h | ⟨free, mine, named⟩
      · exact claim_invalid h
      · by_cases hv : ClaimValid m v.toNat s
        · rw [claim_valid hv, if_neg mine, if_neg (by simp [free, named])]
        · exact claim_invalid hv
    rw [exec_devClaim run, e]
    rfl

end Sys2Proof.Machine
end

section
/-! SUPPORT. Reads of the control space (R42 to R46), alone and after a write. -/

namespace Sys2Proof.Machine
open Sys2Proof

/-! ## Rows that a page names -/

theorem regNamed_row {p : PageRef} {o base : Nat} {r x : RegRow} {k : PageKind} {b : Nat} (hn : regNamed p o = some (r, base))
    (hk : p.kind = k) (he : regNamed ⟨.dev, 0, k⟩ o = some (x, b)) : r = x := by
  have e : regNamed p o = regNamed ⟨.dev, 0, k⟩ o := by rw [← hk]; rfl
  rw [e, he] at hn
  exact (congrArg Prod.fst (Option.some.inj hn)).symm

/-- FLT_LOG_POP is a register of one word whose reads take a message (R441). -/
theorem regNamed_logPop {p : PageRef} {o base : Nat} {r : RegRow} (hn : regNamed p o = some (r, base))
    (h : p.kind = .flt ∧ o = Off.fltLogPop) : r.acc = .pop ∧ r.wide = false := by
  rw [h.2] at hn
  rw [regNamed_row hn h.1 (by decide : _ = some (⟨Off.fltLogPop, 1, 4, false, .pop, 0x0, 0x0⟩, Off.fltLogPop))]
  exact ⟨rfl, rfl⟩

theorem regNamed_chanStat {p : PageRef} {base : Nat} {r : RegRow} (hn : regNamed p Off.hbmChanStat = some (r, base))
    (h : p.kind = .hbm) : r.wide = false := by
  rw [regNamed_row hn h (by decide : _ = some (⟨Off.hbmChanStat, 1, 4, false, .ro, 0x0, 0x0⟩, Off.hbmChanStat))]

theorem regNamed_vecState {p : PageRef} {base : Nat} {r : RegRow} (hn : regNamed p Off.vecState = some (r, base))
    (h : p.kind = .vec) : r.wide = false := by
  rw [regNamed_row hn h (by decide : _ = some (⟨Off.vecState, 1, 4, false, .ro, 0x0, 0x0⟩, Off.vecState))]

/-- DEV_RESET takes writes and reads as zero. -/
theorem regNamed_devReset {p : PageRef} {a base : Nat} {r : RegRow} (hp : pageAt (a / 4096) = some p)
    (hn : regNamed p (a % 4096) = some (r, base)) (h : a = pageBase .own 0 + Off.devReset) : r.acc = .wo := by
  have page := own_page hp (by rw [h]; decide)
  have off : a % 4096 = Off.devReset := by rw [h]; decide
  rw [off] at hn
  rw [regNamed_row hn (by rw [page]) (by decide : _ = some (⟨Off.devReset, 1, 4, false, .wo, 0x0, 0x0⟩, Off.devReset))]

theorem regNamed_staged {p : PageRef} {o base : Nat} {r : RegRow} (ho : o < 0x800) (hn : regNamed p o = some (r, base))
    (ha : r.acc = .rws) : regNamed p (o + 0x800) = some (r, base) := by
  have live : liveOff o = o := by simp [liveOff, stagedOff]; omega
  have staged : liveOff (o + 0x800) = o := by simp [liveOff, stagedOff]
  unfold regNamed at hn ⊢
  rw [live] at hn
  rw [staged]
  cases hf : findRow p.kind o with
  | none => simp [hf] at hn
  | some x =>
    obtain ⟨y, b⟩ := x
    have plain : stagedOff o = false := by simp [stagedOff]; omega
    simp [hf, plain] at hn
    simp [hn, ha]

/-! ## A register read -/

section
variable {m : Fin 3} {p : PageRef} {addr base : Nat} {r : RegRow} {s : State}

theorem readAt_reg (ha : addr % 4 = 0) (hp : pageAt (addr / 4096) = some p) (hsec : p.secure = false) (hk : p.kind ≠ .mtrWin)
    (ho : 0x80 ≤ addr % 4096) (hl : ¬ (p.kind = .flt ∧ addr % 4096 = Off.fltLogPop)) :
    readAt m 4 addr s = (stDone, readReg m p addr s) := by
  simp [readAt, accessBad, ha, hp, hsec, hk, Nat.not_lt.mpr ho, hl]

theorem readCmd_reg {m : Master} (run : ctlRuns s = true)
    (h : readAt (masterIdx m) 4 addr s = (stDone, readReg (masterIdx m) p addr s)) : readCmd m 4 addr s =
    answered (masterIdx m) stDone (readReg (masterIdx m) p addr s).1 (readReg (masterIdx m) p addr s).2 := by
  have done : stDone ≠ eDenied := by decide
  simp [readCmd, ctlRead, run, h, countDenied, done]

theorem readHalf_word (hw : r.wide = false) (high : Bool) (x : Nat) : readHalf m addr r high x s = (x % 2 ^ 32, s) := by
  simp [readHalf, hw]

/-- A staged copy of one word reads as what is kept. -/
theorem readReg_staged (hn : regNamed p (addr % 4096) = some (r, base)) (hw : r.wide = false) (hs : 0x800 ≤ addr % 4096) :
    readReg m p addr s = (regAt s (homeBase p + base + 0x800) % 2 ^ 32, s) := by
  simp [readReg, hn, stagedOff, hs, readHalf_word hw]

/-- A look at an evacuation's progress draws free values for it only. -/
theorem noteChan_rest (q : QuadId) (s : State) :
    (noteChan q s).regs = s.regs ∧ (noteChan q s).pending = s.pending ∧ (noteChan q s).masters = s.masters := by
  unfold noteChan
  simp only
  split <;> exact ⟨rfl, rfl, rfl⟩

/-- A live register of one word that its page does not compute reads as what is kept; the rest of the state stays, but for what the read
itself draws. -/
theorem readReg_kept (hn : regNamed p (addr % 4096) = some (r, base)) (hw : r.wide = false) (hs : addr % 4096 < 0x800)
    (ht : timeDriven p.kind base = false) (hv : ∀ t, shownVal t m p base = none) :
    (readReg m p addr s).1 = regAt s (homeBase p + base) % 2 ^ 32 ∧ (readReg m p addr s).2.pending = s.pending ∧
      (readReg m p addr s).2.masters = s.masters := by
  have live : stagedOff (addr % 4096) = false := by simp [stagedOff]; omega
  have kept : ∀ t, regValue t m p base = regAt t (homeBase p + base) := fun t => by rw [regValue, hv]
  unfold readReg
  simp only [hn, live, ht, Bool.false_eq_true, if_false, Bool.false_and, readHalf_word hw, kept]
  have noted : ∀ q, regAt (noteChan q s) (homeBase p + base) = regAt s (homeBase p + base) := fun q => by
    rw [regAt, (noteChan_rest q s).1, regAt]
  split
  · split_ifs <;> simp [noted, noteChan_rest]
  · split <;> simp

/-- A register of two words: its value, or the free value of a register that time moves, and the word of it that is read. -/
theorem readReg_wide (hn : regNamed p (addr % 4096) = some (r, base)) (hb : regNamed p base = some (r, base)) (hw : r.wide = true)
    (hs : addr % 4096 < 0x800) :
    let free := timeDriven p.kind base && mayHaveWaited s p base
    readReg m p addr s = readHalf m addr r (highHalf (addr % 4096) base)
      (if free then (takeFree s).1 % 2 ^ 48 else regValue s m p base) (if free then (takeFree s).2 else s) := by
  have live : stagedOff (addr % 4096) = false := by simp [stagedOff]; omega
  have nochan : ¬ (p.kind = .hbm ∧ base = Off.hbmChanStat) := fun ⟨k, e⟩ => by
    rw [regNamed_chanStat (e ▸ hb) k] at hw; cases hw
  have novec : ¬ (p.kind = .vec ∧ base = Off.vecState) := fun ⟨k, e⟩ => by
    rw [regNamed_vecState (e ▸ hb) k] at hw; cases hw
  unfold readReg
  simp only [hn, live, Bool.false_eq_true, if_false, nochan, novec]
  split
  · rfl
  · split <;> rfl

end

/-! ## A register written and read back -/

section
variable {m : Master} {addr : BitVec 25} {v : Word} {s : State} {p : PageRef} {r : RegRow} {base : Nat}

theorem writeAt_access (ho : Safety.owns m s) (h : Safety.regAccess s addr p r base) :
    writeAt (masterIdx m) 4 addr.toNat v.toNat s = writeRow (masterIdx m) p (addr.toNat % 4096) v.toNat s := by
  obtain ⟨-, owner, safe⟩ := ho
  obtain ⟨al, page, slot, win, sec, lo, -⟩ := h
  rw [writeAt_permitted al page (mayWrite_owner owner slot) (.inl safe) ⟨slot, win⟩ sec, if_neg (Nat.not_lt.mpr lo)]

theorem regAccess_ne_devReset (h : Safety.regAccess s addr p r base) (ha : r.acc ≠ .wo) :
    addr.toNat ≠ pageBase .own 0 + Off.devReset := by
  obtain ⟨-, page, -, -, -, -, -, named, -⟩ := h
  exact fun e => ha (regNamed_devReset page named e)

/-- REGISTER_WRITE of an RW register without a rule of its own. -/
theorem exec_registerWrite_rw (ho : Safety.owns m s) (h : Safety.regAccess s addr p r base) (ha : r.acc = .rw)
    (hz : Nat.land v.toNat (mustBeZero p.kind base) = 0) (hw : r.wide = false)
    (he : writeOwn (masterIdx m) p base v.toNat s = none) :
    exec (.registerWrite m 4 addr v) s = .next (Safety.wrote m (setRegAt (homeBase p + base) (Nat.land v.toNat r.mask) s)) := by
  have w := writeAt_access (v := v) ho h
  have val : ∀ x y, rowValue r x v.toNat y = Nat.land v.toNat r.mask := fun x y => by
    simp [rowValue, putHalf, hw, Nat.mod_eq_of_lt v.isLt]
  obtain ⟨-, -, -, -, -, -, -, named, lead⟩ := id h
  rw [writeRow_rw lead named ha hz (by simpa [hw] using he), val] at w
  exact congrArg _ (writeCmd_ok ho.1 w (regAccess_ne_devReset h (by simp [ha])))

/-- REGISTER_WRITE of an RWS register goes to its staged copy. -/
theorem exec_registerWrite_rws (ho : Safety.owns m s) (h : Safety.regAccess s addr p r base) (ha : r.acc = .rws)
    (hz : Nat.land v.toNat (mustBeZero p.kind base) = 0) (hw : r.wide = false) (hk : p.kind ≠ .pwr) (hf : frozen s p = false) :
    exec (.registerWrite m 4 addr v) s =
      .next (Safety.wrote m (setRegAt (homeBase p + base + 0x800) (Nat.land v.toNat r.mask) s)) := by
  have w := writeAt_access (v := v) ho h
  have val : ∀ x y, rowValue r x v.toNat y = Nat.land v.toNat r.mask := fun x y => by
    simp [rowValue, putHalf, hw, Nat.mod_eq_of_lt v.isLt]
  obtain ⟨-, -, -, -, -, -, -, named, lead⟩ := id h
  rw [writeRow_rws lead named ha hz hk hf, val] at w
  exact congrArg _ (writeCmd_ok ho.1 w (regAccess_ne_devReset h (by simp [ha])))

end

/-- Whether a register has a rule of its own does not depend on the state. -/
theorem writeOwn_isSome (m : Fin 3) (p : PageRef) (o v : Nat) (s t : State) :
    (writeOwn m p o v s).isSome = (writeOwn m p o v t).isSome := by
  unfold writeOwn
  split <;> try simp only [apply_ite Option.isSome, Option.isSome_some, Option.isSome_none]
  cases queueOfPage p <;> rfl

theorem writeOwn_none {m : Fin 3} {p : PageRef} {o v : Nat} {s : State} (h : writeOwn m p o v s = none) (t : State) :
    writeOwn m p o v t = none := by
  have e := writeOwn_isSome m p o v s t
  rw [h] at e
  exact Option.isSome_eq_false_iff.mp e.symm |> Option.isNone_iff_eq_none.mp

/-- The answer that a read of the value kept under an address gives. -/
theorem answered_value (m : Master) (x mask : Nat) (u : State) :
    (answered (masterIdx m) stDone (Nat.land x mask % 2 ^ 64 % 2 ^ 32) u).masters[masterIdx m].status = stDone ∧
      (answered (masterIdx m) stDone (Nat.land x mask % 2 ^ 64 % 2 ^ 32) u).masters[masterIdx m].value.toNat =
        Nat.land x mask % 2 ^ 32 := by
  simp [answered, Nat.mod_mod_of_dvd]

/-- Settles O4: the write leaves its value under the register's address, and the read shows what is kept there. -/
theorem readAfterWrite : Obligations.ReadAfterWrite := by
  unfold Obligations.ReadAfterWrite
  intro m addr v s p r base rest ho hr hz hw
  have zero : Nat.land v.toNat (mustBeZero p.kind base) = 0 := by rw [hz]; exact Nat.and_zero _
  obtain ⟨al, page, -, win, sec, lo, hi, named, -⟩ := id hr
  refine ⟨fun ha he ht hv => ?live, fun ha hk hf => ?staged⟩
  case live =>
    let s1 : State := { s with pending := .lowWordRead m 4 addr :: rest }
    let t := Safety.wrote m (setRegAt (homeBase p + base) (Nat.land v.toNat r.mask) s1)
    have write : step { s with pending := .registerWrite m 4 addr v :: .lowWordRead m 4 addr :: rest } = .next t :=
      exec_registerWrite_rw (s := s1) ho hr ha zero hw (writeOwn_none he s1)
    obtain ⟨val, pend, -⟩ := readReg_kept (m := masterIdx m) (s := { t with pending := rest }) named hw hi ht hv
    have kept : regAt { t with pending := rest } (homeBase p + base) = Nat.land v.toNat r.mask % 2 ^ 64 :=
      (regAt_setRegAt _ _ _ s1).trans (if_pos rfl)
    rw [kept] at val
    have noPop : ¬ (p.kind = .flt ∧ addr.toNat % 4096 = Off.fltLogPop) := fun h => by
      rw [(regNamed_logPop named h).1] at ha
      cases ha
    have read := readCmd_reg (m := m) (s := { t with pending := rest }) ho.1 (readAt_reg al page sec win lo noPop)
    rw [val] at read
    exact ⟨t, _, write, congrArg _ read, pend, answered_value m _ _ _⟩
  case staged =>
    let s1 : State := { s with pending := .lowWordRead m 4 (addr + 0x800) :: rest }
    let t := Safety.wrote m (setRegAt (homeBase p + base + 0x800) (Nat.land v.toNat r.mask) s1)
    have write : step { s with pending := .registerWrite m 4 addr v :: .lowWordRead m 4 (addr + 0x800) :: rest } = .next t :=
      exec_registerWrite_rws (s := s1) ho hr ha zero hw hk hf
    have at_ : (addr + 0x800).toNat = addr.toNat + 0x800 := by
      have e : (addr + 0x800).toNat = (addr.toNat + 0x800) % 2 ^ 25 := BitVec.toNat_add _ _
      have := addr.isLt
      omega
    have off : (addr + 0x800).toNat % 4096 = addr.toNat % 4096 + 0x800 := by omega
    have same : (addr + 0x800).toNat / 4096 = addr.toNat / 4096 := by omega
    have val := readReg_staged (m := masterIdx m) (addr := (addr + 0x800).toNat) (s := { t with pending := rest })
      (by rw [off]; exact regNamed_staged hi named ha) hw (by omega)
    have kept : regAt { t with pending := rest } (homeBase p + base + 0x800) = Nat.land v.toNat r.mask % 2 ^ 64 :=
      (regAt_setRegAt _ _ _ s1).trans (if_pos rfl)
    rw [kept] at val
    have noPop : ¬ (p.kind = .flt ∧ (addr + 0x800).toNat % 4096 = Off.fltLogPop) := fun h => by
      have : Off.fltLogPop < 0x800 := by decide
      omega
    have read := readCmd_reg (m := m) (s := { t with pending := rest }) ho.1
      (readAt_reg (by omega) (by rw [same]; exact page) sec win (by omega) noPop)
    rw [val] at read
    exact ⟨t, _, write, congrArg _ read, rfl, answered_value m _ _ _⟩

/-! ## Halves of a wide register (R43) -/

/-- A wide register has no part in the log. -/
theorem readAt_wide {m : Fin 3} {a base : Nat} {s : State} {p : PageRef} {r : RegRow} (ha : a % 4 = 0)
    (hp : pageAt (a / 4096) = some p) (hsec : p.secure = false) (hk : p.kind ≠ .mtrWin) (ho : 0x80 ≤ a % 4096)
    (hn : regNamed p (a % 4096) = some (r, base)) (hw : r.wide = true) : readAt m 4 a s = (stDone, readReg m p a s) :=
  readAt_reg ha hp hsec hk ho fun h => by
    rw [(regNamed_logPop hn h).2] at hw
    cases hw

theorem readCmd_align {m : Master} {n a : Nat} {s : State} (run : ctlRuns s = true) (h : accessBad n a = true) :
    readCmd m n a s = answered (masterIdx m) eAlign 0 s := by
  have e : eAlign ≠ eDenied := by decide
  simp [readCmd, ctlRead, readAt, run, h, countDenied, e]

theorem highHalf_live {o base : Nat} (ho : o < 0x800) : highHalf o base = decide (o ≠ base) := by
  have live : stagedOff o = false := by simp [stagedOff]; omega
  simp [highHalf, liveOff, live]

section
variable {m : Fin 3} {a x : Nat} {r : RegRow} {s : State}

theorem readHalf_low (hw : r.wide = true) : readHalf m a r false x s = (x % 2 ^ 32, modMaster m (fun k =>
    { k with holdAddr := some a, holdHigh := BitVec.ofNat 32 (x / 2 ^ 32) }) s) := by
  simp [readHalf, hw]

theorem readHalf_high (hw : r.wide = true) (h : s.masters[m].holdAddr = some (a - 4)) : readHalf m a r true x s =
    (s.masters[m].holdHigh.toNat, modMaster m (fun k => { k with holdAddr := none, holdHigh := 0 }) s) := by
  rw [readHalf, hw]
  exact if_pos h

end

/-- Settles O5: a read of a low word keeps the high one for the reader. -/
theorem wideRegisterRead : Obligations.WideRegisterRead := by
  unfold Obligations.WideRegisterRead
  refine ⟨fun m n addr v s run h => ?align, fun m addr s p r run ha hp hsec hk lo hi named high hw => ?wide⟩
  case align =>
    have bad : accessBad n addr.toNat = true := by simpa [accessBad] using h
    exact ⟨congrArg _ (writeCmd_align run bad), congrArg _ (readCmd_align run bad)⟩
  intro free x s0
  refine ⟨?low, fun h held holds => ?high⟩
  case low =>
    have read := readCmd_reg (m := m) run (readAt_wide (by omega) hp hsec hk lo named hw)
    rw [readReg_wide named named hw (by omega), highHalf_live (by omega), decide_eq_false (not_not.mpr rfl),
      readHalf_low hw] at read
    exact congrArg _ read
  case high =>
    have at_ : (addr + 4).toNat = addr.toNat + 4 := by
      have e : (addr + 4).toNat = (addr.toNat + 4) % 2 ^ 25 := BitVec.toNat_add _ _
      have := addr.isLt
      omega
    have off : (addr + 4).toNat % 4096 = addr.toNat % 4096 + 4 := by omega
    have same : (addr + 4).toNat / 4096 = addr.toNat / 4096 := by omega
    have named' : regNamed p ((addr + 4).toNat % 4096) = some (r, addr.toNat % 4096) := by rw [off]; exact high
    have read := readCmd_reg (m := m) run
      (readAt_wide (by omega) (by rw [same]; exact hp) hsec hk (by omega) named' hw)
    have masters : s0.masters = s.masters := by simp only [s0]; split <;> rfl
    have held' : s0.masters[masterIdx m].holdAddr = some ((addr + 4).toNat - 4) := by
      rw [masters, held, at_, Nat.add_sub_cancel]
    rw [readReg_wide named' named hw (by omega), highHalf_live (by omega), decide_eq_true (by omega),
      readHalf_high hw held', masters, holds] at read
    exact congrArg _ read

end Sys2Proof.Machine
end

section
/-! SUPPORT. PG_CTRL (R47, R434, R501, R530): what a write of EN, of DRAIN and of REARM does, and how a probe and a re-arm end. -/

namespace Sys2Proof.Machine
open Sys2Proof

/-! ## Writes of PG_CTRL -/

section
variable {m : Master} {b : Block} {v : Nat} {s t : State}

theorem writePgCtrl_ok (ho : Safety.owns m s) (h : writePgCtrl b v s = ok t) : writeBlock m b 0x0C v s = Safety.wrote m t :=
  writeCmd_ok ho.1 ((writeBlock_hdr ho.2.1 ho.2.2).trans h) fun e => by
    have := congrArg (· % 4096) e
    simp only [pageBase_offset (by decide : 0x0C < 4096), pageBase_offset (by decide : Off.devReset < 4096)] at this
    exact absurd this (by decide)

theorem writePgCtrl_denied (ho : Safety.owns m s) (h : writePgCtrl b v s = denied t) : writeBlock m b 0x0C v s = Safety.denied m t :=
  writeCmd_denied ho.1 ((writeBlock_hdr ho.2.1 ho.2.2).trans h)

/-- A write that names a new value of EN and nothing else. -/
theorem writePgCtrl_en {e : Bool} (h : (hdr s b).en = !e) : writePgCtrl b (b2n e) s = if enRefused s b e then denied s else ok (setEn b e s) := by
  have b0 : bitOf (b2n e) 0 = e := by cases e <;> rfl
  have b1 : bitOf (b2n e) 1 = false := by cases e <;> rfl
  have b2 : bitOf (b2n e) 2 = false := by cases e <;> rfl
  simp [writePgCtrl, b0, b1, b2, h]

/-- The bits of a write that leaves EN as it stands. -/
theorem bits_of_keep (e : Bool) (n : Nat) : bitOf (b2n e + 2 * n) 0 = e ∧ bitOf (b2n e + 2 * n) 1 = bitOf n 0 ∧
    bitOf (b2n e + 2 * n) 2 = bitOf n 1 := by
  cases e <;> simp [bitOf, b2n] <;> omega

/-- A write that leaves EN. -/
theorem writePgCtrl_keep (n : Nat) : writePgCtrl b (b2n (hdr s b).en + 2 * n) s =
    if bitOf n 0 && !drainable b then denied s
    else ok (if bitOf n 1 then startRearm b (if bitOf n 0 then startDrain b s else s) else if bitOf n 0 then startDrain b s else s) := by
  obtain ⟨b0, b1, b2⟩ := bits_of_keep (hdr s b).en n
  simp [writePgCtrl, b0, b1, b2]

theorem writePgCtrl_same {e : Bool} (h : (hdr s b).en = e) : writePgCtrl b (b2n e) s = ok s := by
  subst h
  exact writePgCtrl_keep 0

theorem writePgCtrl_drain : writePgCtrl b (b2n (hdr s b).en + 2) s = if drainable b then ok (startDrain b s) else denied s := by
  refine (writePgCtrl_keep 1).trans ?_
  cases drainable b <;> rfl

theorem writePgCtrl_rearm : writePgCtrl b (b2n (hdr s b).en + 4) s = ok (startRearm b s) := writePgCtrl_keep 2

/-- In the safe state only the ownership page reaches its header. -/
theorem writeAt_safe (ho : ownerId s = (masterIdx m).val) (hs : s.flt.safe = true) (h : writePgCtrl b v s = denied s) :
    writeAt (masterIdx m) 4 (pageBase b 0 + 0x0C) v s = denied s := by
  by_cases hb : b = .own
  · subst hb
    exact (writeBlock_permitted (by decide) rfl (mayWrite_owner (p := firstPage .own) ho (firstKind_ne .own).1) (.inr rfl)).trans h
  · have kind : firstKind b ≠ .own := by
      cases b with
      | own => exact absurd rfl hb
      | tile t u => cases u <;> nofun
      | _ => nofun
    have takes : safeTakes (masterIdx m) (firstPage b) = false := by simp [safeTakes, ownSlot, firstPage, kind]
    have al : (pageBase b 0 + 0x0C) % 4 = 0 := by unfold pageBase; omega
    have page : pageAt ((pageBase b 0 + 0x0C) / 4096) = some (firstPage b) := by
      rw [pageBase_page (by decide), pageAt_firstPage]
    simp [writeAt, accessBad, al, page, hs, takes]

end

/-! ## REARM -/

section
variable {b : Block} {s : State}

theorem startRearm_goes (hm : (hdr s b).mode = .drained ∨ (hdr s b).mode = .fenced) (hs : stuckBlock s b = false)
    (ht : tableWaits s b = false) : startRearm b s = sendProbe b (modHdr b (fun h => { h with rearmReq := true }) s) := by
  have stopped : (decide ((hdr s b).mode = .drained) || decide ((hdr s b).mode = .fenced)) = true := by simpa using hm
  simp only [startRearm, stopped, hs, ht]
  rfl

theorem startRearm_stays (h : ((hdr s b).mode ≠ .drained ∧ (hdr s b).mode ≠ .fenced) ∨ stuckBlock s b = true ∨
    tableWaits s b = true) : startRearm b s = s := by
  unfold startRearm
  rcases h with ⟨h, g⟩ | h | h <;> simp [*]

end

/-! ## What a return to IDLE finds at the ports -/

/-- An update that leaves a port as it is leaves the state. -/
theorem modPort_self (p : PortId) (f : GwpSt → GwpSt) (s : State) (h : f s.ports[p] = s.ports[p]) : modPort p f s = s := by
  have e : s.ports.set p s.ports[p] = s.ports := Vector.set_getElem_self p.isLt
  simp only [modPort, h, e]

theorem serveHeld_none {p : PortId} {s : State} (h : s.ports[p].held = []) : serveHeld p s = s := by
  have same : modPort p (fun g => { g with held := [] }) s = s := modPort_self p _ s (by rw [← h])
  unfold serveHeld
  rw [h, same]
  rfl

theorem settleAll_noneFailed {s : State} (h : Safety.noneFailed s) : settleAll s = s := by
  have none (t : TileId) : (s.tiles[t].mov.active.filter (·.failed)).map (·.serial) = [] := by
    rw [List.filter_eq_nil_iff.mpr fun d hd => by simp [h t d hd]]
    rfl
  unfold settleAll
  refine List.foldlRecOn (motive := (· = s)) allTiles _ rfl fun u hu t _ => ?_
  subst hu
  rw [none t]
  rfl

/-- Where no packet stands at a port and no descriptor has failed, nothing is served. -/
theorem serveAll_none {s : State} (hp : ∀ p : PortId, s.ports[p].held = []) (hf : Safety.noneFailed s) : serveAll s = s := by
  have ports : allPorts.foldl (fun s p => serveHeld p s) s = s := by
    refine List.foldlRecOn (motive := (· = s)) allPorts _ rfl fun u hu p _ => ?_
    subst hu
    exact serveHeld_none (hp p)
  rw [serveAll, ports, settleAll_noneFailed hf]

/-! ## Probes and re-arms -/

section
variable {b : Block} {s : State}

theorem settleBlock_waits (h : (hdr s b).probe = true ∨ busy s b = true ∨ isWedged s b = true ∨
    ((hdr s b).enPend = false ∧ (hdr s b).rearmReq = false)) : settleBlock b s = s := by
  unfold settleBlock
  rcases h with h | h | h | ⟨h, g⟩
  · simp [h]
  · simp [h]
  · simp [h]
  · simp [h, g]

theorem settleBlock_goes (hp : (hdr s b).probe = false) (hb : busy s b = false) (hw : isWedged s b = false)
    (h : (hdr s b).enPend = true ∨ (hdr s b).rearmReq = true) : settleBlock b s = goIdle b s := by
  simp [settleBlock, hp, hb, hw, h]

theorem enPend_probeTaken (b : Block) (t : TileId) (s : State) :
    (hdr (dropStall t b (modHdr b (fun h => { h with probe := false }) s)) b).enPend = (hdr s b).enPend := by
  have stalls : ∀ u, hdr (dropStall t b u) b = hdr u b := fun _ => rfl
  rw [stalls, hdr_modHdr_same]

theorem exec_drainProbeAck (h : (hdr s b).probe = true) : exec (.drainProbeAck b) s = .next
    (let s1 := dropStall (watcher s b) b (modHdr b (fun h => { h with probe := false }) s)
     if (hdr s b).enPend then settleBlock b s1 else s1) := by
  have e := enPend_probeTaken b (watcher s b) s
  show execDrainProbeAck b s = _
  unfold execDrainProbeAck
  simp only [h]
  rw [← e]
  rfl

end

section
variable {s : State}

/-- A block whose return to IDLE brings nothing but its mode. -/
theorem goIdle_plain {b : Block} (hg : ∀ p, b ≠ .gwp p) (hc : ∀ h, b ≠ .cam h) (ht : ∀ t, b ≠ .tile t .mnt ∧ b ≠ .tile t .tl) :
    goIdle b s = serveAll (modHdr b (fun h => { h with mode := .on, drainReq := false, rearmReq := false, enPend := false }) s) := by
  cases b with
  | gwp p => exact absurd rfl (hg p)
  | cam h => exact absurd rfl (hc h)
  | tile t u =>
    cases u with
    | mnt => exact absurd rfl (ht t).1
    | tl => exact absurd rfl (ht t).2
    | _ => rfl
  | _ => rfl

/-- A port's link trains anew when it comes back to IDLE, where its configuration enables it and the link is not UP. -/
theorem retrain_gwp {p : PortId} (hcfg : bitOf (reg s (.gwp p) Off.gwpCfg) 0 = true) (hl : s.ports[p].link ≠ .up) :
    retrain (.gwp p) s = startTraining p s := by
  unfold retrain
  simp only [hcfg, Bool.not_true, Bool.false_eq_true, if_false]
  rw [if_neg hl]

theorem retrain_cam {h : HostId} (hcfg : bitOf (reg s (.cam h) Off.camCfg) 0 = true) (hl : s.cams[h].link ≠ .up) :
    retrain (.cam h) s = pumpAll (modCam h (fun c => { c with link := .training }) s) := by
  unfold retrain
  simp only [hcfg, Bool.not_true, Bool.false_eq_true, if_false]
  rw [if_neg hl]

/-- A block at IDLE (R47). -/
def idled (b : Block) (s : State) : State :=
  modHdr b (fun h => { h with mode := .on, drainReq := false, rearmReq := false, enPend := false }) s

theorem goIdle_port {b : Block} (hb : (∃ p, b = .gwp p) ∨ ∃ h, b = .cam h) : goIdle b s = serveAll (retrain b (idled b s)) := by
  rcases hb with ⟨p, rfl⟩ | ⟨h, rfl⟩ <;> rfl

end

/-- Settles O7: each write of PG_CTRL changes EN alone or leaves it, and a block returns to IDLE as its kind asks. -/
theorem blockModes : Obligations.BlockModes := by
  unfold Obligations.BlockModes
  refine ⟨fun m b s ho => ?en, fun m b s run owner safe hen => ?safe, ⟨fun m b s ho => ?drain, fun b s hm hp hb => ?complete,
    fun b s h => ?stays⟩, fun m b s ho hm hs ht => ?rearm, fun m b s ho h => ?noRearm, fun b s hp he => ?probe,
    fun b s hp he => ?probeEn, fun b s hp => ?noProbe, fun b s h => ?waits, fun b s hp hb hw h => ?idle,
    fun u hp hf => serveAll_none hp hf⟩
  case en =>
    refine ⟨fun he hm hs hf => ?_, fun he h => ?_, fun he hm hs hf => ?_, fun he => ?_, fun he => ?_, fun he h => ?_, fun he h => ?_⟩
    · refine congrArg _ (writePgCtrl_ok ho ((writePgCtrl_en (e := true) he).trans ?_))
      simp [enRefused, hs, hf, setEn, hm]
    · refine congrArg _ (writePgCtrl_denied ho ((writePgCtrl_en (e := true) he).trans ?_))
      simp [enRefused, h]
    · refine congrArg _ (writePgCtrl_ok ho ((writePgCtrl_en (e := true) he).trans ?_))
      simp [enRefused, hs, hf, setEn, hm]
    · exact congrArg _ (writePgCtrl_ok ho (writePgCtrl_same he))
    · exact congrArg _ (writePgCtrl_ok ho (writePgCtrl_same he))
    · refine congrArg _ (writePgCtrl_ok ho ((writePgCtrl_en (e := false) he).trans ?_))
      rcases h with h | ⟨h, g⟩
      · simp [enRefused, h, setEn]
      · simp [enRefused, h, g, setEn]
    · refine congrArg _ (writePgCtrl_denied ho ((writePgCtrl_en (e := false) he).trans ?_))
      rcases h with h | h | h | ⟨h, g⟩
      · simp [enRefused, h]
      · simp [enRefused, h]
      · simp [enRefused, h]
      · simp [enRefused, h, g]
  case safe =>
    have refused : writePgCtrl b 1 s = denied s := by
      refine (writePgCtrl_en (e := true) hen).trans ?_
      simp [enRefused, stuckBlock, safe]
    exact congrArg _ (writeCmd_denied run (writeAt_safe owner safe refused))
  case drain =>
    refine ⟨fun h => congrArg _ (writePgCtrl_ok ho (writePgCtrl_drain.trans ?_)),
      fun h => congrArg _ (writePgCtrl_denied ho (writePgCtrl_drain.trans ?_))⟩
    · rw [if_pos h]
      rfl
    · rw [h]
      rfl
  case complete =>
    exact congrArg _ (if_pos ⟨hm, by simp [hp], by simp [hb]⟩)
  case stays =>
    refine congrArg _ (if_neg fun ⟨hm, hp, hb⟩ => ?_)
    rcases h with h | h | h
    · exact h hm
    · simp [h] at hp
    · simp [h] at hb
  case rearm => exact congrArg _ (writePgCtrl_ok ho (writePgCtrl_rearm.trans (congrArg ok (startRearm_goes hm hs ht))))
  case noRearm => exact congrArg _ (writePgCtrl_ok ho (writePgCtrl_rearm.trans (congrArg ok (startRearm_stays h))))
  case probe =>
    rw [exec_drainProbeAck hp, he]
    rfl
  case probeEn =>
    have pend := (enPend_probeTaken b (watcher s b) s).trans he
    refine ⟨fun h => ?_, fun hb hw => ?_⟩
    · rw [exec_drainProbeAck hp, he]
      exact congrArg _ (settleBlock_waits (.inr (h.imp_right .inl)))
    · rw [exec_drainProbeAck hp, he]
      rfl
  case noProbe =>
    show execDrainProbeAck b s = _
    simp [execDrainProbeAck, hp]
  case waits => exact congrArg _ (settleBlock_waits h)
  case idle =>
    intro up
    have goes : exec (.rearmComplete b) s = .next (goIdle b s) := by
      show execRearmComplete b s = _
      rw [execRearmComplete, settleBlock_goes hp hb hw h]
    refine ⟨fun hg hc ht => ?_, fun t e => ?_, fun t e => ?_, fun p e hcfg hl => ?_, fun c e hcfg hl => ?_⟩
    · rw [goes, goIdle_plain hg hc ht]
    · subst e
      exact goes
    · subst e
      exact goes
    · subst e
      rw [goes, goIdle_port (.inl ⟨p, rfl⟩), retrain_gwp (s := idled _ s) hcfg hl]
      rfl
    · subst e
      rw [goes, goIdle_port (.inr ⟨c, rfl⟩), retrain_cam (s := idled _ s) hcfg hl]
      rfl

end Sys2Proof.Machine
end

section
/-! SUPPORT. COUNTER_CLEAR (R45, R202; entry 7): a state in which an engine has had work in which it may have waited. -/

namespace Sys2Proof.Machine
open Sys2Proof

/-- The device out of reset, owned by host port 0, whose vector engine of tile 0 has had work since its counters were cleared. -/
def workedVector : State :=
  { State.reset with
    dev := { State.reset.dev with owner := some .hp0, resetLow := false }
    waited := [(blockId (.tile 0 .vec), true)] }

/-- The clear lets the counters of waiting stand still until the engine has work again (entry 7). -/
theorem counterClear_waited : (writeBlock .hp0 (.tile 0 .vec) 0xC0 1 workedVector).waited = [] := by decide +kernel

/-- Refutes O2: the clear of a block's counters also takes back the note that its engine has had work, by which the counters that time
drives show a free value (entry 7); that note is part of the state and neither a register nor the answer. -/
theorem not_registerWrites : ¬ Obligations.RegisterWrites := by
  unfold Obligations.RegisterWrites
  rintro ⟨-, clear⟩
  have owner : Safety.owns .hp0 workedVector := ⟨rfl, rfl, rfl⟩
  obtain ⟨t, run, rest, -⟩ := clear .hp0 (.tile 0 .vec) workedVector ⟨.tile 0 .vec, 0, .vec⟩
    ⟨Off.vecCntClr, 1, 4, false, .w1s, 0, 0⟩ owner (by decide) (by decide) (by decide) (by decide) rfl (by decide) rfl rfl rfl
  have same : (writeBlock .hp0 (.tile 0 .vec) 0xC0 1 workedVector).waited = workedVector.waited := by
    have done : writeBlock .hp0 (.tile 0 .vec) 0xC0 1 workedVector = Safety.wrote .hp0 t := Host.Outcome.next.inj run
    rw [done, show (Safety.wrote .hp0 t).waited = t.waited from rfl, rest]
  rw [counterClear_waited] at same
  cases same

end Sys2Proof.Machine
end

section
/-! SUPPORT. Updates of many blocks and quadrants in turn: what the commit's notices, its markers and its switches leave (R62). -/

namespace Sys2Proof.Machine
open Sys2Proof

/-! ## Blocks and their ids -/

theorem blockOfId_blockId (b : Block) : blockOfId (blockId b) = some b := by
  cases b with
  | tile t u => cases u <;> revert t <;> decide +kernel
  | hbm k => revert k; decide +kernel
  | gwp p => revert p; decide +kernel
  | cam h => revert h; decide +kernel
  | qdsp q => revert q; decide +kernel
  | qstat q => revert q; decide +kernel
  | srv q => revert q; decide +kernel
  | qque q => revert q; decide +kernel
  | _ => decide +kernel

/-- No two blocks share an id (R48). -/
theorem blockId_inj {b c : Block} : blockId b = blockId c ↔ b = c := by
  refine ⟨fun h => ?_, fun h => by rw [h]⟩
  have e := blockOfId_blockId b
  rw [h, blockOfId_blockId] at e
  exact (Option.some.inj e).symm

theorem mem_allBlocks (b : Block) : b ∈ allBlocks := by
  cases b with
  | tile t u => simp [allBlocks, allTiles, mem_tileUnits]
  | _ => simp [allBlocks, allStacks, allPorts, allHosts, allQuads]

theorem hdr_modHdr_block (b c : Block) (f : Hdr → Hdr) (s : State) :
    hdr (modHdr b f s) c = if c = b then f (hdr s b) else hdr s c := by
  rw [hdr_modHdr]
  simp only [blockId_inj]

/-! ## Folds of updates -/

/-- One update, whose repetition changes nothing more, made at a list of blocks. -/
theorem hdr_foldl_modHdr {f : Hdr → Hdr} (hf : ∀ h, f (f h) = f h) (l : List Block) (s : State) (c : Block) :
    hdr (l.foldl (fun s b => modHdr b f s) s) c = if c ∈ l then f (hdr s c) else hdr s c := by
  induction l generalizing s with
  | nil => simp
  | cons b l ih =>
    rw [List.foldl_cons, ih, hdr_modHdr_block]
    by_cases hc : c = b
    · subst hc
      simp [hf]
    · simp [hc]

theorem foldl_modHdr_rest (f : Hdr → Hdr) (l : List Block) (s : State) :
    l.foldl (fun s b => modHdr b f s) s = { s with hdrs := (l.foldl (fun s b => modHdr b f s) s).hdrs } := by
  induction l generalizing s with
  | nil => rfl
  | cons b l ih =>
    rw [List.foldl_cons, ih]
    rfl

theorem modQuad_quad (q x : QuadId) (f : QuadSt → QuadSt) (s : State) :
    (modQuad q f s).quads[x] = if x = q then f s.quads[q] else s.quads[x] := by
  simp only [modQuad_quads, Fin.getElem_fin, Vector.getElem_set, Fin.ext_iff, eq_comm]

theorem quad_foldl_modQuad {f : QuadSt → QuadSt} (hf : ∀ x, f (f x) = f x) (l : List QuadId) (s : State) (q : QuadId) :
    (l.foldl (fun s x => modQuad x f s) s).quads[q] = if q ∈ l then f s.quads[q] else s.quads[q] := by
  induction l generalizing s with
  | nil => simp
  | cons b l ih =>
    rw [List.foldl_cons, ih, modQuad_quad]
    by_cases hc : q = b
    · subst hc
      simp [hf]
    · simp [hc]

theorem foldl_modQuad_rest (f : QuadSt → QuadSt) (l : List QuadId) (s : State) :
    l.foldl (fun s q => modQuad q f s) s = { s with quads := (l.foldl (fun s q => modQuad q f s) s).quads } := by
  induction l generalizing s with
  | nil => rfl
  | cons b l ih =>
    rw [List.foldl_cons, ih]
    rfl

/-- Steps none of which changes the state. -/
theorem foldl_same {α β : Type} {f : β → α → β} {s : β} (h : ∀ a, f s a = s) (l : List α) : l.foldl f s = s := by
  induction l with
  | nil => rfl
  | cons a l ih => rw [List.foldl_cons, h, ih]

/-! ## What follows a switch -/

/-- Step 10 waits for the last block. -/
theorem finishCommit_waits {s : State} {b : Block} (h : (hdr s b).genPend = true) : finishCommit s = s := by
  have some_ : allBlocks.any (fun b => (hdr s b).genPend) = true := List.any_eq_true.mpr ⟨b, mem_allBlocks b, h⟩
  simp [finishCommit, some_]

theorem settleGen_waits {s : State} {b : Block} (hr : ∀ t : TileId, s.tiles[t].retired = false) (h : (hdr s b).genPend = true) :
    settleGen s = s := by
  have tiles : allTiles.foldl (fun s t => if s.tiles[t].retired && s.quads[quadOf t].placed && !maskHas s.dev.routerSent t.val
      then switchTile t s else s) s = s := foldl_same (fun t => if_neg (by rw [hr t]; simp)) allTiles
  unfold settleGen
  rw [tiles, finishCommit_waits h, ite_self]

/-! ## A commit that starts -/

/-- A block learns of the commit to generation g. -/
def staged (g : Byte) (h : Hdr) : Hdr := { h with genStaged := g, genPend := true, markers := 0 }
/-- A dispatcher gets the commit's notice. -/
def noticed (x : QuadSt) : QuadSt := { x with notice := true, placed := false, marked := 0 }

/-- Steps 2 and 3 of a commit, for the blocks and the quadrants named. -/
def announced (bs : List Block) (qs : List QuadId) (s : State) : State :=
  let g := s.dev.genTarget + 1
  qs.foldl (fun s q => modQuad q noticed s) (emitN .dev 4 (bs.foldl (fun s b => modHdr b (staged g) s)
    (modDev (fun d => { d with genTarget := g, genPend := true, routerSent := 0 }) s)))

section
variable (bs : List Block) (qs : List QuadId) (s : State)

theorem announced_rest : announced bs qs s = { s with
    dev := { s.dev with genTarget := s.dev.genTarget + 1, genPend := true, routerSent := 0 }
    hdrs := (announced bs qs s).hdrs, quads := (announced bs qs s).quads } := by
  unfold announced emitN
  rw [foldl_modQuad_rest, foldl_modHdr_rest]
  rfl

theorem announced_dev : (announced bs qs s).dev =
    { s.dev with genTarget := s.dev.genTarget + 1, genPend := true, routerSent := 0 } := by
  rw [announced_rest]

theorem hdr_announced (b : Block) (hb : b ∈ bs) : hdr (announced bs qs s) b = { hdr s b with
    genStaged := s.dev.genTarget + 1, genPend := true, markers := 0,
    sent := if b = .dev then (hdr s b).sent + 4 else (hdr s b).sent } := by
  unfold announced
  rw [foldl_modQuad_rest]
  show hdr (emitN _ _ _) b = _
  rw [emitN, hdr_modHdr_block, hdr_foldl_modHdr (f := staged _) (fun _ => rfl), hdr_foldl_modHdr (f := staged _) (fun _ => rfl), if_pos hb]
  split
  · next h => subst h; rw [if_pos hb]; rfl
  · rfl

theorem quads_announced (q : QuadId) (hq : q ∈ qs) : (announced bs qs s).quads[q] = noticed s.quads[q] := by
  unfold announced emitN
  rw [quad_foldl_modQuad (f := noticed) (fun _ => rfl), if_pos hq, foldl_modHdr_rest]
  rfl

end

theorem startCommit_eq {s : State} (hq : s.dev.qfail = 0) : startCommit s = announced allBlocks allQuads s := by
  unfold startCommit
  generalize allBlocks = bs
  generalize allQuads = qs
  refine foldl_same (s := announced bs qs s) (fun q => if_neg ?_) qs
  simp [quadFailed, announced_dev, hq, maskHas]

/-! ## The write of DEV_GEN_COMMIT -/

section
variable {m : Master} {v : Nat} {s : State}

theorem writeAt_devGenCommit (ho : ownerId s = (masterIdx m).val) (hs : s.flt.safe = false) :
    writeAt (masterIdx m) 4 (pageBase .dev 0 + Off.devGenCommit) v s = commitGen v s := by
  rw [writeBlock_permitted (by decide) rfl (mayWrite_owner ho (firstKind_ne _).1) (.inl hs), if_neg (by decide)]
  exact writeRow_own (base := Off.devGenCommit) (r := ⟨Off.devGenCommit, 1, 4, false, .wo, 0x0, 0x0⟩) rfl (by decide) rfl (by decide) (Nat.and_zero v) rfl

theorem commitGen_refused (h : v ≠ (s.dev.genTarget + 1).toNat ∨ s.dev.genQueued = true) :
    commitGen v s = denied (refuseCommit .dev s) := if_pos (.inr h)

section
variable (next : v = (s.dev.genTarget + 1).toNat) (queue : s.dev.genQueued = false)
include next queue

/-- The next number while no commit is queued. -/
theorem commitGen_taken : ¬ (256 ≤ v ∨ v ≠ (s.dev.genTarget + 1).toNat ∨ s.dev.genQueued = true) := by
  have byte : ¬ 256 ≤ v := Nat.not_le.mpr (next ▸ (s.dev.genTarget + 1).isLt)
  simp only [byte, ← next, queue]
  simp

theorem commitGen_queued (pend : s.dev.genPend = true) :
    commitGen v s = ok (modDev (fun d => { d with genQueued := true, genRefused := false }) s) := by
  rw [commitGen, if_neg (commitGen_taken next queue), if_pos pend]

theorem commitGen_refuser {b : Block} (pend : s.dev.genPend = false) (acc : firstRefuser s = some b) :
    commitGen v s = denied (refuseCommit b s) := by
  rw [commitGen, if_neg (commitGen_taken next queue), pend, if_neg nofun, acc]

theorem commitGen_starts (pend : s.dev.genPend = false) (acc : firstRefuser s = none) : commitGen v s =
    ok (settleGen (startCommit (modDev (fun d => { d with genRefused := false, genBlock := 0xFFF }) s))) := by
  rw [commitGen, if_neg (commitGen_taken next queue), pend, if_neg nofun, acc]

end

end

/-- Settles O9: the four answers of `commitGen`; a commit that starts cannot end at once, since every block has yet to switch. -/
theorem generationCommit : Obligations.GenerationCommit := by
  unfold Obligations.GenerationCommit
  intro m v s ⟨run, own, safe⟩
  have done {t} (h : commitGen v.toNat s = ok t) : exec (.devGenCommit m v) s = .next (Safety.wrote m t) :=
    congrArg _ (writeCmd_ok run ((writeAt_devGenCommit own safe).trans h) (by decide))
  have refused {t} (h : commitGen v.toNat s = denied t) : exec (.devGenCommit m v) s = .next (Safety.denied m t) :=
    congrArg _ (writeCmd_denied run ((writeAt_devGenCommit own safe).trans h))
  refine ⟨fun next pend queue acc qf ret => ?starts, fun next pend queue => ?queued, fun b next pend queue acc => ⟨?_, ?_⟩, fun h => ?_⟩
  case starts =>
    let u := modDev (fun d => { d with genRefused := false, genBlock := 0xFFF }) s
    let t := announced allBlocks allQuads u
    have hb (b) := hdr_announced allBlocks allQuads u b (mem_allBlocks b)
    have waits : settleGen t = t := settleGen_waits (b := .dev)
      (fun x => by rw [show t.tiles = s.tiles by rw [show t = _ from announced_rest ..]; rfl]; exact ret x) (by rw [hb])
    refine ⟨t, done ?_, announced_dev .., hb, fun q => quads_announced _ _ _ q (by simp [allQuads]), ?_⟩
    · rw [commitGen_starts next queue pend acc, startCommit_eq (s := u) qf, waits]
    · rw [show t = _ from announced_rest ..]
      rfl
  case queued =>
    exact done (commitGen_queued next queue pend)
  · simpa using List.find?_some acc
  · exact refused (commitGen_refuser next queue pend acc)
  · exact refused (commitGen_refused h)

end Sys2Proof.Machine
end

section
/-! SUPPORT. What a block's switch leaves (R62): its staged copies become live, and each kind of block adopts what is its own. -/

namespace Sys2Proof.Machine
open Sys2Proof

/-! ## The RWS registers of a block -/

theorem pageRows_rws_low (k : PageKind) : ∀ r ∈ pageRows k, r.acc = .rws → ∀ j < r.count, r.off + j * r.stride < 0x800 := by
  cases k <;> decide +kernel

/-- Live registers stand in the lower half of their page (R42). -/
theorem rwsAddrs_low {b : Block} {a : Nat} (h : a ∈ rwsAddrs b) : a % 4096 < 0x800 := by
  obtain ⟨i, -, h⟩ := List.mem_flatMap.mp h
  simp only at h
  have low (base : Nat) (hb : base % 4096 = 0) (p : PageRef) (h : a ∈ ((pageRows p.kind).filter (fun r => r.acc == .rws)).flatMap
      (fun r => (List.range r.count).map (fun j => base + r.off + j * r.stride))) : a % 4096 < 0x800 := by
    obtain ⟨r, hr, h⟩ := List.mem_flatMap.mp h
    obtain ⟨j, hj, rfl⟩ := List.mem_map.mp h
    obtain ⟨hr, acc⟩ := List.mem_filter.mp hr
    have := pageRows_rws_low p.kind r hr (by simpa using acc) j (List.mem_range.mp hj)
    omega
  have aligned (c : Block) (n : Nat) : pageBase c n % 4096 = 0 := by unfold pageBase; omega
  split at h
  · simp at h
  · refine low _ ?_ _ h
    split <;> exact aligned ..

theorem staged_not_rws {b : Block} {a : Nat} (h : a ∈ rwsAddrs b) : a + 0x800 ∉ rwsAddrs b := fun g => by
  have := rwsAddrs_low h
  have := rwsAddrs_low g
  omega

theorem adoptStaged_rest (b : Block) (s : State) : adoptStaged b s = { s with regs := (adoptStaged b s).regs } := by
  unfold adoptStaged
  induction rwsAddrs b generalizing s with
  | nil => rfl
  | cons a l ih => rw [List.foldl_cons, ih]; rfl

theorem adoptStaged_hdrs (b : Block) (s : State) : (adoptStaged b s).hdrs = s.hdrs := by rw [adoptStaged_rest]

theorem regAt_lt (s : State) (a : Nat) : regAt s a < 2 ^ 64 := (fget _ s.regs a).isLt

theorem regAt_congr {s u : State} (h : u.regs = s.regs) (a : Nat) : regAt u a = regAt s a := by rw [regAt, regAt, h]

/-- Registers that take the values of others in turn, none of which is one of them. -/
theorem regAt_foldl_adopt {l : List Nat} (hl : ∀ a ∈ l, a + 0x800 ∉ l) (s : State) (a : Nat) :
    regAt (l.foldl (fun s a => setRegAt a (stagedAt s a) s) s) a = if a ∈ l then stagedAt s a else regAt s a := by
  induction l generalizing s with
  | nil => rfl
  | cons x l ih =>
    have apart (y) (hy : y ∈ x :: l) : y + 0x800 ≠ x := fun e => hl y hy (by simp [e])
    have live : regAt (setRegAt x (stagedAt s x) s) a = if a = x then stagedAt s x else regAt s a := by
      rw [regAt_setRegAt, Nat.mod_eq_of_lt (show stagedAt s x < _ from regAt_lt ..)]
    rw [List.foldl_cons, ih fun y hy g => hl y (List.mem_cons_of_mem _ hy) (List.mem_cons_of_mem _ g)]
    by_cases ha : a ∈ l
    · have : stagedAt (setRegAt x (stagedAt s x) s) a = stagedAt s a :=
        regAt_setRegAt_ne _ _ _ _ (apart a (List.mem_cons_of_mem _ ha))
      simp [ha, this]
    · rw [if_neg ha, live]
      by_cases e : a = x
      · simp [e]
      · simp [ha, e]

theorem regAt_adoptStaged (b : Block) (s : State) (a : Nat) :
    regAt (adoptStaged b s) a = if a ∈ rwsAddrs b then stagedAt s a else regAt s a :=
  regAt_foldl_adopt (fun _ => staged_not_rws) s a

/-- A block's live registers hold their staged copies, and every other register is as it was. -/
def Adopted (b : Block) (s u : State) : Prop :=
  (∀ a ∈ rwsAddrs b, regAt u a = stagedAt s a) ∧ ∀ a, a ∉ rwsAddrs b → regAt u a = regAt s a

theorem adopted_of_regs {b : Block} {s u : State} (h : u.regs = (adoptStaged b s).regs) : Adopted b s u :=
  ⟨fun a ha => by rw [regAt_congr h, regAt_adoptStaged, if_pos ha], fun a ha => by rw [regAt_congr h, regAt_adoptStaged, if_neg ha]⟩

/-- Adopting again changes nothing. -/
theorem adopted_adoptStaged {b : Block} {s u : State} (h : Adopted b s u) : Adopted b s (adoptStaged b u) := by
  obtain ⟨live, rest⟩ := h
  refine ⟨fun a ha => ?_, fun a ha => ?_⟩
  · rw [regAt_adoptStaged, if_pos ha]
    exact rest _ (staged_not_rws ha)
  · rw [regAt_adoptStaged, if_neg ha, rest a ha]

/-! ## Translation roots -/

section
variable (a : XAgent) (s : State)

theorem modXlate_regs (f : XlateSt → XlateSt) : (modXlate a f s).regs = s.regs ∧ (modXlate a f s).hdrs = s.hdrs := by
  cases a <;> exact ⟨rfl, rfl⟩

theorem dropEntries_regs (p : Fin 4) : (dropEntries p a s).regs = s.regs ∧ (dropEntries p a s).hdrs = s.hdrs := by
  unfold dropEntries
  split
  · exact ⟨rfl, rfl⟩
  · exact modXlate_regs ..

/-- New roots change no register and no header. -/
theorem adoptRoots_regs : (adoptRoots a s).regs = s.regs ∧ (adoptRoots a s).hdrs = s.hdrs := by
  refine List.foldlRecOn (motive := fun u : State => u.regs = s.regs ∧ u.hdrs = s.hdrs) _ _ ⟨rfl, rfl⟩ fun u hu p _ => ?_
  simp only
  split
  · exact hu
  · rwa [(modXlate_regs ..).1, (modXlate_regs ..).2, (dropEntries_regs ..).1, (dropEntries_regs ..).2]

end

/-! ## The switch -/

/-- The header of a block that has switched. -/
def switchedHdr (h : Hdr) : Hdr :=
  { h with genLive := h.genStaged, genPend := false, markers := 0, rx := h.rx ++ h.held, held := [] }

/-- A block has switched, and no other header has changed. -/
def Switched (b : Block) (s u : State) : Prop :=
  ∀ c, hdr u c = if blockId c = blockId b then switchedHdr (hdr s b) else hdr s c

theorem hdr_of_hdrs {s u : State} (h : u.hdrs = s.hdrs) (b : Block) : hdr u b = hdr s b := by rw [hdr, hdr, h]

theorem switched_of_hdrs {b : Block} {s u : State} (h : u.hdrs = s.hdrs) : Switched b s (releaseHeld b (switchHdr b u)) := by
  intro c
  simp only [releaseHeld, switchHdr, hdr_modHdr, hdr_of_hdrs h]
  split <;> rfl

/-- What a block does at its switch, with the staged copies that it adopts. -/
def switchBody (b : Block) (s : State) : State :=
  match b with
  | .pwr => switchEffect b s
  | .tile _ .ftb => switchEffect b s
  | .gwp _ => switchEffect b s
  | .cam _ => switchEffect b s
  | _ => adoptStaged b (switchEffect b s)

theorem switchBlock_eq {b : Block} {s : State} (h : (hdr s b).genPend = true) :
    switchBlock b s = releaseHeld b (switchHdr b (switchBody b s)) :=
  if_neg (by simp [h])

/-! ## What each kind of block adopts -/

/-- The registers and the headers are those of a state. -/
def SameRegs (s u : State) : Prop := u.regs = s.regs ∧ u.hdrs = s.hdrs

theorem adopted_of_sameRegs {b : Block} {s u : State} (h : SameRegs (adoptStaged b s) u) : Adopted b s u ∧ u.hdrs = s.hdrs :=
  ⟨adopted_of_regs h.1, h.2.trans (adoptStaged_hdrs b s)⟩

theorem switchEffect_srv (q : QuadId) (s : State) : SameRegs (adoptStaged (.srv q) s) (switchEffect (.srv q) s) := by
  simp only [switchEffect]
  split
  · exact ⟨rfl, rfl⟩
  · rw [foldl_modQuad_rest]
    exact ⟨rfl, rfl⟩

theorem sameRegs_modMnt {t : TileId} {f : MntSt → MntSt} {s u : State} (h : SameRegs s u) : SameRegs s (modMnt t f u) := h

theorem switchEffect_mnt (t : TileId) (s : State) : SameRegs (adoptStaged (.tile t .mnt) s) (switchEffect (.tile t .mnt) s) := by
  unfold switchEffect
  dsimp only
  split
  · exact ⟨rfl, rfl⟩
  · exact sameRegs_modMnt (sameRegs_modMnt ⟨rfl, rfl⟩)

theorem bitOf_fld (x : Nat) {k : Nat} (h : k < 8) : bitOf (fld x 7 0) k = bitOf x k := by
  have e : x / 2 ^ 0 % 2 ^ (7 + 1 - 0) / 2 ^ k % 2 = x / 2 ^ k % 2 := by interval_cases k <;> omega
  rw [bitOf, bitOf, fld, e]

/-- A block of the kinds that have nothing but registers to switch, or that change nothing there beside the staged copies. -/
theorem switchBody_plain {b : Block} {s : State} (hp : b ≠ .pwr) (hf : ∀ t, b ≠ .tile t .ftb) (hg : ∀ p, b ≠ .gwp p)
    (hc : ∀ h, b ≠ .cam h) (hd : b = .dev → s.rot.mapPending = false) :
    Adopted b s (switchBody b s) ∧ (switchBody b s).hdrs = s.hdrs := by
  have plain (h : SameRegs s (switchEffect b s)) : Adopted b s (adoptStaged b (switchEffect b s)) ∧
      (adoptStaged b (switchEffect b s)).hdrs = s.hdrs := by
    refine ⟨⟨fun a ha => ?_, fun a ha => ?_⟩, (adoptStaged_hdrs ..).trans h.2⟩
    · rw [regAt_adoptStaged, if_pos ha]
      exact regAt_congr h.1 _
    · rw [regAt_adoptStaged, if_neg ha, regAt_congr h.1]
  have twice (h : SameRegs (adoptStaged b s) (switchEffect b s)) : Adopted b s (adoptStaged b (switchEffect b s)) ∧
      (adoptStaged b (switchEffect b s)).hdrs = s.hdrs := by
    obtain ⟨regs, hdrs⟩ := adopted_of_sameRegs h
    exact ⟨adopted_adoptStaged regs, (adoptStaged_hdrs ..).trans hdrs⟩
  cases b with
  | pwr => exact absurd rfl hp
  | gwp p => exact absurd rfl (hg p)
  | cam h => exact absurd rfl (hc h)
  | dev =>
    have same : adoptMap s = s := by simp [adoptMap, hd rfl]
    exact plain (show SameRegs s (adoptMap s) by rw [same]; exact ⟨rfl, rfl⟩)
  | srv q => exact twice (switchEffect_srv q s)
  | tile t u =>
    cases u with
    | ftb => exact absurd rfl (hf t)
    | mnt => exact twice (switchEffect_mnt t s)
    | dmv => exact plain (adoptRoots_regs ..)
    | _ => exact plain ⟨rfl, rfl⟩
  | _ => exact plain ⟨rfl, rfl⟩

theorem switchBody_ftb (t : TileId) (s : State) :
    (switchBody (.tile t .ftb) s).hdrs = s.hdrs ∧ stagedReg (switchBody (.tile t .ftb) s) (.tile t .ftb) Off.ftbGenSwap = 0 ∧
      ∀ k : Fin 8, (switchBody (.tile t .ftb) s).tiles[t].ftb[k] =
        if bitOf (stagedReg s (.tile t .ftb) Off.ftbGenSwap) k.val then swapBanks s.tiles[t].ftb[k] else s.tiles[t].ftb[k] := by
  refine ⟨rfl, regAt_setRegAt_same _ _ _ (by decide), fun k => ?_⟩
  have field : bitOf (fld (stagedReg s (.tile t .ftb) Off.ftbGenSwap) 7 0) k.val =
      bitOf (stagedReg s (.tile t .ftb) Off.ftbGenSwap) k.val := bitOf_fld _ k.isLt
  simp only [switchBody, switchEffect, setRegAt_tiles, modTile_tiles, Fin.getElem_fin, Vector.getElem_set_self, Vector.getElem_ofFn]
  rw [field]

theorem bitOf_live_adopted {b : Block} {s : State} {o n : Nat} (h : bitOf (stagedReg s b o) n = bitOf (reg s b o) n) :
    bitOf (reg (adoptStaged b s) b o) n = bitOf (reg s b o) n := by
  rw [reg, regAt_adoptStaged]
  split
  · exact h
  · rfl

theorem sameRegs_modRot {f : RotSt → RotSt} {s u : State} (h : SameRegs s u) : SameRegs s (modRot f u) := h

theorem sameRegs_modPort {p : PortId} {f : GwpSt → GwpSt} {s u : State} (h : SameRegs s u) : SameRegs s (modPort p f u) := h

theorem sameRegs_adoptRoots {a : XAgent} {s u : State} (h : SameRegs s u) : SameRegs s (adoptRoots a u) :=
  ⟨(adoptRoots_regs ..).1.trans h.1, (adoptRoots_regs ..).2.trans h.2⟩

/-- What a port takes at its switch, before its link follows its configuration. -/
def portTakes (p : PortId) (s : State) : State :=
  let s := adoptStaged (.gwp p) s
  let rdw := (List.range 16).foldl (fun m k =>
    let a := pageBase (.gwp 0) 2 + 16 * k
    fset (fun _ => (0 : DWord)) (fset (fun _ => (0 : DWord)) m (2 * k) (BitVec.ofNat 64 (regAt s (a + Off.gwpRdwBase))))
      (2 * k + 1) (BitVec.ofNat 64 (regAt s (a + Off.gwpRdwSize)))) []
  let s := if s.rot.imageStaged then modRot (fun r => { r with chipId := r.chipStaged, routesSet := true }) s else s
  modPort p (fun g => { g with routes := s.rot.routesStaged, rdw := rdw }) (adoptRoots (.port p) s)

theorem sameRegs_portTakes (p : PortId) (s : State) : SameRegs (adoptStaged (.gwp p) s) (portTakes p s) := by
  unfold portTakes
  dsimp only
  refine sameRegs_modPort (sameRegs_adoptRoots ?_)
  split
  · exact sameRegs_modRot ⟨rfl, rfl⟩
  · exact ⟨rfl, rfl⟩

theorem portTakes_routes (p : PortId) (s : State) : (portTakes p s).ports[p].routes = s.rot.routesStaged := by
  have rot : (adoptStaged (.gwp p) s).rot = s.rot := by rw [adoptStaged_rest]
  simp only [portTakes, modPort_ports, Fin.getElem_fin, Vector.getElem_set_self]
  split <;> simp [rot]

/-- A port whose configuration keeps its link enabled, or disabled, adopts its registers and its routes only. -/
theorem switchBody_gwp {p : PortId} {s : State}
    (h : bitOf (stagedReg s (.gwp p) Off.gwpCfg) 0 = bitOf (reg s (.gwp p) Off.gwpCfg) 0) :
    switchBody (.gwp p) s = portTakes p s := by
  have now : bitOf (reg (portTakes p s) (.gwp p) Off.gwpCfg) 0 = bitOf (reg s (.gwp p) Off.gwpCfg) 0 := by
    rw [reg, regAt_congr (sameRegs_portTakes p s).1]
    exact bitOf_live_adopted h
  have e : switchBody (.gwp p) s =
      let was := bitOf (reg s (.gwp p) Off.gwpCfg) 0
      let now := bitOf (reg (portTakes p s) (.gwp p) Off.gwpCfg) 0
      if now && !was then startTraining p (portTakes p s)
      else if was && !now then modPort p (fun g => { g with link := .disabled }) (settleAll (linkDown p none (portTakes p s)))
      else portTakes p s := rfl
  rw [e, now]
  simp

theorem pumpAll_same {s : State} (h : Safety.noHostRings s) : pumpAll s = s :=
  foldl_same (f := fun s q => pumpQuad q s) (fun q => foldl_same (f := fun s k => pumpFetch q k s) (fun k => by
    simp [pumpFetch, h q k]) _) _

/-- No register of a submission queue is one of a Cammos port. -/
theorem sqRing_not_rws (h : HostId) (q : QuadId) (k : Fin 16) : queAddr (.sq q k) Off.queRingCfg ∉ rwsAddrs (.cam h) := by
  revert h q k
  decide +kernel

theorem switchBody_cam {h : HostId} {s : State}
    (hb : bitOf (stagedReg s (.cam h) Off.camCfg) 0 = bitOf (reg s (.cam h) Off.camCfg) 0) (hr : Safety.noHostRings s) :
    switchBody (.cam h) s = adoptRoots (.cam h) (adoptStaged (.cam h) s) := by
  set u := adoptRoots (.cam h) (adoptStaged (.cam h) s) with hu
  have regs : SameRegs (adoptStaged (.cam h) s) u := sameRegs_adoptRoots ⟨rfl, rfl⟩
  have now : bitOf (reg u (.cam h) Off.camCfg) 0 = bitOf (reg s (.cam h) Off.camCfg) 0 := by
    rw [reg, regAt_congr regs.1]
    exact bitOf_live_adopted hb
  have rings : Safety.noHostRings u := fun q k => by
    have cfg : queReg u (.sq q k) Off.queRingCfg = queReg s (.sq q k) Off.queRingCfg := by
      rw [queReg, regAt_congr regs.1, regAt_adoptStaged, if_neg (sqRing_not_rws h q k)]
      rfl
    rw [← hr q k, ringPort, ringPort, ringLoc, ringLoc, cfg]
  have e : switchBody (.cam h) s =
      let was := bitOf (reg s (.cam h) Off.camCfg) 0
      let now := bitOf (reg u (.cam h) Off.camCfg) 0
      pumpAll (if now && !was then modCam h (fun c => { c with link := .training }) u
        else if was && !now then modCam h (fun c => { c with link := .disabled }) (camLinkDown h false u) else u) := rfl
  rw [e, now]
  simp [pumpAll_same rings]

end Sys2Proof.Machine
end

section
/-! SUPPORT. Markers (R62, R308): a dispatcher places them behind the items of its tiles, a sequencer takes one, and a router sends
it on. -/

namespace Sys2Proof.Machine
open Sys2Proof

/-! ## Masks -/

theorem getLsbD_maskSet {n : Nat} (w : BitVec n) (i : Nat) {j : Nat} (hj : j < n) :
    (maskSet w i).getLsbD j = (w.getLsbD j || decide (i = j)) := by
  rw [maskSet, BitVec.getLsbD_or, BitVec.getLsbD_ofNat]
  simp [hj, Nat.testBit_two_pow]

theorem maskSet_twice {n : Nat} (w : BitVec n) (i : Nat) : maskSet (maskSet w i) i = maskSet w i := by
  simp [maskSet, BitVec.or_assoc]

/-- A mask in which every bit of a list has been set has the bits of the list beside its own. -/
theorem getLsbD_foldl_maskSet {n : Nat} (ks : List (Fin n)) (w : BitVec n) (j : Fin n) :
    (ks.foldl (fun m k => maskSet m k.val) w).getLsbD j.val = (w.getLsbD j.val || decide (j ∈ ks)) := by
  induction ks generalizing w with
  | nil => simp
  | cons k ks ih =>
    rw [List.foldl_cons, ih, getLsbD_maskSet w k.val j.isLt, Bool.or_assoc]
    simp [Fin.ext_iff, eq_comm]

/-! ## A marker is placed -/

/-- A tile with a marker behind every item of its work stream. -/
def withMarker (g : Byte) (x : TileSt) : TileSt := { x with work := { x.work with pkts := x.work.pkts ++ [⟨.marker g, 2⟩] } }

/-- A work stream that keeps all its words in the cuffs, with room for a marker. -/
def Cuffed (q : SpillQ) : Prop := q.lines = 0 ∧ spillWords q ≤ 30

theorem queRoom_of_cuffed {s : State} {t : TileId} (h : Cuffed s.tiles[t].work) : queRoom s (.work t) 2 = true := by
  obtain ⟨lines, words⟩ := h
  have lines : (queOf s (.work t)).lines = 0 := lines
  have words : spillWords (queOf s (.work t)) ≤ 30 := words
  simp only [queRoom, lines, if_true, decide_eq_true_eq]
  omega

/-- Two cuffs hold 32 words. -/
theorem excessLines_cuffed {q : SpillQ} (lines : q.lines = 0) (words : spillWords q ≤ 32) : excessLines q = 0 := by
  simp only [excessLines, tailWords, headWords, lines, if_true]
  omega

theorem spillWords_append (q : SpillQ) (p : QPkt) : spillWords { q with pkts := q.pkts ++ [p] } = spillWords q + p.words := by
  simp only [spillWords, List.map_append, List.sum_append, List.map_cons, List.map_nil, List.sum_singleton]
  omega

/-- The marker stays in the cuffs. -/
theorem placeMarker_cuffed {g : Byte} {t : TileId} {s : State} (h : Cuffed s.tiles[t].work) :
    placeMarker g t s = emitN (.qdsp (quadOf t)) 1 (modTile t (withMarker g) s) := by
  obtain ⟨lines, words⟩ := h
  have fits : excessLines { s.tiles[t].work with pkts := s.tiles[t].work.pkts ++ [⟨.marker g, 2⟩] } = 0 :=
    excessLines_cuffed lines (by rw [spillWords_append]; exact Nat.add_le_add_right words 2)
  have push : pushTile t (.work t) ⟨.marker g, 2⟩ s = modTile t (withMarker g) s := by
    unfold pushTile spillOut
    rw [queOf_setQue_same _ rfl]
    exact if_pos fits
  rw [placeMarker, push]

/-- What the placement of markers in a list of a quadrant's tiles leaves. -/
structure Marked (g : Byte) (q : QuadId) (ks : List (Fin 16)) (s u : State) : Prop where
  rest : u = { s with tiles := u.tiles, hdrs := u.hdrs }
  header : ∀ b, ∃ n, hdr u b = { hdr s b with sent := (hdr s b).sent + n }
  tile : ∀ k : Fin 16, u.tiles[quadTile q k] = if k ∈ ks then withMarker g s.tiles[quadTile q k] else s.tiles[quadTile q k]
  other : ∀ x : TileId, quadOf x ≠ q → u.tiles[x] = s.tiles[x]
  retired : ∀ x : TileId, u.tiles[x].retired = s.tiles[x].retired

theorem quadTile_inj {q : QuadId} {j k : Fin 16} (h : quadTile q j = quadTile q k) : j = k := by
  revert q j k
  decide +kernel

theorem quadOf_quadTile (q : QuadId) (k : Fin 16) : quadOf (quadTile q k) = q := by
  revert q k
  decide +kernel

theorem modTile_tile (t x : TileId) (f : TileSt → TileSt) (s : State) :
    (modTile t f s).tiles[x] = if x = t then f s.tiles[t] else s.tiles[x] := by
  simp only [modTile_tiles, Fin.getElem_fin, Vector.getElem_set, Fin.ext_iff, eq_comm]

theorem marked_foldl (q : QuadId) {ks : List (Fin 16)} (hn : ks.Nodup) {s : State}
    (h : ∀ k ∈ ks, Cuffed s.tiles[quadTile q k].work) :
    Marked s.dev.genTarget q ks s (ks.foldl (fun s k => placeMarker s.dev.genTarget (quadTile q k) s) s) := by
  induction ks generalizing s with
  | nil => exact ⟨rfl, fun b => ⟨0, rfl⟩, fun k => rfl, fun x _ => rfl, fun x => rfl⟩
  | cons k ks ih =>
    obtain ⟨fresh, hn⟩ := List.nodup_cons.mp hn
    rw [List.foldl_cons, placeMarker_cuffed (h k List.mem_cons_self)]
    set v := emitN (.qdsp (quadOf (quadTile q k))) 1 (modTile (quadTile q k) (withMarker s.dev.genTarget) s) with hv
    have tile (x : TileId) : v.tiles[x] = if x = quadTile q k then withMarker s.dev.genTarget s.tiles[quadTile q k] else s.tiles[x] :=
      modTile_tile ..
    have same (j : Fin 16) (hj : j ≠ k) : v.tiles[quadTile q j] = s.tiles[quadTile q j] := by
      rw [tile, if_neg fun e => hj (quadTile_inj e)]
    have step := ih hn (s := v) fun j hj => by
      rw [same j fun e => fresh (e ▸ hj)]
      exact h j (List.mem_cons_of_mem _ hj)
    refine ⟨?_, fun b => ?_, fun j => ?_, fun x hx => ?_, fun x => ?_⟩
    · rw [step.rest]
      rfl
    · obtain ⟨n, hb⟩ := step.header b
      rw [hb, hv, emitN, hdr_modHdr_block]
      split
      · next e =>
        subst e
        exact ⟨1 + n, by rw [← Nat.add_assoc]; rfl⟩
      · exact ⟨n, rfl⟩
    · rw [step.tile]
      by_cases hj : j = k
      · subst hj
        simp [fresh, tile]
      · simp only [List.mem_cons, hj, false_or, same j hj]
        rfl
    · rw [step.other x hx, tile, if_neg]
      rintro rfl
      exact hx (quadOf_quadTile q k)
    · rw [step.retired, tile]
      split
      · next e => rw [e]; rfl
      · rfl

/-! ## The placement is complete -/

/-- The tiles of a quadrant that have no marker yet. -/
def unmarkedTiles (q : QuadId) (s : State) : List (Fin 16) :=
  (List.finRange 16).filter (fun k => !maskHas s.quads[q].marked k.val)

theorem mem_unmarkedTiles {q : QuadId} {s : State} {k : Fin 16} : k ∈ unmarkedTiles q s ↔ maskHas s.quads[q].marked k.val = false := by
  simp [unmarkedTiles]

/-- Markers placed in those tiles. -/
def markersPlaced (q : QuadId) (s : State) : State :=
  (unmarkedTiles q s).foldl (fun s k => placeMarker s.dev.genTarget (quadTile q k) s) s

/-- The dispatcher's own record of a complete placement. -/
def placedQuad (g : Byte) (x : QuadSt) : QuadSt := { x with marked := BitVec.allOnes 16, placed := true, notice := false, stampGen := g }

/-- A quadrant's dispatcher and its queue block switch. -/
def placementDone (q : QuadId) (s : State) : State :=
  s |> modQuad q (placedQuad s.dev.genTarget)
    |> switchHdr (.qdsp q) |> releaseHeld (.qdsp q) |> switchHdr (.qque q) |> releaseHeld (.qque q)

/-- Every tile of the quadrant has a marker then. -/
theorem all_marked (q : QuadId) (s : State) :
    (unmarkedTiles q s).foldl (fun m k => maskSet m k.val) s.quads[q].marked = BitVec.allOnes 16 := by
  refine BitVec.eq_of_getLsbD_eq fun i hi => ?_
  rw [getLsbD_foldl_maskSet _ _ ⟨i, hi⟩, BitVec.getLsbD_allOnes]
  simp only [mem_unmarkedTiles, maskHas, hi, decide_true]
  cases s.quads[q].marked.getLsbD i <;> rfl

/-- What DISPATCHER_MARKER_PLACE does unless something holds it back. -/
def placeBody (q : QuadId) (s : State) : State :=
  let ks := (List.finRange 16).filter (fun k => !s.tiles[quadTile q k].retired && !maskHas s.quads[q].marked k.val &&
    queRoom s (.work (quadTile q k)) 2)
  let s := ks.foldl (fun s k => placeMarker s.dev.genTarget (quadTile q k) s) s
  let s := modQuad q (fun x => { x with marked := ks.foldl (fun m k => maskSet m k.val) x.marked }) s
  settleGen (finishPlacement q s)

theorem exec_dispatcherMarkerPlace {q : QuadId} {s : State} (h : s.quads[q].notice = true) :
    exec (.dispatcherMarkerPlace q) s = .next (unlessHeld (placeBody q) s) :=
  congrArg _ (if_neg (by rw [h]; simp))

theorem modQuad_modQuad (q : QuadId) (f g : QuadSt → QuadSt) (s : State) :
    modQuad q f (modQuad q g s) = modQuad q (fun x => f (g x)) s := by
  simp [modQuad]

theorem finishPlacement_all {q : QuadId} {s : State} (h : s.quads[q].notice = true) :
    finishPlacement q (modQuad q (fun x => { x with marked := BitVec.allOnes 16 }) s) = placementDone q s := by
  have quad := modQuad_quad q q (fun x => { x with marked := BitVec.allOnes 16 }) s
  rw [if_pos rfl] at quad
  rw [finishPlacement, if_pos (by rw [quad]; exact ⟨BitVec.allOnes_and, h⟩), modQuad_modQuad]
  rfl

theorem marked_markersPlaced {q : QuadId} {s : State} (ht : ∀ t : TileId, Cuffed s.tiles[t].work) :
    Marked s.dev.genTarget q (unmarkedTiles q s) s (markersPlaced q s) :=
  marked_foldl q ((List.nodup_finRange 16).filter _) fun _ _ => ht _

theorem modQuad_congr {q : QuadId} {f g : QuadSt → QuadSt} {s : State} (h : f s.quads[q] = g s.quads[q]) :
    modQuad q f s = modQuad q g s := by
  rw [modQuad, modQuad, h]

theorem placeBody_eq {q : QuadId} {s : State} (h : s.quads[q].notice = true)
    (ht : ∀ t : TileId, s.tiles[t].retired = false ∧ Cuffed s.tiles[t].work) :
    placeBody q s = settleGen (placementDone q (markersPlaced q s)) := by
  have ks : (List.finRange 16).filter (fun k => !s.tiles[quadTile q k].retired && !maskHas s.quads[q].marked k.val &&
      queRoom s (.work (quadTile q k)) 2) = unmarkedTiles q s := List.filter_congr fun k _ => by
    rw [(ht _).1, queRoom_of_cuffed (ht _).2]
    simp
  have quads : (markersPlaced q s).quads = s.quads := by rw [(marked_markersPlaced fun t => (ht t).2).rest]
  unfold placeBody
  rw [ks]
  show settleGen (finishPlacement q (modQuad q _ (markersPlaced q s))) = _
  rw [modQuad_congr (g := fun x => { x with marked := BitVec.allOnes 16 }) (by rw [quads, all_marked]),
    finishPlacement_all (by rw [quads]; exact h)]

/-- The headers after a complete placement: the dispatcher's and its queue block's have switched. -/
theorem hdr_placementDone (q : QuadId) (s : State) (b : Block) : hdr (placementDone q s) b =
    if b = .qdsp q ∨ b = .qque q then switchedHdr (hdr s b) else hdr s b := by
  simp only [placementDone, releaseHeld, switchHdr, hdr_modHdr_block, reduceCtorEq, if_false]
  by_cases hd : b = .qdsp q
  · subst hd
    simp [switchedHdr, modQuad, hdr]
  · by_cases hq : b = .qque q
    · subst hq
      simp [switchedHdr, modQuad, hdr]
    · simp [hd, hq, modQuad, hdr]

theorem placementDone_rest (q : QuadId) (s : State) : placementDone q s =
    { s with quads := (modQuad q (placedQuad s.dev.genTarget) s).quads, hdrs := (placementDone q s).hdrs } := rfl

/-- R62 step 4: a marker in every work stream that has none, and the dispatcher's switch; the other blocks have yet to switch. -/
theorem markerPlace {q : QuadId} {s : State} (h : s.quads[q].notice = true)
    (ht : ∀ t : TileId, s.tiles[t].retired = false ∧ Cuffed s.tiles[t].work)
    (hb : ∃ b, b ≠ .qdsp q ∧ b ≠ .qque q ∧ (hdr s b).genPend = true) :
    exec (.dispatcherMarkerPlace q) s = .next (placementDone q (markersPlaced q (Safety.unmarked s))) := by
  obtain ⟨b, nd, nq, pend⟩ := hb
  have m : Marked s.dev.genTarget q _ (Safety.unmarked s) (markersPlaced q (Safety.unmarked s)) :=
    marked_markersPlaced (s := Safety.unmarked s) fun t => (ht t).2
  have body : placeBody q (Safety.unmarked s) = placementDone q (markersPlaced q (Safety.unmarked s)) := by
    refine (placeBody_eq (s := Safety.unmarked s) h ht).trans (settleGen_waits (b := b) (fun t => ?_) ?_)
    · show (markersPlaced q (Safety.unmarked s)).tiles[t].retired = false
      rw [m.retired]
      exact (ht t).1
    · obtain ⟨n, hn⟩ := m.header b
      rw [hdr_placementDone, if_neg (by simp [nd, nq]), hn]
      exact pend
  rw [exec_dispatcherMarkerPlace h, unlessHeld_goes, body]
  · rw [body, placementDone_rest, m.rest]
    rfl
  · rw [body, placementDone_rest, m.rest]
    rfl

/-! ## A sequencer takes a marker -/

/-- A marker reaches a block that has yet to switch. -/
def markerHere (h : Hdr) : Hdr := if h.genPend then { h with markers := 1 } else h

theorem markerHere_twice (h : Hdr) : markerHere (markerHere h) = markerHere h := by
  unfold markerHere
  split <;> simp_all

/-- The head of a work stream that lies in the cuffs, taken. -/
def headTaken (t : TileId) (rest : List QPkt) (s : State) : State :=
  modTile t (fun x => { x with work := { x.work with pkts := rest, hd := 0 } }) s

section
variable {t : TileId} {p : QPkt} {rest : List QPkt} {s : State}

theorem tileHeadBad_cuffs (hl : s.tiles[t].work.lines = 0) (hb : s.tiles[t].work.bad = []) :
    tileHeadBad t (.work t) s = (false, s) := by
  have lines : (queOf s (.work t)).lines = 0 := hl
  have bad : (queOf s (.work t)).bad = [] := hb
  simp [tileHeadBad, headBad, lines, fetchLines, bad]

theorem dropHead_cuffs {q : SpillQ} (hp : q.pkts = p :: rest) (hl : q.lines = 0) (hb : q.bad = []) :
    dropHead q = { q with pkts := rest, hd := 0 } := by
  simp [dropHead, hp, hl, hb]

theorem takeTileHead_cuffs (hp : s.tiles[t].work.pkts = p :: rest) (hl : s.tiles[t].work.lines = 0)
    (hb : s.tiles[t].work.bad = []) : takeTileHead t (.work t) s = headTaken t rest s := by
  have head : dropHead (queOf s (.work t)) = { s.tiles[t].work with pkts := rest, hd := 0 } :=
    dropHead_cuffs hp hl hb
  have lines : (dropHead (queOf s (.work t))).lines = 0 := by rw [head]; exact hl
  unfold takeTileHead takeHead
  simp only [lines, if_true, fetchLines]
  rw [head]
  rfl

end

/-- A marker taken reaches every block of its tile. -/
def markerTaken (t : TileId) (rest : List QPkt) (s : State) : State :=
  (tileUnits.map (Block.tile t)).foldl (fun s b => modHdr b markerHere s) (headTaken t rest s)

theorem markerTaken_rest (t : TileId) (rest : List QPkt) (s : State) :
    markerTaken t rest s = { headTaken t rest s with hdrs := (markerTaken t rest s).hdrs } := foldl_modHdr_rest ..

theorem hdr_markerTaken (t : TileId) (rest : List QPkt) (s : State) (u : TileUnit) :
    hdr (markerTaken t rest s) (.tile t u) = markerHere (hdr s (.tile t u)) := by
  rw [markerTaken, hdr_foldl_modHdr markerHere_twice, if_pos (List.mem_map_of_mem (mem_tileUnits u))]
  rfl

/-- What MARKER_TAKE does with a marker at the head of the work stream, unless something holds it back. -/
def markerBody (t : TileId) (s : State) : State :=
  match tileHeadBad t (.work t) s with
  | (true, s) => rewindHead (.work t) s
  | (false, s) => tileUnits.foldl (fun s u => modHdr (.tile t u) markerHere s) (takeTileHead t (.work t) s)

theorem exec_markerTake {t : TileId} {g : Byte} {n : Nat} {rest : List QPkt} {s : State}
    (hp : s.tiles[t].work.pkts = ⟨.marker g, n⟩ :: rest) (hr : s.tiles[t].seq.running = none) :
    exec (.markerTake t) s = .next (viaPort t (markerBody t) s) := by
  have head : (queOf s (.work t)).pkts = ⟨.marker g, n⟩ :: rest := hp
  show Host.Outcome.next (takeMarker t s) = _
  simp only [takeMarker, head]
  rw [hr]
  rfl

theorem portCount_congr {t : TileId} {s u : State} (h : u.flt = s.flt) : portCount u t = portCount s t := by
  rw [portCount, portCount, h]

theorem markerTake {t : TileId} {g : Byte} {n : Nat} {rest : List QPkt} {s : State}
    (hp : s.tiles[t].work.pkts = ⟨.marker g, n⟩ :: rest) (hl : s.tiles[t].work.lines = 0) (hb : s.tiles[t].work.bad = [])
    (hr : s.tiles[t].seq.running = none) : exec (.markerTake t) s = .next (markerTaken t rest (Safety.unmarked s)) := by
  have body : markerBody t (Safety.unmarked s) = markerTaken t rest (Safety.unmarked s) := by
    unfold markerBody
    rw [tileHeadBad_cuffs (s := Safety.unmarked s) hl hb]
    simp only [takeTileHead_cuffs (s := Safety.unmarked s) hp hl hb]
    rw [markerTaken, List.foldl_map]
  have goes : unlessHeld (markerBody t) s = markerTaken t rest (Safety.unmarked s) := by
    rw [unlessHeld_goes, body]
    · rw [body, markerTaken_rest]
      rfl
    · rw [body, markerTaken_rest]
      rfl
  have count : portCount (unlessHeld (markerBody t) s) t = portCount s t := by
    rw [goes, markerTaken_rest]
    exact portCount_congr rfl
  rw [exec_markerTake hp hr, viaPort_free _ _ _ (.inl count.le), goes]

/-! ## A router sends the marker on -/

/-- A tile's marker reaches a peripheral block that has yet to switch. -/
def markerCame (t : TileId) (h : Hdr) : Hdr := if h.genPend then { h with markers := maskSet h.markers t.val } else h

theorem markerCame_twice (t : TileId) (h : Hdr) : markerCame t (markerCame t h) = markerCame t h := by
  unfold markerCame
  split <;> simp_all [maskSet_twice]

/-- The marker of a tile sent on to the blocks named. -/
def markerSent (t : TileId) (src : Block) (bs : List Block) (s : State) : State :=
  bs.foldl (fun s b => modHdr b (markerCame t) s)
    (modDev (fun d => { d with routerSent := maskSet d.routerSent t.val }) (emitN src bs.length s))

theorem sendMarker_eq {t : TileId} {src : Block} {s : State} (h : maskHas s.dev.routerSent t.val = false) :
    sendMarker src t s = markerSent t src pathBlocks s := by
  unfold sendMarker
  generalize pathBlocks = bs
  exact if_neg (by simp [h])

theorem markerSent_rest (t : TileId) (src : Block) (bs : List Block) (s : State) : markerSent t src bs s =
    { s with dev := { s.dev with routerSent := maskSet s.dev.routerSent t.val }, hdrs := (markerSent t src bs s).hdrs } := by
  unfold markerSent
  rw [foldl_modHdr_rest]
  rfl

theorem hdr_markerSent {t : TileId} {src : Block} {bs : List Block} (hsrc : src ∉ bs) (s : State) (b : Block) :
    hdr (markerSent t src bs s) b = if b ∈ bs then markerCame t (hdr s b)
      else if b = src then { hdr s b with sent := (hdr s b).sent + bs.length } else hdr s b := by
  have sent : hdr (modDev (fun d => { d with routerSent := maskSet d.routerSent t.val }) (emitN src bs.length s)) b =
      if b = src then { hdr s src with sent := (hdr s src).sent + bs.length } else hdr s b :=
    hdr_modHdr_block src b (fun h => { h with sent := h.sent + bs.length }) s
  rw [markerSent, hdr_foldl_modHdr (markerCame_twice t), sent]
  by_cases hb : b ∈ bs
  · have : b ≠ src := fun e => hsrc (e ▸ hb)
    simp [hb, this]
  · by_cases e : b = src
    · subst e
      simp [hb]
    · simp [hb, e]

theorem tile_not_path (t : TileId) (u : TileUnit) : Block.tile t u ∉ pathBlocks := by
  simp [pathBlocks]

theorem markerSend {t : TileId} {s : State} (hp : s.dev.genPend = true) (ht : tileSwitched s t = true)
    (hs : maskHas s.dev.routerSent t.val = false) :
    ∃ u, exec (.routerMarkerSend t) s = .next u ∧ u = { s with dev := u.dev, hdrs := u.hdrs } ∧
      u.dev = { s.dev with routerSent := maskSet s.dev.routerSent t.val } ∧
      (∀ b, hdr u b = if b ∈ pathBlocks ∧ (hdr s b).genPend then { hdr s b with markers := maskSet (hdr s b).markers t.val }
        else if b = .tile t .tl then { hdr s b with sent := (hdr s b).sent + 42 } else hdr s b) := by
  have e : exec (.routerMarkerSend t) s = .next (sendMarker (.tile t .tl) t s) := congrArg _ (if_pos (by simp [hp, ht]))
  refine ⟨markerSent t (.tile t .tl) pathBlocks s, e.trans (congrArg _ (sendMarker_eq hs)), ?_, ?_, fun b => ?_⟩
  · rw [markerSent_rest]
  · rw [markerSent_rest]
  · have len : pathBlocks.length = 42 := by decide
    rw [hdr_markerSent (tile_not_path t .tl), len, markerCame]
    by_cases hb : b ∈ pathBlocks
    · have : b ≠ .tile t .tl := fun e => tile_not_path t .tl (e ▸ hb)
      simp [hb, this]
    · simp [hb]

end Sys2Proof.Machine
end

section
/-! SUPPORT. The switches of a commit (R62): each command's, and what it leaves of the block. -/

namespace Sys2Proof.Machine
open Sys2Proof

/-! ## The commands -/

section
variable {b : Block} {s : State}

theorem tileBlockSwitch {t : TileId} {u : TileUnit} (hp : (hdr s (.tile t u)).genPend = true)
    (hm : (hdr s (.tile t u)).markers ≠ 0) (hi : oldItemsDone s (.tile t u) = true) :
    exec (.tileBlockGenSwitch t u) s = .next (settleGen (tileRoots t (switchBlock (.tile t u) s))) :=
  congrArg _ (if_pos ⟨hp, hm, hi⟩)

theorem oldPathDone_iff : oldPathDone s b = true ↔
    (hdr s b).mode = .off ∨ (hdr s b).mode = .fenced ∨ (hdr s b).genLive ∉ pathGens s b := by
  simp [oldPathDone, or_assoc]

theorem peripheralSwitch (hb : b ∈ pathBlocks) (hp : (hdr s b).genPend = true) (hm : (hdr s b).markers = BitVec.allOnes 64) :
    exec (.peripheralGenSwitch b) s = .next (if oldPathDone s b then settleGen (switchBlock b s) else s) := by
  have guard : (pathBlocks.contains b && (hdr s b).genPend && decide ((hdr s b).markers = BitVec.allOnes 64) && oldPathDone s b) =
      oldPathDone s b := by
    rw [List.contains_iff_mem.mpr hb, hp, decide_eq_true hm]
    rfl
  show Host.Outcome.next (if _ then _ else _) = _
  rw [guard]

theorem systemSwitch (hb : b ∈ systemBlocks) (hp : (hdr s b).genPend = true) (hq : ∀ q : QuadId, s.quads[q].placed = true) :
    exec (.systemBlockGenSwitch b) s = .next (settleGen (switchBlock b s)) := by
  have all : allQuads.all (fun q => s.quads[q].placed) = true := List.all_eq_true.mpr fun q _ => hq q
  refine congrArg _ (if_pos ?_)
  rw [List.contains_iff_mem.mpr hb, hp, all]
  rfl

end

/-! ## What a switch leaves of its block -/

section
variable {b : Block} {s : State} (hp : (hdr s b).genPend = true)
include hp

theorem switchBlock_switched (h : (switchBody b s).hdrs = s.hdrs) : Switched b s (switchBlock b s) := by
  rw [switchBlock_eq hp]
  exact switched_of_hdrs h

theorem switchBlock_adopted (h : Adopted b s (switchBody b s)) : Adopted b s (switchBlock b s) := by
  rw [switchBlock_eq hp]
  exact h

end

/-- A page with nothing but registers to switch. -/
theorem switchBlock_rest {b : Block} {s : State} (hp : (hdr s b).genPend = true) (h : switchEffect b s = s)
    (hb : switchBody b s = adoptStaged b (switchEffect b s)) :
    switchBlock b s = { s with regs := (switchBlock b s).regs, hdrs := (switchBlock b s).hdrs } := by
  rw [switchBlock_eq hp, hb, h, adoptStaged_rest]
  rfl

/-- What the placement of a quadrant's markers leaves. -/
theorem markerPlace_leaves {q : QuadId} {s t : State} (hc : ∀ t : TileId, Cuffed s.tiles[t].work)
    (ht : t = placementDone q (markersPlaced q (Safety.unmarked s))) :
    t = { Safety.unmarked s with tiles := t.tiles, quads := t.quads, hdrs := t.hdrs } ∧
    t.quads[q].placed = true ∧ t.quads[q].notice = false ∧ t.quads[q].stampGen = s.dev.genTarget ∧
    (∀ b, b = .qdsp q ∨ b = .qque q → (hdr t b).genLive = (hdr s b).genStaged ∧ (hdr t b).genPend = false ∧
      (hdr t b).held = [] ∧ (hdr t b).rx = (hdr s b).rx ++ (hdr s b).held) ∧
    (∀ k : Fin 16, t.tiles[quadTile q k] = (if maskHas s.quads[q].marked k.val then s.tiles[quadTile q k]
      else withMarker s.dev.genTarget s.tiles[quadTile q k])) ∧
    (∀ x : TileId, quadOf x ≠ q → t.tiles[x] = s.tiles[x]) := by
  have m : Marked s.dev.genTarget q (unmarkedTiles q s) (Safety.unmarked s) (markersPlaced q (Safety.unmarked s)) :=
    marked_markersPlaced (s := Safety.unmarked s) hc
  generalize hv : markersPlaced q (Safety.unmarked s) = v at ht m
  have gen : v.dev.genTarget = s.dev.genTarget := by rw [m.rest]; rfl
  have quad : t.quads[q] = placedQuad s.dev.genTarget v.quads[q] := by
    rw [ht, placementDone_rest, gen]
    exact (modQuad_quad ..).trans (if_pos rfl)
  have tiles : t.tiles = v.tiles := by rw [ht, placementDone_rest]
  refine ⟨?_, by rw [quad]; rfl, by rw [quad]; rfl, by rw [quad]; rfl, fun b hb => ?_, fun k => ?_, fun x hx => ?_⟩
  · rw [ht, placementDone_rest, m.rest]
  · obtain ⟨n, hn⟩ := m.header b
    rw [ht, hdr_placementDone, if_pos hb, hn]
    exact ⟨rfl, rfl, rfl, rfl⟩
  · rw [tiles, m.tile]
    simp only [mem_unmarkedTiles]
    cases maskHas s.quads[q].marked k.val <;> rfl
  · rw [tiles, m.other x hx]
    rfl

/-- Settles O10: markers placed, taken and sent on, and the switch of every kind of block. -/
theorem generationSwitch : Obligations.GenerationSwitch := by
  unfold Obligations.GenerationSwitch
  refine ⟨⟨fun q s hn _ ht hb => ?place, fun t g n rest s hp hl hb hr => ?take⟩,
    ⟨fun t u s hp hm hi => tileBlockSwitch hp hm hi, fun b s hb hp hm => ⟨fun h => ?due, fun h₁ h₂ h₃ => ?waits⟩,
      fun b s hb hp hq => systemSwitch hb hp hq, fun t s hp ht hs => markerSend hp ht hs, fun b s hp hb => ?pages⟩,
    fun b s hp => ⟨fun hpw hf hg hc hd => ?plain, ?ftb, ?pwr, ?gwp, ?cam⟩⟩
  case place => exact ⟨_, markerPlace hn ht hb, markerPlace_leaves (fun t => (ht t).2) rfl⟩
  case take =>
    refine ⟨_, markerTake hp hl hb hr, ?_, ?_, fun x => hdr_markerTaken t rest _ x⟩
    · rw [markerTaken_rest]
      rfl
    · rw [markerTaken_rest]
      rfl
  case due => rw [peripheralSwitch hb hp hm, if_pos (oldPathDone_iff.mpr h)]
  case waits =>
    rw [peripheralSwitch hb hp hm, if_neg]
    rw [oldPathDone_iff]
    simp [h₁, h₂, h₃]
  case pages =>
    simp only [List.mem_cons, List.not_mem_nil, or_false] at hb
    refine ⟨_, rfl, switchBlock_rest hp ?_ ?_, ?_⟩
    · rcases hb with rfl | rfl | rfl | rfl <;> rfl
    · rcases hb with rfl | rfl | rfl | rfl <;> rfl
    · have sw : Switched b s (switchBlock b s) := switchBlock_switched hp (by
        rcases hb with rfl | rfl | rfl | rfl <;> exact adoptStaged_hdrs ..)
      rw [sw b, if_pos rfl]
      rfl
  case plain =>
    have h := switchBody_plain hpw hf hg hc hd
    exact ⟨switchBlock_switched hp h.2, switchBlock_adopted hp h.1⟩
  case ftb =>
    rintro t rfl
    obtain ⟨hdrs, swap, banks⟩ := switchBody_ftb t s
    exact ⟨switchBlock_switched hp hdrs, by rw [switchBlock_eq hp]; exact swap, by rw [switchBlock_eq hp]; exact banks⟩
  case pwr =>
    rintro rfl
    exact ⟨switchBlock_switched hp rfl, by rw [switchBlock_eq hp]; rfl, by rw [switchBlock_eq hp]; rfl⟩
  case gwp =>
    rintro p rfl h
    have e := switchBody_gwp h
    have regs := adopted_of_sameRegs (sameRegs_portTakes p s)
    rw [← e] at regs
    exact ⟨switchBlock_switched hp regs.2, switchBlock_adopted hp regs.1, by rw [switchBlock_eq hp, e]; exact portTakes_routes p s⟩
  case cam =>
    rintro h rfl hb hr
    have regs := adopted_of_sameRegs (sameRegs_adoptRoots (a := .cam h) (u := adoptStaged (.cam h) s) ⟨rfl, rfl⟩)
    rw [← switchBody_cam hb hr] at regs
    exact ⟨switchBlock_switched hp regs.2, switchBlock_adopted hp regs.1⟩

end Sys2Proof.Machine
end

section
/-! SUPPORT. A full reset (R65 to R71): what it takes over from the state before, and that start-up, which goes on from the state that
it leaves, keeps what it has reset. -/

namespace Sys2Proof.Machine
open Sys2Proof

/-! ## Before the reset -/

/-- The parts of a state that a full reset carries over, or names in what it leaves. -/
structure ResetInput where
  safe : Bool
  fatalRec : Option (FMsg × Nat)
  lc : Nat
  epochs : Vector Word 4
  repair : List (TileId × Byte) × List TileId × List (StackId × BitVec 5)
  lostClks : List RefClk
  badSlots : BitVec 2
  now : MeterNv
  nv : MeterNv
  pending : List Instr
  tiles : Vector TileSt 64
  masters : Vector MasterSt 3
  dev : DevSt

def resetInput (s : State) : ResetInput :=
  ⟨s.flt.safe, s.flt.fatalRec, s.rot.lc, s.rot.epochs, (s.rot.repairCols, s.rot.repairTiles, s.rot.repairChans), s.rot.lostClks,
    s.rot.badSlots, s.mtr.now, s.mtr.nv, s.pending, s.tiles, s.masters, s.dev⟩

/-- Steps that keep it, in turn. -/
theorem resetInput_foldl {α : Type} {f : State → α → State} (h : ∀ s a, resetInput (f s a) = resetInput s) (l : List α) (s : State) :
    resetInput (l.foldl f s) = resetInput s := by
  induction l generalizing s with
  | nil => rfl
  | cons a l ih => rw [List.foldl_cons, ih, h]

section
variable (s : State)

theorem resetInput_sendMark (kind : Nat) (p : Fin 4) (job : BitVec 6) (q : BitVec 4) :
    resetInput (sendMark kind p job q s) = resetInput s := by
  unfold sendMark
  dsimp only
  split
  · rfl
  · split <;> rfl

/-- The root of trust keeps what a reset carries over of it. -/
def sameSecrets (r r' : RotSt) : Prop :=
  r'.lc = r.lc ∧ r'.epochs = r.epochs ∧ r'.repairCols = r.repairCols ∧ r'.repairTiles = r.repairTiles ∧
    r'.repairChans = r.repairChans ∧ r'.lostClks = r.lostClks ∧ r'.badSlots = r.badSlots

theorem resetInput_modRot {f : RotSt → RotSt} (h : ∀ r, sameSecrets r (f r)) : resetInput (modRot f s) = resetInput s := by
  obtain ⟨lc, epochs, cols, tiles, chans, clks, slots⟩ := h s.rot
  simp [resetInput, lc, epochs, cols, tiles, chans, clks, slots]

theorem resetInput_auditAppend (event who status kslot : Nat) (digest : List Byte) (sign : Bool) :
    resetInput (auditAppend event who status kslot digest sign s) = resetInput s :=
  resetInput_modRot s fun _ => ⟨rfl, rfl, rfl, rfl, rfl, rfl, rfl⟩

theorem resetInput_auditEvent (event : Nat) (sign : Bool) : resetInput (auditEvent event sign s) = resetInput s :=
  (resetInput_auditAppend ..).trans rfl

theorem resetInput_leaveSector (sec : Nat) : resetInput (leaveSector sec s) = resetInput s :=
  resetInput_foldl (f := fun s cw => modStack _ _ (markCw s cw)) (fun _ _ => rfl) _ _

theorem resetInput_injectHbm (k : StackId) (sec : Nat) : resetInput (injectHbm k sec s) = resetInput s := by
  unfold injectHbm
  split <;> rfl

theorem resetInput_writeBackLine (k : StackId) (l : CacheLine) : resetInput (writeBackLine k l s) = resetInput s := by
  refine resetInput_foldl (fun s i => ?_) _ _
  split
  · exact (resetInput_injectHbm ..).trans rfl
  · exact resetInput_leaveSector ..

theorem resetInput_loseLines (k : StackId) : resetInput (loseLines k s) = resetInput s := by
  refine resetInput_foldl (fun s l => resetInput_foldl (fun s i => ?_) _ _) _ _
  split
  · rfl
  · exact resetInput_leaveSector ..

theorem resetInput_writeBackAll : resetInput (writeBackAll s).2 = resetInput s := by
  have step (lost : Nat) (s : State) (k : StackId) : resetInput (if bitOf lost k.val then loseLines k s
      else s.hbmStacks[k].cache.foldl (fun s l => writeBackLine k l s) s) = resetInput s := by
    split
    · exact resetInput_loseLines ..
    · exact resetInput_foldl (fun _ _ => resetInput_writeBackLine ..) _ _
  exact (resetInput_foldl (step _) _ _).trans rfl

end

/-! ## What a full reset leaves -/

theorem resetFrom_congr {cause : Nat} {retain : Bool} {s t u : State} (h : resetInput u = resetInput s)
    (hu : Safety.resetFrom cause retain u t) : Safety.resetFrom cause retain s t := by
  simp only [resetInput, ResetInput.mk.injEq, Prod.mk.injEq] at h
  obtain ⟨safe, fatalRec, lc, epochs, ⟨cols, tiles_, chans⟩, -, -, now, nv, pending, tiles, -, -⟩ := h
  simp only [Safety.resetFrom, ← safe, ← fatalRec, ← lc, ← epochs, ← cols, ← tiles_, ← chans, ← now, ← nv, ← pending, ← tiles]
  exact hu

/-- What start-up does not touch: what the reset has left, the masters' answers, RESET_N, and that no command waits. -/
def ResetKept (cause : Nat) (retain : Bool) (s t : State) : Prop :=
  Safety.resetFrom cause retain s t ∧ t.dev.resetLow = s.dev.resetLow ∧ t.masters.map (·.status) = s.masters.map (·.status) ∧
    t.rot.waiting = 0

theorem resetKept_congr {cause : Nat} {retain : Bool} {s t u : State} (h : resetInput u = resetInput s)
    (hu : ResetKept cause retain u t) : ResetKept cause retain s t := by
  obtain ⟨from_, low, masters, waiting⟩ := hu
  have dev : u.dev = s.dev := congrArg ResetInput.dev h
  have ms : u.masters = s.masters := congrArg ResetInput.masters h
  exact ⟨resetFrom_congr h from_, by rw [low, dev], by rw [masters, ms], waiting⟩

theorem resetKept_resetState (cause : Nat) (retain : Bool) (lost : Nat) (s : State) :
    ResetKept cause retain s (resetState cause retain lost s) := by
  have repair (x : List (TileId × Byte) × List TileId × List (StackId × BitVec 5)) : x ∈ [x, ([], [], [])] := List.mem_cons_self
  refine ⟨⟨rfl, rfl, rfl, rfl, rfl, rfl, rfl, rfl, rfl, rfl, rfl, rfl, rfl, rfl, rfl, rfl, rfl, rfl, rfl, rfl, rfl, rfl, rfl, repair _,
    fun x => ?_⟩, rfl, ?_, rfl⟩
  · have tile : (resetState cause retain lost s).tiles[x] = tileAfterReset s.rot x s.tiles[x] := by simp [resetState]
    rw [tile]
    exact ⟨rfl, rfl, rfl, rfl, rfl, rfl⟩
  · simp [resetState, Function.comp_def]

/-! ## Start-up goes on -/

section
variable {cause : Nat} {retain : Bool} {s t : State}

/-- The root of trust keeps what the reset has left of it. -/
def sameRot (r r' : RotSt) : Prop :=
  r'.map = r.map ∧ r'.enc = r.enc ∧ r'.factory = r.factory ∧ r'.lc = r.lc ∧ r'.epochs = r.epochs ∧
    r'.repairCols = r.repairCols ∧ r'.repairTiles = r.repairTiles ∧ r'.repairChans = r.repairChans ∧
    r'.waiting = r.waiting

theorem resetKept_modRot {f : RotSt → RotSt} (hf : ∀ r, sameRot r (f r)) (h : ResetKept cause retain s t) :
    ResetKept cause retain s (modRot f t) := by
  obtain ⟨map, enc, factory, lc, epochs, cols, tiles, chans, waiting⟩ := hf t.rot
  simp only [ResetKept, Safety.resetFrom, regsAfterReset] at h
  simpa only [ResetKept, Safety.resetFrom, regsAfterReset, modRot, map, enc, factory, lc, epochs, cols, tiles, chans, waiting] using h

theorem resetKept_free (h : ResetKept cause retain s t) : ResetKept cause retain s (takeFree t).2 := h

theorem resetKept_auditAppend (h : ResetKept cause retain s t) (event who status kslot : Nat) (digest : List Byte) (sign : Bool) :
    ResetKept cause retain s (auditAppend event who status kslot digest sign t) :=
  resetKept_modRot (fun _ => ⟨rfl, rfl, rfl, rfl, rfl, rfl, rfl, rfl, rfl⟩) h

theorem resetKept_auditEvent (h : ResetKept cause retain s t) (event : Nat) (sign : Bool) :
    ResetKept cause retain s (auditEvent event sign t) :=
  resetKept_auditAppend (resetKept_free h) ..

theorem resetKept_newChallenge (h : ResetKept cause retain s t) : ResetKept cause retain s (newChallenge t) :=
  resetKept_modRot (t := (takeFree t).2) (fun _ => ⟨rfl, rfl, rfl, rfl, rfl, rfl, rfl, rfl, rfl⟩) h

theorem resetKept_clocksBack (h : ResetKept cause retain s t) : ResetKept cause retain s (clocksBack t) := by
  unfold clocksBack
  split
  · exact h
  · exact resetKept_modRot (t := (takeFree t).2) (fun _ => ⟨rfl, rfl, rfl, rfl, rfl, rfl, rfl, rfl, rfl⟩) h

/-- An empty field-repair record in place of one that fails authentication. -/
theorem resetKept_readRepair (h : ResetKept cause retain s t) : ResetKept cause retain s (readRepair t) := by
  unfold readRepair
  dsimp only
  split
  · exact h
  · refine resetKept_auditAppend ?_ ..
    obtain ⟨⟨items, owner, cause, retained, ready, fromSafe, -, safe, log, inflight, fatal, map, enc, factory, lc, epochs, now, nv,
      quads, ports, cams, fabReqs, pending, -, tile⟩, low, masters, waiting⟩ := h
    refine ⟨⟨items, owner, cause, retained, ready, fromSafe, rfl, safe, log, inflight, fatal, map, enc, factory, lc, epochs, now, nv,
      quads, ports, cams, fabReqs, pending, List.mem_cons_of_mem _ List.mem_cons_self, fun x => ?_⟩, low, masters, waiting⟩
    obtain ⟨-, -, -, amem, pmem, wmem⟩ := tile x
    simp only [Fin.getElem_fin, Vector.getElem_ofFn]
    exact ⟨rfl, rfl, rfl, amem, pmem, wmem⟩

theorem resetKept_haltBoot (h : ResetKept cause retain s t) : ResetKept cause retain s (haltBoot t) := by
  unfold haltBoot modDev
  dsimp only
  split <;> exact h

theorem resetKept_bootRails (h : ResetKept cause retain s t) : ResetKept cause retain s (bootRails t) := by
  refine List.foldlRecOn (motive := ResetKept cause retain s) _ _ h fun u hu q _ => ?_
  exact List.foldlRecOn (motive := ResetKept cause retain s) _ _ hu fun v hv m _ => hv

/-- Steps 4 and 5 of R495 where no new epochs are drawn. -/
def bootFrom (s : State) : State :=
  let s := readRepair (auditEvent evBoot false (newChallenge s))
  if s.rot.lostClks.contains .hbm || s.rot.lostClks.contains .pwr then haltBoot s
  else bootRails (modDev (fun d => { d with phase := 2 }) s)

/-- After a reset with the power on the root of trust boots from a slot that verifies, if there is one. -/
theorem startBoot_eq (h : t.dev.cause ≠ 0) : startBoot t =
    if slotFails t t.dev.slotB && slotFails t (!t.dev.slotB) then modDev (fun d => { d with halt := true, code := eDenied }) t
    else bootFrom (if slotFails t t.dev.slotB then modDev (fun d => { d with slotB := !d.slotB }) t else t) := by
  have warm (u : State) (hu : u.dev.cause ≠ 0) : (if (newChallenge u).dev.cause = 0 then drawEpochs (newChallenge u) else newChallenge u) =
    newChallenge u := if_neg hu
  unfold startBoot
  split
  · rfl
  · dsimp only
    rw [warm]
    · rfl
    · split <;> exact h

theorem resetKept_startBoot (hc : cause ≠ 0) (h : ResetKept cause retain s t) : ResetKept cause retain s (startBoot t) := by
  have warm : t.dev.cause ≠ 0 := by rw [h.1.2.2.1]; exact hc
  have booted (u : State) (hu : ResetKept cause retain s u) : ResetKept cause retain s (bootFrom u) := by
    unfold bootFrom
    dsimp only
    have rec_ := resetKept_readRepair (resetKept_auditEvent (resetKept_newChallenge hu) evBoot false)
    split
    · exact resetKept_haltBoot rec_
    · exact resetKept_bootRails rec_
  rw [startBoot_eq warm]
  split
  · exact h
  · split
    · exact booted _ h
    · exact booted _ h

theorem lostClks_of_input {u v : State} (h : resetInput u = resetInput v) : u.rot.lostClks = v.rot.lostClks :=
  congrArg ResetInput.lostClks h

theorem dev_of_input {u v : State} (h : resetInput u = resetInput v) : u.dev = v.dev := congrArg ResetInput.dev h

theorem auditAppend_lostClks (event who status kslot : Nat) (digest : List Byte) (sign : Bool) (u : State) :
    (auditAppend event who status kslot digest sign u).rot.lostClks = u.rot.lostClks :=
  lostClks_of_input (resetInput_auditAppend ..)

theorem auditAppend_dev (event who status kslot : Nat) (digest : List Byte) (sign : Bool) (u : State) :
    (auditAppend event who status kslot digest sign u).dev = u.dev :=
  dev_of_input (resetInput_auditAppend ..)

/-- Start-up reads the record and starts the log, and changes neither the clocks nor the device. -/
theorem readRepair_rest (u : State) : (readRepair u).rot.lostClks = u.rot.lostClks ∧ (readRepair u).dev = u.dev := by
  unfold readRepair
  dsimp only
  split
  · exact ⟨rfl, rfl⟩
  · rw [auditAppend_lostClks, auditAppend_dev]
    exact ⟨rfl, rfl⟩

theorem bootRails_dev (u : State) : (bootRails u).dev = u.dev := by
  refine List.foldlRecOn (motive := fun v : State => v.dev = u.dev) _ _ rfl fun v hv q _ => ?_
  exact List.foldlRecOn (motive := fun w : State => w.dev = u.dev) _ _ hv fun w hw m _ => hw

/-- With every clock and a slot that verifies start-up goes on to the rails. -/
theorem startBoot_runs (warm : t.dev.cause ≠ 0) (slot : slotFails t t.dev.slotB = false) (clks : t.rot.lostClks = [])
    (run : t.dev.halt = false) : (startBoot t).dev.halt = false := by
  have before : resetInput (auditEvent evBoot false (newChallenge t)) = resetInput t :=
    (resetInput_auditEvent ..).trans (resetInput_modRot (takeFree t).2 fun _ => ⟨rfl, rfl, rfl, rfl, rfl, rfl, rfl⟩)
  obtain ⟨lost, dev⟩ := readRepair_rest (auditEvent evBoot false (newChallenge t))
  have lost : (readRepair (auditEvent evBoot false (newChallenge t))).rot.lostClks = [] :=
    (lost.trans (congrArg ResetInput.lostClks before)).trans clks
  have dev : (readRepair (auditEvent evBoot false (newChallenge t))).dev = t.dev := dev.trans (congrArg ResetInput.dev before)
  rw [startBoot_eq warm, slot, Bool.false_and, if_neg nofun, if_neg nofun, bootFrom]
  simp only [lost, List.contains_nil, Bool.or_self, Bool.false_eq_true, if_false, bootRails_dev, modDev_dev, dev, run]

end

/-! ## The reset as a whole -/

/-- A full reset is its new state, made of a state with the same input, and start-up unless RESET_N is low. -/
theorem fullReset_eq (cause : Nat) (retain : Bool) (s : State) : ∃ u lost, resetInput u = resetInput s ∧ fullReset cause retain s =
    if s.dev.resetLow then resetState cause retain lost u else startBoot (clocksBack (resetState cause retain lost u)) := by
  let v := auditEvent evReset false (sendMark markReset 0 0 0 s)
  have hv : resetInput v = resetInput s := (resetInput_auditEvent ..).trans (resetInput_sendMark ..)
  have low (lost : Nat) (u : State) (hu : resetInput u = resetInput s) : (resetState cause retain lost u).dev.resetLow = s.dev.resetLow :=
    congrArg (fun x : ResetInput => x.dev.resetLow) hu
  cases retain with
  | true =>
    have hu := (resetInput_writeBackAll v).trans hv
    refine ⟨(writeBackAll v).2, (writeBackAll v).1, hu, ?_⟩
    rw [← low _ _ hu]
    rfl
  | false =>
    refine ⟨v, if v.rot.lostClks.contains .hbm then 0xFF else 0, hv, ?_⟩
    rw [← low _ _ hv]
    rfl

theorem resetKept_fullReset {cause : Nat} (hc : cause ≠ 0) (retain : Bool) (s : State) :
    ResetKept cause retain s (fullReset cause retain s) := by
  obtain ⟨u, lost, hu, e⟩ := fullReset_eq cause retain s
  have new := resetKept_congr hu (resetKept_resetState cause retain lost u)
  rw [e]
  split
  · exact new
  · exact resetKept_startBoot hc (resetKept_clocksBack new)

/-- With the clocks there and a slot that verifies SAFE_N is high after a reset (R519). -/
theorem safeN_fullReset {cause : Nat} (hc : cause ≠ 0) (retain : Bool) {s : State} (clks : s.rot.lostClks = [])
    (slot : slotFails s s.dev.slotB = false) : safeN (fullReset cause retain s) = true := by
  have safe : (fullReset cause retain s).flt.safe = false := by
    obtain ⟨⟨_, _, _, _, _, _, _, safe, _⟩, _⟩ := resetKept_fullReset hc retain s
    exact safe
  obtain ⟨u, lost, hu, e⟩ := fullReset_eq cause retain s
  have clks : (resetState cause retain lost u).rot.lostClks = [] := (congrArg ResetInput.lostClks hu).trans clks
  have slot : slotFails (resetState cause retain lost u) (resetState cause retain lost u).dev.slotB = false := by
    have bad : u.rot.badSlots = s.rot.badSlots := congrArg ResetInput.badSlots hu
    have dev : u.dev = s.dev := congrArg ResetInput.dev hu
    show maskHas u.rot.badSlots (b2n u.dev.slotB) = false
    rw [bad, dev]
    exact slot
  have back : clocksBack (resetState cause retain lost u) = resetState cause retain lost u := by simp [clocksBack, clks]
  have halt : (fullReset cause retain s).dev.halt = false := by
    rw [e]
    split
    · rfl
    · rw [back]
      exact startBoot_runs hc slot clks rfl
  rw [safeN, safe, halt]
  rfl

end Sys2Proof.Machine
end

section
/-! SUPPORT. The full resets by DEV_RESET and by RESET_N (R65, R69). -/

namespace Sys2Proof.Machine
open Sys2Proof

section
variable {m : Master} {v : Nat} {s : State}

theorem writeAt_devReset (own : ownerId s = (masterIdx m).val) (hz : Nat.land v (mustBeZero .own Off.devReset) = 0) :
    writeAt (masterIdx m) 4 (pageBase .own 0 + Off.devReset) v s = resetWrite v s :=
  writeAt_own (r := ⟨Off.devReset, 1, 4, false, .wo, 0x0, 0x0⟩) (by decide) rfl (by decide) (mayWrite_owner own (firstKind_ne .own).1)
    (by decide) rfl (by decide) hz rfl

theorem writeCmd_devReset (run : ctlRuns s = true)
    (h : writeAt (masterIdx m) 4 (pageBase .own 0 + Off.devReset) v s = ok s) :
    writeCmd m 4 (pageBase .own 0 + Off.devReset) v s = fullReset 2 (bitOf v 0) (answered (masterIdx m) stDone 0 s) := by
  have done : stDone ≠ eDenied := by decide
  simp [writeCmd, ctlWrite, afterWrite, run, h, ok, countDenied, done]

end

/-- The two words that ask for a reset (R69). -/
theorem reset_words {v : Word} (hv : v = 0x3C00 ∨ v = 0x3C01) :
    Nat.land v.toNat (mustBeZero .own Off.devReset) = 0 ∧ fld v.toNat 15 8 = 0x3C := by
  rcases hv with rfl | rfl <;> decide

/-- Settles O11: both resets are `fullReset`, after the answer of the write, or with RESET_N low. -/
theorem fullReset_leaves : Obligations.FullReset := by
  unfold Obligations.FullReset
  refine ⟨fun m v s ⟨run, own, _⟩ ready hv => ?word, fun retain s powered low => ?pin, fun m v s ⟨run, own, _⟩ ready hv => ?denied⟩
  case denied =>
    obtain ⟨zero, -⟩ := reset_words hv
    have refused : writeAt (masterIdx m) 4 (pageBase .own 0 + Off.devReset) v.toNat s = denied s := by
      rw [writeAt_devReset own zero, resetWrite, if_pos (.inr (by rw [resetRuns, ready]; rfl))]
    exact congrArg _ (writeCmd_denied run refused)
  case word =>
    obtain ⟨zero, key⟩ := reset_words hv
    have goes : writeAt (masterIdx m) 4 (pageBase .own 0 + Off.devReset) v.toNat s = ok s := by
      rw [writeAt_devReset own zero, resetWrite, if_neg]
      simp [key, resetRuns, ready]
    have done : exec (.devReset m v) s = .next (fullReset 2 (bitOf v.toNat 0) (answered (masterIdx m) stDone 0 s)) :=
      congrArg Host.Outcome.next (writeCmd_devReset run goes)
    obtain ⟨kept, low, status, -⟩ :=
      resetKept_fullReset (cause := 2) (by decide) (bitOf v.toNat 0) (answered (masterIdx m) stDone 0 s)
    refine ⟨_, done, kept, low.trans ?_, ?_, fun clks slot => safeN_fullReset (by decide) _ clks slot⟩
    · obtain ⟨-, high⟩ := Bool.and_eq_true_iff.mp run
      exact (Bool.not_eq_true' _).mp high
    · have at_m := congrArg (fun x : Vector Nat 3 => x[masterIdx m]) status
      simpa [answered, modMaster] using at_m
  case pin =>
    have goes : exec (.resetNAssert retain) s = .next (fullReset 1 retain (modDev (fun d => { d with resetLow := true }) s)) :=
      congrArg Host.Outcome.next (if_neg (by simp [powered, low]))
    obtain ⟨kept, -, -⟩ := resetKept_fullReset (cause := 1) (by decide) retain (modDev (fun d => { d with resetLow := true }) s)
    obtain ⟨u, lost, hu, e⟩ := fullReset_eq 1 retain (modDev (fun d => { d with resetLow := true }) s)
    have e : fullReset 1 retain (modDev (fun d => { d with resetLow := true }) s) = resetState 1 retain lost u := e.trans (if_pos rfl)
    have repair : (u.rot.repairCols, u.rot.repairTiles, u.rot.repairChans) = (s.rot.repairCols, s.rot.repairTiles, s.rot.repairChans) :=
      congrArg ResetInput.repair hu
    simp only [Prod.mk.injEq] at repair
    obtain ⟨cols, tiles, -⟩ := repair
    rw [e] at goes kept
    exact ⟨_, goes, kept, congrArg (fun x : ResetInput => x.dev.resetLow) hu, rfl, tiles, cols, rfl⟩

end Sys2Proof.Machine
end

section
/-! SUPPORT. Commands of the root of trust (R473 to R476): one that passes its checks runs to its answer, and no command of a reserved
opcode is taken after it where none waits. -/

namespace Sys2Proof.Machine
open Sys2Proof

/-! ## Waiting commands -/

/-- Every command that waits is of an opcode of R474. -/
def Known (s : State) : Prop := ∀ k : Fin 3, maskHas s.rot.waiting k.val = true → opcKnown (cmdOf s k).opc = true

theorem cmdOf_congr {s u : State} (h : u.rot.slots = s.rot.slots) (k : Fin 3) : cmdOf u k = cmdOf s k := by
  have words : slotWord u k = slotWord s k := funext fun j => by rw [slotWord, slotWord, h]
  rw [cmdOf, cmdOf, words]

theorem known_congr {s u : State} (hw : u.rot.waiting = s.rot.waiting) (hs : u.rot.slots = s.rot.slots) (h : Known s) : Known u := by
  intro k hk
  rw [cmdOf_congr hs]
  exact h k (hw ▸ hk)

theorem known_of_none {s : State} (h : s.rot.waiting = 0) : Known s := by
  intro k hk
  rw [h] at hk
  simp [maskHas] at hk

/-- Without a command of a reserved opcode that waits, none is taken. -/
theorem takeReserved_known {s : State} (h : Known s) : takeReserved s = s := by
  refine foldl_same (f := fun s m => if rotTurn s m && !opcKnown (cmdOf s m).opc then
    respond m (cmdOf s m).opc eFormat [] (auditCmd (cmdOf s m) eFormat false
      (modRot (fun r => { r with waiting := maskClear r.waiting m.val }) s)) else s) (fun k => if_neg ?_) _
  intro turn
  obtain ⟨turn, reserved⟩ := Bool.and_eq_true_iff.mp turn
  simp only [rotTurn, Bool.and_eq_true] at turn
  rw [h k turn.1.2] at reserved
  exact absurd reserved (by decide)

/-! ## Answers -/

section
variable (h : HostId) (v : Nat) (s : State)

theorem camFlush_rot : (camFlush h s).rot = s.rot := by
  unfold camFlush
  dsimp only
  split <;> rfl

theorem irqTo_rot : (irqTo h v s).rot = s.rot := by
  unfold irqTo
  split
  · rfl
  · dsimp only
    split
    · exact camFlush_rot ..
    · rfl

theorem irqSystem_rot : (irqSystem v s).rot = s.rot := by
  unfold irqSystem
  split
  · exact irqTo_rot ..
  · exact irqTo_rot ..
  · rw [irqTo_rot, irqTo_rot]

end

theorem modRot_waiting {f : RotSt → RotSt} {s : State} (hf : ∀ r, (f r).waiting = r.waiting ∧ (f r).slots = r.slots) :
    (modRot f s).rot.waiting = s.rot.waiting ∧ (modRot f s).rot.slots = s.rot.slots := hf _

theorem auditCmd_waiting (c : RotCmd) (status : Nat) (sign : Bool) (s : State) :
    (auditCmd c status sign s).rot.waiting = s.rot.waiting ∧ (auditCmd c status sign s).rot.slots = s.rot.slots := by
  unfold auditCmd
  split
  · exact modRot_waiting (s := (takeFree s).2) fun _ => ⟨rfl, rfl⟩
  · exact ⟨rfl, rfl⟩

/-- An answer leaves what waits. -/
theorem known_cmdAnswer {m : Master} {opc status : Nat} {c : RotCmd} {data : List Byte} {s : State} (h : Known s) :
    Known (Safety.cmdAnswer m opc c status data s) := by
  obtain ⟨waiting, slots⟩ := auditCmd_waiting c status false s
  refine known_congr ?_ ?_ h
  · rw [Safety.cmdAnswer, respond, irqSystem_rot]
    exact waiting
  · rw [Safety.cmdAnswer, respond, irqSystem_rot]
    exact slots

theorem maskHas_maskClear {n : Nat} (w : BitVec n) (i : Nat) {j : Nat} (hj : j < n) :
    maskHas (maskClear w i) j = (maskHas w j && decide (i ≠ j)) := by
  rw [maskHas, maskClear, BitVec.getLsbD_and, BitVec.getLsbD_not, BitVec.getLsbD_ofNat]
  simp [hj, Nat.testBit_two_pow, maskHas]

theorem known_cmdTaken {m : Master} {s : State} (h : Safety.restKnown s m) : Known (Safety.cmdTaken m s) := by
  intro k hk
  have waits : maskHas (maskClear s.rot.waiting (masterIdx m).val) k.val = true := hk
  have still : maskHas s.rot.waiting k.val = true ∧ k ≠ masterIdx m := by
    rw [maskHas_maskClear _ _ k.isLt] at waits
    obtain ⟨waits, other⟩ := Bool.and_eq_true_iff.mp waits
    exact ⟨waits, fun e => of_decide_eq_true other (congrArg Fin.val e.symm)⟩
  exact (congrArg (fun c => opcKnown (RotCmd.opc c)) (cmdOf_congr rfl k)).trans (h k still.2 still.1)

/-! ## A signed command runs -/

section
variable {m : Master} {opc : Nat} {roles : List Nat} {c : RotCmd} {s : State} {bad : RotCmd → Bool} {act : RotAct}

/-- The checks of R475 passed, the command acts on the state in which it has been taken. -/
theorem checked_signed (h : Safety.cmdSigned s m opc roles c) (hb : bad c = false) :
    checked roles bad false true act c (Safety.cmdOut m s) = act c (Safety.cmdTaken m s) := by
  obtain ⟨-, -, -, format, signed, challenge, key, lc⟩ := h
  have signed : decide (c.role ≠ roleUnsigned) = true := decide_eq_true signed
  have challenge : decide (c.challenge ≠ (Safety.cmdOut m s).rot.challenge.toNat) = false := decide_eq_false (not_not_intro challenge)
  have key : keyHeld (Safety.cmdOut m s) c = true := key
  have lc : lcAccepts (newChallenge (Safety.cmdOut m s)) c = true := lc
  simp only [checked, format, hb, signed, challenge, key, lc, Bool.or_self, Bool.not_true, Bool.and_false, Bool.false_and,
    Bool.false_eq_true, if_false, if_true]
  rfl

theorem runCmd_signed {after : RotCmd → State → State} (h : Safety.cmdSigned s m opc roles c) (hb : bad c = false)
    {status : Nat} {data : List Byte} {u : State} (ha : act c (Safety.cmdTaken m s) = ((status, data), u)) :
    runCmd opc (checked roles bad false true act) false after (masterIdx m) s =
      takeReserved (if status = stDone then after c (Safety.cmdAnswer m opc c status data u)
        else Safety.cmdAnswer m opc c status data u) := by
  have run := (checked_signed h hb).trans ha
  obtain ⟨turn, -, rfl, -⟩ := h
  unfold Safety.cmdOut at run
  simp only [runCmd, turn, Bool.not_true, Bool.false_eq_true, if_false, run, Bool.false_and]
  rfl

end

/-! ## What stands for the parts of PART_SET and PWR_SET -/

theorem fget_filter_out {α : Type} (d : Nat → α) (m : FMap α) (p : Nat → Bool) (k : Nat) (h : p k = false) :
    fget d (m.filter (fun e => p e.1)) k = d k := by
  have none_ : (m.filter (fun e => p e.1)).find? (fun e => e.1 == k) = none := by
    refine List.find?_eq_none.mpr fun e he hk => ?_
    have kept := (List.mem_filter.mp he).2
    rw [beq_iff_eq.mp hk, h] at kept
    exact absurd kept (by decide)
  rw [fget, none_]

/-- The operator keys of the partitions named are gone, and the others stay. -/
theorem fget_dropKeys (ps : List (Fin 4)) (m : FMap (Option (List Byte))) (p : Fin 4) {k : Nat} (hk : k < 4) :
    fget (fun _ => none) (dropKeys ps m) (4 * p.val + k) =
      if ps.contains p then none else fget (fun _ => none) m (4 * p.val + k) := by
  have part : (4 * p.val + k) / 4 = p.val := by omega
  have named : ps.any (fun q => decide ((4 * p.val + k) / 4 = q.val)) = ps.contains p := by
    rw [part, List.contains_eq_any_beq]
    exact congrArg ps.any (funext fun q => by rw [Bool.eq_iff_iff, decide_eq_true_iff, beq_iff_eq, Fin.ext_iff])
  cases h : ps.contains p with
  | true => exact fget_filter_out _ _ (fun e => !ps.any (fun q => decide (e / 4 = q.val))) _ (by rw [named, h]; rfl)
  | false => exact fget_filter _ _ (fun e => !ps.any (fun q => decide (e / 4 = q.val))) _ (by rw [named, h]; rfl)

/-- A session that has ended. -/
def sessEnded (x : Session) : Session := { x with state := .none, inCtr := 0, outCtr := 0, keyIn := [], keyOut := [] }

theorem endSessions_sess (f : Fin 4 → Session → Bool) (s : State) (g h : HostId) (p : Fin 4) : (endSessions g f s).cams[h].sess[p] =
    if h = g ∧ f p s.cams[h].sess[p] then sessEnded s.cams[h].sess[p] else s.cams[h].sess[p] := by
  by_cases e : h = g
  · subst e
    simp only [endSessions, modCam_cams, Fin.getElem_fin, Vector.getElem_set_self, Vector.getElem_ofFn, true_and]
    rfl
  · have other : (endSessions g f s).cams[h] = s.cams[h] := by
      simp only [endSessions, modCam_cams, Fin.getElem_fin]
      exact Vector.getElem_set_ne _ _ fun x => e (Fin.ext x.symm)
    rw [other, if_neg fun x => e x.1]

/-- Sessions that end, at either port. -/
theorem endAllSessions_sess (f : Fin 4 → Session → Bool) (s : State) (h : HostId) (p : Fin 4) :
    (endAllSessions f s).cams[h].sess[p] =
      if f p s.cams[h].sess[p] then sessEnded s.cams[h].sess[p] else s.cams[h].sess[p] := by
  rw [endAllSessions, endSessions_sess, endSessions_sess]
  match h with
  | 0 => simp
  | 1 => simp

/-- A PART_SET that is not refused: what is staged, with the sessions ended and the keys dropped. -/
def partStaged (c : RotCmd) (s : State) : State :=
  let map := BitVec.ofNat 8 (c.num 0 2)
  let ps := affectedParts s.rot.map map
  let s := endAllSessions (fun p _ => ps.contains p) s
  let s := { s with tiles := s.tiles.map (fun x => { x with wiped := 0 }) }
  modRot (fun r => { r with
    opKeys := dropKeys ps r.opKeys, mapStaged := map, encStaged := BitVec.ofNat 4 (fld (c.num 0 2) 11 8)
    mapPending := true, partSet := true, affected := affectedQuads r.map map }) s

theorem partStaged_rest (c : RotCmd) (s : State) : partStaged c s = { s with
    cams := (endAllSessions (fun p _ => (affectedParts s.rot.map (BitVec.ofNat 8 (c.num 0 2))).contains p) s).cams
    tiles := s.tiles.map (fun x => { x with wiped := 0 })
    rot := { s.rot with
      opKeys := dropKeys (affectedParts s.rot.map (BitVec.ofNat 8 (c.num 0 2))) s.rot.opKeys
      mapStaged := BitVec.ofNat 8 (c.num 0 2), encStaged := BitVec.ofNat 4 (fld (c.num 0 2) 11 8), mapPending := true, partSet := true
      affected := affectedQuads s.rot.map (BitVec.ofNat 8 (c.num 0 2)) } } := rfl

theorem partStaged_items (c : RotCmd) (s : State) : (partStaged c s).items = s.items ∧ (partStaged c s).regs = s.regs := by
  rw [partStaged_rest]
  exact ⟨rfl, rfl⟩

theorem partStaged_sess (c : RotCmd) (s : State) (h : HostId) (p : Fin 4) : (partStaged c s).cams[h].sess[p] =
    if (affectedParts s.rot.map (BitVec.ofNat 8 (c.num 0 2))).contains p then sessEnded s.cams[h].sess[p] else s.cams[h].sess[p] := by
  rw [partStaged_rest]
  exact endAllSessions_sess ..

theorem partStaged_memory (c : RotCmd) (s : State) : Safety.sameMemory s (partStaged c s) := by
  rw [partStaged_rest]
  refine ⟨rfl, rfl, fun x => ?_⟩
  simp only [Fin.getElem_fin, Vector.getElem_map, and_self]

theorem partSetAct_eq (c : RotCmd) (s : State) : partSetAct c s =
    if partRefused s (BitVec.ofNat 8 (c.num 0 2)) then ((eDenied, []), s) else ((stDone, []), partStaged c s) := rfl

theorem partRefused_of {s : State} {map : Byte} (h : mapAccepted map = false ∨ s.dev.qfail ≠ 0 ∨ s.dev.genPend = true) :
    partRefused s map = true := by
  rcases h with h | h | h
  · simp [partRefused, h]
  · have failed : decide (s.dev.qfail ≠ 0) = true := decide_eq_true h
    simp only [partRefused, failed, Bool.or_true, Bool.true_or]
  · simp [partRefused, h]

theorem partRefused_cmdTaken (m : Master) (map : Byte) (s : State) : partRefused (Safety.cmdTaken m s) map = partRefused s map := rfl

/-! ## The four commands -/

section
variable {m : Master} {opc : Nat} {roles : List Nat} {c : RotCmd} {s u : State} {bad : RotCmd → Bool} {act : RotAct} {code : Nat}
  (h : Safety.cmdSigned s m opc roles c) (hb : bad c = false)
include h hb

/-- A command refused by its act. -/
theorem runCmd_refused {after : RotCmd → State → State} (hs : code ≠ stDone) (ha : act c (Safety.cmdTaken m s) = refuse code (Safety.cmdTaken m s)) :
    runCmd opc (checked roles bad false true act) false after (masterIdx m) s =
      Safety.cmdAnswer m opc c code [] (Safety.cmdTaken m s) := by
  rw [runCmd_signed h hb ha, if_neg hs]
  exact takeReserved_known (known_cmdAnswer (known_cmdTaken h.2.1))

/-- A command done, with what follows its answer. -/
theorem runCmd_done {after : RotCmd → State → State} (ha : act c (Safety.cmdTaken m s) = done u)
    (hk : Known (after c (Safety.cmdAnswer m opc c stDone [] u))) :
    runCmd opc (checked roles bad false true act) false after (masterIdx m) s = after c (Safety.cmdAnswer m opc c stDone [] u) := by
  rw [runCmd_signed h hb ha, if_pos rfl]
  exact takeReserved_known hk

end

theorem masterOf_isSome {n : Nat} (h : n < 3) : (masterOf n).isNone = false := by
  interval_cases n <;> rfl

/-- Settles O55: each command's act in the state in which it has been taken, and what follows its answer. -/
theorem installerCommands : Obligations.InstallerCommands := by
  unfold Obligations.InstallerCommands
  have denies : eDenied ≠ stDone := by decide
  refine fun m c s => ⟨fun h hb => ⟨fun hn => ?take, fun hn => ?noMaster⟩, fun h hb => ⟨fun hr => ?resetting, fun hr => ?reset⟩,
    fun h hb => ⟨fun hp => ?partNo, partRefused_of, fun hp => ?part⟩, fun h hb => ⟨fun hp => ?pwrNo, fun a mask hg hl hp => ?pwr⟩⟩
  case take =>
    have act : forceTakeAct c (Safety.cmdTaken m s) = done (Safety.cmdTaken m s) := if_neg (by simp [masterOf_isSome hn])
    exact congrArg _ (runCmd_done h hb act
      (known_congr (s := Safety.cmdAnswer m 0x01 c stDone [] _) rfl rfl (known_cmdAnswer (known_cmdTaken h.2.1))))
  case noMaster =>
    have act : forceTakeAct c (Safety.cmdTaken m s) = refuse eDenied (Safety.cmdTaken m s) := if_pos (by rw [hn]; rfl)
    exact congrArg _ (runCmd_refused h hb denies act)
  case resetting => exact congrArg _ (runCmd_refused h hb denies (if_pos hr))
  case reset =>
    have kept := resetKept_fullReset (cause := 3) (by decide) (c.num 0 1 % 2 == 1)
      (Safety.cmdAnswer m 0x02 c stDone [] (Safety.cmdTaken m s))
    obtain ⟨reset, -, -, waiting⟩ := kept
    have act : (if resetRuns (Safety.cmdTaken m s) then refuse eDenied (Safety.cmdTaken m s) else done (Safety.cmdTaken m s)) =
      done (Safety.cmdTaken m s) := if_neg (by rw [show resetRuns (Safety.cmdTaken m s) = false from hr]; decide)
    exact ⟨_, congrArg Host.Outcome.next (runCmd_done (act := fun _ s => if resetRuns s then refuse eDenied s else done s)
      (after := fun c s => fullReset 3 (c.num 0 1 % 2 == 1) s) h hb act (known_of_none waiting)), reset⟩
  case partNo => exact congrArg _ (runCmd_refused h hb denies (if_pos hp))
  case part =>
    have act : partSetAct c (Safety.cmdTaken m s) = done (partStaged c (Safety.cmdTaken m s)) :=
      (partSetAct_eq ..).trans (if_neg (by rw [partRefused_cmdTaken, hp]; decide))
    have known : Known (partStaged c (Safety.cmdTaken m s)) :=
      known_congr (s := Safety.cmdTaken m s) rfl rfl (known_cmdTaken h.2.1)
    have run := runCmd_done (after := fun _ s => s) h hb act (known_cmdAnswer known)
    refine ⟨partStaged c (Safety.cmdTaken m s), congrArg Host.Outcome.next run, ?_⟩
    have live : (Safety.cmdTaken m s).rot.map = s.rot.map := rfl
    have sess := partStaged_sess c (Safety.cmdTaken m s)
    rw [live] at sess
    obtain ⟨hbm, err, tiles⟩ := partStaged_memory c (Safety.cmdTaken m s)
    obtain ⟨items, regs⟩ := partStaged_items c (Safety.cmdTaken m s)
    refine ⟨rfl, rfl, rfl, rfl, items, ⟨hbm, err, tiles⟩, regs, fun p hp h => ?_, fun p hp h => ?_,
      fun p k hk => fget_dropKeys _ _ p hk⟩
    · rw [sess, if_pos (List.contains_iff_mem.mpr hp)]
      rfl
    · rw [sess, if_neg (by rwa [List.contains_iff_mem])]
      rfl
  case pwrNo =>
    have act : pwrSetAct c (Safety.cmdTaken m s) = refuse eDenied (Safety.cmdTaken m s) := if_pos (by
      rcases hp with hp | ⟨x, hx, hn⟩
      · rw [show (Safety.cmdTaken m s).dev.genPend = true from hp]
        rfl
      · have none_ : (pwrPairs c).any (fun x => (pwrStagedAt x.1).isNone) = true := List.any_eq_true.mpr ⟨x, hx, by rw [hn]; rfl⟩
        rw [none_, Bool.or_true])
    exact congrArg _ (runCmd_refused h hb denies act)
  case pwr =>
    have pairs : pwrPairs c = [(c.num 0 4, c.num 4 4)] := by rw [pwrPairs, hl]; rfl
    have act : pwrSetAct c (Safety.cmdTaken m s) = done (setRegAt a (c.num 4 4 &&& mask) (Safety.cmdTaken m s)) := by
      have taken : (Safety.cmdTaken m s).dev.genPend = false := hg
      simp [pwrSetAct, pairs, hp, taken]
    exact congrArg _ (runCmd_done (after := fun _ s => s) h hb act
      (known_cmdAnswer (known_congr (s := Safety.cmdTaken m s) rfl rfl (known_cmdTaken h.2.1))))

end Sys2Proof.Machine
end

section
/-! SUPPORT. Accesses to memory leave the job tables of the dispatchers and the vector engines as they are. -/

namespace Sys2Proof.Machine
open Sys2Proof

/-- What each step of a fold leaves of a state the whole fold leaves. -/
theorem foldl_leaves {α β γ : Type} (g : β → γ) {f : β → α → β} (h : ∀ s x, g (f s x) = g s) (l : List α) (s : β) :
    g (l.foldl f s) = g s :=
  foldl_of_steps (R := fun s u => g u = g s) (fun _ => rfl) (fun h k => k.trans h) h l s

/-- The same of a fold that carries a result beside the state. -/
theorem foldl_leaves_snd {α β γ δ : Type} (g : β → γ) {f : δ × β → α → δ × β} (h : ∀ a x, g (f a x).2 = g a.2) (l : List α)
    (a : δ × β) : g (l.foldl f a).2 = g a.2 :=
  foldl_leaves (fun a => g a.2) h l a

/-- The dispatchers' job tables (R313): the numbers granted, those that end, and the records that they owe; and the vector engines,
which hold the jobs' parameters and sequence slots (R88, R194). -/
def jobState (s : State) :
    (QuadId → BitVec 64 × BitVec 64 × List (BitVec 6 × Nat × Nat × Nat × BitVec 16 × Byte)) × (TileId → VecSt) :=
  (fun q => (s.quads[q].granted, s.quads[q].ending, s.quads[q].jobEnds), fun t => s.tiles[t].vec)

/-! ## Updates of other parts of the state -/

theorem jobState_modTile (t : TileId) (f : TileSt → TileSt) (s : State) (h : ∀ x, (f x).vec = x.vec) :
    jobState (modTile t f s) = jobState s := by
  refine Prod.ext rfl (funext fun x => ?_)
  simp only [jobState, modTile_tile]
  split
  · next e => rw [h, e]
  · rfl

theorem jobState_modQuad (q : QuadId) (f : QuadSt → QuadSt) (s : State)
    (h : ∀ x, (f x).granted = x.granted ∧ (f x).ending = x.ending ∧ (f x).jobEnds = x.jobEnds) :
    jobState (modQuad q f s) = jobState s := by
  refine Prod.ext (funext fun x => ?_) rfl
  simp only [jobState, modQuad_quad]
  split
  · next e => obtain ⟨hg, he, hj⟩ := h s.quads[q]; rw [hg, he, hj, e]
  · rfl

@[simp] theorem jobState_takeFree (s : State) : jobState (takeFree s).2 = jobState s := rfl
@[simp] theorem jobState_noteWork (k : Nat) (s : State) : jobState (noteWork k s) = jobState s := rfl
@[simp] theorem jobState_bump (b : Block) (o n : Nat) (s : State) : jobState (bump b o n s) = jobState s := rfl
@[simp] theorem jobState_emitN (b : Block) (n : Nat) (s : State) : jobState (emitN b n s) = jobState s := rfl
@[simp] theorem jobState_modStack (k : StackId) (f : HbmSt → HbmSt) (s : State) : jobState (modStack k f s) = jobState s := rfl
@[simp] theorem jobState_storeHbm (pa : Nat) (bs : List Byte) (s : State) : jobState (storeHbm pa bs s) = jobState s := rfl
@[simp] theorem jobState_setCwErr (cw n : Nat) (s : State) : jobState (setCwErr cw n s) = jobState s := rfl
@[simp] theorem jobState_markCw (s : State) (cw : Nat) : jobState (markCw s cw) = jobState s := rfl
@[simp] theorem jobState_disarm (a : BitVec 12 × BitVec 48 × Nat) (s : State) : jobState (disarm a s) = jobState s := rfl
@[simp] theorem jobState_hbmReport (r : HbmReq) (cw kind : Nat) (onDie : Bool) (s : State) :
    jobState (hbmReport r cw kind onDie s) = jobState s := rfl

/-! ## Main memory -/

@[simp] theorem jobState_loseCw (cw : Nat) (s : State) : jobState (loseCw cw s) = jobState s := by
  unfold loseCw
  split <;> rfl

@[simp] theorem jobState_checkCw (r : HbmReq) (s : State) (cw : Nat) : jobState (checkCw r s cw) = jobState s := by
  have told : jobState (onDieTold cw s) = jobState s := rfl
  unfold checkCw
  simp only
  split
  · split <;> simp [told]
  split
  · rfl
  split <;> rfl

@[simp] theorem jobState_checkSector (r : HbmReq) (sec : Nat) (s : State) : jobState (checkSector r sec s) = jobState s := by
  simp [checkSector]

@[simp] theorem jobState_injectHbm (k : StackId) (sec : Nat) (s : State) : jobState (injectHbm k sec s) = jobState s := by
  unfold injectHbm
  split <;> rfl

@[simp] theorem jobState_leaveSector (sec : Nat) (s : State) : jobState (leaveSector sec s) = jobState s :=
  foldl_leaves jobState (fun _ _ => by rfl) _ s

@[simp] theorem jobState_writeBackLine (k : StackId) (l : CacheLine) (s : State) :
    jobState (writeBackLine k l s) = jobState s := by
  refine foldl_leaves jobState (fun a i => ?_) _ s
  split
  · exact jobState_injectHbm _ _ _
  · exact jobState_leaveSector _ a

@[simp] theorem jobState_makeRoom (k : StackId) (line : Nat) (s : State) : jobState (makeRoom k line s) = jobState s := by
  unfold makeRoom
  simp only
  split
  · rfl
  split <;> simp

@[simp] theorem jobState_touchLineOf (sec : Nat) (f : CacheLine → CacheLine) (s : State) :
    jobState (touchLineOf sec f s) = jobState s := by
  unfold touchLineOf
  simp only
  split <;> simp

@[simp] theorem jobState_atStack (pa : Nat) (s : State) : jobState (atStack pa s) = jobState s := by
  unfold atStack
  split <;> rfl

@[simp] theorem jobState_atBank (pa : Nat) (s : State) : jobState (atBank pa s) = jobState s := by
  have serve : ∀ u, jobState (serveHbm false pa u) = jobState u := fun u => by
    unfold serveHbm
    simp only
    split <;> rfl
  unfold atBank
  rw [serve]
  split <;> rfl

@[simp] theorem jobState_demandSector (r : HbmReq) (fill : Bool) (sec : Nat) (s : State) :
    jobState (demandSector r fill sec s) = jobState s := by
  have asked : jobState (atStack (64 * sec) (emitN (.hbm (stackOfPa (64 * sec))) 1
      (noteWork (blockId (.hbm (stackOfPa (64 * sec)))) s))) = jobState s := by simp
  unfold demandSector
  simp only
  rw [← asked]
  generalize atStack (64 * sec) _ = a
  split
  · rw [jobState_touchLineOf]
    split
    · split <;> rfl
    · rfl
  · rw [jobState_touchLineOf]
    split <;> simp

@[simp] theorem jobState_hbmRead (r : HbmReq) (pa len : Nat) (s : State) : jobState (hbmRead r pa len s).2 = jobState s :=
  foldl_leaves jobState (fun a _ => jobState_demandSector r true _ a) _ s

@[simp] theorem jobState_hbmPut (pa : Nat) (bs : List Byte) (s : State) : jobState (hbmPut pa bs s) = jobState s := by
  unfold hbmPut
  split <;> rfl

@[simp] theorem jobState_writeSector (r : HbmReq) (pa : Nat) (bs : List Byte) (ps : List Bool) (s : State) :
    jobState (writeSector r pa bs ps s) = jobState s := by
  unfold writeSector
  simp only [jobState_touchLineOf]
  rw [foldl_leaves jobState fun a cw => ?_, jobState_hbmPut, jobState_demandSector]
  split
  · rfl
  split <;> rfl

@[simp] theorem jobState_hbmWrite (r : HbmReq) (pa : Nat) (bs : List Byte) (ps : List Bool) (s : State) :
    jobState (hbmWrite r pa bs ps s) = jobState s :=
  foldl_leaves jobState (fun a _ => jobState_writeSector r _ _ _ a) _ s

/-! ## Virtual addresses -/

@[simp] theorem jobState_modXlate (a : XAgent) (f : XlateSt → XlateSt) (s : State) : jobState (modXlate a f s) = jobState s := by
  cases a
  case tile t => exact jobState_modTile t _ s fun _ => rfl
  all_goals rfl

@[simp] theorem jobState_askSectors (r : VaReq) (pa len : Nat) (s : State) : jobState (askSectors r pa len s) = jobState s := by
  unfold askSectors leaves
  rw [jobState_emitN]
  split
  · split <;> rfl
  · rfl

@[simp] theorem jobState_readEntry (r : VaReq) (pa : Nat) (s : State) : jobState (readEntry r pa s).2 = jobState s := by
  unfold readEntry
  exact (jobState_hbmRead _ _ _ _).trans (jobState_askSectors r pa 8 s)

@[simp] theorem jobState_walk (r : VaReq) (va : Nat) (wr : Bool) (s : State) : jobState (walk r va wr s).2 = jobState s := by
  have read : ∀ pa s, jobState (readEntry r pa s).2 = jobState s := jobState_readEntry r
  unfold walk
  generalize readEntry r = f at read ⊢
  simp only
  split
  · rfl
  split
  · rfl
  split
  · exact read _ s
  split
  · split <;> exact read _ s
  split
  · exact read _ s
  split
  · exact read _ s
  split <;> exact (read _ _).trans (read _ s)

@[simp] theorem jobState_keepEntry (a : XAgent) (e : TlbEntry) (s : State) : jobState (keepEntry a e s) = jobState s := by
  unfold keepEntry
  simp only
  generalize (if e.large = true then 16 else 64 : Nat) = cap
  cases a
  case tile t =>
    simp only
    split
    · exact jobState_modXlate _ _ s
    split <;> simp
  all_goals rfl

@[simp] theorem jobState_translate (r : VaReq) (va : Nat) (wr : Bool) (s : State) :
    jobState (translate r va wr s).2 = jobState s := by
  unfold translate
  split
  · rfl
  · have walked := jobState_walk r va wr s
    split <;> (next e => rw [e] at walked; simp [← walked])

@[simp] theorem jobState_vaRead (r : VaReq) (va len : Nat) (s : State) : jobState (vaRead r va len s).2 = jobState s := by
  refine foldl_leaves_snd jobState (fun a p => ?_) _ (Except.ok ([], []), s)
  split
  · rfl
  · next t =>
    have translated := jobState_translate r p.1 false t
    split <;> (next e => rw [e] at translated; simp [← translated])

@[simp] theorem jobState_setDirty (r : VaReq) (e : TlbEntry) (va : Nat) (s : State) :
    jobState (setDirty r e va s) = jobState s := by
  unfold setDirty
  simp only
  split
  · rfl
  · simp

@[simp] theorem jobState_vaWriteBlock (r : VaReq) (va : Nat) (bs : List Byte) (ps : List Bool) (s : State) :
    jobState (vaWriteBlock r va bs ps s).2 = jobState s := by
  have translated := jobState_translate r va true s
  unfold vaWriteBlock
  split <;> (next e => rw [e] at translated; simp [← translated])

@[simp] theorem jobState_vaWriteRaw (r : VaReq) (va : Nat) (bs : List Byte) (ps : List Bool) (s : State) :
    jobState (vaWriteRaw r va bs ps s).2 = jobState s := by
  refine foldl_leaves_snd jobState (fun a p => ?_) _ (Except.ok (), s)
  split
  · rfl
  · exact jobState_vaWriteBlock r _ _ _ _

/-! ## The copy of a secure point -/

@[simp] theorem jobState_recWord (p : Fin 4) (n : Nat) (s : State) : jobState (recWord p n s).2 = jobState s := by
  rw [recWord]
  generalize reg s (.srv (leadQuad s p)) Off.srvRecBase = va
  have read := jobState_vaRead (srvReq s p) (va + 4 * n) 4 s
  split <;> (next e => rw [e] at read; exact read)

@[simp] theorem jobState_recAddr (p : Fin 4) (n : Nat) (s : State) : jobState (recAddr p n s).2 = jobState s := by
  have low := jobState_recWord p n s
  unfold recAddr
  split
  next t e =>
  rw [e] at low
  have high := jobState_recWord p (n + 1) t
  split
  next e' =>
  rw [e'] at high
  exact high.trans low

@[simp] theorem jobState_stageCopy (p : Fin 4) (blk : Nat) (s : State) : jobState (stageCopy p blk s).2 = jobState s := by
  have sized : jobState (recWord p 14 (recAddr p 12 s).2).2 = jobState s := by simp
  unfold stageCopy
  simp only
  generalize recWord p 14 (recAddr p 12 s).2 = w at sized ⊢
  rw [← sized]
  split
  · rfl
  have read := jobState_vaRead (srvReq w.2 p) blk kib64 w.2
  split
  · next e => rw [e] at read; exact read
  · next e =>
    rw [e] at read
    exact (jobState_modQuad _ _ _ fun _ => by exact ⟨rfl, rfl, rfl⟩).trans ((jobState_vaWriteRaw _ _ _ _ _).trans read)

@[simp] theorem jobState_copyBeforeWrite (p : Fin 4) (job va : Nat) (s : State) :
    jobState (copyBeforeWrite p job va s).2 = jobState s := by
  have staged : ∀ blk, jobState (stageBlock p blk s).2 = jobState s := fun blk => by
    have copied := jobState_stageCopy p blk s
    unfold stageBlock
    split <;> (next e => rw [e] at copied; exact copied)
  unfold copyBeforeWrite
  simp only
  split
  · exact staged _
  · rfl

@[simp] theorem jobState_vaWrite (r : VaReq) (va : Nat) (bs : List Byte) (ps : List Bool) (s : State) :
    jobState (vaWrite r va bs ps s).2 = jobState s := by
  refine foldl_leaves_snd jobState (fun a p => ?_) _ (Except.ok (), s)
  split
  · rfl
  · next t =>
    have translated := jobState_translate r p.1 true t
    split
    · next e => rw [e] at translated; exact translated
    · next u e =>
      rw [e] at translated
      have copied := jobState_copyBeforeWrite r.part r.job p.1 u
      split <;> (next e => rw [e] at copied; simp [← translated, ← copied])

/-! ## Tile memories and queues -/

@[simp] theorem jobState_setTmem (t : TileId) (m : MemSel) (v : TMem) (s : State) : jobState (setTmem t m v s) = jobState s :=
  jobState_modTile t _ s fun _ => by cases m <;> rfl

@[simp] theorem jobState_countAccess (r : MemReq) (lo len : Nat) (s : State) :
    jobState (countAccess r lo len s) = jobState s := by
  have answered : jobState (answerAccess r s) = jobState s := by
    unfold answerAccess
    split <;> rfl
  unfold countAccess
  simp only
  split
  · rfl
  split <;> simp [answered]

@[simp] theorem jobState_grantAccess (r : MemReq) (lo len : Nat) (s : State) :
    jobState (grantAccess r lo len s) = jobState s := by
  have granted : jobState (servePromoted r lo len (countAccess r lo len s)) = jobState s := by
    unfold servePromoted
    split
    · simp
    · exact (jobState_modTile _ _ _ fun _ => by rfl).trans (jobState_countAccess r lo len s)
  unfold grantAccess
  simp only
  split <;> exact granted

@[simp] theorem jobState_tmWriteRaw (t : TileId) (m : MemSel) (lo : Nat) (bs : List Byte) (ps : List Bool) (s : State) :
    jobState (tmWriteRaw t m lo bs ps s) = jobState s := by
  cases m <;> exact jobState_setTmem _ _ _ s

@[simp] theorem jobState_noteDisturb (t : TileId) (m : MemSel) (lo len : Nat) (s : State) :
    jobState (noteDisturb t m lo len s) = jobState s := by
  unfold noteDisturb
  simp only
  split
  · rfl
  · exact jobState_modTile t _ s fun _ => rfl

@[simp] theorem jobState_applyInject (t : TileId) (m : MemSel) (lo len : Nat) (s : State) :
    jobState (applyInject t m lo len s) = jobState s := by
  unfold applyInject
  split
  · rfl
  · exact jobState_setTmem t m _ s

@[simp] theorem jobState_tmWrite (r : MemReq) (lo : Nat) (bs : List Byte) (ps : List Bool) (s : State) :
    jobState (tmWrite r lo bs ps s) = jobState s := by
  simp [tmWrite]

@[simp] theorem jobState_tileSpill (t : TileId) (id : QueueId) (n : Nat) (s : State) :
    jobState (tileSpill t id n s) = jobState s := by
  unfold tileSpill
  simp only
  split
  · rfl
  · exact jobState_tmWrite _ _ _ _ _

@[simp] theorem jobState_queSpill (id : QueueId) (n : Nat) (s : State) : jobState (queSpill id n s) = jobState s := by
  unfold queSpill
  split
  · exact jobState_tileSpill _ _ n s
  · exact jobState_tileSpill _ _ n s
  · exact jobState_vaWrite _ _ _ _ _
  · exact jobState_vaWrite _ _ _ _ _
  · rfl

@[simp] theorem jobState_setQue (id : QueueId) (v : SpillQ) (s : State) : jobState (setQue id v s) = jobState s := by
  unfold setQue
  split
  · exact jobState_modQuad _ _ s fun _ => ⟨rfl, rfl, rfl⟩
  · exact jobState_modQuad _ _ s fun _ => ⟨rfl, rfl, rfl⟩
  · exact jobState_modTile _ _ s fun _ => rfl
  · exact jobState_modTile _ _ s fun _ => rfl
  all_goals rfl

@[simp] theorem jobState_pushQue (id : QueueId) (p : QPkt) (s : State) : jobState (pushQue id p s) = jobState s := by
  unfold pushQue spillOut
  simp only
  split
  · simp
  · rw [foldl_leaves jobState fun a j => jobState_queSpill id _ a]
    simp

end Sys2Proof.Machine

end

section
/-! SUPPORT. The life of a job (R88, R194, R313): its parameters, its slots, its items, and the records of its commands. -/

namespace Sys2Proof.Machine
open Sys2Proof

/-! ## What the job tables show -/

section
variable {s u : State} (h : jobState u = jobState s)
include h

theorem granted_of_jobState (q : QuadId) : u.quads[q].granted = s.quads[q].granted := congrArg (fun j => (j.1 q).1) h
theorem ending_of_jobState (q : QuadId) : u.quads[q].ending = s.quads[q].ending := congrArg (fun j => (j.1 q).2.1) h
theorem jobEnds_of_jobState (q : QuadId) : u.quads[q].jobEnds = s.quads[q].jobEnds := congrArg (fun j => (j.1 q).2.2) h

theorem jobParam_of_jobState (t : TileId) (n : Nat) : jobParam u t n = jobParam s t n :=
  congrArg (fun v : VecSt => fget (fun _ => jobParamDefault) v.jobs n) (congrArg (fun j => j.2 t) h)

theorem seqSlot_of_jobState (t : TileId) (n : Nat) : seqSlot u t n = seqSlot s t n :=
  congrArg (fun v : VecSt => vat v.slots n seqSlotFree) (congrArg (fun j => j.2 t) h)

end

theorem jobState_postCommand (n status : Nat) (gen : Byte) (p : Fin 4) (job : BitVec 6) (sq wd : Nat) (cookie : BitVec 16)
    (s : State) : jobState (postCommand n status gen p job sq wd cookie s) = jobState s := by
  simp [postCommand, postRecord]

theorem jobState_lastSq (q : QuadId) (k : Nat) (s : State) : jobState (modQuad q (fun x => { x with lastSq := k }) s) = jobState s :=
  jobState_modQuad q _ s fun _ => ⟨rfl, rfl, rfl⟩

/-! ## The tiles of a partition -/

theorem quadTile_quadPos (t : TileId) : quadTile (quadOf t) (quadPos t) = t := by
  revert t
  decide +kernel

theorem mem_partTiles {s : State} {p : Fin 4} {t : TileId} :
    t ∈ (quadsOf s p).flatMap quadTiles ↔ partOfTile s t = p := by
  simp only [List.mem_flatMap, quadTiles, List.mem_map, List.mem_finRange, true_and, quadsOf, List.mem_filter, allQuads,
    beq_iff_eq]
  constructor
  · rintro ⟨q, hq, k, rfl⟩
    rw [partOfTile, quadOf_quadTile]
    exact hq
  · exact fun h => ⟨quadOf t, h, quadPos t, quadTile_quadPos t⟩

theorem vec_foldl_modVec {f : VecSt → VecSt} (hf : ∀ x, f (f x) = f x) (l : List TileId) (s : State) (x : TileId) :
    (l.foldl (fun a t => modVec t f a) s).tiles[x].vec = if x ∈ l then f s.tiles[x].vec else s.tiles[x].vec := by
  induction l generalizing s with
  | nil => simp
  | cons t l ih =>
    rw [List.foldl_cons, ih, modVec_tile]
    by_cases h : x = t
    · subst h
      simp [hf]
    · simp [h]

theorem foldl_modVec_rest (f : VecSt → VecSt) (l : List TileId) (s : State) :
    l.foldl (fun a t => modVec t f a) s = { s with tiles := (l.foldl (fun a t => modVec t f a) s).tiles } := by
  induction l generalizing s with
  | nil => rfl
  | cons t l ih =>
    rw [List.foldl_cons, ih]
    rfl

theorem Calm.modVec (t : TileId) (f : VecSt → VecSt) (s : State) : Calm s (modVec t f s) :=
  Calm.modTile t (fun _ => by exact id) s

/-! ## A job's parameters (R87, R88) -/

/-- A key written twice with one value is written once. -/
theorem fset_fset {α : Type} [DecidableEq α] (d : Nat → α) (m : FMap α) (k : Nat) (v : α) :
    fset d (fset d m k v) k v = fset d m k v := by
  have apart : ∀ e : Nat × α, (decide (e.1 < k) && decide (k + 1 ≤ e.1)) = false := fun e => by simp; omega
  have apart' : ∀ e : Nat × α, (decide (k + 1 ≤ e.1) && decide (e.1 < k)) = false := fun e => by simp; omega
  unfold fset fwrite
  simp only [List.filter_append, List.filter_filter, List.length_singleton, Bool.and_self, apart, apart', fentries]
  split <;> simp

section
variable (p : Fin 4) (job : BitVec 6) (v : JobParam) (s : State)

theorem setJobParam_rest : setJobParam p job v s = { s with tiles := (setJobParam p job v s).tiles } := foldl_modVec_rest _ _ s
@[simp] theorem setJobParam_items : (setJobParam p job v s).items = s.items := by rw [setJobParam_rest]
@[simp] theorem setJobParam_quads : (setJobParam p job v s).quads = s.quads := by rw [setJobParam_rest]

theorem setJobParam_calm : Calm s (setJobParam p job v s) := Calm.foldl (fun a t => Calm.modVec t _ a) _ s

theorem setJobParam_vec (x : TileId) : (setJobParam p job v s).tiles[x].vec = if partOfTile s x = p then
    { s.tiles[x].vec with jobs := fset (fun _ => jobParamDefault) s.tiles[x].vec.jobs job.toNat v } else s.tiles[x].vec := by
  unfold setJobParam
  rw [vec_foldl_modVec fun y => by simp only [fset_fset]]
  simp only [mem_partTiles]

theorem jobParam_setJobParam (x : TileId) (n : Nat) : jobParam (setJobParam p job v s) x n =
    if partOfTile s x = p ∧ n = job.toNat then v else jobParam s x n := by
  unfold jobParam
  rw [setJobParam_vec]
  by_cases h : partOfTile s x = p
  · simp only [h, if_true, true_and, fget_fset]
  · simp only [h, if_false, false_and]

theorem seqSlot_setJobParam (x : TileId) (n : Nat) : seqSlot (setJobParam p job v s) x n = seqSlot s x n := by
  unfold seqSlot
  rw [setJobParam_vec]
  split <;> rfl

end

/-! ## A mark for the meter (R414) -/

section
variable (kind : Nat) (p : Fin 4) (job : BitVec 6) (m : BitVec 4) (s : State)

theorem sendMark_rest : sendMark kind p job m s =
    { s with regs := (sendMark kind p job m s).regs, mtr := (sendMark kind p job m s).mtr } := by
  unfold sendMark
  simp only
  split
  · rfl
  split <;> rfl

theorem sendMark_calm : Calm s (sendMark kind p job m s) := by
  have noted : ∀ f, Calm s (modMtr f s) := fun _ => ⟨rfl, fun _ _ => rfl, id⟩
  unfold sendMark
  simp only
  split
  · exact .after (Steady.bump32 (b := .mtr) trivial (by decide) _).calm (noted _)
  split
  · exact ⟨rfl, fun _ _ => rfl, id⟩
  · exact noted _

@[simp] theorem sendMark_items : (sendMark kind p job m s).items = s.items := by rw [sendMark_rest]
@[simp] theorem sendMark_quads : (sendMark kind p job m s).quads = s.quads := by rw [sendMark_rest]
@[simp] theorem sendMark_tiles : (sendMark kind p job m s).tiles = s.tiles := by rw [sendMark_rest]

theorem jobState_sendMark : jobState (sendMark kind p job m s) = jobState s := by
  unfold jobState
  rw [sendMark_rest]

end

/-! ## The start of a job -/

section
variable (p : Fin 4) (d : Desc) (s : State)

theorem startJob_items : (startJob p d s).items = s.items := by simp [startJob]

theorem startJob_calm : Calm s (startJob p d s) :=
  .after (sendMark_calm _ _ _ _ _) (.after (setJobParam_calm _ _ _ _) (Calm.modQuad _ _ s))

theorem startJob_granted :
    (startJob p d s).quads[leadQuad s p].granted = maskSet s.quads[leadQuad s p].granted d.job.toNat := by
  simp [startJob]

theorem jobParam_startJob (x : TileId) (n : Nat) : jobParam (startJob p d s) x n =
    if partOfTile s x = p ∧ n = d.job.toNat then paramOf d else jobParam s x n := by
  rw [startJob, jobParam_of_jobState (jobState_sendMark _ _ _ _ _), jobParam_setJobParam]
  rfl

end

/-! ## Items cancelled (R306) -/

/-- An item that ends CANCELLED before it has started. -/
def endedCancelled (i : Item) : Item := { i with cancelled := true, state := .ended }

theorem endItem_items (i : Item) (s : State) :
    (endItem i s).items = s.items.map (fun j => if j.key = i.key then { i with state := .ended } else j) := by
  obtain ⟨v, -, pushed⟩ := pushQue_steady (.comp i.tile) rfl (recordPkt (itemRecord { i with state := .ended }))
    (modItem i.key (fun _ => { i with state := .ended })
      (if i.state = .queued then s else modPwr (fun p => { p with ran := p.ran ++ [(i.tile, i.key)] }) s))
  refine pushed.items.trans ?_
  split <;> rfl

theorem endItem_calm (i : Item) (s : State) : Calm s (endItem i s) := by
  have noted : Calm s (if i.state = .queued then s else modPwr (fun p => { p with ran := p.ran ++ [(i.tile, i.key)] }) s) := by
    split
    · exact Calm.refl s
    · exact ⟨rfl, fun _ _ => rfl, id⟩
  refine .after (Steady.bump (b := .tile i.tile .sqc) trivial (by decide) _ _).calm (.after (Steady.emitN _ _ _).calm ?_)
  exact .after (Calm.pushQue (.comp i.tile) rfl _ _) (.after (Calm.of_rest rfl) noted)

theorem jobState_endItem (i : Item) (s : State) : jobState (endItem i s) = jobState s := by
  refine (jobState_pushQue (.comp i.tile) _ _).trans ?_
  split <;> rfl

theorem cancelItem_calm (k : ItemKey) (s : State) : Calm s (cancelItem k s) := by
  unfold cancelItem
  split
  · exact Calm.refl s
  · exact .after (endItem_calm _ _) (Calm.setQue _ _ s)

theorem jobState_cancelItem (k : ItemKey) (s : State) : jobState (cancelItem k s) = jobState s := by
  unfold cancelItem
  split
  · rfl
  · simp [jobState_endItem]

theorem findItem_of_mem {s : State} (hk : (s.items.map (·.key)).Nodup) {i : Item} (hi : i ∈ s.items) :
    findItem s i.key = some i := by
  have found : (findItem s i.key).isSome := List.find?_isSome.mpr ⟨i, hi, by simp⟩
  obtain ⟨j, hj⟩ := Option.isSome_iff_exists.mp found
  have same : j.key = i.key := by simpa using List.find?_some hj
  rw [List.inj_on_of_nodup_map hk (List.mem_of_find?_eq_some hj) hi same] at hj
  exact hj

theorem cancelItem_items {s : State} (hk : (s.items.map (·.key)).Nodup) {i : Item} (hi : i ∈ s.items) :
    (cancelItem i.key s).items = s.items.map (fun j => if j = i then endedCancelled j else j) := by
  unfold cancelItem
  rw [findItem_of_mem hk hi]
  refine (endItem_items _ _).trans (List.map_congr_left fun j hj => ?_)
  by_cases same : j = i
  · subst same
    simp [endedCancelled]
  · rw [if_neg same, if_neg fun e => same (List.inj_on_of_nodup_map hk hj hi e)]

/-- Items of a list cancelled in turn: those of the list, and no others, end CANCELLED. -/
theorem cancelItems_items (l : List Item) (hl : (l.map (·.key)).Nodup) (s : State) (hs : ∀ i ∈ l, i ∈ s.items)
    (hk : (s.items.map (·.key)).Nodup) : (l.foldl (fun a i => cancelItem i.key a) s).items =
      s.items.map (fun j => if j ∈ l then endedCancelled j else j) := by
  induction l generalizing s with
  | nil => simp
  | cons i l ih =>
    obtain ⟨fresh, hl⟩ := List.nodup_cons.mp hl
    have other : ∀ j ∈ l, j.key ≠ i.key := fun j hj e => fresh (List.mem_map.mpr ⟨j, hj, e⟩)
    have first := cancelItem_items hk (hs i List.mem_cons_self)
    have keys : (cancelItem i.key s).items.map (·.key) = s.items.map (·.key) := by
      rw [first, List.map_map]
      refine List.map_congr_left fun j _ => ?_
      simp only [Function.comp]
      split <;> rfl
    rw [List.foldl_cons, ih hl _ (fun j hj => ?_) (keys ▸ hk), first, List.map_map]
    · refine List.map_congr_left fun j _ => ?_
      by_cases e : j = i
      · have gone : endedCancelled i ∉ l := fun h => other _ h rfl
        simp [e, gone]
      · simp [e]
    · rw [first]
      exact List.mem_map.mpr ⟨j, hs j (List.mem_cons_of_mem _ hj), if_neg fun e => other j hj (congrArg _ e)⟩

section
variable (p : Fin 4) (job : BitVec 6) (s : State)

theorem cancelJob_calm : Calm s (cancelJob p job s) := Calm.foldl (fun a (i : Item) => cancelItem_calm i.key a) _ s

theorem jobState_cancelJob : jobState (cancelJob p job s) = jobState s :=
  foldl_leaves jobState (fun a (i : Item) => jobState_cancelItem i.key a) _ s

theorem cancelJob_items (hk : (s.items.map (·.key)).Nodup) : (cancelJob p job s).items = s.items.map (fun i =>
    if i.key.part = p ∧ i.job = job ∧ i.state = .queued then { i with cancelled := true, state := .ended } else i) := by
  refine (cancelItems_items _ (hk.sublist (List.filter_sublist.map _)) s (fun i hi => (List.mem_filter.mp hi).1) hk).trans ?_
  refine List.map_congr_left fun i hi => ?_
  simp [hi, endedCancelled]

end

/-! ## The dispatcher takes a job's command -/

section
variable (q : QuadId) (k : Fin 16) {e : SqEntry} (t : State) (hc : e.code = 0) (hr : Safety.cqReady t q k e)
include hc hr

theorem actOn_jobStart (ho : (descOf e.words).op = opJobStart)
    (hf : jobStartFails t (ringPart t (.sq q k)) e.words (descOf e.words) = none) (hm : markRoom t 1 = true) :
    actOn q k e t = some (postCommand (descOf e.words).cq stDone t.dev.genLive (ringPart t (.sq q k)) (descOf e.words).job
      (queNumber q k) e.wd (descOf e.words).cookie (startJob (ringPart t (.sq q k)) (descOf e.words) t)) := by
  obtain ⟨takes, room⟩ := hr
  unfold actOn
  simp [hc, ho, takes, room, hf, hm]

theorem actOn_jobEnd (ho : (descOf e.words).op = opJobEnd)
    (hf : jobEndFails t (ringPart t (.sq q k)) e.words (descOf e.words) = none) :
    actOn q k e t = some (endJob (ringPart t (.sq q k)) (queNumber q k) e.wd (descOf e.words) t) := by
  obtain ⟨takes, room⟩ := hr
  unfold actOn
  simp [hc, ho, takes, room, hf, opJobStart, opJobEnd]

theorem actOn_jobAbort (ho : (descOf e.words).op = opJobAbort)
    (hf : jobEndFails t (ringPart t (.sq q k)) e.words (descOf e.words) = none) :
    actOn q k e t = some (cancelJob (ringPart t (.sq q k)) (descOf e.words).job
      (endJob (ringPart t (.sq q k)) (queNumber q k) e.wd (descOf e.words) t)) := by
  obtain ⟨takes, room⟩ := hr
  unfold actOn
  simp [hc, ho, takes, room, hf, opJobStart, opJobEnd, opJobAbort]

end

/-- A command of one OP carries out the descriptor in turn of that OP. -/
theorem exec_inTurn {c : Instr} {op : Nat} {q : QuadId} {k : Fin 16} {e : SqEntry} {s t u : State}
    (hc : exec c s = .next (dispatchRow (· == op) q s)) (h : Safety.inTurn s q k e t) (ho : (descOf e.words).op = op)
    (ha : actOn q k e t = some u) (hu : Calm t u) :
    exec c s = .next (modQuad q (fun x => { x with lastSq := k.val }) u) :=
  hc.trans (congrArg _ (dispatchRow_inTurn h (beq_iff_eq.mpr ho) ha hu.free))

section
variable (p : Fin 4) (sq wd : Nat) (d : Desc) (s : State)

theorem endJob_quad : (endJob p sq wd d s).quads[leadQuad s p] = { s.quads[leadQuad s p] with
    ending := maskSet s.quads[leadQuad s p].ending d.job.toNat
    jobEnds := s.quads[leadQuad s p].jobEnds ++ [(d.job, sq, d.cq, wd, d.cookie, s.dev.genLive)] } := by
  rw [endJob, modQuad_quad, if_pos rfl]

theorem endJob_calm : Calm s (endJob p sq wd d s) := Calm.modQuad _ _ s

end

/-! ## The number of a job freed -/

/-- A dispatcher's tables once a job's number is free. -/
def jobCleared (job : BitVec 6) (x : QuadSt) : QuadSt :=
  { x with
    granted := maskClear x.granted job.toNat, ending := maskClear x.ending job.toNat
    jobEnds := x.jobEnds.filter (fun e => decide (e.1 ≠ job)) }

/-- A job's number, slots and parameters are free, and the meter has its mark. -/
def jobFreed (p : Fin 4) (job : BitVec 6) (s : State) : State :=
  s |> modQuad (leadQuad s p) (jobCleared job) |> freeJobSlots p job |> setJobParam p job jobParamDefault
    |> sendMark markJobStop p job 0

theorem freeJob_held {p : Fin 4} {job : BitVec 6} {s : State} (h : ∃ i ∈ s.items, i.key.part = p ∧ i.job = job) :
    freeJob p job s = s := by
  obtain ⟨i, hi, of⟩ := h
  have held : s.items.any (fun i => decide (i.key.part = p ∧ i.job = job)) = true :=
    List.any_eq_true.mpr ⟨i, hi, decide_eq_true of⟩
  unfold freeJob
  simp only [held, Bool.or_true, Bool.true_or, if_true]

theorem freeJob_frees {p : Fin 4} {job : BitVec 6} {s : State} {r : BitVec 6 × Nat × Nat × Nat × BitVec 16 × Byte}
    (he : maskHas s.quads[leadQuad s p].ending job.toNat = true) (hi : ∀ i ∈ s.items, ¬ (i.key.part = p ∧ i.job = job))
    (hm : markRoom s 1 = true) (hf : s.quads[leadQuad s p].jobEnds.find? (fun x => decide (x.1 = job)) = some r)
    (hr : queRoom s (.cq (cqOfNat r.2.2.1).1 (cqOfNat r.2.2.1).2) 4 = true) :
    freeJob p job s =
      postCommand r.2.2.1 stDone r.2.2.2.2.2 p job r.2.1 r.2.2.2.1 r.2.2.2.2.1 (jobFreed p job s) := by
  have none_ : s.items.any (fun i => decide (i.key.part = p ∧ i.job = job)) = false :=
    List.any_eq_false.mpr fun i hm => by simpa using hi i hm
  unfold freeJob
  simp only [he, none_, hm, hf, hr, Bool.not_true, Bool.or_self, Bool.false_eq_true, if_false]
  rfl

section
variable (p : Fin 4) (job : BitVec 6) (s : State)

theorem partOfTile_freeJobSlots (x : TileId) : partOfTile (freeJobSlots p job s) x = partOfTile s x :=
  (foldl_leaves (partOfTile · x) (fun _ _ => by rfl) _ _).trans (foldl_leaves (partOfTile · x) (fun _ _ => by rfl) _ s)

theorem freeJobSlots_items : (freeJobSlots p job s).items = s.items :=
  (foldl_leaves State.items (fun _ _ => by rfl) _ _).trans (foldl_leaves State.items (fun _ _ => by rfl) _ s)

theorem freeJobSlots_calm : Calm s (freeJobSlots p job s) :=
  .after (Calm.foldl (fun a q => Calm.modQuad q _ a) _ _) (Calm.foldl (fun a t => Calm.modVec t _ a) _ s)

theorem freeJobSlots_tables : (jobState (freeJobSlots p job s)).1 = (jobState s).1 := by
  refine (foldl_leaves (fun a => (jobState a).1) (fun a q => ?_) _ _).trans
    (foldl_leaves (fun a => (jobState a).1) (fun a t => ?_) _ s)
  · exact congrArg Prod.fst (jobState_modQuad q _ a fun _ => by exact ⟨rfl, rfl, rfl⟩)
  · rfl

theorem freeJobSlots_vec (x : TileId) : (freeJobSlots p job s).tiles[x].vec = if partOfTile s x = p then
    { s.tiles[x].vec with slots := s.tiles[x].vec.slots.map (fun y => if y.owner = some (p, job) then seqSlotFree else y) }
    else s.tiles[x].vec := by
  have streams : (freeJobSlots p job s).tiles = (((quadsOf s p).flatMap quadTiles).foldl (fun a t => modVec t (fun v => { v with
      slots := v.slots.map (fun x => if x.owner = some (p, job) then seqSlotFree else x) }) a) s).tiles :=
    foldl_leaves State.tiles (fun _ _ => by rfl) _ _
  rw [streams, vec_foldl_modVec fun v => ?_]
  · simp only [mem_partTiles]
  · simp only [Vector.map_map]
    refine congrArg (fun w => { v with slots := w }) (Vector.map_congr_left fun y _ => ?_)
    simp only [Function.comp]
    split <;> simp_all [seqSlotFree]

/-- No slot of the partition's tiles is a freed job's. -/
theorem seqSlot_freeJobSlots (x : TileId) (hx : partOfTile s x = p) (n : Nat) :
    (seqSlot (freeJobSlots p job s) x n).owner ≠ some (p, job) := by
  unfold seqSlot vat
  rw [freeJobSlots_vec, if_pos hx, Vector.getElem?_map]
  cases s.tiles[x].vec.slots[n]? with
  | none => simp [seqSlotFree]
  | some y =>
    simp only [Option.map_some, Option.getD_some]
    split
    · simp [seqSlotFree]
    · assumption

theorem jobFreed_items : (jobFreed p job s).items = s.items := by
  simp [jobFreed, freeJobSlots_items]

theorem jobFreed_calm : Calm s (jobFreed p job s) :=
  .after (sendMark_calm _ _ _ _ _) (.after (setJobParam_calm _ _ _ _) (.after (freeJobSlots_calm _ _ _) (Calm.modQuad _ _ s)))

theorem jobFreed_tables : (jobState (jobFreed p job s)).1 = (jobState (modQuad (leadQuad s p) (jobCleared job) s)).1 := by
  rw [jobFreed, jobState_sendMark]
  refine Eq.trans ?_ (freeJobSlots_tables p job _)
  simp only [jobState, setJobParam_quads]

theorem jobFreed_granted : (jobFreed p job s).quads[leadQuad s p].granted = maskClear s.quads[leadQuad s p].granted job.toNat := by
  have h := congrArg (fun j => (j (leadQuad s p)).1) (jobFreed_tables p job s)
  simpa only [jobState, modQuad_quad, if_true, jobCleared] using h

theorem jobFreed_ending : (jobFreed p job s).quads[leadQuad s p].ending = maskClear s.quads[leadQuad s p].ending job.toNat := by
  have h := congrArg (fun j => (j (leadQuad s p)).2.1) (jobFreed_tables p job s)
  simpa only [jobState, modQuad_quad, if_true, jobCleared] using h

variable (x : TileId) (hx : partOfTile s x = p)
include hx

theorem jobParam_jobFreed : jobParam (jobFreed p job s) x job.toNat = jobParamDefault := by
  have moved : partOfTile (freeJobSlots p job (modQuad (leadQuad s p) (jobCleared job) s)) x = p :=
    (partOfTile_freeJobSlots p job _ x).trans hx
  rw [jobFreed, jobParam_of_jobState (jobState_sendMark _ _ _ _ _), jobParam_setJobParam, if_pos ⟨moved, rfl⟩]

theorem seqSlot_jobFreed (n : Nat) : (seqSlot (jobFreed p job s) x n).owner ≠ some (p, job) := by
  rw [jobFreed, seqSlot_of_jobState (jobState_sendMark _ _ _ _ _), seqSlot_setJobParam]
  exact seqSlot_freeJobSlots p job (modQuad (leadQuad s p) (jobCleared job) s) x hx n

end

theorem maskHas_maskClear_same (w : BitVec 64) (job : BitVec 6) : maskHas (maskClear w job.toNat) job.toNat = false := by
  rw [maskHas_maskClear w job.toNat job.isLt]
  simp

/-- The record of a command DONE: ITEM 0xFFFF, STATUS 0 and its generation (R313, R316). -/
theorem commandRecord_done (gen : Byte) (job sq wd detail cookie : Nat) :
    fld (hword (commandRecord stDone gen.toNat job sq wd detail cookie) 0) 23 0 = 0xFFFF ∧
    fld (hword (commandRecord stDone gen.toNat job sq wd detail cookie) 1) 7 0 = gen.toNat := by
  have hg := gen.isLt
  simp only [commandRecord, recordWords, hword, fld, stDone, List.getD_cons_zero, List.getD_cons_succ, BitVec.toNat_ofNat]
  omega

theorem postCommand_done (n : Nat) (gen : Byte) (p : Fin 4) (job : BitVec 6) (sq wd : Nat) (cookie : BitVec 16) (s : State) :
    ∃ ws, (queOf (postCommand n stDone gen p job sq wd cookie s) (.cq (cqOfNat n).1 (cqOfNat n).2)).pkts.getLast?.map (·.body) =
      some (.record ws) ∧ fld (hword ws 0) 23 0 = 0xFFFF ∧ fld (hword ws 1) 7 0 = gen.toNat := by
  refine ⟨_, ?_, commandRecord_done gen (jobByte p job) sq wd ((takeFree s).1 % 2 ^ 32) cookie.toNat⟩
  refine (congrArg (fun l => l.getLast?.map (·.body)) (postRecord_pkts n _ _)).trans ?_
  rw [List.getLast?_concat]
  rfl

/-- While an item of the job is in flight JOB_NUMBER_FREE frees nothing. -/
theorem exec_jobNumberFree_held {p : Fin 4} {job : BitVec 6} {s : State} (h : ∃ i ∈ s.items, i.key.part = p ∧ i.job = job) :
    exec (.jobNumberFree p job) s = .next (Safety.unmarked s) := by
  have same : freeJob p job (Safety.unmarked s) = Safety.unmarked s := freeJob_held h
  refine (congrArg _ (unlessHeld_goes (freeJob p job) s ?_ ?_)).trans (congrArg _ same)
  · rw [same]; rfl
  · rw [same]; rfl

/-- Settles O36, command by command: each acts on the job tables, the parameters and the items, which the record it posts leaves. -/
theorem jobs : Obligations.Jobs := by
  unfold Obligations.Jobs
  refine ⟨fun q k e s t hturn hcode hready => ⟨fun hop hfails hroom => ?_, fun hop hfails => ?_, fun hop hfails hkeys => ?_⟩,
    fun p job s => ⟨exec_jobNumberFree_held, fun r hfree hqroom hending hitems hroom hfind => ?_⟩⟩
  · have act := actOn_jobStart q k t hcode hready hop hfails hroom
    refine ⟨_, exec_inTurn rfl hturn hop act (.after (postCommand_calm ..) (startJob_calm _ _ t)), ?_,
      (postCommand_posts _ _ _ _ _ _ _ _ _ (by decide)).1.trans (startJob_items _ _ t), fun x n => ?_⟩
    · rw [granted_of_jobState (jobState_lastSq ..), granted_of_jobState (jobState_postCommand ..)]
      exact startJob_granted ..
    · rw [jobParam_of_jobState (jobState_lastSq ..), jobParam_of_jobState (jobState_postCommand ..)]
      exact jobParam_startJob ..
  · have act := actOn_jobEnd q k t hcode hready hop hfails
    refine ⟨_, exec_inTurn rfl hturn hop act (endJob_calm ..), rfl, ?_, ?_⟩
    · rw [ending_of_jobState (jobState_lastSq ..), endJob_quad]
    · rw [jobEnds_of_jobState (jobState_lastSq ..), endJob_quad]
  · have act := actOn_jobAbort q k t hcode hready hop hfails
    refine ⟨_, exec_inTurn rfl hturn hop act (.after (cancelJob_calm ..) (endJob_calm ..)), ?_, cancelJob_items _ _ _ hkeys⟩
    rw [ending_of_jobState (jobState_lastSq ..), ending_of_jobState (jobState_cancelJob ..), endJob_quad]
  · have frees := freeJob_frees (s := Safety.unmarked s) hending hitems hroom hfind hqroom
    have calm : Calm (Safety.unmarked s) (freeJob p job (Safety.unmarked s)) :=
      frees ▸ .after (postCommand_calm ..) (jobFreed_calm p job _)
    obtain ⟨marked, passed, -⟩ := calm.free ⟨rfl, rfl, hfree⟩
    refine ⟨_, congrArg Host.Outcome.next ((unlessHeld_goes _ s marked passed).trans frees), ?_, ?_,
      (postCommand_posts _ _ _ _ _ _ _ _ _ (by decide)).1.trans (jobFreed_items ..),
      postCommand_done .., fun x hx => ⟨?_, fun n _ => ?_⟩⟩
    · rw [granted_of_jobState (jobState_postCommand ..)]
      exact (congrArg (maskHas · _) (jobFreed_granted p job _)).trans (maskHas_maskClear_same _ job)
    · rw [ending_of_jobState (jobState_postCommand ..)]
      exact (congrArg (maskHas · _) (jobFreed_ending p job _)).trans (maskHas_maskClear_same _ job)
    · rw [jobParam_of_jobState (jobState_postCommand ..)]
      exact jobParam_jobFreed p job _ x hx
    · rw [seqSlot_of_jobState (jobState_postCommand ..)]
      exact seqSlot_jobFreed p job (Safety.unmarked s) x hx n

end Sys2Proof.Machine

end

section
/-! SUPPORT. The array's beats (R111, R122 to R126): a beat that feeds a slot of a step with nothing in its way, and what it counts. -/

namespace Sys2Proof.Machine
open Sys2Proof

/-! ## The gang of a leader -/

theorem modMnt_tile (t x : TileId) (f : MntSt → MntSt) (s : State) :
    (modMnt t f s).tiles[x] = if x = t then { s.tiles[t] with mnt := f s.tiles[t].mnt } else s.tiles[x] :=
  modTile_tile t x _ s

@[simp] theorem gangOf_setGang (l : TileId) (g : GangSt) (s : State) : gangOf (setGang l g s) l = g := by
  rw [gangOf, setGang, modMnt_tile, if_pos rfl]

@[simp] theorem setGang_gangOf (l : TileId) (s : State) : setGang l (gangOf s l) s = s := by
  have tiles : s.tiles.set l.val s.tiles[l] = s.tiles := Vector.set_getElem_self l.isLt
  exact congrArg (fun x => { s with tiles := x }) tiles

/-- An update of a tile's array segment leaves every memory. -/
theorem sameMemory_modMnt (t : TileId) (f : MntSt → MntSt) (s : State) : Safety.sameMemory s (modMnt t f s) := by
  refine ⟨rfl, rfl, fun x => ?_⟩
  rw [modMnt_tile]
  split
  · next e => subst e; exact ⟨rfl, rfl, rfl⟩
  · exact ⟨rfl, rfl, rfl⟩

/-- Memory is seen in the tiles, in what the stacks hold and in its code faults alone. -/
theorem sameMemory_congr {s u v : State} (ht : v.tiles = u.tiles) (hm : v.hbm = u.hbm) (he : v.hbmErr = u.hbmErr)
    (h : Safety.sameMemory s u) : Safety.sameMemory s v := by
  obtain ⟨hbm, err, tiles⟩ := h
  exact ⟨hm.trans hbm, he.trans err, fun x => by rw [ht]; exact tiles x⟩

/-! ## A step that is fed with nothing in its way -/

/-- Step p of descriptor d is being fed in tile t's gang, with no ramp, bubble, drain, hold or reserved bank in its way, and slots left
for a beat after this one. -/
structure Unhindered (t : TileId) (p : StepPlan) (d : ArrDesc) (s : State) : Prop where
  safe : s.flt.safe = false
  leader : liveLeader s t = t
  plan : (gangOf s t).plan = some p
  desc : gangDesc (gangOf s t) p.serial = some d
  drains : (gangOf s t).drains = []
  runs : (gangOf s t).runOpen = true
  ramp : (gangOf s t).ramp.kind = 0
  left : 15 * rampLen s t / 32 < slotsLeft (gangGeo s t) (gangOf s t)
  power : s.pwr.quads[quadOf t].fa = 0
  due : p.holdUntil ≤ (gangOf s t).beat
  slot : p.pos < p.rb
  more : p.pos + 1 < p.c
  rings : ∀ x ∈ (gangOf s t).descs, x.newRing = false
  banks : ∀ x : TileId, s.tiles[x].wideReserved = none

/-- While a step is being fed no other is formed. -/
theorem formNext_planned {e : GangGeo} {s : State} {p : StepPlan} (h : (gangOf s e.l).plan = some p) (n : Nat) : formNext e n s = s := by
  cases n with
  | zero => rfl
  | succ n => rw [formNext, h]; rfl

theorem colState_idle {g : GangSt} (h : g.drains = []) (s : State) (e : GangGeo) (j : Nat) : colState s e g j = .idle := by
  rw [colState, h]
  rfl

theorem feedReserved_none {s : State} (h : ∀ x : TileId, s.tiles[x].wideReserved = none) (e : GangGeo) (d : ArrDesc) (idx : Nat) :
    feedReserved e d idx s = false := by
  have none_ : s.tiles.any (·.wideReserved.isSome) = false := by
    rw [Vector.any_eq_false]
    intro i hi
    exact Option.not_isSome_iff_eq_none.mpr (h ⟨i, hi⟩)
  rw [feedReserved, none_]
  rfl

theorem feedWaits_none {s : State} (h : ∀ x : TileId, s.tiles[x].wideReserved = none) (e : GangGeo) : feedWaits e s = false := by
  unfold feedWaits
  dsimp only
  split
  · split
    · exact feedReserved_none h ..
    · rfl
  · split
    · exact feedReserved_none h ..
    · rfl

theorem openRings_none {e : GangGeo} {s : State} (h : ∀ x ∈ (gangOf s e.l).descs, x.newRing = false) : openRings e s = s := by
  refine foldl_same (fun b => ?_) _
  unfold openRingsAt
  dsimp only
  split
  · rfl
  · next d i found =>
    have member := List.mem_of_find?_eq_some found
    have store := (List.mem_filter.mp (List.fst_mem_of_mem_zipIdx member)).1
    simpa [h d store] using List.find?_some found

/-- A beat in which no step drains changes nothing before its slot. -/
theorem drainBeat_idle {e : GangGeo} {s : State} (hd : (gangOf s e.l).drains = [])
    (hr : ∀ x ∈ (gangOf s e.l).descs, x.newRing = false) : drainBeat e [] s = s := by
  have count : (List.range e.n).foldl (countDrained e (gangOf s e.l)) s = s :=
    foldl_same (fun b => by simp [countDrained, hd]) _
  unfold drainBeat
  simp only [List.filterMap_nil, List.map_nil, List.eraseDups_nil, List.foldl_nil, count, hd, List.zip_nil_left, List.filter_nil]
  have same : setGang e.l { gangOf s e.l with drains := [] } s = s := by
    rw [← hd]
    exact setGang_gangOf e.l s
  rw [same]
  exact openRings_none hr

theorem waveBlocked_idle {g : GangSt} (h : g.drains = []) (e : GangGeo) : waveBlocked e g = [] := by
  rw [waveBlocked, h]
  rfl

/-- An open run without a ramp stays as it is while enough slots are left (R126). -/
theorem runState_steady {len left : Nat} {g : GangSt} (hr : g.runOpen = true) (hk : g.ramp.kind = 0) (hl : 15 * len / 32 < left) :
    runState len left g = g := by
  have climb : climbBack len g.ramp = g.ramp := if_pos (by rw [hk]; decide)
  have opened : (if g.runOpen then g else { g with runOpen := true, ramp := ⟨1, 0, 0⟩, haltRun := 0 }) = g := if_pos hr
  rw [runState, opened, if_neg (Nat.not_le.mpr hl), climb]

/-- The cause of a beat in which only a bank stands in the way. -/
def bankCause : BankWait → Option Nat
  | .granted => none
  | .conflict => some stallConflict
  | .convoy => some stallConvoy

/-- The gang after a beat that admits a slot of step p, and after one that a bank has stalled. -/
def fedGang (p : StepPlan) (g : GangSt) : GangSt :=
  { g with
    ramp := { g.ramp with acc := g.ramp.acc - 8 }, haltRun := 0, plan := some { p with pos := p.pos + 1 }
    adm := g.adm + 1, beat := g.beat + 1, pos64 := (g.pos64 + 1) % 64 }
def stalledGang (g : GangSt) : GangSt :=
  { g with haltRun := g.haltRun + 1, beat := g.beat + 1, pos64 := (g.pos64 + 1) % 64 }

section
variable {t : TileId} {p : StepPlan} {d : ArrDesc} {s : State} (h : Unhindered t p d s)
include h

theorem Unhindered.active : gangActive s t = true := by
  have member := List.mem_of_find?_eq_some h.desc
  have : (gangOf s t).descs ≠ [] := List.ne_nil_of_mem member
  simp [gangActive, this]

theorem Unhindered.gangBeat_eq (w : BankWait) : gangBeat t w s = slotBeat (gangGeo s t) w d.key (genWaits s t).isSome s := by
  have idle := drainBeat_idle (e := gangGeo s t) h.drains h.rings
  unfold gangBeat
  simp only [formNext_planned (e := gangGeo s t) h.plan, colState_idle h.drains, List.filterMap_map, Function.comp_def,
    List.filterMap_none, idle, h.plan, h.desc, Option.map_some, feedWaits_none h.banks, Bool.false_eq_true, if_false]

theorem Unhindered.slotBeat_eq (w : BankWait) (key : ItemKey) (gen : Bool) : slotBeat (gangGeo s t) w key gen s =
    match bankCause w with
    | none => itemBeat t key (countBlocks t (arrArgs d.words).kb p (setGang t (fedGang p (gangOf s t)) s))
    | some c => countStall t (shownCause gen c) (setGang t (stalledGang (gangOf s t)) s) := by
  have desc : ∀ g : GangSt, g.descs = (gangOf s t).descs → gangDesc g p.serial = some d := fun g e => by
    rw [gangDesc, e]
    exact h.desc
  have bubble : ∀ n, bubbleAt s.pwr.quads[quadOf t].fa n = false := fun n => by rw [h.power]; rfl
  have follow : ∀ g : GangSt, g.drains = [] → followFrom (gangGeo s t) g p = 0 := fun g e => by rw [followFrom, e]; rfl
  have ramp : ∀ taken, rampTake (rampLen s t) taken (gangOf s t).ramp =
      if taken then { (gangOf s t).ramp with acc := (gangOf s t).ramp.acc - 8 } else (gangOf s t).ramp := fun taken => by
    cases taken <;> simp [rampTake, h.ramp]
  have run := runState_steady h.runs h.ramp h.left
  have leader : (gangGeo s t).l = t := rfl
  unfold slotBeat
  simp only [leader, h.plan, h.runs, Bool.true_or, if_true, run, rampBeat, h.ramp, bubble, waveBlocked_idle h.drains,
    follow _ h.drains, Nat.not_lt.mpr h.due, Nat.not_le.mpr h.slot, decide_false, Nat.not_lt_zero, Bool.and_false, Bool.or_false, ramp,
    blockedByTag, List.any_nil, List.isEmpty_nil, Bool.not_true, slotCause, Bool.false_eq_true, if_false]
  have stalled : ∀ c, c = stallConflict ∨ c = stallConvoy → c ≠ stallEmpty ∧ c ≠ stallDrain ∧ c ≠ stallBubble := by
    rintro c (rfl | rfl) <;> decide
  cases w with
  | granted =>
    simp [bankCause, Nat.ne_of_lt h.more, waveStep, desc, fedGang, h.runs, h.ramp]
  | conflict =>
    obtain ⟨empty, drain, bubble⟩ := stalled stallConflict (.inl rfl)
    simp [bankCause, empty, drain, bubble, waveStep, stalledGang, h.runs, h.plan]
  | convoy =>
    obtain ⟨empty, drain, bubble⟩ := stalled stallConvoy (.inr rfl)
    simp [bankCause, empty, drain, bubble, waveStep, stalledGang, h.runs, h.plan]

theorem Unhindered.exec_eq (w : BankWait) : exec (.arrayBeat t w) s =
    .next (slotBeat (gangGeo s t) w d.key (genWaits s t).isSome s) := by
  rw [← h.gangBeat_eq w]
  refine congrArg Host.Outcome.next (if_neg ?_)
  simp [h.safe, h.active, h.leader]

end

/-! ## What a beat counts -/

theorem reg_of_regs {s u : State} (h : u.regs = s.regs) (b : Block) (o : Nat) : reg u b o = reg s b o := by
  rw [reg, reg, regAt, regAt, h]

theorem setGang_regs (l : TileId) (g : GangSt) (s : State) : (setGang l g s).regs = s.regs := rfl

/-- A 48-bit counter of a page gains n; no other register of the page changes. -/
theorem reg_bump (b : Block) (o x n : Nat) (s : State) :
    reg (bump b o n s) b x = if x = o then min (reg s b o + n) (2 ^ 48 - 1) else reg s b x := by
  rw [reg, bump, regAt_bumpAt]
  simp only [Nat.add_left_cancel_iff]
  rfl

theorem reg_countBlocks (l : TileId) (kb : Nat) (p : StepPlan) (s : State) {o : Nat}
    (ho : o ≠ Off.mntKbRun ∧ o ≠ Off.mntKbPromo ∧ o ≠ Off.mntKbSkip) : reg (countBlocks l kb p s) (mnt l) o = reg s (mnt l) o := by
  obtain ⟨run, promo, skip⟩ := ho
  unfold countBlocks
  simp only [reg_bump, run, promo, skip, if_false]

/-- The counters of the stall causes lie apart from the others. -/
theorem mntStall_apart {c : Nat} (hc : c < 12) : Off.mntStall + 8 * c ≠ Off.mntBeats ∧ Off.mntStall + 8 * c ≠ Off.mntKbRun ∧
    Off.mntStall + 8 * c ≠ Off.mntKbPromo ∧ Off.mntStall + 8 * c ≠ Off.mntKbSkip := by
  unfold Off.mntStall Off.mntBeats Off.mntKbRun Off.mntKbPromo Off.mntKbSkip
  omega

section
variable {t : TileId} {p : StepPlan} {d : ArrDesc} {s : State}

/-- The state after a beat that admits a slot. -/
def fedState (t : TileId) (p : StepPlan) (d : ArrDesc) (s : State) : State :=
  itemBeat t d.key (countBlocks t (arrArgs d.words).kb p (setGang t (fedGang p (gangOf s t)) s))

theorem gangOf_fedState : gangOf (fedState t p d s) t = fedGang p (gangOf s t) := gangOf_setGang t _ s

theorem fedState_memory : Safety.sameMemory s (fedState t p d s) :=
  sameMemory_congr rfl rfl rfl (sameMemory_modMnt t (fun m => { m with gang := fedGang p (gangOf s t) }) s)

/-- One beat is counted, of the gang's counters of beats and stalls in that of the beats alone. -/
theorem reg_fedState {o : Nat} (ho : o ≠ Off.mntKbRun ∧ o ≠ Off.mntKbPromo ∧ o ≠ Off.mntKbSkip) :
    reg (fedState t p d s) (mnt t) o =
      if o = Off.mntBeats then min (reg s (mnt t) Off.mntBeats + 1) (2 ^ 48 - 1) else reg s (mnt t) o := by
  rw [fedState, itemBeat, reg_bump, reg_of_regs (modItem_regs ..), reg_of_regs (modItem_regs ..), reg_countBlocks t _ p _ ho,
    reg_countBlocks t _ p _ (by decide), reg_of_regs (setGang_regs ..), reg_of_regs (setGang_regs ..)]

/-- The state after a beat that a bank has stalled. -/
def stalledState (t : TileId) (c : Nat) (s : State) : State := countStall t c (setGang t (stalledGang (gangOf s t)) s)

theorem gangOf_stalledState (c : Nat) : gangOf (stalledState t c s) t = stalledGang (gangOf s t) := gangOf_setGang t _ s

theorem stalledState_memory (c : Nat) : Safety.sameMemory s (stalledState t c s) :=
  sameMemory_congr rfl rfl rfl (sameMemory_modMnt t (fun m => { m with gang := stalledGang (gangOf s t) }) s)

/-- A stall is counted under its cause alone. -/
theorem reg_stalledState (c o : Nat) : reg (stalledState t c s) (mnt t) o =
    if o = Off.mntStall + 8 * c then min (reg s (mnt t) o + 1) (2 ^ 48 - 1) else reg s (mnt t) o := by
  rw [stalledState, countStall, reg_bump]
  split
  · next e => rw [e, reg_of_regs (setGang_regs ..)]
  · rw [reg_of_regs (setGang_regs ..)]

theorem reg_stalledState_stall (c k : Nat) : reg (stalledState t c s) (mnt t) (Off.mntStall + 8 * k) =
    if k = c then min (reg s (mnt t) (Off.mntStall + 8 * k) + 1) (2 ^ 48 - 1) else reg s (mnt t) (Off.mntStall + 8 * k) := by
  have same : Off.mntStall + 8 * k = Off.mntStall + 8 * c ↔ k = c := by omega
  rw [reg_stalledState]
  simp only [same]

/-- The cause of a beat that is not granted. -/
theorem bankCause_stalled {w : BankWait} (hw : w ≠ .granted) :
    bankCause w = some (if w = .conflict then stallConflict else stallConvoy) := by
  cases w with
  | granted => exact absurd rfl hw
  | _ => rfl

theorem exec_arrayBeat_granted (h : Unhindered t p d s) : exec (.arrayBeat t .granted) s = .next (fedState t p d s) := by
  rw [h.exec_eq, h.slotBeat_eq]
  rfl

/-- With no descriptor waiting for its generation a stall shows the bank's cause. -/
theorem exec_arrayBeat_stalled (h : Unhindered t p d s) {w : BankWait} (hw : w ≠ .granted) (hg : genWaits s t = none) :
    exec (.arrayBeat t w) s = .next (stalledState t (if w = .conflict then stallConflict else stallConvoy) s) := by
  rw [h.exec_eq, h.slotBeat_eq, bankCause_stalled hw, hg]
  rfl

/-- A beat leaves the memories, and is one beat more of the gang, however its bank answers. -/
theorem exec_arrayBeat_next (h : Unhindered t p d s) (w : BankWait) : ∃ u, exec (.arrayBeat t w) s = .next u ∧
    Safety.sameMemory s u ∧ (gangOf u t).beat = (gangOf s t).beat + 1 := by
  rw [h.exec_eq, h.slotBeat_eq]
  split
  · exact ⟨_, rfl, fedState_memory, congrArg GangSt.beat gangOf_fedState⟩
  · exact ⟨_, rfl, stalledState_memory _, congrArg GangSt.beat (gangOf_stalledState _)⟩

end

end Sys2Proof.Machine
end

section
/-! SUPPORT. The end of array work (R116, R126, R134), and the statement of the array's beats. -/

namespace Sys2Proof.Machine
open Sys2Proof

/-! ## Tokens and counters of a tile's sequencer -/

theorem modSeq_tile (t x : TileId) (f : SeqSt → SeqSt) (s : State) :
    (modSeq t f s).tiles[x] = if x = t then { s.tiles[t] with seq := f s.tiles[t].seq } else s.tiles[x] :=
  modTile_tile t x _ s

/-- The tokens that a predicate names are free, and the others stay (R301). -/
theorem token_freeTokens (t : TileId) (p : TokenHold → Bool) (s : State) (k : Nat) (h : TokenHold) :
    vat (freeTokens t p s).tiles[t].seq.tokens k none = some h ↔ vat s.tiles[t].seq.tokens k none = some h ∧ p h = false := by
  have kept : ∀ o : Option TokenHold, (match o with
      | some x => if p x then none else some x
      | none => none) = some h ↔ o = some h ∧ p h = false := by
    rintro (_ | x)
    · simp
    · by_cases e : x = h
      · subst e; cases hx : p x <;> simp [hx]
      · cases p x <;> simp [e]
  rw [freeTokens, modSeq_tile, if_pos rfl]
  simp only [vat, Vector.getElem?_map]
  cases s.tiles[t].seq.tokens[k]? with
  | none => simp
  | some o => exact kept o

/-- An update of a tile's sequencer leaves every memory. -/
theorem sameMemory_modSeq (t : TileId) (f : SeqSt → SeqSt) (s : State) : Safety.sameMemory s (modSeq t f s) := by
  refine ⟨rfl, rfl, fun x => ?_⟩
  rw [modSeq_tile]
  split
  · next e => subst e; exact ⟨rfl, rfl, rfl⟩
  · exact ⟨rfl, rfl, rfl⟩

theorem sameMemory_trans {s t u : State} (h : Safety.sameMemory s t) (g : Safety.sameMemory t u) : Safety.sameMemory s u := by
  obtain ⟨hbm, err, tiles⟩ := h
  obtain ⟨hbm', err', tiles'⟩ := g
  refine ⟨hbm'.trans hbm, err'.trans err, fun x => ?_⟩
  obtain ⟨a, p, w⟩ := tiles x
  obtain ⟨a', p', w'⟩ := tiles' x
  exact ⟨a'.trans a, p'.trans p, w'.trans w⟩

/-- Counter k gains 1, and no other counter of the tile changes (R302). -/
theorem counterOf_addCounter (t : TileId) (k c : Nat) (s : State) :
    counterOf (addCounter t k s) t c = if k = c then counterOf s t c + 1 else counterOf s t c := by
  rw [addCounter, setCounter, setReg, counterOf, reg, regAt_setRegAt]
  by_cases h : k = c
  · subst h
    have small : (counterOf s t k + 1).toNat < 2 ^ 64 := lt_trans (counterOf s t k + 1).isLt (by norm_num)
    rw [if_pos rfl, if_pos rfl, Nat.mod_eq_of_lt small, BitVec.ofNat_toNat, BitVec.setWidth_eq]
  · rw [if_neg (by omega), if_neg h]
    rfl

/-! ## A descriptor completes -/

/-- What a change of array segments leaves of every tile but its segment's watches, with the registers, the items and main memory. -/
def beyondWatches (s : State) : List Host.Cell × FMap Nat × List Item × FMap DWord ×
    (TileId → GangSt × SeqSt × TMem × TMem × TMem) :=
  (s.hbm, s.hbmErr, s.items, s.regs, fun x => (s.tiles[x].mnt.gang, s.tiles[x].seq, s.tiles[x].amem, s.tiles[x].pmem, s.tiles[x].wmem))

theorem beyondWatches_modMnt (t : TileId) {f : MntSt → MntSt} (hf : ∀ m, (f m).gang = m.gang) (s : State) :
    beyondWatches (modMnt t f s) = beyondWatches s := by
  have tile : ∀ x : TileId, (modMnt t f s).tiles[x] = if x = t then { s.tiles[t] with mnt := f s.tiles[t].mnt } else s.tiles[x] :=
    fun x => modMnt_tile t x f s
  simp only [beyondWatches, Prod.mk.injEq]
  refine ⟨rfl, rfl, rfl, rfl, funext fun x => ?_⟩
  rw [tile]
  split
  · next e => subst e; simp only [hf]
  · rfl

/-- A gang without a completed descriptor; without any it is idle. -/
def gangWithout (d : ArrDesc) (g : GangSt) : GangSt :=
  let descs := g.descs.filter (fun x => decide (x.serial ≠ d.serial))
  { (if descs.isEmpty ∧ g.plan.isNone ∧ g.drains.isEmpty
      then { g with runOpen := false, ramp := ⟨0, 0, 0⟩, beat := 0, adm := 0, tend := 0, tailKey := none, haltRun := 0 } else g)
    with descs := descs }

theorem gangWithout_descs (d : ArrDesc) (g : GangSt) :
    (gangWithout d g).descs = g.descs.filter (fun x => decide (x.serial ≠ d.serial)) := rfl

/-- The images of a descriptor are no longer in use at a tile (R150). -/
def unwatch (l : TileId) (d : ArrDesc) (m : MntSt) : MntSt :=
  { m with
    watches := m.watches.filter (fun w => decide (w.leader ≠ l) || decide (w.serial ≠ d.serial))
    disturbed := m.disturbed.filter (fun w => decide (w.1 ≠ l) || decide (w.2.1 ≠ d.serial)) }

/-- The gang without the descriptor, its images no longer in use. -/
def undescribed (l : TileId) (d : ArrDesc) (s : State) : State :=
  let t := setGang l (gangWithout d (gangOf s l)) s
  (liveMembers t l).foldl (fun s x => modMnt x (unwatch l d) s) t

/-- Its token is free. -/
def untokened (l : TileId) (d : ArrDesc) (s : State) : State :=
  freeTokens d.issuer (fun h => h.eng == .array && h.serial == d.serial) (undescribed l d s)

theorem completeArray_eq (l : TileId) (d : ArrDesc) (s : State) : completeArray l d s =
    match d.cnt with
    | some k => addCounter d.issuer k (untokened l d s)
    | none => untokened l d s := rfl

section
variable (l : TileId) (d : ArrDesc) (s : State)

theorem undescribed_view : beyondWatches (undescribed l d s) = beyondWatches (setGang l (gangWithout d (gangOf s l)) s) :=
  foldl_leaves beyondWatches (f := fun s x => modMnt x (unwatch l d) s) (fun s x => beyondWatches_modMnt x (f := unwatch l d) (fun _ => rfl) s) _ _

theorem undescribed_gang : gangOf (undescribed l d s) l = gangWithout d (gangOf s l) :=
  (congrArg (fun v => (v.2.2.2.2 l).1) (undescribed_view l d s)).trans (gangOf_setGang ..)

theorem undescribed_regs : (undescribed l d s).regs = s.regs := congrArg (fun v => v.2.2.2.1) (undescribed_view l d s)

theorem undescribed_items : (undescribed l d s).items = s.items := congrArg (fun v => v.2.2.1) (undescribed_view l d s)

theorem undescribed_seq (x : TileId) : (undescribed l d s).tiles[x].seq = s.tiles[x].seq := by
  have view : (undescribed l d s).tiles[x].seq = (setGang l (gangWithout d (gangOf s l)) s).tiles[x].seq :=
    congrArg (fun v => (v.2.2.2.2 x).2.1) (undescribed_view l d s)
  rw [view, setGang, modMnt_tile]
  split
  · next e => rw [e]
  · rfl

theorem undescribed_memory : Safety.sameMemory s (undescribed l d s) := by
  have view := undescribed_view l d s
  simp only [beyondWatches, Prod.mk.injEq] at view
  obtain ⟨hbm, err, -, -, tiles⟩ := view
  refine sameMemory_trans (sameMemory_modMnt l (fun m => { m with gang := gangWithout d (gangOf s l) }) s) ⟨hbm, err, fun x => ?_⟩
  have tile := congrFun tiles x
  simp only [Prod.mk.injEq] at tile
  obtain ⟨-, -, a, p, w⟩ := tile
  exact ⟨a, p, w⟩

theorem untokened_gang : gangOf (untokened l d s) l = gangWithout d (gangOf s l) := by
  rw [← undescribed_gang, untokened, freeTokens, gangOf, modSeq_tile]
  split
  · next e => rw [e]; rfl
  · rfl

theorem untokened_token (k : Nat) (h : TokenHold) : vat (untokened l d s).tiles[d.issuer].seq.tokens k none = some h ↔
    vat s.tiles[d.issuer].seq.tokens k none = some h ∧ ¬ (h.eng = .array ∧ h.serial = d.serial) := by
  rw [untokened, token_freeTokens, undescribed_seq]
  simp

theorem untokened_memory : Safety.sameMemory s (untokened l d s) :=
  sameMemory_trans (undescribed_memory l d s) (sameMemory_modSeq ..)

theorem untokened_counter (c : Nat) : counterOf (untokened l d s) d.issuer c = counterOf s d.issuer c := by
  have regs : (untokened l d s).regs = s.regs := undescribed_regs l d s
  rw [counterOf, counterOf, reg_of_regs regs]

theorem completeArray_gang : gangOf (completeArray l d s) l = gangWithout d (gangOf s l) := by
  rw [← untokened_gang, completeArray_eq]
  split <;> rfl

theorem completeArray_memory : Safety.sameMemory s (completeArray l d s) := by
  rw [completeArray_eq]
  split
  · exact sameMemory_congr rfl rfl rfl (untokened_memory l d s)
  · exact untokened_memory l d s

theorem completeArray_token (k : Nat) (h : TokenHold) : vat (completeArray l d s).tiles[d.issuer].seq.tokens k none = some h ↔
    vat s.tiles[d.issuer].seq.tokens k none = some h ∧ ¬ (h.eng = .array ∧ h.serial = d.serial) := by
  rw [← untokened_token, completeArray_eq]
  split <;> rfl

theorem completeArray_counter (c : Nat) : counterOf (completeArray l d s) d.issuer c =
    if d.cnt = some c then counterOf s d.issuer c + 1 else counterOf s d.issuer c := by
  have before := untokened_counter l d s c
  rw [completeArray_eq]
  split
  · next k e => simp [counterOf_addCounter, e, before]
  · next e => simp [e, before]

theorem completeArray_items : (completeArray l d s).items = s.items := by
  rw [← undescribed_items l d s, completeArray_eq]
  split <;> rfl

end

/-! ## Rows released (R116) -/

/-- Bits [31:16] of MNT_DRAIN_REL must be 0. -/
theorem drainRel_zero {v : Word} (h : v.toNat < 2 ^ 16) : Nat.land v.toNat (mustBeZero .mnt Off.mntDrainRel) = 0 := by
  have mask : mustBeZero .mnt Off.mntDrainRel = 0xFFFF <<< 16 := by decide
  rw [mask]
  refine Nat.eq_of_testBit_eq fun i => ?_
  show (v.toNat &&& (0xFFFF <<< 16)).testBit i = (0).testBit i
  rw [Nat.testBit_and, Nat.testBit_shiftLeft, Nat.zero_testBit]
  by_cases hi : 16 ≤ i
  · rw [Nat.testBit_lt_two_pow (lt_of_lt_of_le h (Nat.pow_le_pow_right (by decide) hi)), Bool.false_and]
  · rw [decide_eq_false hi, Bool.false_and, Bool.and_false]

theorem exec_mntDrainRel {m : Master} {t : TileId} {v : Word} {s : State} (ho : Safety.owns m s) (hv : v.toNat < 2 ^ 16) :
    exec (.mntDrainRel m t v) s = .next (Safety.wrote m (releaseRows t v.toNat s)) := by
  obtain ⟨run, owner, safe⟩ := ho
  have rows : fld v.toNat 15 0 = v.toNat := (Nat.mod_eq_of_lt (by rwa [Nat.pow_zero, Nat.div_one])).trans (Nat.div_one _)
  have row : writeRow (masterIdx m) (firstPage (.tile t .mnt)) Off.mntDrainRel v.toNat s = ok (releaseRows t v.toNat s) :=
    writeRow_own (r := ⟨Off.mntDrainRel, 1, 4, false, .wo, 0x0, 0x0⟩) (base := Off.mntDrainRel) rfl rfl rfl (by decide) (drainRel_zero hv)
      (by rw [← congrArg (releaseRows t · s) rows]; rfl)
  have at_ : writeAt (masterIdx m) 4 (pageBase (.tile t .mnt) 0 + Off.mntDrainRel) v.toNat s = ok (releaseRows t v.toNat s) := by
    rw [writeBlock_permitted (b := .tile t .mnt) (o := Off.mntDrainRel) (by decide) rfl (mayWrite_owner owner nofun) (.inl safe)]
    exact row
  have other : ∀ x : TileId, pageBase (.tile x .mnt) 0 + Off.mntDrainRel ≠ pageBase .own 0 + Off.devReset := by decide +kernel
  exact congrArg Host.Outcome.next (writeCmd_ok run at_ (other t))

/-! ## The statement -/

/-- Settles O32: a beat with nothing in its way either admits a slot or is a stall, and each end of array work is one update of its
gang. -/
theorem arrayBeats : Obligations.ArrayBeats := by
  unfold Obligations.ArrayBeats
  refine ⟨fun t w s => ⟨fun idle => ?idle, fun p d safe leader plan desc drains runs ramp left power due slot more rings banks => ?beat⟩,
    fun t s => ?close, fun t d rest s hd => ⟨fun drained fed => ?complete, fun open_ => ?stays⟩, fun m t v s ho hv => ?release⟩
  case idle =>
    refine congrArg Host.Outcome.next (if_pos ?_)
    rcases idle with h | h <;> simp [h]
  case beat =>
    have h : Unhindered t p d s := ⟨safe, leader, plan, desc, drains, runs, ramp, left, power, due, slot, more, rings, banks⟩
    obtain ⟨u, run, memory, beat⟩ := exec_arrayBeat_next h w
    refine ⟨u, run, memory, beat, fun hw => ?_, fun hw hg => ?_⟩
    · subst hw
      obtain rfl : fedState t p d s = u := Host.Outcome.next.inj ((exec_arrayBeat_granted h).symm.trans run)
      have gang := gangOf_fedState (t := t) (p := p) (d := d) (s := s)
      refine ⟨congrArg GangSt.adm gang, congrArg GangSt.plan gang, ?_, fun c hc => ?_, rfl⟩
      · rw [reg_fedState (by decide), if_pos rfl]
      · obtain ⟨beats, apart⟩ := mntStall_apart hc
        rw [reg_fedState apart, if_neg beats]
    · obtain rfl := Host.Outcome.next.inj ((exec_arrayBeat_stalled h hw hg).symm.trans run)
      refine ⟨?_, ?_, rfl, ?_, fun c _ => reg_stalledState_stall _ c⟩
      · rw [gangOf_stalledState]
        rfl
      · rw [gangOf_stalledState]
        exact plan
      · have cause : (if w = .conflict then stallConflict else stallConvoy) < 12 := by split <;> decide
        rw [reg_stalledState, if_neg (mntStall_apart cause).1.symm]
  case close => rfl
  case complete =>
    have act : exec (.arrayDescriptorComplete t) s = .next (completeArray t d s) := by
      show execArrayDescriptorComplete t s = _
      rw [execArrayDescriptorComplete, hd]
      exact congrArg Host.Outcome.next (if_pos (by simp [arrayDrained, drained, fed]))
    refine ⟨_, act, ?_, completeArray_memory t d s, completeArray_token t d s, fun c _ => completeArray_counter t d s c,
      completeArray_items t d s⟩
    rw [completeArray_gang, gangWithout_descs, hd]
  case stays =>
    show execArrayDescriptorComplete t s = _
    rw [execArrayDescriptorComplete, hd]
    exact congrArg Host.Outcome.next (if_neg (by simp [arrayDrained, open_]))
  case release => exact exec_mntDrainRel ho hv

end Sys2Proof.Machine
end

section
/-! SUPPORT. What the secure wipe and the host ports' traffic leave (R381, R392, R393, R487): the root of trust, the items, the links,
the sessions. -/

namespace Sys2Proof.Machine
open Sys2Proof

/-! ## Host ports -/

/-- What a host port's traffic leaves: the root of trust, the items, the Gwetre ports and the sessions. -/
def hostView (s : State) : RotSt × List Item × Vector GwpSt 24 × (HostId → Vector Session 4) :=
  (s.rot, s.items, s.ports, fun h => s.cams[h].sess)

theorem modCam_cam (h x : HostId) (f : CamSt → CamSt) (s : State) :
    (modCam h f s).cams[x] = if x = h then f s.cams[h] else s.cams[x] := by
  simp only [modCam_cams, Fin.getElem_fin, Vector.getElem_set, Fin.ext_iff, eq_comm]

theorem hostView_modCam (h : HostId) {f : CamSt → CamSt} (s : State) (hf : (f s.cams[h]).sess = s.cams[h].sess) :
    hostView (modCam h f s) = hostView s := by
  have sess : (fun x : HostId => (modCam h f s).cams[x].sess) = fun x => s.cams[x].sess := funext fun x => by
    rw [modCam_cam]
    split
    · next e => rw [hf, e]
    · rfl
  simp only [hostView, sess]
  rfl

theorem hostView_modQuad (q : QuadId) (f : QuadSt → QuadSt) (s : State) : hostView (modQuad q f s) = hostView s := rfl

/-- Transactions that leave a port are taken from what waits, and their credit is spent. -/
theorem camPick_sess (a : CamLoad) (x : CamTx) : (camPick a x).port.sess = a.port.sess := by
  have spent : ∀ k n c, (spendCredit k n c).sess = c.sess := fun k n c => by cases k <;> rfl
  have sent : ∀ y c, (clearSent y c).sess = c.sess := fun y c => by
    unfold clearSent
    dsimp only
    split <;> rfl
  unfold camPick
  dsimp only
  split
  · rfl
  · exact (sent _ _).trans (spent _ _ _)

theorem hostView_camFlush (h : HostId) (s : State) : hostView (camFlush h s) = hostView s := by
  have load : ((s.cams[h].waiting.foldl camPick ⟨[], [], [], { s.cams[h] with waiting := [] }⟩).port).sess = s.cams[h].sess :=
    foldl_leaves (fun a : CamLoad => a.port.sess) camPick_sess _ _
  unfold camFlush
  dsimp only
  split
  · rfl
  · exact hostView_modCam h (f := fun _ => _) s load

theorem hostView_camSend (h : HostId) (x : CamTx) (s : State) : hostView (camSend h x s) = hostView s :=
  (hostView_camFlush h _).trans (hostView_modCam h (noteWork (blockId (camB h)) s) rfl)

theorem hostView_irqTo (h : HostId) (v : Nat) (s : State) : hostView (irqTo h v s) = hostView s := by
  have asked : hostView (modCam h (fun c => { c with irqPending := maskSet c.irqPending v }) s) = hostView s :=
    hostView_modCam h s rfl
  unfold irqTo
  split
  · rfl
  dsimp only
  split
  · exact (hostView_camSend ..).trans asked
  · exact asked

theorem hostView_irqSystem (v : Nat) (s : State) : hostView (irqSystem v s) = hostView s := by
  unfold irqSystem
  split
  · exact hostView_irqTo ..
  · exact hostView_irqTo ..
  · exact (hostView_irqTo ..).trans (hostView_irqTo ..)

theorem hostView_startRead (h : HostId) (q : QuadId) (k : Fin 16) (a n : Nat) (s : State) :
    hostView (startRead h q k a n s) = hostView s := by
  unfold startRead
  split
  · rfl
  · refine (hostView_camSend ..).trans ?_
    rw [hostView_modQuad]
    exact hostView_modCam h s rfl

theorem hostView_pumpFetch (q : QuadId) (k : Fin 16) (s : State) : hostView (pumpFetch q k s) = hostView s := by
  unfold pumpFetch
  dsimp only
  split
  · rfl
  split
  · rfl
  split
  · rfl
  split
  · rfl
  · rfl
  · exact (hostView_startRead ..).trans rfl

/-- What host rings ask for leaves all this. -/
theorem hostView_pumpAll (s : State) : hostView (pumpAll s) = hostView s :=
  foldl_leaves hostView (fun a q => foldl_leaves hostView (fun b k => hostView_pumpFetch q k b) _ a) _ s

/-! ## Responses and denials -/

theorem respond_items (m : Fin 3) (opc status : Nat) (data : List Byte) (s : State) : (respond m opc status data s).items = s.items :=
  congrArg (fun v => v.2.1) (hostView_irqSystem 65 (modRot _ s))

theorem respond_rot (m : Fin 3) (opc status : Nat) (data : List Byte) (s : State) :
    (respond m opc status data s).rot = { s.rot with rsp := s.rot.rsp.set m ⟨status, opc, true, data⟩ } :=
  congrArg (fun v => v.1) (hostView_irqSystem 65 (modRot _ s))

/-- The root of trust but for the responses. -/
def beyondResponses (r : RotSt) : RotSt := { r with rsp := Vector.replicate 3 ⟨0, 0, false, []⟩ }

/-- A wipe finds every command denied: none waits, and but for the answers nothing of the root of trust or the items has changed. -/
theorem denyWaiting_leaves (s : State) : (denyWaiting s).items = s.items ∧
    beyondResponses (denyWaiting s).rot = beyondResponses { s.rot with waiting := 0 } := by
  have answered : ∀ (u : State) (k : Fin 3), (fun v : State => (v.items, beyondResponses v.rot))
      (if maskHas s.rot.waiting k.val then respond k (cmdOf u k).opc eDenied [] u else u) = (u.items, beyondResponses u.rot) :=
    fun u k => by
      dsimp only
      split
      · rw [respond_items, respond_rot]
        rfl
      · rfl
  have all := foldl_leaves (fun v : State => (v.items, beyondResponses v.rot)) answered (List.finRange 3)
    (modRot (fun r => { r with waiting := 0 }) s)
  exact Prod.mk.inj all

/-! ## The cache slices dropped -/

/-- What a change of main memory leaves. -/
def beyondMemory (s : State) : RotSt × List Item × Vector GwpSt 24 × Vector CamSt 2 := (s.rot, s.items, s.ports, s.cams)

theorem beyondMemory_injectHbm (k : StackId) (sec : Nat) (s : State) : beyondMemory (injectHbm k sec s) = beyondMemory s := by
  unfold injectHbm
  split <;> rfl

theorem beyondMemory_leaveSector (sec : Nat) (s : State) : beyondMemory (leaveSector sec s) = beyondMemory s :=
  foldl_leaves beyondMemory (fun _ _ => by rfl) _ s

theorem beyondMemory_writeBackLine (k : StackId) (l : CacheLine) (s : State) :
    beyondMemory (writeBackLine k l s) = beyondMemory s := by
  refine foldl_leaves beyondMemory (fun a i => ?_) _ s
  split
  · exact (beyondMemory_injectHbm ..).trans rfl
  · exact beyondMemory_leaveSector _ a

theorem beyondMemory_dropSlices (q : QuadId) (s : State) : beyondMemory (dropSlices q s) = beyondMemory s :=
  foldl_leaves beyondMemory (fun a k => by
    exact foldl_leaves beyondMemory (fun b l => beyondMemory_writeBackLine k l b) a.hbmStacks[k].cache a) _ s

/-! ## The wipe -/

/-- What an entry of the audit log leaves (R488). -/
def beyondLog (s : State) : (List Item × Vector GwpSt 24 × Vector CamSt 2) ×
    BitVec 3 × FMap (Option (List Byte)) × Nat × List (List Byte) × Vector Word 4 :=
  ((s.items, s.ports, s.cams), s.rot.waiting, s.rot.opKeys, s.rot.lc, s.rot.instKeys, s.rot.epochs)

theorem beyondLog_modRot {f : RotSt → RotSt} (s : State) (h : ∀ r, (f r).waiting = r.waiting ∧ (f r).opKeys = r.opKeys ∧
    (f r).lc = r.lc ∧ (f r).instKeys = r.instKeys ∧ (f r).epochs = r.epochs) : beyondLog (modRot f s) = beyondLog s := by
  obtain ⟨waiting, opKeys, lc, instKeys, epochs⟩ := h s.rot
  simp [beyondLog, waiting, opKeys, lc, instKeys, epochs]

theorem beyondLog_auditAppend (event who status kslot : Nat) (digest : List Byte) (sign : Bool) (s : State) :
    beyondLog (auditAppend event who status kslot digest sign s) = beyondLog s :=
  beyondLog_modRot s fun _ => ⟨rfl, rfl, rfl, rfl, rfl⟩

theorem beyondLog_auditEvent (event : Nat) (sign : Bool) (s : State) : beyondLog (auditEvent event sign s) = beyondLog s :=
  (beyondLog_auditAppend ..).trans rfl

theorem auditEvent_events (event : Nat) (sign : Bool) (s : State) : (auditEvent event sign s).rot.audit.map (·.event) =
    (s.rot.audit.map (·.event) ++ [BitVec.ofNat 8 event]).drop (s.rot.audit.length + 1 - 16384) := by
  simp [auditEvent, auditNote, auditAppend, freeBytes, takeFree, modRot]

/-- The secrets that a wipe erases. -/
def erased (r : RotSt) : RotSt :=
  { r with
    slots := Vector.replicate 3 [], opKeys := [], audit := [], auditNext := 0, auditHead := List.replicate 32 0
    signedAt := 0, signedHead := List.replicate 32 0 }

/-- A wipe ends every session, and writes back what the slices hold under the lost keys, before the secrets are erased. -/
theorem wipeSecure_eq (s : State) : ∃ u, beyondMemory u = beyondMemory (endAllSessions (fun _ _ => true) s) ∧
    wipeSecure s = auditEvent evBoot false (modRot erased u) := by
  refine ⟨allQuads.foldl (fun s q => if maskHas s.rot.enc (partOf s q).val then dropSlices q s else s)
    (endAllSessions (fun _ _ => true) s), foldl_leaves beyondMemory (fun u q => ?_) _ _, rfl⟩
  split
  · exact beyondMemory_dropSlices q u
  · rfl

/-- What a wipe leaves of the secure SRAM: the log begins with BOOT, no operator key is held, and what is fused stays (R487). -/
structure Wiped (s u : State) : Prop where
  items : u.items = s.items
  waiting : u.rot.waiting = s.rot.waiting
  opKeys : u.rot.opKeys = []
  events : u.rot.audit.map (·.event) = [0xF0]
  lc : u.rot.lc = s.rot.lc
  instKeys : u.rot.instKeys = s.rot.instKeys
  epochs : u.rot.epochs = s.rot.epochs
  sessions : ∀ (h : HostId) (p : Fin 4), u.cams[h].sess[p].state = .none

theorem wiped_wipeSecure (s : State) : Wiped s (wipeSecure s) := by
  obtain ⟨u, dropped, wiped⟩ := wipeSecure_eq s
  simp only [beyondMemory, Prod.mk.injEq] at dropped
  obtain ⟨rot, items, -, cams⟩ := dropped
  have rot : u.rot = s.rot := rot
  have kept : beyondLog (wipeSecure s) = ((u.items, u.ports, u.cams), u.rot.waiting, [], u.rot.lc, u.rot.instKeys, u.rot.epochs) := by
    rw [wiped, beyondLog_auditEvent]
    rfl
  have log := auditEvent_events evBoot false (modRot erased u)
  simp only [beyondLog, Prod.mk.injEq, rot] at kept
  obtain ⟨⟨items', -, cams'⟩, waiting, opKeys, lc, instKeys, epochs⟩ := kept
  refine ⟨items'.trans items, waiting, opKeys, ?_, lc, instKeys, epochs, fun h p => ?_⟩
  · rw [wiped, log]
    simp [modRot, erased, evBoot]
  · rw [cams', cams, endAllSessions_sess, if_pos rfl]
    rfl

end Sys2Proof.Machine
end

section
/-! SUPPORT. A Gwetre link that goes DOWN (R357) and descriptors that its refusals end (R264): what they leave of the root of trust, the
sessions, the items in flight and the other links; and the wipe of a tamper event (R439, R487). -/

namespace Sys2Proof.Machine
open Sys2Proof

/-! ## What answers and refusals leave -/

/-- What packets that are sent, answered or refused leave: the root of trust, the host ports, which items are in flight, and every
link's state. -/
def linkView (s : State) : RotSt × Vector CamSt 2 × List ItemKey × (PortId → Link) :=
  (s.rot, s.cams, s.items.map (·.key), fun p => s.ports[p].link)

theorem modPort_port (p x : PortId) (f : GwpSt → GwpSt) (s : State) :
    (modPort p f s).ports[x] = if x = p then f s.ports[p] else s.ports[x] := by
  simp only [modPort_ports, Fin.getElem_fin, Vector.getElem_set, Fin.ext_iff, eq_comm]

theorem linkView_modPort (p : PortId) {f : GwpSt → GwpSt} (s : State) (hf : (f s.ports[p]).link = s.ports[p].link) :
    linkView (modPort p f s) = linkView s := by
  have links : (fun x : PortId => (modPort p f s).ports[x].link) = fun x => s.ports[x].link := funext fun x => by
    rw [modPort_port]
    split
    · next e => rw [hf, e]
    · rfl
  simp only [linkView, links]
  rfl

theorem linkView_modItem (k : ItemKey) {f : Item → Item} (s : State) (hf : ∀ i, (f i).key = i.key) :
    linkView (modItem k f s) = linkView s := by
  simp only [linkView, modItem_key k f s hf]
  rfl

/-! ## Sending -/

theorem linkView_gwPut (p : PortId) (ws : List Word) (payload : List Byte) (stomp : Bool) (s : State) :
    linkView (gwPut p ws payload stomp s) = linkView s := by
  have counted : linkView (modPort p (fun g => { g with txNonce := g.txNonce + 1 }) s) = linkView s := linkView_modPort p s rfl
  exact Eq.trans rfl counted

theorem linkView_freeBuf (b : Option (PortId × Nat × Nat)) (s : State) : linkView (freeBuf b s) = linkView s := by
  unfold freeBuf
  split
  · split
    · exact linkView_gwPut ..
    · rfl
  · rfl

theorem linkView_sendNow (p : PortId) (x : GwWait) (s : State) : linkView (sendNow p x s) = linkView s :=
  (linkView_freeBuf ..).trans ((linkView_modPort p _ rfl).trans (linkView_gwPut ..))

theorem linkView_flushPort (p : PortId) (s : State) : linkView (flushPort p s) = linkView s := by
  unfold flushPort
  refine (foldl_leaves_snd linkView (fun a x => ?_) _ _).trans (linkView_modPort p s rfl)
  dsimp only
  split
  · exact linkView_modPort p _ rfl
  · exact linkView_sendNow ..

theorem linkView_sendOn (p : PortId) (x : GwWait) (s : State) : linkView (sendOn p x s) = linkView s :=
  (linkView_flushPort ..).trans (linkView_modPort p (noteWork _ s) rfl)

theorem linkView_dropRsp (p : PortId) (bank : FMap Byte) (chip : Nat) (s : State) : linkView (dropRsp p bank chip s) = linkView s := by
  unfold dropRsp
  split <;> rfl

/-! ## Refusals -/

theorem linkView_remoteErr (k : ItemKey) (b : Block) (status : Nat) (s : State) : linkView (remoteErr k b status s) = linkView s := by
  unfold remoteErr
  split
  · exact linkView_modItem k s fun _ => rfl
  · have failed : linkView (itemErr k eRemote b s) = linkView s := linkView_modItem k s fun _ => rfl
    rw [linkView_modItem, failed]
    exact fun _ => rfl

/-- A refusal marks a descriptor and its item, or breaks the work of a survival engine (R363). -/
theorem linkView_finishFab_err (r : FabReq) (c : Nat) (s : State) : linkView (finishFab r (.err c) s) = linkView s := by
  unfold finishFab
  dsimp only
  split
  · unfold moveResponse
    exact (linkView_remoteErr ..).trans rfl
  · unfold srvResponse
    dsimp only
    split <;> rfl

/-- A request refused: the refusal reaches this chip's request, or leaves over its route, or is dropped. -/
theorem linkView_answerErr (p : PortId) (bank : FMap Byte) (rq : GwHdr) (status : Nat) (s : State) :
    linkView (answerErr p bank rq status s) = linkView s := by
  have posted : ∀ (h : GwHdr) (u : State), h.opc = gwError → linkView (postResponse p bank h [] u) = linkView u := fun h u e => by
    unfold postResponse
    rw [e]
    split
    · split
      · rw [if_pos rfl]
        exact linkView_finishFab_err ..
      · rfl
    · split
      · split
        · exact linkView_sendOn ..
        · exact linkView_dropRsp ..
      · exact linkView_dropRsp ..
  exact (posted _ _ rfl).trans rfl

/-! ## A link goes DOWN -/

theorem linkView_dropHeld (p : PortId) (s : State) : linkView (dropHeld p s) = linkView s := by
  unfold dropHeld
  refine (foldl_leaves linkView (fun a x => ?_) _ _).trans (linkView_modPort p s rfl)
  dsimp only
  refine (linkView_freeBuf ..).trans ?_
  split
  · exact linkView_answerErr ..
  · rfl

theorem linkView_forgetBufs (p : PortId) (s : State) : linkView (forgetBufs p s) = linkView s := by
  refine (linkView_modPort p _ rfl).trans ?_
  simp only [linkView, Fin.getElem_fin, Vector.getElem_map]

/-- A port whose link has gone DOWN. -/
def portDown (g : GwpSt) : GwpSt := { g with link := .down, lanes := 0, keys := none, keying := false, nakSent := false, rxFails := 0 }

/-- The port's link is DOWN, and no other changes. -/
theorem linkView_linkDown (p : PortId) (report : Option Bool) (s : State) : linkView (linkDown p report s) =
    (s.rot, s.cams, s.items.map (·.key), fun x => if x = p then .down else s.ports[x].link) := by
  have told : ∀ u : State, linkView (modPort p portDown u) =
      (u.rot, u.cams, u.items.map (·.key), fun x => if x = p then .down else u.ports[x].link) := fun u => by
    have links : (fun x : PortId => (modPort p portDown u).ports[x].link) = fun x => if x = p then .down else u.ports[x].link :=
      funext fun x => by
        rw [modPort_port]
        split <;> rfl
    simp only [linkView, links]
    rfl
  unfold linkDown
  refine (linkView_dropHeld ..).trans ((linkView_forgetBufs ..).trans ((told _).trans ?_))
  cases report <;> rfl

/-! ## Failed descriptors settled -/

theorem linkView_clearReserve (s : State) : linkView (clearReserve s) = linkView s := by
  unfold clearReserve
  split <;> rfl

theorem linkView_stopItem (k : ItemKey) (t : TileId) (s : State) : linkView (stopItem k t s) = linkView s := by
  have marked := linkView_modItem k (f := fun i => if i.state = .running then { i with state := .finishing, listEnded := true } else i)
    (discardEntries k t s) fun i => by split <;> rfl
  unfold stopItem
  dsimp only
  split
  · exact marked
  · exact marked

theorem linkView_settleFailed (t : TileId) (n : Nat) (s : State) : linkView (settleFailed t n s) = linkView s := by
  unfold settleFailed
  split
  · rfl
  split
  · rfl
  dsimp only
  split
  · exact (linkView_clearReserve _).trans (linkView_stopItem ..)
  · exact linkView_stopItem ..

theorem linkView_settleAll (s : State) : linkView (settleAll s) = linkView s :=
  foldl_leaves linkView (fun a t => by exact foldl_leaves linkView (fun b n => linkView_settleFailed t n b) _ a) _ s

end Sys2Proof.Machine
end

section
/-! SUPPORT. What a tamper event leaves (R439, R487). -/

namespace Sys2Proof.Machine
open Sys2Proof

/-! ## Every link DOWN -/

/-- The step that a tamper event takes at each Gwetre port. -/
def dropLink (s : State) (p : PortId) : State :=
  if s.ports[p].link = .up ∨ s.ports[p].link = .training then linkDown p (some false) s else s

/-- A port that carries no traffic. -/
def Quiet (s : State) (p : PortId) : Prop := s.ports[p].link ≠ .up ∧ s.ports[p].link ≠ .training

/-- What a tamper event's links leave: the root of trust, the sessions, and which items are in flight. -/
def beyondLinks (s : State) : RotSt × Vector CamSt 2 × List ItemKey := (s.rot, s.cams, s.items.map (·.key))

theorem beyondLinks_of_linkView {s u : State} (h : linkView u = linkView s) : beyondLinks u = beyondLinks s :=
  congrArg (fun v => (v.1, v.2.1, v.2.2.1)) h

theorem link_of_linkView {s u : State} (h : linkView u = linkView s) (p : PortId) : u.ports[p].link = s.ports[p].link :=
  congrFun (congrArg (fun v => v.2.2.2) h) p

theorem beyondLinks_dropLink (p : PortId) (s : State) : beyondLinks (dropLink s p) = beyondLinks s := by
  unfold dropLink
  split
  · exact congrArg (fun v => (v.1, v.2.1, v.2.2.1)) (linkView_linkDown p (some false) s)
  · rfl

theorem quiet_dropLink (p x : PortId) (s : State) (h : x = p ∨ Quiet s x) : Quiet (dropLink s p) x := by
  unfold dropLink
  split
  · have down : (linkDown p (some false) s).ports[x].link = if x = p then .down else s.ports[x].link :=
      congrFun (congrArg (fun v => v.2.2.2) (linkView_linkDown p (some false) s)) x
    rw [Quiet, down]
    split
    · exact ⟨by decide, by decide⟩
    · next other => exact h.resolve_left other
  · next calm =>
    rcases h with rfl | h
    · exact not_or.mp calm
    · exact h

theorem quiet_dropLinks (l : List PortId) (x : PortId) (s : State) (h : x ∈ l ∨ Quiet s x) : Quiet (l.foldl dropLink s) x := by
  induction l generalizing s with
  | nil => exact h.resolve_left (by simp)
  | cons p l ih =>
    refine ih (dropLink s p) ?_
    rcases h with h | h
    · rcases List.mem_cons.mp h with rfl | h
      · exact .inr (quiet_dropLink _ _ s (.inl rfl))
      · exact .inl h
    · exact .inr (quiet_dropLink p x s (.inr h))

/-! ## The epochs -/

theorem takeFrees_length (n : Nat) (s : State) : (takeFrees n s).1.length = n := by
  induction n generalizing s with
  | zero => rfl
  | succ n ih => exact congrArg (· + 1) (ih (takeFree s).2)

theorem takeFrees_free (n : Nat) (s : State) : ∀ x ∈ (takeFrees n s).1, ∃ k, x = Config.free k := by
  induction n generalizing s with
  | zero => exact fun x h => nomatch h
  | succ n ih =>
    intro x h
    rcases List.mem_cons.mp h with rfl | h
    · exact ⟨s.nfree, rfl⟩
    · exact ih (takeFree s).2 x h

/-- Epochs drawn anew are free values (R479). -/
theorem drawEpochs_epochs (s : State) (p : Fin 4) : ∃ n, (drawEpochs s).rot.epochs[p] = BitVec.ofNat 32 (Config.free n) := by
  have inside : p.val < (takeFrees 4 s).1.length := by rw [takeFrees_length]; exact p.isLt
  obtain ⟨n, drawn⟩ := takeFrees_free 4 s _ (List.getElem_mem inside)
  refine ⟨n, ?_⟩
  rw [← drawn]
  simp only [drawEpochs, modRot, Fin.getElem_fin, Vector.getElem_ofFn, List.getD_eq_getElem _ _ inside]

/-! ## The event -/

theorem tamperWipe_eq (s : State) : tamperWipe s =
    settleAll (allPorts.foldl dropLink (auditEvent evTamper false (drawEpochs (wipeSecure (denyWaiting s))))) := rfl

theorem tamperWipe_beyondLinks (s : State) :
    beyondLinks (tamperWipe s) = beyondLinks (auditEvent evTamper false (drawEpochs (wipeSecure (denyWaiting s)))) := by
  rw [tamperWipe_eq, beyondLinks_of_linkView (linkView_settleAll _)]
  exact foldl_leaves beyondLinks (fun u p => beyondLinks_dropLink p u) _ _

theorem tamperWipe_quiet (s : State) (p : PortId) : Quiet (tamperWipe s) p := by
  rw [tamperWipe_eq, Quiet, link_of_linkView (linkView_settleAll _)]
  exact quiet_dropLinks allPorts p _ (.inl (List.mem_finRange p))

/-- A tamper event leaves no operator key, no command, no session and no link, a log of two entries, and epochs drawn anew. -/
structure Tampered (s u : State) : Prop where
  opKeys : u.rot.opKeys = []
  waiting : u.rot.waiting = 0
  sessions : ∀ (h : HostId) (p : Fin 4), u.cams[h].sess[p].state = .none
  links : ∀ p, Quiet u p
  events : u.rot.audit.map (·.event) = [0xF0, 0xF2]
  epochs : ∀ p : Fin 4, ∃ n, u.rot.epochs[p] = BitVec.ofNat 32 (Config.free n)
  keys : u.items.map (·.key) = s.items.map (·.key)

theorem tampered_tamperWipe (s : State) : Tampered s (tamperWipe s) := by
  obtain ⟨deniedItems, deniedRot⟩ := denyWaiting_leaves s
  have wiped := wiped_wipeSecure (denyWaiting s)
  have kept := tamperWipe_beyondLinks s
  generalize wipeSecure (denyWaiting s) = w at wiped kept
  have logged := beyondLog_auditEvent evTamper false (drawEpochs w)
  have log := auditEvent_events evTamper false (drawEpochs w)
  simp only [beyondLinks, Prod.mk.injEq] at kept
  obtain ⟨rot, cams, keys⟩ := kept
  simp only [beyondLog, Prod.mk.injEq] at logged
  obtain ⟨⟨items, -, cams'⟩, waiting, opKeys, -, -, epochs⟩ := logged
  have denied : (denyWaiting s).rot.waiting = 0 := congrArg (·.waiting) deniedRot
  have first : (drawEpochs w).rot.audit.map (·.event) = [0xF0] := wiped.events
  refine ⟨?_, ?_, fun h p => ?_, tamperWipe_quiet s, ?_, fun p => ?_, ?_⟩
  · rw [rot, opKeys]; exact wiped.opKeys
  · rw [rot, waiting]; exact wiped.waiting.trans denied
  · rw [cams, cams']; exact wiped.sessions h p
  · have one : (drawEpochs w).rot.audit.length = 1 := by simpa using congrArg List.length first
    rw [rot, log, first, one]
    rfl
  · rw [rot, epochs]; exact drawEpochs_epochs w p
  · rw [keys, items]
    exact congrArg (List.map (·.key)) (wiped.items.trans deniedItems)

/-- The report changes none of this. -/
theorem Tampered.raiseFault {s u : State} (h : Tampered s u) (b : Block) (kind addr item detail : Nat) :
    Tampered s (raiseFault b kind addr item detail u) :=
  ⟨h.opKeys, h.waiting, h.sessions, h.links, h.events, h.epochs, h.keys⟩

/-- TAMPER, where the detector counts. -/
theorem exec_tamper (d : Fin 3) (s : State) (powered : s.dev.powered = true) (counts : d ≠ 2 ∨ s.rot.factory = false) :
    exec (.tamper d) s = .next (raiseFault .rot 0x3A 0 0 d.val (tamperWipe s)) := by
  have misuse : (d == 2 && s.rot.factory) = false := by simpa [or_iff_not_imp_left] using counts
  show execTamper d s = _
  simp [execTamper, powered, misuse]

theorem exec_tamper_idle (d : Fin 3) (s : State) (h : s.dev.powered = false ∨ (d = 2 ∧ s.rot.factory = true)) :
    exec (.tamper d) s = .next s := by
  show execTamper d s = _
  rcases h with off | ⟨rfl, factory⟩
  · simp [execTamper, off]
  · simp [execTamper, factory]

theorem raiseFault_last (b : Block) (kind addr item detail : Nat) (s : State) :
    ((raiseFault b kind addr item detail s).flt.inflight.getLast?).map (fun x => (x.source, x.kind, x.detail)) =
      some (BitVec.ofNat 12 (blockId b), BitVec.ofNat 8 kind, BitVec.ofNat 25 detail) := by
  rw [raiseFault_eq]
  simp only [List.getLast?_concat, Option.map_some]

/-- What TAMPER does (R439, R487). -/
theorem tamper_leaves (d : Fin 3) (s : State) (powered : s.dev.powered = true) (counts : d ≠ 2 ∨ s.rot.factory = false) :
    ∃ u, exec (.tamper d) s = .next u ∧ Tampered s u ∧
      (u.flt.inflight.getLast?).map (fun x => (x.source, x.kind, x.detail)) = some (0x010, 0x3A, BitVec.ofNat 25 d.val) := by
  exact ⟨_, exec_tamper d s powered counts, (tampered_tamperWipe s).raiseFault .., raiseFault_last ..⟩

end Sys2Proof.Machine
end

section
/-! SUPPORT. How a mailbox command ends (R474 to R476): its checks, its act, its answer; and the acts of the commands on keys and
sessions (R481 to R483), of FACTORY and of REPAIR_CLEAR (R129, R486). -/

namespace Sys2Proof.Machine
open Sys2Proof

/-! ## Running a command -/

/-- A command answered, the audit head signed before it where `sign` asks for it (R488). -/
def cmdReply (sign : Bool) (m : Master) (opc : Nat) (c : RotCmd) (status : Nat) (data : List Byte) (s : State) : State :=
  respond (masterIdx m) opc status data (auditCmd c status (sign && decide (status = stDone)) s)

/-- A command whose turn has come is answered after its entry in the audit log, and what follows the answer follows. -/
theorem runCmd_answer {opc : Nat} {act : RotAct} (sign : Bool) (after : RotCmd → State → State) {m : Master} {c : RotCmd} {s u : State}
    {status : Nat} {data : List Byte} (turn : rotNext s (masterIdx m) opc = true) (hc : c = cmdOf s (masterIdx m))
    (run : act c (Safety.cmdOut m s) = ((status, data), u)) : runCmd opc act sign after (masterIdx m) s =
      takeReserved (if status = stDone then after c (cmdReply sign m opc c status data u) else cmdReply sign m opc c status data u) := by
  subst hc
  unfold Safety.cmdOut at run
  simp only [runCmd, turn, Bool.not_true, Bool.false_eq_true, if_false, run]
  rfl

/-- A command whose effect ends with its response. -/
theorem runPlain_answer {opc : Nat} {roles : List Nat} {act : RotAct} {m : Master} {c : RotCmd} {s u : State} {status : Nat}
    {data : List Byte} (h : Safety.cmdSigned s m opc roles c) (run : act c (Safety.cmdOut m s) = ((status, data), u)) (hk : Known u) :
    runPlain opc act (masterIdx m) s = Safety.cmdAnswer m opc c status data u := by
  obtain ⟨turn, -, command, -⟩ := h
  have answer := runCmd_answer false (fun _ s => s) turn command run
  rw [ite_self, cmdReply, Bool.false_and] at answer
  exact answer.trans (takeReserved_known (known_cmdAnswer hk))

/-- A change that leaves the waiting commands. -/
theorem known_of_taken {m : Master} {s u : State} (h : Safety.restKnown s m) (hw : u.rot.waiting = (Safety.cmdTaken m s).rot.waiting)
    (hs : u.rot.slots = (Safety.cmdTaken m s).rot.slots) : Known u :=
  known_congr hw hs (known_cmdTaken h)

/-! ## The checks of an operator's command -/

section
variable {m : Master} {opc : Nat} {roles : List Nat} {c : RotCmd} {s : State} {bad : RotCmd → Bool} {act : RotAct}
  (h : Safety.cmdSigned s m opc roles c) (hb : bad c = false)
include h hb

/-- The checks of R475 passed, a command that concerns one partition acts if that is one of the live map. -/
theorem checked_part : checked roles bad true true act c (Safety.cmdOut m s) =
    if partLive s c.part.val then act c (Safety.cmdTaken m s) else refuse ePartition (Safety.cmdTaken m s) := by
  have inner := checked_signed (act := fun c s => if !partLive s c.part.val then refuse ePartition s else act c s) h hb
  have whole : checked roles bad true true act c (Safety.cmdOut m s) =
      checked roles bad false true (fun c s => if !partLive s c.part.val then refuse ePartition s else act c s) c (Safety.cmdOut m s) := by
    simp only [checked, Bool.true_and, Bool.false_and, Bool.false_eq_true, if_false]
  rw [whole, inner]
  have live : partLive (Safety.cmdTaken m s) c.part.val = partLive s c.part.val := rfl
  rw [live]
  cases partLive s c.part.val <;> rfl

/-- A signature that fails: no key or challenge changes. -/
theorem checked_fails (perPart : Bool) : checked roles bad perPart false act c (Safety.cmdOut m s) = refuse eDenied (Safety.cmdOut m s) := by
  obtain ⟨-, -, -, format, signed, -⟩ := h
  have signed : decide (c.role ≠ roleUnsigned) = true := decide_eq_true signed
  simp only [checked, format, hb, signed, Bool.or_self, Bool.not_false, Bool.or_true, Bool.true_and, Bool.false_eq_true, if_false, if_true]

end

/-! ## Operator keys -/

theorem setOpKey_rest (p : Fin 4) (k : Nat) (key : Option (List Byte)) (s : State) :
    setOpKey p k key s = { s with rot := (setOpKey p k key s).rot, cams := (setOpKey p k key s).cams } := rfl

theorem setOpKey_opKeys (p : Fin 4) (k j : Nat) (key : Option (List Byte)) (s : State) :
    fget (fun _ => none) (setOpKey p k key s).rot.opKeys j = if j = 4 * p.val + k then key else fget (fun _ => none) s.rot.opKeys j :=
  fget_fset ..

/-- A key set or removed ends the sessions that it opened (R483). -/
theorem setOpKey_sess (p q : Fin 4) (k : Nat) (key : Option (List Byte)) (s : State) (h : HostId) :
    (setOpKey p k key s).cams[h].sess[q].state =
      if q.val = p.val ∧ s.cams[h].sess[q].opSlot = k then .none else s.cams[h].sess[q].state := by
  have ended := endAllSessions_sess (fun q x => decide (q = p) && decide (x.opSlot = k))
    (modRot (fun r => { r with opKeys := fset (fun _ => none) r.opKeys (4 * p.val + k) key }) s) h q
  rw [setOpKey, ended]
  simp only [Bool.and_eq_true, decide_eq_true_iff, Fin.ext_iff]
  exact (apply_ite Session.state ..).trans rfl

/-- The partition that ENROLL names is one of four. -/
theorem enroll_part {c : RotCmd} (h : enrollBad c = false) : c.num 0 1 < 4 := by
  simp only [enrollBad, Bool.or_eq_false_iff, decide_eq_false_iff_not] at h
  omega

theorem enrollAct_eq {c : RotCmd} {p : Fin 4} (h : c.num 0 1 = p.val) (s : State) : enrollAct c s =
    if partLive s p.val then done (setOpKey p (c.num 1 1) (if c.num 2 1 = 1 then none else some (c.bytes 3 57)) s)
    else refuse ePartition s := by
  have part : (⟨c.num 0 1 % 4, by omega⟩ : Fin 4) = p := Fin.ext (by simp only [h]; omega)
  unfold enrollAct
  rw [part]
  dsimp only
  cases partLive s p.val <;> rfl

/-! ## Sessions -/

/-- A number drawn and added one up moves an id (R481). -/
theorem nextId_ne (x : BitVec 16) (n : Nat) : x + 1 + BitVec.ofNat 16 (n % 65535) ≠ x := by
  intro e
  have nat := congrArg BitVec.toNat e
  have one : (1 : BitVec 16).toNat = 1 := rfl
  simp only [BitVec.toNat_add, BitVec.toNat_ofNat, one] at nat
  have := x.isLt
  omega

/-- The id and the key that SESSION_OPEN draws. -/
def openId (h : HostId) (s : State) : BitVec 16 := s.rot.sessIds[h] + 1 + BitVec.ofNat 16 (Config.free s.nfree % 65535)
def openKey (s : State) : List Byte := clamp448 (bytesOfNat 56 (Config.free (s.nfree + 1)))
def openTranscript (h : HostId) (c : RotCmd) (s : State) : List Byte := transcript s c h (x448Public (openKey s)) (openId h s)

/-- The state with the session open, before the host rings ask for what waits. -/
def opened (h : HostId) (c : RotCmd) (s : State) : State :=
  let key (dir : String) := sessionKey (openKey s) c (openTranscript h c s) dir
  let id := openId h s
  modCam h (fun x => { x with keying := false })
    (modSess h c.part (fun z => { z with state := .active, id := id, inCtr := 0, outCtr := 0, opSlot := c.kslot })
      (modSess h c.part (fun z => { z with keyIn := key "G2D", keyOut := key "D2G" })
        (modCam h (fun x => { x with keying := true })
          (modRot (fun r => { r with sessIds := r.sessIds.set h id }) { s with nfree := s.nfree + 2 }))))

theorem opened_rest (h : HostId) (c : RotCmd) (s : State) :
    (opened h c s).items = s.items ∧ (opened h c s).rot = { s.rot with sessIds := s.rot.sessIds.set h (openId h s) } := by
  have cam : ∀ (f : CamSt → CamSt) (u : State), (modCam h f u).items = u.items ∧ (modCam h f u).rot = u.rot := fun _ _ => ⟨rfl, rfl⟩
  unfold opened modSess
  simp only [cam, modRot_items, modRot_rot, and_self]

theorem modSess_sess (h : HostId) (p : Fin 4) (f : Session → Session) (s : State) :
    (modSess h p f s).cams[h].sess[p] = f s.cams[h].sess[p] := by
  rw [modSess, modCam_cam, if_pos rfl]
  exact Vector.getElem_set_self _

theorem opened_sess (h : HostId) (c : RotCmd) (s : State) : (opened h c s).cams[h].sess[c.part] =
    ⟨.active, openId h s, 0, 0, c.kslot, sessionKey (openKey s) c (openTranscript h c s) "G2D",
      sessionKey (openKey s) c (openTranscript h c s) "D2G"⟩ := by
  rw [opened, modCam_cam, if_pos rfl]
  dsimp only
  rw [modSess_sess, modSess_sess]

theorem openAct_eq {c : RotCmd} {h : HostId} (hh : c.num 0 1 = h.val) (s : State) : openAct c s =
    if decide (s.cams[h].sess[c.part].state ≠ .none) || reassigned s c.part || isFenced s (camB h) then refuse eDenied s
    else ((stDone, x448Public (openKey s) ++ bytesOfNat 2 (openId h s).toNat ++
      fitBytes 114 (Config.sign roleIdentity (openTranscript h c s))), pumpAll (opened h c s)) := by
  obtain rfl : h = ⟨c.num 0 1 % 2, Nat.mod_lt _ (by decide)⟩ := Fin.ext (by simp only [hh]; omega)
  rfl

/-- SESSION_CLOSE ends the session of the partition at the port, and no other (R482). -/
theorem closeAct_eq {c : RotCmd} {h : HostId} (hh : c.num 0 1 = h.val) (s : State) :
    closeAct c s = done (endSessions h (fun p _ => decide (p = c.part)) s) := by
  have port : (⟨c.num 0 1 % 2, by omega⟩ : HostId) = h := Fin.ext (by simp only [hh]; omega)
  rw [closeAct, port]

/-! ## The field-repair record -/

theorem repairEntries_one {c : RotCmd} (h : c.len = 4) : repairEntries c = [c.num 0 4] := by
  rw [repairEntries, h]
  rfl

section
variable (e : Nat) (r : RotSt)

theorem clearRepair_commands : (clearRepair e r).waiting = r.waiting ∧ (clearRepair e r).slots = r.slots := by
  unfold clearRepair
  dsimp only
  split
  · exact ⟨rfl, rfl⟩
  · split <;> exact ⟨rfl, rfl⟩

theorem clearRepair_tiles (h : fld e 1 0 = 1) (t : TileId) :
    t ∈ (clearRepair e r).repairTiles ↔ t ∈ r.repairTiles ∧ t.val ≠ fld e 13 8 := by
  have tile : fld e 13 8 % 64 = fld e 13 8 := Nat.mod_mod _ 64
  simp [clearRepair, h, Fin.ext_iff, tile]

theorem clearRepair_tiles_kept (h : fld e 1 0 ≠ 1) : (clearRepair e r).repairTiles = r.repairTiles := by
  unfold clearRepair
  dsimp only
  rw [if_neg h]
  split <;> rfl

theorem clearRepair_cols (h : fld e 1 0 = 0) (t : TileId) (k : Byte) :
    (t, k) ∈ (clearRepair e r).repairCols ↔ (t, k) ∈ r.repairCols ∧ ¬ (t.val = fld e 13 8 ∧ k.toNat = fld e 23 16) := by
  have tile : fld e 13 8 % 64 = fld e 13 8 := Nat.mod_mod _ 64
  have col : fld e 23 16 % 256 = fld e 23 16 := Nat.mod_mod _ 256
  simp [clearRepair, h, Fin.ext_iff, ← BitVec.toNat_inj, tile, col, imp_iff_not_or]

theorem clearRepair_chans (h : fld e 1 0 = 2) (k : StackId) (n : BitVec 5) :
    (k, n) ∈ (clearRepair e r).repairChans ↔ (k, n) ∈ r.repairChans ∧ ¬ (k.val = fld e 10 8 ∧ n.toNat = fld e 20 16) := by
  have stack : fld e 10 8 % 8 = fld e 10 8 := Nat.mod_mod _ 8
  have chan : fld e 20 16 % 32 = fld e 20 16 := Nat.mod_mod _ 32
  simp [clearRepair, h, Fin.ext_iff, ← BitVec.toNat_inj, stack, chan, imp_iff_not_or]

end

end Sys2Proof.Machine
end

section
/-! SUPPORT. LC_SET: the keys through a wipe and a full reset (R66, R479, R486, R487). -/

namespace Sys2Proof.Machine
open Sys2Proof

/-! ## Operator and installer keys through a full reset -/

/-- The operators' and the installer's keys. -/
def heldKeys (s : State) : FMap (Option (List Byte)) × List (List Byte) := (s.rot.opKeys, s.rot.instKeys)

theorem heldKeys_of_beyondLog {s u : State} (h : beyondLog u = beyondLog s) : heldKeys u = heldKeys s := by
  simp only [beyondLog, Prod.mk.injEq] at h
  obtain ⟨-, -, ops, -, inst, -⟩ := h
  exact Prod.ext ops inst

theorem heldKeys_auditEvent (event : Nat) (sign : Bool) (s : State) : heldKeys (auditEvent event sign s) = heldKeys s :=
  heldKeys_of_beyondLog (beyondLog_auditEvent ..)

theorem heldKeys_sendMark (kind : Nat) (part : Fin 4) (job : BitVec 6) (qmask : BitVec 4) (s : State) :
    heldKeys (sendMark kind part job qmask s) = heldKeys s := by
  unfold sendMark
  dsimp only
  split
  · rfl
  · split <;> rfl

theorem heldKeys_clocksBack (s : State) : heldKeys (clocksBack s) = heldKeys s := by
  unfold clocksBack
  split <;> rfl

theorem heldKeys_readRepair (s : State) : heldKeys (readRepair s) = heldKeys s := by
  unfold readRepair
  dsimp only
  split
  · rfl
  · exact (heldKeys_of_beyondLog (beyondLog_auditAppend ..)).trans rfl

theorem heldKeys_bootRails (s : State) : heldKeys (bootRails s) = heldKeys s :=
  foldl_leaves heldKeys (fun u q => by exact foldl_leaves heldKeys (fun v m => by rfl) _ u) _ s

theorem heldKeys_bootFrom (s : State) : heldKeys (bootFrom s) = heldKeys s := by
  have read : heldKeys (readRepair (auditEvent evBoot false (newChallenge s))) = heldKeys s :=
    (heldKeys_readRepair _).trans ((heldKeys_auditEvent ..).trans rfl)
  unfold bootFrom
  dsimp only
  split
  · exact Eq.trans rfl read
  · exact (heldKeys_bootRails _).trans read

theorem heldKeys_startBoot {s : State} (warm : s.dev.cause ≠ 0) : heldKeys (startBoot s) = heldKeys s := by
  rw [startBoot_eq warm]
  split
  · rfl
  · rw [heldKeys_bootFrom]
    split <;> rfl

theorem heldKeys_resetState (cause lost : Nat) {s : State} (none_ : s.rot.opKeys = []) :
    heldKeys (resetState cause false lost s) = ([], s.rot.instKeys) := by
  show (keysAfterReset s.rot, s.rot.instKeys) = _
  rw [keysAfterReset, none_]
  rfl

theorem fullReset_without_retain (cause : Nat) (s : State) : ∃ lost,
    let r := resetState cause false lost (auditEvent evReset false (sendMark markReset 0 0 0 s))
    fullReset cause false s = if r.dev.resetLow then r else startBoot (clocksBack r) := ⟨_, rfl⟩

/-- A full reset without retain keeps the installer's keys, and gives no operator's key back. -/
theorem heldKeys_fullReset {cause : Nat} (hc : cause ≠ 0) {s : State} (none_ : s.rot.opKeys = []) :
    heldKeys (fullReset cause false s) = ([], s.rot.instKeys) := by
  have before : heldKeys (auditEvent evReset false (sendMark markReset 0 0 0 s)) = heldKeys s :=
    (heldKeys_auditEvent ..).trans (heldKeys_sendMark ..)
  obtain ⟨lost, reset⟩ := fullReset_without_retain cause s
  rw [reset]
  generalize auditEvent evReset false (sendMark markReset 0 0 0 s) = v at before
  obtain ⟨ops, inst⟩ := Prod.mk.inj before
  have new : heldKeys (resetState cause false lost v) = ([], s.rot.instKeys) := by
    rw [heldKeys_resetState cause lost (ops.trans none_), inst]
  have warm : (clocksBack (resetState cause false lost v)).dev.cause ≠ 0 := by
    obtain ⟨⟨-, -, from_, -⟩, -⟩ := resetKept_clocksBack (resetKept_resetState cause false lost v)
    rwa [from_]
  split
  · exact new
  · exact (heldKeys_startBoot warm).trans ((heldKeys_clocksBack _).trans new)

/-! ## The change of life cycle -/

/-- What is fused, with the epochs. -/
def fused (s : State) : Nat × List (List Byte) × Vector Word 4 := (s.rot.lc, s.rot.instKeys, s.rot.epochs)

/-- The root of trust as LC_SET leaves it before its reset. -/
def lcFused (c : RotCmd) (s : State) : State :=
  modRot (fun r => { r with
    lc := c.num 0 1, epochs := r.epochs.map (· + 1)
    instKeys := if c.num 0 1 = 1 then r.instKeys ++ [c.bytes 1 57] else r.instKeys
    instActive := if c.num 0 1 = 1 ∨ c.num 0 1 = 3 then r.instKeys.length else r.instActive }) s

theorem changeLc_eq (c : RotCmd) (s : State) : changeLc c s = fullReset 4 false (lcFused c (wipeSecure (denyWaiting s))) := rfl

/-- A transition of the life cycle, from a state of which only what is fused counts. -/
structure LcChanged (c : RotCmd) (s u : State) : Prop where
  lc : u.rot.lc = c.num 0 1
  opKeys : u.rot.opKeys = []
  owner : u.dev.owner = none
  cause : u.dev.cause = 4
  ready : u.dev.ready = false
  items : u.items = []
  instKeys : u.rot.instKeys = if c.num 0 1 = 1 then s.rot.instKeys ++ [c.bytes 1 57] else s.rot.instKeys
  epochs : ∀ p : Fin 4, u.rot.epochs[p] = s.rot.epochs[p] + 2
  waiting : u.rot.waiting = 0
  sessions : ∀ (h : HostId) (p : Fin 4), u.cams[h].sess[p].state = .none

theorem fused_denyWaiting (s : State) : fused (denyWaiting s) = fused s := by
  have rot : beyondResponses (denyWaiting s).rot = beyondResponses { s.rot with waiting := 0 } := (denyWaiting_leaves s).2
  exact Prod.ext (congrArg (·.lc) rot) (Prod.ext (congrArg (·.instKeys) rot) (congrArg (·.epochs) rot))

theorem lcChanged_changeLc (c : RotCmd) (s t : State) (ht : fused t = fused s) : LcChanged c s (changeLc c t) := by
  have wiped := wiped_wipeSecure (denyWaiting t)
  have old := (fused_denyWaiting t).trans ht
  rw [changeLc_eq]
  generalize denyWaiting t = d at wiped old
  generalize wipeSecure d = w at wiped
  simp only [fused, Prod.mk.injEq] at old
  obtain ⟨-, oldKeys, oldEpochs⟩ := old
  obtain ⟨ops, inst⟩ := Prod.mk.inj (heldKeys_fullReset (cause := 4) (by decide) (s := lcFused c w) wiped.opKeys)
  obtain ⟨reset, -, -, waiting⟩ := resetKept_fullReset (cause := 4) (by decide) false (lcFused c w)
  obtain ⟨items, owner, cause, -, ready, -, -, -, -, -, -, -, -, -, lc, epochs, -, -, -, -, cams, -⟩ := reset
  refine ⟨lc, ops, owner, cause, ready, items, ?_, fun p => ?_, waiting, fun h p => ?_⟩
  · rw [inst, ← oldKeys, ← wiped.instKeys]
    rfl
  · have kept : (lcFused c w).rot.epochs = s.rot.epochs.map (· + 1) := by
      rw [← oldEpochs, ← wiped.epochs]
      rfl
    rw [epochs, kept]
    simp only [Bool.false_eq_true, if_false, Fin.getElem_fin, Vector.getElem_map]
    rw [BitVec.add_assoc]
    rfl
  · rw [cams]
    simp only [Fin.getElem_fin, Vector.getElem_replicate, camReset, sessNone]

/-! ## The command -/

theorem fused_of_beyondLog {s u : State} (h : beyondLog u = beyondLog s) : fused u = fused s := by
  simp only [beyondLog, Prod.mk.injEq] at h
  obtain ⟨-, -, -, lc, inst, epochs⟩ := h
  exact Prod.ext lc (Prod.ext inst epochs)

theorem fused_auditCmd (c : RotCmd) (status : Nat) (sign : Bool) (s : State) : fused (auditCmd c status sign s) = fused s := by
  unfold auditCmd
  split
  · exact (fused_of_beyondLog (beyondLog_auditAppend ..)).trans rfl
  · rfl

/-- The answer to a command leaves what is fused. -/
theorem fused_cmdReply (sign : Bool) (m : Master) (opc : Nat) (c : RotCmd) (status : Nat) (data : List Byte) (s : State) :
    fused (cmdReply sign m opc c status data s) = fused s := by
  have same : ∀ u : State, fused (respond (masterIdx m) opc status data u) = fused u := fun u => by
    rw [fused, respond_rot]
    rfl
  exact (same _).trans (fused_auditCmd ..)

theorem lcAct_eq (c : RotCmd) (s : State) : lcAct c s =
    if !lcStep s.rot.lc (c.num 0 1) || (decide (c.num 0 1 = 1) && decide (4 ≤ s.rot.instKeys.length)) then refuse eDenied s
    else done s := rfl

section
variable {m : Master} {c : RotCmd} {s : State} (h : Safety.cmdSigned s m 0x10 [roleMaker] c) (hb : lcBad c = false)
include h hb

/-- A transition that is no edge of R486's. -/
theorem execLcSet_refused (edge : lcStep s.rot.lc (c.num 0 1) = false) :
    execLcSet m true s = .next (Safety.cmdAnswer m 0x10 c eDenied [] (Safety.cmdTaken m s)) := by
  have act : lcAct c (Safety.cmdTaken m s) = refuse eDenied (Safety.cmdTaken m s) :=
    (lcAct_eq ..).trans (if_pos (by rw [show lcStep (Safety.cmdTaken m s).rot.lc (c.num 0 1) = false from edge]; rfl))
  have run := (checked_signed h hb).trans act
  obtain ⟨turn, rest, command, -⟩ := h
  have answer := runCmd_answer true changeLc turn command run
  rw [if_neg (by decide)] at answer
  exact congrArg Host.Outcome.next (answer.trans (takeReserved_known (known_cmdAnswer (known_cmdTaken rest))))

/-- A transition along an edge, with room for the installer's key that it fuses. -/
theorem execLcSet_changes (edge : lcStep s.rot.lc (c.num 0 1) = true) (room : s.rot.instKeys.length < 4) :
    ∃ u, execLcSet m true s = .next u ∧ LcChanged c s u := by
  have act : lcAct c (Safety.cmdTaken m s) = done (Safety.cmdTaken m s) := by
    have edge : lcStep (Safety.cmdTaken m s).rot.lc (c.num 0 1) = true := edge
    have room : decide (4 ≤ (Safety.cmdTaken m s).rot.instKeys.length) = false := decide_eq_false (Nat.not_le.mpr room)
    rw [lcAct_eq, edge, room, Bool.and_false]
    rfl
  have run := (checked_signed h hb).trans act
  obtain ⟨turn, rest, command, -⟩ := h
  have answer := runCmd_answer true changeLc turn command run
  rw [if_pos rfl] at answer
  have changed := lcChanged_changeLc c s _ (fused_cmdReply true m 0x10 c stDone [] (Safety.cmdTaken m s))
  exact ⟨_, congrArg Host.Outcome.next (answer.trans (takeReserved_known (known_of_none changed.waiting))), changed⟩

end

end Sys2Proof.Machine
end

section
/-! SUPPORT. Keys, sessions, life cycle, repair record and tampering: the statement. -/

namespace Sys2Proof.Machine
open Sys2Proof

section
variable {m : Master} {c : RotCmd} {s : State}

/-! ## ENROLL and INST_ROTATE -/

theorem execEnroll_refused (h : Safety.cmdSigned s m 0x06 [roleInstaller] c) (hb : enrollBad c = false)
    (other : partLive s (c.num 0 1) = false) :
    execEnroll m true s = .next (Safety.cmdAnswer m 0x06 c ePartition [] (Safety.cmdTaken m s)) := by
  have act : enrollAct c (Safety.cmdTaken m s) = refuse ePartition (Safety.cmdTaken m s) :=
    (enrollAct_eq (p := ⟨c.num 0 1, enroll_part hb⟩) rfl _).trans
      (if_neg (by rw [show partLive (Safety.cmdTaken m s) (c.num 0 1) = false from other]; decide))
  exact congrArg Host.Outcome.next (runPlain_answer h ((checked_signed h hb).trans act) (known_cmdTaken h.2.1))

theorem execEnroll_done (h : Safety.cmdSigned s m 0x06 [roleInstaller] c) (hb : enrollBad c = false)
    (live : partLive s (c.num 0 1) = true) :
    execEnroll m true s = .next (Safety.cmdAnswer m 0x06 c stDone [] (setOpKey ⟨c.num 0 1, enroll_part hb⟩ (c.num 1 1)
      (if c.num 2 1 = 1 then none else some (c.bytes 3 57)) (Safety.cmdTaken m s))) := by
  have act := (enrollAct_eq (p := ⟨c.num 0 1, enroll_part hb⟩) rfl (Safety.cmdTaken m s)).trans (if_pos live)
  exact congrArg Host.Outcome.next (runPlain_answer h ((checked_signed h hb).trans act) (known_of_taken h.2.1 rfl rfl))

theorem execInstRotate_refused (h : Safety.cmdSigned s m 0x07 [roleInstaller] c) (hb : shortBody 57 c = false)
    (full : 4 ≤ s.rot.instKeys.length) :
    execInstRotate m true s = .next (Safety.cmdAnswer m 0x07 c eDenied [] (Safety.cmdTaken m s)) :=
  congrArg Host.Outcome.next (runPlain_answer h ((checked_signed h hb).trans (if_pos full)) (known_cmdTaken h.2.1))

theorem execInstRotate_done (h : Safety.cmdSigned s m 0x07 [roleInstaller] c) (hb : shortBody 57 c = false)
    (room : s.rot.instKeys.length < 4) : execInstRotate m true s = .next (Safety.cmdAnswer m 0x07 c stDone []
      (modRot (fun r => { r with instKeys := r.instKeys ++ [c.bytes 0 57], instActive := r.instKeys.length }) (Safety.cmdTaken m s))) :=
  congrArg Host.Outcome.next (runPlain_answer h ((checked_signed h hb).trans (if_neg (Nat.not_le.mpr room)))
    (known_of_taken h.2.1 rfl rfl))

/-! ## SESSION_OPEN and SESSION_CLOSE -/

theorem execSessionOpen_wrongPart (h : Safety.cmdSigned s m 0x20 [roleOperator] c) (hb : openBad c = false)
    (other : partLive s c.part.val = false) :
    execSessionOpen m .verifies s = .next (Safety.cmdAnswer m 0x20 c ePartition [] (Safety.cmdTaken m s)) := by
  have act := (checked_part (act := openAct) h hb).trans (if_neg (by rw [other]; decide))
  exact congrArg Host.Outcome.next (runPlain_answer h act (known_cmdTaken h.2.1))

/-- A signature under a key of another partition (R475). -/
theorem execSessionOpen_otherPart (h : Safety.cmdSigned s m 0x20 [roleOperator] c) (hb : openBad c = false) {p : Fin 4}
    (other : p ≠ c.part) (held : fget (fun _ => none) s.rot.opKeys (4 * p.val + c.kslot) ≠ none) :
    execSessionOpen m (.otherPart p) s = .next (Safety.cmdAnswer m 0x20 c ePartition [] (Safety.cmdTaken m s)) := by
  have held : (fget (fun _ => none) (Safety.cmdOut m s).rot.opKeys (4 * p.val + c.kslot)).isSome = true := Option.isSome_iff_ne_none.mpr held
  have act : opChecked openBad (.otherPart p) openAct c (Safety.cmdOut m s) = refuse ePartition (Safety.cmdTaken m s) := by
    simp only [opChecked, held]
    rw [checked_part h hb, if_neg other, ite_self]
  exact congrArg Host.Outcome.next (runPlain_answer h act (known_cmdTaken h.2.1))

theorem execSessionOpen_noKey (h : Safety.cmdSigned s m 0x20 [roleOperator] c) (hb : openBad c = false) {p : Fin 4}
    (none_ : fget (fun _ => none) s.rot.opKeys (4 * p.val + c.kslot) = none) :
    execSessionOpen m (.otherPart p) s = .next (Safety.cmdAnswer m 0x20 c eDenied [] (Safety.cmdOut m s)) := by
  have held : (fget (fun _ => none) (Safety.cmdOut m s).rot.opKeys (4 * p.val + c.kslot)).isSome = false := by
    rw [show (Safety.cmdOut m s).rot.opKeys = s.rot.opKeys from rfl, none_]
    rfl
  have act : opChecked openBad (.otherPart p) openAct c (Safety.cmdOut m s) = refuse eDenied (Safety.cmdOut m s) := by
    simp only [opChecked, held]
    exact checked_fails h hb true
  exact congrArg Host.Outcome.next (runPlain_answer h act (known_of_taken h.2.1 rfl rfl))

section
variable {p : HostId} (h : Safety.cmdSigned s m 0x20 [roleOperator] c) (hb : openBad c = false) (port : c.num 0 1 = p.val)
  (live : partLive s c.part.val = true)
include h hb port live

theorem execSessionOpen_denied (busy : s.cams[p].sess[c.part].state ≠ .none ∨ reassigned s c.part = true ∨ isFenced s (camB p) = true) :
    execSessionOpen m .verifies s = .next (Safety.cmdAnswer m 0x20 c eDenied [] (Safety.cmdTaken m s)) := by
  have act : openAct c (Safety.cmdTaken m s) = refuse eDenied (Safety.cmdTaken m s) := by
    have busy : (Safety.cmdTaken m s).cams[p].sess[c.part].state ≠ .none ∨ reassigned (Safety.cmdTaken m s) c.part = true ∨
      isFenced (Safety.cmdTaken m s) (camB p) = true := busy
    rw [openAct_eq port]
    refine if_pos ?_
    simpa only [Bool.or_eq_true, decide_eq_true_iff, or_assoc] using busy
  have run := ((checked_part (act := openAct) h hb).trans (if_pos live)).trans act
  exact congrArg Host.Outcome.next (runPlain_answer h run (known_cmdTaken h.2.1))

theorem execSessionOpen_done (closed : s.cams[p].sess[c.part].state = .none) (keeps : reassigned s c.part = false)
    (free : isFenced s (camB p) = false) :
    let t := Safety.cmdTaken m s
    execSessionOpen m .verifies s = .next (Safety.cmdAnswer m 0x20 c stDone (x448Public (openKey t) ++ bytesOfNat 2 (openId p t).toNat ++
      fitBytes 114 (Config.sign roleIdentity (openTranscript p c t))) (pumpAll (opened p c t))) := by
  have act := (openAct_eq port (Safety.cmdTaken m s)).trans (if_neg (by
    have closed : decide ((Safety.cmdTaken m s).cams[p].sess[c.part].state ≠ .none) = false := decide_eq_false (not_not_intro closed)
    have keeps : reassigned (Safety.cmdTaken m s) c.part = false := keeps
    have free : isFenced (Safety.cmdTaken m s) (camB p) = false := free
    rw [closed, keeps, free]
    decide))
  have run := ((checked_part (act := openAct) h hb).trans (if_pos live)).trans act
  have rot : (pumpAll (opened p c (Safety.cmdTaken m s))).rot = (opened p c (Safety.cmdTaken m s)).rot :=
    congrArg (fun v => v.1) (hostView_pumpAll _)
  have known : Known (pumpAll (opened p c (Safety.cmdTaken m s))) := by
    refine known_of_taken h.2.1 ?_ ?_ <;> rw [rot, (opened_rest ..).2]
  exact congrArg Host.Outcome.next (runPlain_answer h run known)

end

theorem execSessionClose_done (h : Safety.cmdSigned s m 0x21 [roleOperator] c) (hb : bitsBad 1 c = false) {p : HostId}
    (port : c.num 0 1 = p.val) (live : partLive s c.part.val = true) : execSessionClose m .verifies s =
      .next (Safety.cmdAnswer m 0x21 c stDone [] (endSessions p (fun q _ => decide (q = c.part)) (Safety.cmdTaken m s))) := by
  have run := ((checked_part (act := closeAct) h hb).trans (if_pos live)).trans (closeAct_eq port _)
  exact congrArg Host.Outcome.next (runPlain_answer h run (known_of_taken h.2.1 rfl rfl))

/-! ## FACTORY and REPAIR_CLEAR -/

theorem execFactory_refused (h : Safety.cmdSigned s m 0x11 [roleMaker] c) (hb : bitsBad 1 c = false) (deployed : s.rot.lc = 2) :
    execFactory m true s = .next (Safety.cmdAnswer m 0x11 c eDenied [] (Safety.cmdTaken m s)) :=
  congrArg Host.Outcome.next (runPlain_answer h ((checked_signed h hb).trans (if_pos deployed)) (known_cmdTaken h.2.1))

theorem execFactory_done (h : Safety.cmdSigned s m 0x11 [roleMaker] c) (hb : bitsBad 1 c = false) (other : s.rot.lc ≠ 2) :
    execFactory m true s = .next (Safety.cmdAnswer m 0x11 c stDone []
      (modRot (fun r => { r with factory := c.num 0 1 % 2 == 1 }) (Safety.cmdTaken m s))) :=
  congrArg Host.Outcome.next (runPlain_answer h ((checked_signed h hb).trans (if_neg other)) (known_of_taken h.2.1 rfl rfl))

theorem execRepairClear_one (h : Safety.cmdSigned s m 0x12 [roleMaker] c) (hb : repairBad c = false) (one : c.len = 4) :
    execRepairClear m true s = .next (Safety.cmdAnswer m 0x12 c stDone [] (modRot (clearRepair (c.num 0 4)) (Safety.cmdTaken m s))) := by
  have act : repairAct c (Safety.cmdTaken m s) = done (modRot (clearRepair (c.num 0 4)) (Safety.cmdTaken m s)) := by
    rw [repairAct, repairEntries_one one]
    rfl
  obtain ⟨waiting, slots⟩ := clearRepair_commands (c.num 0 4) (Safety.cmdTaken m s).rot
  exact congrArg Host.Outcome.next (runPlain_answer h ((checked_signed h hb).trans act) (known_of_taken h.2.1 waiting slots))

end

/-- Settles O56: each command's act in the state in which it has been taken, its answer, and the wipes of LC_SET and of TAMPER. -/
theorem keysAndLifeCycle : Obligations.KeysAndLifeCycle := by
  unfold Obligations.KeysAndLifeCycle
  refine ⟨fun m c s => ⟨fun h hb => ⟨execEnroll_refused h hb, fun live => ?enroll⟩,
    fun h hb => ⟨execInstRotate_refused h hb, execInstRotate_done h hb⟩,
    fun p h hb port => ⟨execSessionOpen_wrongPart h hb, fun _ => execSessionOpen_otherPart h hb, fun _ => execSessionOpen_noKey h hb,
      execSessionOpen_denied h hb port, fun live closed keeps free => ?sessionOpen⟩,
    fun p h hb port live => ?close,
    fun h hb => ⟨execLcSet_refused h hb, fun edge room => ?lifeCycle⟩,
    fun h hb => ⟨execFactory_refused h hb, execFactory_done h hb⟩, fun h hb one => ?repair⟩,
    fun d s => ⟨exec_tamper_idle d s, fun powered counts => ?tamper⟩⟩
  case enroll =>
    refine ⟨_, execEnroll_done h hb live, setOpKey_rest .., fun k => setOpKey_opKeys .., fun j p => ?_⟩
    exact setOpKey_sess ⟨c.num 0 1, enroll_part hb⟩ p (c.num 1 1) _ (Safety.cmdTaken m s) j
  case sessionOpen =>
    have view := hostView_pumpAll (opened p c (Safety.cmdTaken m s))
    simp only [hostView, Prod.mk.injEq] at view
    obtain ⟨rot, items, -, sess⟩ := view
    obtain ⟨openItems, openRot⟩ := opened_rest p c (Safety.cmdTaken m s)
    have id : (pumpAll (opened p c (Safety.cmdTaken m s))).rot.sessIds[p] = openId p (Safety.cmdTaken m s) := by
      rw [rot, openRot]
      exact Vector.getElem_set_self _
    refine ⟨pumpAll (opened p c (Safety.cmdTaken m s)), openKey (Safety.cmdTaken m s), ?_⟩
    dsimp only
    rw [id]
    exact ⟨execSessionOpen_done h hb port live closed keeps free, items.trans openItems, nextId_ne _ _,
      (congrArg (·[c.part]) (congrFun sess p)).trans (opened_sess ..)⟩
  case close =>
    have sess := endSessions_sess (fun q _ => decide (q = c.part)) (Safety.cmdTaken m s) p
    refine ⟨_, execSessionClose_done h hb port live, rfl, ?_, fun j q other => ?_⟩
    · rw [sess, if_pos ⟨rfl, decide_eq_true rfl⟩]
      rfl
    · rw [sess, if_neg fun same => other.elim (· same.1) (· (of_decide_eq_true same.2))]
      rfl
  case lifeCycle =>
    obtain ⟨u, run, ⟨lc, opKeys, owner, cause, ready, items, instKeys, epochs, waiting, sessions⟩⟩ := execLcSet_changes h hb edge room
    exact ⟨u, run, lc, opKeys, owner, cause, ready, items, instKeys, epochs, waiting, sessions⟩
  case repair =>
    exact ⟨_, execRepairClear_one h hb one, rfl, clearRepair_tiles _ _, clearRepair_tiles_kept _ _, clearRepair_cols _ _,
      clearRepair_chans _ _⟩
  case tamper =>
    obtain ⟨u, run, ⟨opKeys, waiting, sessions, links, events, epochs, keys⟩, report⟩ := tamper_leaves d s powered counts
    exact ⟨u, run, opKeys, waiting, sessions, links, events, report, epochs, keys⟩

end Sys2Proof.Machine
end

section
/-! SUPPORT. The element-wise instructions (R164, R172): the statement. -/

namespace Sys2Proof.Machine
open Sys2Proof

/-! ## Lanes of element-wise results -/

theorem packLane_halves (w : Word) : packLane (loHalf w) (hiHalf w) = w := by
  have := w.isLt
  apply BitVec.eq_of_toNat_eq
  simp only [packLane, loHalf, hiHalf, BitVec.toNat_ofNat]
  omega

/-- An operation that answers its second operand moves it, in any format. -/
theorem laneOp_second (fmt : Nat) (a b c : Word) : laneOp fmt (fun _ y _ => y) a b c = b := by
  unfold laneOp
  split
  · exact packLane_halves b
  · simp

theorem laneOp_int2 (f : Word → Word → Word) (a b c : Word) : laneOp 3 (int2 f 3) a b c = f a b := by
  simp [laneOp, int2]

theorem elemLine_useAB (v : VIns) (s : State) (t : TileId) :
    elemLine useAB v s t = fun j => Safety.line s t v.va j || bLine v s t j :=
  funext fun _ => Bool.or_false _

section Clauses

variable {c : Instr} {opc : Nat} {t : TileId} {i : Item} {v : VIns} {s : State}

/-- A floating instruction of two operands makes its results, rounded once. -/
theorem vecMakes_float2 (hat : Safety.vecAt s t v i) (hu : aUnused v useAB = false) (hf : v.fmt ≤ 2) (ho : v.opc = opc)
    (f : FVal → FVal → FVal) (hc : exec c s = .next (vecRow opc (elementwise useAB floatFmts (float2 f)) t s))
    (hin : vecOpcs.contains opc = true) :
    Safety.vecMakes c t i s v.vd 1
      (fun k => laneOp v.fmt (float2 f v.fmt) (Safety.lane s t v.va k) (bLane v s t k) (Safety.lane s t v.vc k))
      (fun j => Safety.line s t v.va j || bLine v s t j) := by
  have fmts : floatFmts.contains v.fmt = true := by interval_cases v.fmt <;> rfl
  have m := vecMakes_elementwise hat ho hc hin rfl hu fmts
  rw [elemLine_useAB] at m
  exact m

/-- An INT32 instruction makes the words of its operation. -/
theorem vecMakes_int2 (hat : Safety.vecAt s t v i) (hu : aUnused v useAB = false) (hf : v.fmt = 3) (ho : v.opc = opc)
    (f : Word → Word → Word) (hc : exec c s = .next (vecRow opc (elementwise useAB intFmts (int2 f)) t s))
    (hin : vecOpcs.contains opc = true) :
    Safety.vecMakes c t i s v.vd 1 (fun k => f (Safety.lane s t v.va k) (bLane v s t k))
      (fun j => Safety.line s t v.va j || bLine v s t j) := by
  have fmts : intFmts.contains v.fmt = true := by rw [hf]; rfl
  have m := vecMakes_elementwise hat ho hc hin rfl hu fmts
  have lane : elemLane useAB (int2 f) v s t = fun k => f (Safety.lane s t v.va k) (bLane v s t k) :=
    funext fun k => by rw [elemLane, hf, laneOp_int2]; rfl
  rw [elemLine_useAB, lane] at m
  exact m

end Clauses

/-! ## The statement -/

/-- Settles O23: each instruction is an `elementwise` body, whose lanes are the operation's on the lanes of its operands. -/
theorem vectorElementwise : Obligations.VectorElementwise := by
  unfold Obligations.VectorElementwise
  intro t v i s hat a sc b c pb pab pabc fl
  refine ⟨fun hu hf => ⟨fun ho => ?_, fun ho => ?_, fun ho => ?_, fun ho => ?_, fun ho => ?_⟩, fun hu hf ho => ?fma,
    fun hu hf ho => ?mov, fun hu hf => ⟨fun ho => ?_, fun ho => ?_, fun ho => ?_, fun ho => ?_, fun ho => ?_, fun ho => ?_,
      fun ho => ?_, fun ho => ?_, fun ho => ?_⟩⟩
  case fma =>
    have fmts : floatFmts.contains v.fmt = true := by interval_cases v.fmt <;> rfl
    exact vecMakes_elementwise (c := .vfma t) hat ho rfl (by decide) rfl hu fmts
  case mov =>
    have fmts : [0, 1, 2, 3].contains v.fmt = true := by interval_cases v.fmt <;> rfl
    have m := vecMakes_elementwise (c := .vmov t) hat ho rfl (by decide) rfl hu fmts
    have lane : elemLane ⟨false, true, false⟩ (fun _ _ b _ => b) v s t = b := funext fun k => laneOp_second _ _ _ _
    have line : elemLine ⟨false, true, false⟩ v s t = pb := funext fun j => Bool.or_false _
    rw [lane, line] at m
    exact m
  · exact vecMakes_float2 (c := .vadd t) hat hu hf ho _ rfl (by decide)
  · exact vecMakes_float2 (c := .vsub t) hat hu hf ho _ rfl (by decide)
  · exact vecMakes_float2 (c := .vmul t) hat hu hf ho _ rfl (by decide)
  · exact vecMakes_float2 (c := .vmin t) hat hu hf ho _ rfl (by decide)
  · exact vecMakes_float2 (c := .vmax t) hat hu hf ho _ rfl (by decide)
  · exact vecMakes_int2 (c := .viadd t) hat hu hf ho _ rfl (by decide)
  · exact vecMakes_int2 (c := .visub t) hat hu hf ho _ rfl (by decide)
  · exact vecMakes_int2 (c := .vimul t) hat hu hf ho _ rfl (by decide)
  · exact vecMakes_int2 (c := .vand t) hat hu hf ho _ rfl (by decide)
  · exact vecMakes_int2 (c := .vor t) hat hu hf ho _ rfl (by decide)
  · exact vecMakes_int2 (c := .vxor t) hat hu hf ho _ rfl (by decide)
  · exact vecMakes_int2 (c := .vshl t) hat hu hf ho _ rfl (by decide)
  · exact vecMakes_int2 (c := .vshr t) hat hu hf ho _ rfl (by decide)
  · exact vecMakes_int2 (c := .vsar t) hat hu hf ho _ rfl (by decide)

end Sys2Proof.Machine
end

section
/-! SUPPORT. VPLD into a program slot whose lines are poisoned (R163, R185): a state in which one is. -/

namespace Sys2Proof.Machine
open Sys2Proof

/-- VPLD of program slot 0 from address 0 of A-mem, and its item. -/
def loadProgEntry : VecEntry := ⟨BitVec.ofNat 64 (0x07 * 2 ^ 56), [], 0, ⟨0, 1⟩, none⟩
def loadProgItem : Item :=
  { key := loadProgEntry.key, job := 0, gen := 0, det := false, layer := 0, tile := 0, rank := 0, entry := 0, args := [], sq := 0,
    cq := 0, wd := 0, cookie := 0, state := .running, errs := [], remote := 0, fenced := false, cancelled := false,
    poisoned := false, flags := 0, detail := 0, listEnded := false, usedArray := false, usedVector := true, beatsArray := 0,
    beatsVector := 0, beatsMover := 0, sparse := false, sumRb := 0, sumDb := 0, energyPj := 0, taps := 0 }

/-- The device at power-on, but that tile 0's vector engine is on with this instruction in front, that A-mem holds the image of a program
of one NOP, and that the first line of program slot 0, which had failed, is poisoned. -/
def poisonedProg : State :=
  { modHdr (vecB 0) (fun h => { h with mode := .on })
      (modTile 0 (fun x => { x with
        amem := ⟨[(0, 1)], []⟩
        vec := { x.vec with queue := [loadProgEntry], poison := [(progLine 0, true)] } }) State.reset) with items := [loadProgItem] }

theorem poisonedProg_at : Safety.vecAt poisonedProg 0 (vinsOf loadProgEntry) loadProgItem := by
  unfold Safety.vecAt
  decide +kernel

theorem poisonedProg_ready : Safety.tileReady poisonedProg 0 := by
  refine ⟨fun m => ?_, fun m lo len => rfl, by decide +kernel⟩
  cases m <;> rfl

/-- The image passes the check of R188, and the instruction those of R174. -/
theorem poisonedProg_loads : (Prog.mk ((List.range 64).map (fun k => Safety.wordAt poisonedProg 0 .amem (0 + 4 * k)))).ok = true ∧
    noRegs (vinsOf loadProgEntry) = true ∧ fld (vinsOf loadProgEntry).x 27 22 = 0 ∧ fld (vinsOf loadProgEntry).x 18 0 = 0 := by
  decide +kernel

theorem poisonedProg_poisoned : Safety.line poisonedProg 0 40 0 = true := by decide +kernel

/-- The slot's lines are written with the image, and so are poisoned no longer (R163). -/
theorem poisonedProg_cleared : Safety.line (vecRow 0x07 vpldBody 0 poisonedProg) 0 40 0 = false := by decide +kernel

/-- Refutes O27: VPLD clears the poison of its program slot's lines, which the frame counts among those that stay: line 0 of slot 0 is
line 64 × 40 + 0 of the engine, and the frame speaks of the lines of every register number. -/
theorem not_vectorState : ¬ Obligations.VectorState := by
  unfold Obligations.VectorState
  intro h
  obtain ⟨ok, regs, hi, lo⟩ := poisonedProg_loads
  obtain ⟨-, load, -⟩ := h.1 0 (vinsOf loadProgEntry) loadProgItem poisonedProg poisonedProg_at poisonedProg_ready rfl
  obtain ⟨u, run, ⟨-, -, -, -, -, lines, -⟩, -⟩ := (load rfl regs hi lo rfl (by decide +kernel)).1 ok
  have run : Host.Outcome.next (vecRow 0x07 vpldBody 0 poisonedProg) = .next u := run
  injection run with run
  subst run
  have kept := (lines 40 0 0 (by decide) (by decide) (by decide)).2
  rw [poisonedProg_cleared, poisonedProg_poisoned] at kept
  exact absurd kept (by decide)

end Sys2Proof.Machine
end

section
/-! SUPPORT. Accesses of a tile's vector engine to the tile's memories: what they leave of the state, and what they read and write, by the
byte (R177, R238 to R253). -/

namespace Sys2Proof.Machine
open Sys2Proof

/-! ## What an access leaves -/

/-- No bank of tile t's memories is reserved for a wide access (R243). -/
def BankFree (t : TileId) (s : State) : Prop := ∀ m lo len, bankReserved s t m lo len = false

/-- Nothing of tile t makes its vector engine wait: no reserved bank (R243) and no drained router (R503). -/
structure VecCalm (t : TileId) (s : State) : Prop where
  banks : BankFree t s
  router : routerStops s t = false

/-- w is s after accesses of tile t's vector engine to the tile's memories, and after tap packets that they sent: of the tile only its
memories, its feeders' watches, its promoted requests and its tap accumulators may differ. -/
structure VecAccess (t : TileId) (s w : State) : Prop where
  other : ∀ x, x ≠ t → w.tiles[x] = s.tiles[x]
  tile : w.tiles[t] = { s.tiles[t] with amem := w.tiles[t].amem, pmem := w.tiles[t].pmem, wmem := w.tiles[t].wmem,
                                        mnt := w.tiles[t].mnt, promoted := w.tiles[t].promoted, taps := w.tiles[t].taps }
  rest : w = { s with tiles := w.tiles, regs := w.regs, hdrs := w.hdrs, items := w.items, quads := w.quads,
                      heldBack := w.heldBack, nfree := w.nfree }
  mode : ∀ b, (hdr w b).mode = (hdr s b).mode
  items : ∃ n : Item → Nat, w.items = s.items.map (fun x => { x with taps := n x })
  regs : ∀ a, a / 4096 ≠ pageBase (.tile t .tmem) 0 / 4096 → regAt w a = regAt s a
  held : VecCalm t s → w.heldBack = s.heldBack

theorem wideWaits_congr {s w : State} (h : ∀ x : TileId, w.tiles[x].mov = s.tiles[x].mov) : wideWaits w = wideWaits s := by
  have e : ∀ z : State, wideWaits z = true ↔ ∃ x : TileId, (z.tiles[x].mov.queue ++ z.tiles[x].mov.active).any
      (fun d => d.wide && !d.moved && !d.failed) = true := by
    intro z
    unfold wideWaits
    rw [Vector.any_eq_true]
    exact ⟨fun ⟨i, hi, h⟩ => ⟨⟨i, hi⟩, h⟩, fun ⟨x, h⟩ => ⟨x.val, x.isLt, h⟩⟩
  rw [Bool.eq_iff_iff, e, e]
  simp only [h]

theorem bankReserved_congr {s w : State} {t : TileId} (h : ∀ x : TileId, w.tiles[x].mov = s.tiles[x].mov)
    (hr : w.tiles[t].wideReserved = s.tiles[t].wideReserved) (m : MemSel) (lo len : Nat) :
    bankReserved w t m lo len = bankReserved s t m lo len := by
  unfold bankReserved
  rw [hr, wideWaits_congr h]

namespace VecAccess

variable {t : TileId} {s u w : State}

theorem vec (h : VecAccess t s w) : w.tiles[t].vec = s.tiles[t].vec := by rw [h.tile]

theorem bank (h : VecAccess t s w) (m : MemSel) (lo len : Nat) : bankReserved w t m lo len = bankReserved s t m lo len := by
  refine bankReserved_congr (fun x => ?_) (by rw [h.tile]) m lo len
  by_cases hx : x = t
  · rw [hx, h.tile]
  · rw [h.other x hx]

theorem router (h : VecAccess t s w) : routerStops w t = routerStops s t := by
  simp only [routerStops, blockStops, h.mode]

theorem calm (h : VecAccess t s w) (c : VecCalm t s) : VecCalm t w :=
  ⟨fun m lo len => (h.bank m lo len).trans (c.banks m lo len), h.router.trans c.router⟩

theorem armed (h : VecAccess t s w) : w.flt.armed = s.flt.armed := by rw [h.rest]

theorem refl (t : TileId) (s : State) : VecAccess t s s :=
  ⟨fun _ _ => rfl, rfl, rfl, fun _ => rfl, ⟨Item.taps, by simp⟩, fun _ _ => rfl, fun _ => rfl⟩

theorem trans (h : VecAccess t s u) (g : VecAccess t u w) : VecAccess t s w where
  other x hx := (g.other x hx).trans (h.other x hx)
  tile := by rw [g.tile, h.tile]
  rest := by rw [g.rest, h.rest]
  mode b := (g.mode b).trans (h.mode b)
  items := by
    obtain ⟨n, hn⟩ := h.items
    obtain ⟨k, hk⟩ := g.items
    refine ⟨fun x => k { x with taps := n x }, ?_⟩
    rw [hk, hn, List.map_map]
    rfl
  regs a ha := (g.regs a ha).trans (h.regs a ha)
  held c := (g.held (h.calm c)).trans (h.held c)

theorem foldl {α : Type} {f : State → α → State} (h : ∀ a x, VecAccess t a (f a x)) (l : List α) (s : State) :
    VecAccess t s (l.foldl f s) :=
  foldl_of_steps (refl t) trans h l s

/-- A count on the memories' page. -/
theorem bump (t : TileId) {o : Nat} (ho : o < 4096) (n : Nat) (s : State) :
    VecAccess t s (Machine.bump (.tile t .tmem) o n s) where
  other _ _ := rfl
  tile := rfl
  rest := rfl
  mode _ := rfl
  items := ⟨Item.taps, by simp [Machine.bump, bumpAt]⟩
  regs a ha := by
    refine (regAt_bumpAt _ a n s).trans (if_neg ?_)
    rintro rfl
    exact ha (pageBase_page ho)
  held _ := rfl

/-- An update of the tile's memories, watches, promoted requests or tap accumulators. -/
theorem modTile (t : TileId) {f : TileSt → TileSt} (s : State)
    (h : ∀ x, f x = { x with amem := (f x).amem, pmem := (f x).pmem, wmem := (f x).wmem, mnt := (f x).mnt,
                             promoted := (f x).promoted, taps := (f x).taps }) :
    VecAccess t s (Machine.modTile t f s) where
  other x hx := by
    simp only [modTile_tiles, Fin.getElem_fin]
    exact Vector.getElem_set_ne _ _ (fun e => hx (Fin.ext e.symm))
  tile := by
    have e : (Machine.modTile t f s).tiles[t] = f s.tiles[t] := by
      simp only [modTile_tiles, Fin.getElem_fin, Vector.getElem_set_self]
    rw [e]
    exact h _
  rest := rfl
  mode _ := rfl
  items := ⟨Item.taps, by simp⟩
  regs _ _ := rfl
  held _ := rfl

theorem hdr_emitN_mode (b : Block) (n : Nat) (s : State) (c : Block) : (hdr (emitN b n s) c).mode = (hdr s c).mode := by
  rw [emitN, hdr_modHdr]
  split
  · next e => simp only [hdr, e]
  · rfl

theorem emitN (t : TileId) (b : Block) (n : Nat) (s : State) : VecAccess t s (Machine.emitN b n s) :=
  ⟨fun _ _ => rfl, rfl, rfl, hdr_emitN_mode b n s, ⟨Item.taps, by simp [Machine.emitN]⟩, fun _ _ => rfl, fun _ => rfl⟩

theorem countAccess (r : MemReq) (lo len : Nat) (s : State) : VecAccess r.tile s (countAccess r lo len s) := by
  have answer : VecAccess r.tile s (answerAccess r s) := by
    unfold answerAccess
    split
    · exact emitN _ _ _ s
    · exact refl _ s
  unfold Machine.countAccess
  split
  · exact refl _ s
  have counted := answer.trans (bump r.tile (o := Off.tmemAcc) (by decide) r.accesses _)
  simp only
  split
  · exact counted
  · exact counted.trans (bump r.tile (o := Off.tmemDpB) (by decide) _ _)

theorem grantAccess (r : MemReq) (lo len : Nat) (s : State) : VecAccess r.tile s (grantAccess r lo len s) := by
  have served : VecAccess r.tile s (servePromoted r lo len (Machine.countAccess r lo len s)) := by
    refine (countAccess r lo len s).trans ?_
    unfold servePromoted
    split
    · exact refl _ _
    · exact modTile _ _ (fun _ => by rfl)
  unfold Machine.grantAccess
  simp only
  split
  · next hb =>
    exact { served with
      rest := by conv_lhs => rw [served.rest]
      held := fun c => absurd (c.banks _ _ _) (by rw [hb]; decide) }
  · exact served

theorem setTmem (t : TileId) (m : MemSel) (v : TMem) (s : State) : VecAccess t s (setTmem t m v s) := by
  cases m <;> exact modTile t s (fun _ => by rfl)

theorem noteDisturb (t : TileId) (m : MemSel) (lo len : Nat) (s : State) : VecAccess t s (noteDisturb t m lo len s) := by
  unfold Machine.noteDisturb
  simp only
  split
  · exact refl t s
  · exact modTile t s (fun _ => by rfl)

end VecAccess

/-! ## Reads of a memory that reports nothing -/

/-- A read of this memory raises no report: a failing byte holds the marker (R247), and no line of W-mem fails (R246). -/
structure Silent (m : MemSel) (x : TMem) : Prop where
  lines : m = .wmem → x.err = []
  marked : ∀ e ∈ x.err, fget zeroByte x.bytes e.1 = 0xFF

theorem Silent.of_clean {m : MemSel} {x : TMem} (h : x.err = []) : Silent m x :=
  ⟨fun _ => h, by simp [h]⟩

theorem Silent.wordReports {m : MemSel} {x : TMem} (h : Silent m x) (w : Nat) : wordReports x w = false := by
  unfold Machine.wordReports
  rw [List.any_eq_false]
  intro e he
  simp [h.marked e he]

theorem Silent.readLine {m : MemSel} {x : TMem} (h : Silent m x) (line lo len : Nat) :
    ∃ mk, readLine m x line lo len = (0, 0, 0, 0, mk, x) := by
  have none : ∀ ws : List Nat, ws.filter (Machine.wordReports x) = [] := fun ws => by
    simp [h.wordReports]
  cases m with
  | wmem => exact ⟨false, by simp [Machine.readLine, h.lines rfl, fget_nil, noErr]⟩
  | amem => exact ⟨_, by simp only [Machine.readLine, none]; rfl⟩
  | pmem => exact ⟨_, by simp only [Machine.readLine, none]; rfl⟩

/-- w is s after accesses that changed no byte and no code of the tile's memories. -/
structure VecReads (t : TileId) (s w : State) : Prop where
  access : VecAccess t s w
  mem : ∀ m, tmem w t m = tmem s t m

namespace VecReads

variable {t : TileId} {s u w : State}

theorem refl (t : TileId) (s : State) : VecReads t s s := ⟨.refl t s, fun _ => rfl⟩

theorem trans (h : VecReads t s u) (g : VecReads t u w) : VecReads t s w :=
  ⟨h.access.trans g.access, fun m => (g.mem m).trans (h.mem m)⟩

theorem byte (h : VecReads t s w) (m : MemSel) (a : Nat) : Safety.byteAt w t m a = Safety.byteAt s t m a := by
  rw [Safety.byteAt, h.mem, Safety.byteAt]

theorem bump (t : TileId) {o : Nat} (ho : o < 4096) (n : Nat) (s : State) :
    VecReads t s (Machine.bump (.tile t .tmem) o n s) :=
  ⟨.bump t ho n s, fun m => by cases m <;> rfl⟩

theorem countAccess (r : MemReq) (lo len : Nat) (s : State) : VecReads r.tile s (countAccess r lo len s) := by
  refine ⟨.countAccess r lo len s, fun m => ?_⟩
  have answer : (answerAccess r s).tiles = s.tiles := by
    unfold answerAccess
    split <;> rfl
  unfold Machine.countAccess
  split
  · rfl
  simp only
  split <;> (cases m <;> simp only [tmem, Machine.bump, bumpAt, setRegAt_tiles, answer])

theorem grantAccess (r : MemReq) (lo len : Nat) (s : State) : VecReads r.tile s (grantAccess r lo len s) := by
  refine ⟨.grantAccess r lo len s, fun m => ?_⟩
  have served : ∀ a, tmem (servePromoted r lo len a) r.tile m = tmem a r.tile m := by
    intro a
    unfold servePromoted
    split
    · rfl
    · cases m <;> simp [tmem]
  have e := (served _).trans ((countAccess r lo len s).mem m)
  unfold Machine.grantAccess
  simp only
  split
  · cases m <;> exact e
  · exact e

theorem touchLine (r : MemReq) (lo len : Nat) (s : State) (line : Nat) (h : Silent r.mem (tmem s r.tile r.mem)) :
    VecReads r.tile s (touchLine r lo len s line) := by
  obtain ⟨mk, e⟩ := h.readLine line lo len
  unfold Machine.touchLine
  simp only [e, if_true]
  split
  · exact bump r.tile (o := Off.tmemMark) (by decide) 1 s
  · exact refl _ s

theorem tmRead (r : MemReq) (lo len : Nat) (s : State) (h : Silent r.mem (tmem s r.tile r.mem)) :
    VecReads r.tile s (tmRead r lo len s).2 := by
  have lines : ∀ (ls : List Nat) (a : State), VecReads r.tile s a → VecReads r.tile s (ls.foldl (Machine.touchLine r lo len) a) := by
    intro ls
    induction ls with
    | nil => exact fun a ha => ha
    | cons l ls ih => exact fun a ha => ih _ (ha.trans (touchLine r lo len a l (by rw [ha.mem]; exact h)))
  exact lines _ _ (grantAccess r lo len s)

end VecReads

theorem memGet_eq (s : State) (t : TileId) (m : MemSel) (lo len : Nat) :
    memGet s t m lo len = (List.range len).map (fun k => Safety.byteAt s t m (lo + k)) := fread_eq_map _ _ _ _

theorem memPoison_clean {s : State} {t : TileId} {m : MemSel} (h : (tmem s t m).err = []) (lo len : Nat) :
    memPoison s t m lo len = List.replicate len false := by
  simp [memPoison, h]

/-- What a read delivers is what the memory held. -/
theorem tmRead_bytes (r : MemReq) (lo len : Nat) {s : State} (h : Silent r.mem (tmem s r.tile r.mem)) :
    (tmRead r lo len s).1 = (memGet s r.tile r.mem lo len, memPoison s r.tile r.mem lo len) := by
  have k := (VecReads.tmRead r lo len s h).mem r.mem
  show (memGet (tmRead r lo len s).2 r.tile r.mem lo len, memPoison (tmRead r lo len s).2 r.tile r.mem lo len) = _
  simp only [memGet, memPoison, k]

/-! ## Ranges cut at lines (R177, R253) -/

/-- The first piece of a range ends at its line's end, and the other pieces are those of the rest. -/
theorem linePieces_succ {lo len : Nat} (h : 0 < len) :
    linePieces lo len = (lo, min len (64 - lo % 64)) :: linePieces (lo + min len (64 - lo % 64)) (len - min len (64 - lo % 64)) := by
  have first : (max lo (64 * (lo / 64)), min (lo + len) (64 * (lo / 64) + 64) - max lo (64 * (lo / 64))) =
      (lo, min len (64 - lo % 64)) := Prod.ext (by simp only; omega) (by simp only; omega)
  by_cases one : len ≤ 64 - lo % 64
  · have e : (lo + len - 1) / 64 + 1 - lo / 64 = 1 := by omega
    simp only [linePieces, linesOf, h.ne', if_false, e, List.range_one, List.map_cons, List.map_nil, Nat.add_zero, first]
    simp [Nat.min_eq_left one]
  · have hl : min len (64 - lo % 64) = 64 - lo % 64 := by omega
    have next : (lo + (64 - lo % 64)) / 64 = lo / 64 + 1 := by omega
    have e : (lo + len - 1) / 64 + 1 - lo / 64 =
        (lo + (64 - lo % 64) + (len - (64 - lo % 64)) - 1) / 64 + 1 - (lo / 64 + 1) + 1 := by omega
    have h' : len - (64 - lo % 64) ≠ 0 := by omega
    rw [hl] at first ⊢
    simp only [linePieces, linesOf, h.ne', h', if_false, e, next, List.range_succ_eq_map, List.map_cons, List.map_map,
      Nat.add_zero, first]
    congr 1
    refine List.map_congr_left fun i _ => ?_
    simp only [Function.comp]
    exact Prod.ext (by simp only; omega) (by simp only; omega)

theorem linePieces_zero (lo : Nat) : linePieces lo 0 = [] := rfl

/-- What holds of no piece and of one piece before others holds of the pieces of every range. -/
theorem linePieces_induction {P : Nat → Nat → Prop} (zero : ∀ lo, P lo 0)
    (succ : ∀ lo len n, 0 < n → n ≤ len → lo % 64 + n ≤ 64 → linePieces lo len = (lo, n) :: linePieces (lo + n) (len - n) →
      P (lo + n) (len - n) → P lo len) (lo len : Nat) : P lo len := by
  induction len using Nat.strong_induction_on generalizing lo with
  | _ len ih =>
    rcases Nat.eq_zero_or_pos len with rfl | h
    · exact zero lo
    · exact succ lo len _ (by omega) (by omega) (by omega) (linePieces_succ h) (ih _ (by omega) _)

/-- A piece lies in one line, and in the range. -/
theorem linePieces_mem (lo len : Nat) :
    ∀ p ∈ linePieces lo len, p.1 % 64 + p.2 ≤ 64 ∧ lo ≤ p.1 ∧ p.1 + p.2 ≤ lo + len := by
  induction lo, len using linePieces_induction with
  | zero lo => simp [linePieces_zero]
  | succ lo len n h0 hn hl e ih =>
    rw [e]
    rintro p (_ | ⟨_, hp⟩)
    · exact ⟨hl, le_rfl, by simp only; omega⟩
    · have := ih p hp
      omega

/-- The pieces of a range are the range. -/
theorem linePieces_flatMap {α : Type} (f : Nat → α) (lo len : Nat) :
    (linePieces lo len).flatMap (fun p => (List.range p.2).map (fun k => f (p.1 + k))) =
      (List.range len).map (fun k => f (lo + k)) := by
  induction lo, len using linePieces_induction with
  | zero lo => simp [linePieces_zero]
  | succ lo len n h0 hn hl e ih =>
    obtain ⟨k, rfl⟩ := Nat.exists_eq_add_of_le hn
    rw [e, List.flatMap_cons, ih, Nat.add_sub_cancel_left, List.range_add, List.map_append, List.map_map]
    simp only [Function.comp_def, Nat.add_assoc]

/-! ## The order of a view (R253) -/

/-- Where a byte of a view lies in its memory. -/
def MemView.place (v : MemView) (a : Nat) : Nat := if v.pleated then pleatAddr v.mem a else a

/-- The bytes of a line stay together in a pleated allocation. -/
theorem pleatAddr_add (m : MemSel) {a k : Nat} (h : a % 64 + k < 64) : pleatAddr m (a + k) = pleatAddr m a + k := by
  have e : (a + k) / 64 = a / 64 := by omega
  have e' : (a + k) % 64 = a % 64 + k := by omega
  simp only [pleatAddr, e, e']
  omega

theorem pleatAddr_mod (m : MemSel) (a : Nat) : pleatAddr m a % 64 = a % 64 := by
  unfold pleatAddr
  simp only
  omega

/-- Two lines of a pleated allocation lie in one place only if they are one line. -/
theorem pleatAddr_injective (m : MemSel) : Function.Injective (pleatAddr m) := by
  intro a c h
  have mods : a % 64 = c % 64 := by rw [← pleatAddr_mod m a, h, pleatAddr_mod]
  have lines : memBanks m * (a / 64 / memBanks m) + (a / 64 + a / 64 / memBanks m) % memBanks m =
      memBanks m * (c / 64 / memBanks m) + (c / 64 + c / 64 / memBanks m) % memBanks m := by
    simp only [pleatAddr, mods] at h
    omega
  cases m <;> (simp only [memBanks] at lines; omega)

namespace MemView

theorem place_injective (v : MemView) : Function.Injective v.place := by
  intro a c h
  unfold place at h
  split at h
  · exact pleatAddr_injective _ h
  · exact h

theorem place_add (v : MemView) {a k : Nat} (h : a % 64 + k < 64) : v.place (a + k) = v.place a + k := by
  unfold place
  split
  · exact pleatAddr_add _ h
  · rfl

theorem place_mod (v : MemView) (a : Nat) : v.place a % 64 = a % 64 := by
  unfold place
  split
  · exact pleatAddr_mod _ a
  · rfl

end MemView

/-! ## Reads through a view -/

/-- The bytes of a view from lo on. -/
def viewBytes (v : MemView) (s : State) (lo len : Nat) : List Byte :=
  (List.range len).map (fun k => Safety.byteAt s v.tile v.mem (v.place (lo + k)))

theorem viewBytes_congr (v : MemView) {s w : State} (h : VecReads v.tile s w) (lo len : Nat) :
    viewBytes v w lo len = viewBytes v s lo len :=
  List.map_congr_left fun _ _ => h.byte _ _

/-- What a read through a view answers: the bytes, clean where no code of the memory fails; no byte and no code changes. -/
structure ViewRead (v : MemView) (lo len : Nat) (s : State) (r : (List Byte × List Bool) × State) : Prop where
  reads : VecReads v.tile s r.2
  bytes : r.1.1 = viewBytes v s lo len
  marks : r.1.2.length = len
  clean : (tmem s v.tile v.mem).err = [] → r.1.2 = List.replicate len false

theorem memPoison_length (s : State) (t : TileId) (m : MemSel) (lo len : Nat) : (memPoison s t m lo len).length = len := by
  unfold memPoison
  simp only
  split <;> simp

theorem viewRead_pieces (v : MemView) (s : State) (h : Silent v.mem (tmem s v.tile v.mem)) (hp : v.pleated = true)
    (ps : List (Nat × Nat)) (hl : ∀ p ∈ ps, p.1 % 64 + p.2 ≤ 64) (bs : List Byte) (qs : List Bool) (a : State)
    (ha : VecReads v.tile s a) :
    let r := ps.foldl (fun a p => let (d, s) := tmRead (v.req 0) (pleatAddr v.mem p.1) p.2 a.2
      ((a.1.1 ++ d.1, a.1.2 ++ d.2), s)) ((bs, qs), a)
    VecReads v.tile s r.2 ∧
      r.1.1 = bs ++ ps.flatMap (fun p => (List.range p.2).map (fun k => Safety.byteAt s v.tile v.mem (v.place (p.1 + k)))) ∧
      r.1.2.length = qs.length + (ps.flatMap (fun p => (List.range p.2).map (fun _ => false))).length ∧
      ((tmem s v.tile v.mem).err = [] → r.1.2 = qs ++ ps.flatMap (fun p => (List.range p.2).map (fun _ => false))) := by
  induction ps generalizing bs qs a with
  | nil => exact ⟨ha, by simp, by simp, by simp⟩
  | cons p ps ih =>
    have quiet : Silent (v.req 0).mem (tmem a (v.req 0).tile (v.req 0).mem) := by
      show Silent v.mem (tmem a v.tile v.mem)
      rwa [ha.mem]
    have next := VecReads.tmRead (v.req 0) (pleatAddr v.mem p.1) p.2 a quiet
    have data := tmRead_bytes (v.req 0) (pleatAddr v.mem p.1) p.2 quiet
    have bytes : memGet a v.tile v.mem (pleatAddr v.mem p.1) p.2 =
        (List.range p.2).map (fun k => Safety.byteAt s v.tile v.mem (v.place (p.1 + k))) := by
      rw [memGet_eq]
      refine List.map_congr_left fun k hk => ?_
      have hk : k < p.2 := List.mem_range.mp hk
      have := hl p (by simp)
      rw [ha.byte, MemView.place, if_pos hp, pleatAddr_add _ (by omega)]
    obtain ⟨r1, r2, r4, r3⟩ := ih (fun q hq => hl q (by simp [hq])) (bs ++ (tmRead (v.req 0) (pleatAddr v.mem p.1) p.2 a).1.1)
      (qs ++ (tmRead (v.req 0) (pleatAddr v.mem p.1) p.2 a).1.2) _ (ha.trans next)
    refine ⟨r1, ?_, ?_, fun hc => ?_⟩
    · refine r2.trans ?_
      rw [data, List.flatMap_cons, ← List.append_assoc]
      exact congrArg (fun z => bs ++ z ++ _) bytes
    · refine r4.trans ?_
      rw [data, List.flatMap_cons, List.length_append, List.length_append, List.length_map, List.length_range, ← Nat.add_assoc]
      exact congrArg (fun z => qs.length + z + _) (memPoison_length _ _ _ _ _)
    · refine (r3 hc).trans ?_
      have clean : memPoison a v.tile v.mem (pleatAddr v.mem p.1) p.2 = List.replicate p.2 false :=
        memPoison_clean (by rw [ha.mem, hc]) _ _
      rw [data, List.flatMap_cons, ← List.append_assoc]
      exact congrArg (fun z => qs ++ z ++ _) (clean.trans (by simp))

theorem viewRead_spec (v : MemView) (n lo len : Nat) {s : State} (h : Silent v.mem (tmem s v.tile v.mem)) :
    ViewRead v lo len s (viewRead v n lo len s) := by
  unfold viewRead
  split
  · next hp =>
    obtain ⟨r1, r2, r4, r3⟩ := viewRead_pieces v s h hp (linePieces lo len) (fun p hm => (linePieces_mem lo len p hm).1) [] []
      _ (VecReads.countAccess (v.req n) lo len s)
    refine ⟨r1, r2.trans ?_, r4.trans ?_, fun hc => (r3 hc).trans ?_⟩
    · rw [List.nil_append]
      exact linePieces_flatMap (fun a => Safety.byteAt s v.tile v.mem (v.place a)) lo len
    · rw [linePieces_flatMap (fun _ => false) lo len]
      simp
    · rw [List.nil_append, linePieces_flatMap (fun _ => false) lo len, replicate_eq_map_range]
  · next hp =>
    have data := tmRead_bytes (v.req n) lo len (s := s) h
    refine ⟨.tmRead (v.req n) lo len s h, ?_, ?_, fun hc => ?_⟩
    · rw [data]
      refine (memGet_eq s v.tile v.mem lo len).trans (List.map_congr_left fun k _ => ?_)
      rw [MemView.place, if_neg hp]
    · rw [data]
      exact memPoison_length _ _ _ _ _
    · rw [data]
      exact memPoison_clean hc lo len

theorem lineRead_spec (v : MemView) (lo len : Nat) {s : State} (h : Silent v.mem (tmem s v.tile v.mem)) :
    ViewRead v lo len s (lineRead v lo len s) := viewRead_spec v _ lo len h

end Sys2Proof.Machine
end

section
/-! SUPPORT. Writes of a tile's vector engine to the tile's memories: which bytes they change, and what they leave of the state (R177,
R238 to R253). -/

namespace Sys2Proof.Machine
open Sys2Proof

/-! ## One write of a memory -/

/-- A memory after a write of bytes from lo, each with its poison (R248). -/
def writtenMem (mem : MemSel) (m : TMem) (lo : Nat) (bs : List Byte) (ps : List Bool) : TMem :=
  match mem with
  | .wmem => ((linesOf lo bs.length).filter (fun l => ((ps.drop (64 * l - lo)).take 64).any (fun b => b))).foldl
      (fun a l => markLine l a) ⟨fwrite zeroByte m.bytes lo bs, fclear m.err (lo / 64) ((bs.length + 63) / 64)⟩
  | _ => (if ps.any (fun b => b) then
        ((List.range ps.length).filter (fun i => ps.getD i false)).map (fun i => (lo + i) / 4 * 4)
      else []).eraseReps.foldl (fun a w => markWord w a) ⟨fwrite zeroByte m.bytes lo bs, fclear m.err lo bs.length⟩

theorem tmWriteRaw_eq (t : TileId) (mem : MemSel) (lo : Nat) (bs : List Byte) (ps : List Bool) (s : State) :
    tmWriteRaw t mem lo bs ps s = setTmem t mem (writtenMem mem (tmem s t mem) lo bs ps) s := by
  cases mem <;> rfl

theorem any_drop_take {ps : List Bool} (h : ps.any (fun b => b) = false) (i n : Nat) :
    ((ps.drop i).take n).any (fun b => b) = false := by
  rw [List.any_eq_false] at h ⊢
  exact fun x hx => h x (List.mem_of_mem_drop (List.mem_of_mem_take hx))

/-- A clean write marks nothing. -/
theorem writtenMem_clean {ps : List Bool} (h : ps.any (fun b => b) = false) (mem : MemSel) (m : TMem) (lo : Nat)
    (bs : List Byte) : (writtenMem mem m lo bs ps).bytes = fwrite zeroByte m.bytes lo bs ∧
      (m.err = [] → (writtenMem mem m lo bs ps).err = []) := by
  have empty : ∀ a n, m.err = [] → fclear m.err a n = [] := fun a n e => by rw [e]; rfl
  cases mem with
  | wmem =>
    have none : (linesOf lo bs.length).filter (fun l => ((ps.drop (64 * l - lo)).take 64).any (fun b => b)) = [] := by
      simp only [any_drop_take h, List.filter_false]
    simp only [writtenMem, none, List.foldl_nil]
    exact ⟨trivial, empty _ _⟩
  | amem => simpa only [writtenMem, h] using ⟨rfl, empty _ _⟩
  | pmem => simpa only [writtenMem, h] using ⟨rfl, empty _ _⟩

theorem mem_of_mem_eraseReps {α : Type} [BEq α] {x : α} {l : List α} (h : x ∈ l.eraseReps) : x ∈ l := by
  have loop : ∀ (as : List α) (a : α) (acc : List α), x ∈ List.eraseRepsBy.loop (· == ·) a as acc → x ∈ a :: as ∨ x ∈ acc := by
    intro as
    induction as with
    | nil =>
      intro a acc h
      simpa [List.eraseRepsBy.loop, or_comm] using h
    | cons b bs ih =>
      intro a acc h
      rw [List.eraseRepsBy.loop] at h
      split at h
      · have := ih a acc h
        simp only [List.mem_cons] at this ⊢
        tauto
      · have := ih b (a :: acc) h
        simp only [List.mem_cons] at this ⊢
        tauto
  cases l with
  | nil => exact h
  | cons a as => exact (loop as a [] h).resolve_right (by simp)

theorem mem_fwrite {α : Type} [DecidableEq α] {d : Nat → α} {m : FMap α} {start : Nat} {vs : List α} {e : Nat × α}
    (h : e ∈ fwrite d m start vs) :
    (e ∈ m ∧ (e.1 < start ∨ start + vs.length ≤ e.1)) ∨ (start ≤ e.1 ∧ e.1 < start + vs.length) := by
  unfold fwrite at h
  rcases List.mem_append.mp h with h | h
  · rcases List.mem_append.mp h with h | h
    · have := List.mem_filter.mp h
      exact .inl ⟨this.1, .inl (by simpa using this.2)⟩
    · exact .inr (fentries_key d vs start e h)
  · have := List.mem_filter.mp h
    exact .inl ⟨this.1, .inr (by simpa using this.2)⟩

/-- The marker over a word fails and holds 0xFF (R247). -/
theorem Silent.markWord {mem : MemSel} (hm : mem ≠ .wmem) {x : TMem} (h : Silent mem x) (w : Nat) :
    Silent mem (markWord w x) := by
  refine ⟨fun e => absurd e hm, fun e he => ?_⟩
  rcases mem_fwrite he with ⟨old, out⟩ | ⟨lo, hi⟩
  · have keep : fget zeroByte (fwrite zeroByte x.bytes w [0xFF, 0xFF, 0xFF, 0xFF]) e.1 = fget zeroByte x.bytes e.1 :=
      fget_fwrite_out _ _ _ _ _ out
    exact keep.trans (h.marked e old)
  · obtain ⟨i, hi'⟩ := Nat.exists_eq_add_of_le lo
    have hi4 : i < 4 := by simp only [List.length_cons, List.length_nil] at hi; omega
    show fget zeroByte (fwrite zeroByte x.bytes w [0xFF, 0xFF, 0xFF, 0xFF]) e.1 = 0xFF
    rw [hi', fget_fwrite_in _ _ _ _ _ (by simpa using hi4)]
    interval_cases i <;> rfl

/-- Markers change no byte but those of their words. -/
theorem silent_foldl_markWord {mem : MemSel} (hm : mem ≠ .wmem) (ws : List Nat) (x : TMem) :
    (Silent mem x → Silent mem (ws.foldl (fun a w => markWord w a) x)) ∧
      ∀ a, (∀ w ∈ ws, a < w ∨ w + 4 ≤ a) →
        fget zeroByte (ws.foldl (fun a w => markWord w a) x).bytes a = fget zeroByte x.bytes a := by
  induction ws generalizing x with
  | nil => exact ⟨id, fun _ _ => rfl⟩
  | cons w ws ih =>
    obtain ⟨silent, kept⟩ := ih (markWord w x)
    refine ⟨fun h => silent (h.markWord hm w), fun a ha => (kept a fun z hz => ha z (by simp [hz])).trans ?_⟩
    exact fget_fwrite_out _ _ _ _ _ (by simpa using ha w (by simp))

/-- A write, poisoned or not, leaves a memory silent, and the bytes of no word that it does not touch. -/
theorem writtenMem_spec {mem : MemSel} (hm : mem ≠ .wmem) (m : TMem) (lo : Nat) (bs : List Byte) {ps : List Bool}
    (hl : ps.length = bs.length) :
    (Silent mem m → Silent mem (writtenMem mem m lo bs ps)) ∧
      ∀ a, (a < lo ∨ lo + bs.length ≤ a) →
        (ps.any (fun b => b) = true → a < lo / 4 * 4 ∨ (lo + bs.length + 3) / 4 * 4 ≤ a) →
        fget zeroByte (writtenMem mem m lo bs ps).bytes a = fget zeroByte m.bytes a := by
  obtain ⟨ws, hws, shape⟩ : ∃ ws : List Nat,
      (∀ w ∈ ws, ps.any (fun b => b) = true ∧ lo / 4 * 4 ≤ w ∧ w + 4 ≤ (lo + bs.length + 3) / 4 * 4) ∧
      writtenMem mem m lo bs ps = ws.foldl (fun a w => markWord w a)
        ⟨fwrite zeroByte m.bytes lo bs, fclear m.err lo bs.length⟩ := by
    refine ⟨(if ps.any (fun b => b) then
        ((List.range ps.length).filter (fun i => ps.getD i false)).map (fun i => (lo + i) / 4 * 4) else []).eraseReps,
      fun w hw => ?_, by
        cases mem with
        | wmem => exact absurd rfl hm
        | amem => rfl
        | pmem => rfl⟩
    have hw := mem_of_mem_eraseReps hw
    split at hw
    · next any =>
      obtain ⟨i, hi, rfl⟩ := List.mem_map.mp hw
      have hi : i < ps.length := List.mem_range.mp (List.mem_of_mem_filter hi)
      exact ⟨any, by omega, by omega⟩
    · cases hw
  rw [shape]
  obtain ⟨silent, kept⟩ := silent_foldl_markWord hm ws ⟨fwrite zeroByte m.bytes lo bs, fclear m.err lo bs.length⟩
  refine ⟨fun h => silent ⟨fun e => absurd e hm, fun e he => ?_⟩, fun a out word => (kept a fun w hw => ?_).trans
    (fget_fwrite_out _ _ _ _ _ out)⟩
  · have he' := List.mem_filter.mp he
    exact (fget_fwrite_out _ _ _ _ _ (by simpa using he'.2)).trans (h.marked e he'.1)
  · obtain ⟨any, h1, h2⟩ := hws w hw
    have := word any
    omega

/-! ## What a write of a tile memory leaves -/

theorem applyInject_unarmed {s : State} (h : s.flt.armed = []) (t : TileId) (mem : MemSel) (lo len : Nat) :
    applyInject t mem lo len s = s := by
  simp [applyInject, armedAt, h]

theorem tmem_noteDisturb (t : TileId) (mem : MemSel) (lo len : Nat) (s : State) (m : MemSel) :
    tmem (noteDisturb t mem lo len s) t m = tmem s t m := by
  unfold noteDisturb
  simp only
  split
  · rfl
  · cases m <;> simp [tmem, modMnt]

/-- A write of a tile memory where nothing is armed (R440): the memory, and what an access leaves. -/
theorem tmWrite_access (r : MemReq) (lo : Nat) (bs : List Byte) (ps : List Bool) {s : State} (h : s.flt.armed = []) :
    VecAccess r.tile s (tmWrite r lo bs ps s) ∧
      ∀ m, tmem (tmWrite r lo bs ps s) r.tile m =
        if m = r.mem then writtenMem r.mem (tmem s r.tile r.mem) lo bs ps else tmem s r.tile m := by
  have granted := VecReads.grantAccess r lo bs.length s
  unfold tmWrite
  rw [tmWriteRaw_eq, granted.mem]
  generalize grantAccess r lo bs.length s = g at granted
  have noted := (granted.access.trans (.setTmem r.tile r.mem (writtenMem r.mem (tmem s r.tile r.mem) lo bs ps) g)).trans
    (.noteDisturb r.tile r.mem lo bs.length _)
  rw [applyInject_unarmed (noted.armed.trans h)]
  refine ⟨noted, fun m => ?_⟩
  rw [tmem_noteDisturb, tmem_setTmem, granted.mem]
  simp

/-! ## Writes through a view -/

/-- w is s after writes through a view that changed no byte of the tile's memories but those of the view at an address in A. -/
structure WritesIn (v : MemView) (A : Nat → Prop) (s w : State) : Prop where
  access : VecAccess v.tile s w
  other : ∀ m, m ≠ v.mem → tmem w v.tile m = tmem s v.tile m
  silent : Silent v.mem (tmem s v.tile v.mem) → Silent v.mem (tmem w v.tile v.mem)
  outside : ∀ a, (∀ x, A x → a ≠ v.place x) → Safety.byteAt w v.tile v.mem a = Safety.byteAt s v.tile v.mem a

namespace WritesIn

variable {v : MemView} {A B : Nat → Prop} {s u w : State}

theorem refl (v : MemView) (A : Nat → Prop) (s : State) : WritesIn v A s s :=
  ⟨.refl _ s, fun _ _ => rfl, id, fun _ _ => rfl⟩

theorem trans (h : WritesIn v A s u) (g : WritesIn v A u w) : WritesIn v A s w :=
  ⟨h.access.trans g.access, fun m hm => (g.other m hm).trans (h.other m hm), fun q => g.silent (h.silent q),
    fun a ha => (g.outside a ha).trans (h.outside a ha)⟩

theorem mono (h : WritesIn v A s w) (hAB : ∀ a, A a → B a) : WritesIn v B s w :=
  ⟨h.access, h.other, h.silent, fun a ha => h.outside a fun x hx => ha x (hAB x hx)⟩

theorem of_reads (h : VecReads v.tile s w) (A : Nat → Prop) : WritesIn v A s w :=
  ⟨h.access, fun m _ => h.mem m, fun q => by rwa [h.mem], fun a _ => h.byte _ a⟩

theorem armed (h : WritesIn v A s w) (hs : s.flt.armed = []) : w.flt.armed = [] := h.access.armed.trans hs

/-- A byte of the view at an address outside A. -/
theorem kept (h : WritesIn v A s w) {a : Nat} (ha : ¬ A a) :
    Safety.byteAt w v.tile v.mem (v.place a) = Safety.byteAt s v.tile v.mem (v.place a) :=
  h.outside _ fun _ hx e => ha (v.place_injective e ▸ hx)

end WritesIn

/-- The addresses that a write of len bytes from lo may change: its bytes and, where a byte is poisoned, their words. -/
def writeHull (poisoned : Bool) (lo len : Nat) (a : Nat) : Prop :=
  (lo ≤ a ∧ a < lo + len) ∨ (poisoned = true ∧ lo / 4 * 4 ≤ a ∧ a < (lo + len + 3) / 4 * 4)

namespace MemView

/-- A range of a view that stands together in the memory: the whole memory in the native order, a line in the pleated one. -/
theorem place_range (v : MemView) {lo len : Nat} (h : v.pleated = false ∨ lo % 64 + len ≤ 64) {k : Nat} (hk : k < len) :
    v.place (lo + k) = v.place lo + k := by
  rcases h with h | h
  · simp [place, h]
  · exact v.place_add (by omega)

/-- The words of such a range stand together too. -/
theorem place_hull (v : MemView) {lo len : Nat} (h : v.pleated = false ∨ lo % 64 + len ≤ 64) {x : Nat}
    (h1 : v.place lo / 4 * 4 ≤ x) (h2 : x < (v.place lo + len + 3) / 4 * 4) :
    ∃ a, lo / 4 * 4 ≤ a ∧ a < (lo + len + 3) / 4 * 4 ∧ v.place a = x := by
  rcases h with h | h
  · have e : ∀ a, v.place a = a := fun a => by simp [place, h]
    exact ⟨x, by rwa [e] at h1, by rwa [e] at h2, e x⟩
  · have line := v.place_add (a := lo / 64 * 64) (k := lo % 64) (by omega)
    have start := v.place_mod (lo / 64 * 64)
    rw [show lo / 64 * 64 + lo % 64 = lo by omega] at line
    obtain ⟨j, rfl⟩ := Nat.exists_eq_add_of_le (show v.place (lo / 64 * 64) ≤ x by omega)
    exact ⟨lo / 64 * 64 + j, by omega, by omega, v.place_add (by omega)⟩

end MemView

/-- A piece of a write through a view. -/
theorem tmWrite_in (v : MemView) (n lo : Nat) (bs : List Byte) (ps : List Bool) {s : State} (ha : s.flt.armed = [])
    (hl : ps.length = bs.length) (hm : v.mem ≠ .wmem ∨ ps.any (fun b => b) = false)
    (hp : v.pleated = false ∨ lo % 64 + bs.length ≤ 64) :
    WritesIn v (writeHull (ps.any (fun b => b)) lo bs.length) s (tmWrite (v.req n) (v.place lo) bs ps s) := by
  obtain ⟨access, mems⟩ := tmWrite_access (v.req n) (v.place lo) bs ps ha
  have mem : tmem (tmWrite (v.req n) (v.place lo) bs ps s) v.tile v.mem =
      writtenMem v.mem (tmem s v.tile v.mem) (v.place lo) bs ps := (mems v.mem).trans (if_pos rfl)
  refine ⟨access, fun m hm => (mems m).trans (if_neg hm), fun q => ?_, fun a out => ?_⟩
  · rw [mem]
    by_cases w : v.mem = .wmem
    · exact .of_clean ((writtenMem_clean (hm.resolve_left (absurd w)) _ _ _ _).2 (q.lines w))
    · exact (writtenMem_spec w _ _ _ hl).1 q
  · have bytes : a < v.place lo ∨ v.place lo + bs.length ≤ a := by
      by_contra c
      obtain ⟨k, rfl⟩ := Nat.exists_eq_add_of_le (show v.place lo ≤ a by omega)
      exact out (lo + k) (.inl (by omega)) (v.place_range hp (by omega)).symm
    rw [Safety.byteAt, mem]
    by_cases any : ps.any (fun b => b) = true
    · refine (writtenMem_spec (hm.resolve_right (by simp [any])) _ _ _ hl).2 a bytes fun _ => ?_
      by_contra c
      obtain ⟨x, h1, h2, rfl⟩ := v.place_hull hp (x := a) (by omega) (by omega)
      exact out x (.inr ⟨any, h1, h2⟩) rfl
    · rw [(writtenMem_clean (by simpa using any) _ _ _ _).1]
      exact fget_fwrite_out _ _ _ _ _ bytes

/-- What writing clean bytes through a view does. -/
structure ViewPut (v : MemView) (lo : Nat) (bs : List Byte) (s w : State) : Prop where
  writes : WritesIn v (fun a => lo ≤ a ∧ a < lo + bs.length) s w
  clean : (tmem s v.tile v.mem).err = [] → (tmem w v.tile v.mem).err = []
  bytes : ∀ k < bs.length, Safety.byteAt w v.tile v.mem (v.place (lo + k)) = bs.getD k 0

theorem writeHull_clean {ps : List Bool} (h : ps.any (fun b => b) = false) (lo len a : Nat) :
    writeHull (ps.any (fun b => b)) lo len a ↔ lo ≤ a ∧ a < lo + len := by
  simp [writeHull, h]

theorem tmWrite_put (v : MemView) (n lo : Nat) (bs : List Byte) (ps : List Bool) {s : State} (ha : s.flt.armed = [])
    (hl : ps.length = bs.length) (hc : ps.any (fun b => b) = false) (hp : v.pleated = false ∨ lo % 64 + bs.length ≤ 64) :
    ViewPut v lo bs s (tmWrite (v.req n) (v.place lo) bs ps s) := by
  obtain ⟨-, mems⟩ := tmWrite_access (v.req n) (v.place lo) bs ps ha
  have mem : tmem (tmWrite (v.req n) (v.place lo) bs ps s) v.tile v.mem =
      writtenMem v.mem (tmem s v.tile v.mem) (v.place lo) bs ps := (mems v.mem).trans (if_pos rfl)
  obtain ⟨bytes, err⟩ := writtenMem_clean hc v.mem (tmem s v.tile v.mem) (v.place lo) bs
  refine ⟨(tmWrite_in v n lo bs ps ha hl (.inr hc) hp).mono fun a => (writeHull_clean hc lo _ a).mp, fun h => ?_, fun k hk => ?_⟩
  · rw [mem]
    exact err h
  · rw [Safety.byteAt, mem, bytes, v.place_range hp hk, fget_fwrite_in _ _ _ _ _ hk]
    simp [List.getD_eq_getElem?_getD, hk]

theorem getD_drop_take {α : Type} (bs : List α) (i n k : Nat) (d : α) (h : k < n) :
    ((bs.drop i).take n).getD k d = bs.getD (i + k) d := by
  simp [List.getD_eq_getElem?_getD, h]

/-- A fold of pieces of a write. -/
def writePieces (v : MemView) (lo : Nat) (bs : List Byte) (ps : List Bool) (l : List (Nat × Nat)) (s : State) : State :=
  l.foldl (fun a p => tmWrite (v.req 0) (pleatAddr v.mem p.1) ((bs.drop (p.1 - lo)).take p.2) ((ps.drop (p.1 - lo)).take p.2) a) s

theorem writePieces_in (v : MemView) (lo : Nat) (bs : List Byte) (ps : List Bool) (hv : v.pleated = true)
    (hl : ps.length = bs.length) (hm : v.mem ≠ .wmem ∨ ps.any (fun b => b) = false) (l : List (Nat × Nat))
    (hp : ∀ p ∈ l, p.1 % 64 + p.2 ≤ 64 ∧ lo ≤ p.1 ∧ p.1 + p.2 ≤ lo + bs.length) (s : State) (ha : s.flt.armed = []) :
    WritesIn v (writeHull (ps.any (fun b => b)) lo bs.length) s (writePieces v lo bs ps l s) := by
  induction l generalizing s with
  | nil => exact .refl _ _ _
  | cons p l ih =>
    obtain ⟨line, low, high⟩ := hp p (by simp)
    have len : ((bs.drop (p.1 - lo)).take p.2).length = p.2 := by simp; omega
    have len' : ((ps.drop (p.1 - lo)).take p.2).length = p.2 := by simp; omega
    have sub : ((ps.drop (p.1 - lo)).take p.2).any (fun b => b) = true → ps.any (fun b => b) = true := fun h => by
      by_contra c
      rw [any_drop_take (by simpa using c)] at h
      cases h
    have one := tmWrite_in v 0 p.1 _ _ ha (len'.trans len.symm) (hm.imp_right fun h => any_drop_take h _ _) (.inr (by rwa [len]))
    rw [MemView.place, if_pos hv, len] at one
    have first : WritesIn v (writeHull (ps.any (fun b => b)) lo bs.length) s _ := one.mono fun a => by
      rintro (h | ⟨h, h'⟩)
      · exact .inl (by omega)
      · exact .inr ⟨sub h, by omega, by omega⟩
    exact first.trans (ih (fun q hq => hp q (by simp [hq])) _ (first.armed ha))

/-- A write through a view changes nothing but its bytes and, where a byte is poisoned, their words. -/
theorem viewWrite_in (v : MemView) (n lo : Nat) (bs : List Byte) (ps : List Bool) {s : State} (ha : s.flt.armed = [])
    (hl : ps.length = bs.length) (hm : v.mem ≠ .wmem ∨ ps.any (fun b => b) = false) :
    WritesIn v (writeHull (ps.any (fun b => b)) lo bs.length) s (viewWrite v n lo bs ps s) := by
  unfold viewWrite
  split
  · next hv =>
    have counted := VecReads.countAccess (v.req n) lo bs.length s
    exact (WritesIn.of_reads counted _).trans (writePieces_in v lo bs ps hv hl hm _ (linePieces_mem lo _) _
      (counted.access.armed.trans ha))
  · next hv =>
    have one := tmWrite_in v n lo bs ps ha hl hm (.inl (by simpa using hv))
    rwa [MemView.place, if_neg hv] at one

namespace ViewPut

variable {v : MemView} {lo : Nat} {bs : List Byte} {s u w : State}

theorem of_reads (h : VecReads v.tile s u) (g : ViewPut v lo bs u w) : ViewPut v lo bs s w :=
  ⟨(WritesIn.of_reads h _).trans g.writes, fun e => g.clean (by rwa [h.mem]), g.bytes⟩

end ViewPut

theorem writePieces_put (v : MemView) (lo : Nat) (bs : List Byte) (ps : List Bool) (hv : v.pleated = true)
    (hl : ps.length = bs.length) (hc : ps.any (fun b => b) = false) (a len : Nat) :
    ∀ i, a = lo + i → i + len = bs.length → ∀ s : State, s.flt.armed = [] →
      ViewPut v a (bs.drop i) s (writePieces v lo bs ps (linePieces a len) s) := by
  induction a, len using linePieces_induction with
  | zero a =>
    intro i hi he s _
    have none : bs.drop i = [] := List.drop_eq_nil_of_le (by omega)
    rw [none]
    exact ⟨.refl _ _ _, id, fun k hk => absurd hk (by simp)⟩
  | succ a len n h0 hn line e ih =>
    intro i hi he s ha
    have len1 : ((bs.drop (a - lo)).take n).length = n := by simp; omega
    have one := tmWrite_put v 0 a _ _ ha (show ((ps.drop (a - lo)).take n).length = ((bs.drop (a - lo)).take n).length by simp [hl])
      (any_drop_take hc _ _) (.inr (by rwa [len1]))
    rw [MemView.place, if_pos hv] at one
    have rest := ih (i + n) (by omega) (by omega) _ (one.writes.armed ha)
    rw [e]
    have size : (bs.drop i).length = len := by simp; omega
    have size' : (bs.drop (i + n)).length = len - n := by simp; omega
    refine ⟨(one.writes.mono fun x hx => ?_).trans (rest.writes.mono fun x hx => ?_), fun h => rest.clean (one.clean h),
      fun k hk => ?_⟩
    · rw [len1] at hx
      omega
    · rw [size'] at hx
      omega
    · by_cases hk' : k < n
      · refine (rest.writes.kept (a := a + k) (by omega)).trans ((one.bytes k (by rwa [len1])).trans ?_)
        rw [getD_drop_take _ _ _ _ _ hk', show a - lo = i by omega]
        simp [List.getD_eq_getElem?_getD]
      · obtain ⟨j, rfl⟩ := Nat.exists_eq_add_of_le (show n ≤ k by omega)
        rw [← Nat.add_assoc]
        refine (rest.bytes j (by omega)).trans ?_
        simp [List.getD_eq_getElem?_getD, Nat.add_assoc]

/-- A clean write through a view: its bytes hold what it wrote, and nothing else changes. -/
theorem viewWrite_put (v : MemView) (n lo : Nat) (bs : List Byte) (ps : List Bool) {s : State} (ha : s.flt.armed = [])
    (hl : ps.length = bs.length) (hc : ps.any (fun b => b) = false) : ViewPut v lo bs s (viewWrite v n lo bs ps s) := by
  unfold viewWrite
  split
  · next hv =>
    have counted := VecReads.countAccess (v.req n) lo bs.length s
    refine .of_reads counted ?_
    have all := writePieces_put v lo bs ps hv hl hc lo bs.length 0 rfl (by omega) _ (counted.access.armed.trans ha)
    rwa [List.drop_zero] at all
  · next hv =>
    have one := tmWrite_put v n lo bs ps ha hl hc (.inl (by simpa using hv))
    rwa [MemView.place, if_neg hv] at one

end Sys2Proof.Machine
end

section
/-! SUPPORT. What the work of a vector instruction leaves of the state, and what its completion makes of that (R165, R202, R442 to R446). -/

namespace Sys2Proof.Machine
open Sys2Proof

/-! ## Tap points (R442 to R446) -/

namespace VecReads

variable {t : TileId}

theorem setTap (p : TapPoint) (o : Option TapOpen) (s : State) : VecReads t s (Machine.setTap t p o s) :=
  ⟨.modTile t s (fun _ => by rfl), fun m => by cases m <;> simp [tmem, Machine.setTap]⟩

/-- A free value taken. -/
theorem takeFree (s : State) : VecReads t s (Machine.takeFree s).2 :=
  ⟨⟨fun _ _ => rfl, rfl, rfl, fun _ => rfl, ⟨Item.taps, by simp [Machine.takeFree]⟩, fun _ _ => rfl, fun _ => rfl⟩,
    fun m => by cases m <;> rfl⟩

theorem modQuad (q : QuadId) (f : QuadSt → QuadSt) (s : State) : VecReads t s (Machine.modQuad q f s) :=
  ⟨⟨fun _ _ => rfl, rfl, rfl, fun _ => rfl, ⟨Item.taps, by simp [Machine.modQuad]⟩, fun _ _ => rfl, fun _ => rfl⟩,
    fun m => by cases m <;> rfl⟩

theorem emitN (b : Block) (n : Nat) (s : State) : VecReads t s (Machine.emitN b n s) :=
  ⟨.emitN t b n s, fun m => by cases m <;> rfl⟩

/-- An item waits for one more of its tap packets. -/
theorem modItem_taps (k : ItemKey) (s : State) :
    VecReads t s (Machine.modItem k (fun y => { y with taps := y.taps + 1 }) s) := by
  refine ⟨⟨fun _ _ => rfl, rfl, rfl, fun _ => rfl, ⟨fun x => if x.key = k then x.taps + 1 else x.taps, ?_⟩, fun _ _ => rfl,
    fun _ => rfl⟩, fun m => by cases m <;> rfl⟩
  rw [modItem_items]
  refine List.map_congr_left fun x _ => ?_
  by_cases hx : x.key = k <;> simp [hx]

theorem sendTap (p : TapPoint) (s : State) : VecReads t s (Machine.sendTap t p s) := by
  unfold Machine.sendTap
  split
  · exact refl t s
  simp only
  split
  · exact setTap p none s
  have sent := (setTap (t := t) p none s).trans (emitN (tapBlock t p) 1 _)
  refine .trans ?_ (modItem_taps _ _)
  refine .trans ?_ (modQuad _ _ _)
  split
  · exact sent.trans (takeFree _)
  · exact sent

/-- A tile whose router is drained sends nothing, and the work waits. -/
theorem leaves (s : State) : VecReads t s (Machine.leaves t s) := by
  unfold Machine.leaves
  split
  · next h =>
    exact ⟨{ VecAccess.refl t s with rest := rfl, held := fun c => absurd c.router (by simp [h]) }, fun m => by cases m <;> rfl⟩
  · exact refl t s

theorem tapInto (k : ItemKey) (layer : Nat) (p : TapPoint) (a : TapAcc) (s : State) :
    VecReads t s (Machine.tapInto t k layer p a s) := by
  unfold Machine.tapInto
  simp only
  split
  · exact refl t s
  split
  · exact refl t s
  split
  · split
    · exact setTap _ _ s
    · refine .trans (.trans ?_ (sendTap _ _)) (setTap _ _ _)
      split
      · exact refl t s
      · exact leaves s
  · exact setTap _ _ s

theorem tapValues (k : ItemKey) (layer : Nat) (p : TapPoint) (vs : List (FVal × Bool)) (s : State) :
    VecReads t s (Machine.tapValues t k layer p vs s) := by
  unfold Machine.tapValues
  split
  · exact refl t s
  · exact tapInto _ _ _ _ s

end VecReads

/-! ## The work of an instruction -/

/-- w is s after work of tile t's vector engine for item k that may have written registers rs, the tile's memories, contexts and slots, and
the item's own record; other items may have sent tap packets. -/
structure Worked (t : TileId) (k : ItemKey) (rs : List Nat) (s w : State) : Prop where
  other : ∀ x, x ≠ t → w.tiles[x] = s.tiles[x]
  queue : w.tiles[t].vec.queue = s.tiles[t].vec.queue
  lines : w.tiles[t].vec.badLines = s.tiles[t].vec.badLines
  seq : w.tiles[t].seq = s.tiles[t].seq
  mov : w.tiles[t].mov = s.tiles[t].mov
  ftb : w.tiles[t].ftb = s.tiles[t].ftb
  wide : w.tiles[t].wideReserved = s.tiles[t].wideReserved
  keep : ∀ r k j, r ∉ rs → k < 1024 → j < 64 →
    Safety.lane w t r k = Safety.lane s t r k ∧ Safety.line w t r j = Safety.line s t r j
  hbm : w.hbm = s.hbm ∧ w.hbmErr = s.hbmErr
  flt : w.flt = s.flt
  dev : w.dev = s.dev
  passed : w.passed = s.passed
  held : VecCalm t s → w.heldBack = s.heldBack
  mode : ∀ b, (hdr w b).mode = (hdr s b).mode
  items : ∃ f : Item → Item, w.items = s.items.map f ∧ ∀ x, (f x).key = x.key ∧ (x.key ≠ k → ∃ n, f x = { x with taps := n })
  regs : ∀ a, a / 4096 ≠ pageBase (.tile t .tmem) 0 / 4096 → regAt w a = regAt s a

theorem items_same (k : ItemKey) (s : State) : ∃ f : Item → Item, s.items = s.items.map f ∧
    ∀ x, (f x).key = x.key ∧ (x.key ≠ k → ∃ n, f x = { x with taps := n }) :=
  ⟨id, by simp, fun x => ⟨rfl, fun _ => ⟨x.taps, rfl⟩⟩⟩

namespace Worked

variable {t : TileId} {k : ItemKey} {rs qs : List Nat} {s u w : State}

theorem refl (t : TileId) (k : ItemKey) (rs : List Nat) (s : State) : Worked t k rs s s :=
  ⟨fun _ _ => rfl, rfl, rfl, rfl, rfl, rfl, rfl, fun _ _ _ _ _ _ => ⟨rfl, rfl⟩, ⟨rfl, rfl⟩, rfl, rfl, rfl, fun _ => rfl,
    fun _ => rfl, items_same k s, fun _ _ => rfl⟩

theorem calm (h : Worked t k rs s w) (c : VecCalm t s) : VecCalm t w where
  banks m lo len := by
    rw [← c.banks m lo len]
    refine bankReserved_congr (fun x => ?_) h.wide m lo len
    by_cases hx : x = t
    · rw [hx, h.mov]
    · rw [h.other x hx]
  router := by
    rw [← c.router]
    simp only [routerStops, blockStops, h.mode]

theorem trans (h : Worked t k rs s u) (g : Worked t k rs u w) : Worked t k rs s w where
  other x hx := (g.other x hx).trans (h.other x hx)
  queue := g.queue.trans h.queue
  lines := g.lines.trans h.lines
  seq := g.seq.trans h.seq
  mov := g.mov.trans h.mov
  ftb := g.ftb.trans h.ftb
  wide := g.wide.trans h.wide
  keep r k j hr hk hj :=
    ⟨(g.keep r k j hr hk hj).1.trans (h.keep r k j hr hk hj).1, (g.keep r k j hr hk hj).2.trans (h.keep r k j hr hk hj).2⟩
  hbm := ⟨g.hbm.1.trans h.hbm.1, g.hbm.2.trans h.hbm.2⟩
  flt := g.flt.trans h.flt
  dev := g.dev.trans h.dev
  passed := g.passed.trans h.passed
  held c := (g.held (h.calm c)).trans (h.held c)
  mode b := (g.mode b).trans (h.mode b)
  items := by
    obtain ⟨f, hf, same⟩ := h.items
    obtain ⟨g, hg, same'⟩ := g.items
    refine ⟨g ∘ f, by rw [hg, hf, List.map_map], fun x => ⟨((same' _).1.trans (same x).1), fun hx => ?_⟩⟩
    obtain ⟨n, hn⟩ := (same x).2 hx
    obtain ⟨m, hm⟩ := (same' (f x)).2 (by rwa [(same x).1])
    exact ⟨m, by rw [Function.comp, hm, hn]⟩
  regs a ha := (g.regs a ha).trans (h.regs a ha)

theorem mono (h : Worked t k rs s w) (hs : ∀ r ∈ rs, r ∈ qs) : Worked t k qs s w :=
  { h with keep := fun r k j hr => h.keep r k j (fun m => hr (hs r m)) }

theorem clean (h : Worked t k rs s w) (c : VecClean t s) : VecClean t w :=
  ⟨h.lines.trans c.good, by rw [h.flt]; exact c.unarmed⟩

theorem of_access (h : VecAccess t s w) (k : ItemKey) (rs : List Nat) : Worked t k rs s w where
  other := h.other
  queue := by rw [h.vec]
  lines := by rw [h.vec]
  seq := by rw [h.tile]
  mov := by rw [h.tile]
  ftb := by rw [h.tile]
  wide := by rw [h.tile]
  keep _ _ _ _ _ _ := by simp only [Safety.lane, Safety.line, h.vec, and_self]
  hbm := by rw [h.rest]; exact ⟨rfl, rfl⟩
  flt := by rw [h.rest]
  dev := by rw [h.rest]
  passed := by rw [h.rest]
  held := h.held
  mode := h.mode
  items := by
    obtain ⟨n, hn⟩ := h.items
    exact ⟨_, hn, fun x => ⟨rfl, fun _ => ⟨n x, rfl⟩⟩⟩
  regs := h.regs

theorem of_regs (h : RegsOnly t rs s w) (k : ItemKey) : Worked t k rs s w where
  other := h.other
  queue := by rw [h.tile]
  lines := by rw [h.tile]
  seq := by rw [h.tile]
  mov := by rw [h.tile]
  ftb := by rw [h.tile]
  wide := by rw [h.tile]
  keep := h.keep
  hbm := by rw [h.rest]; exact ⟨rfl, rfl⟩
  flt := by rw [h.rest]
  dev := by rw [h.rest]
  passed := by rw [h.rest]
  held _ := by rw [h.rest]
  mode b := by rw [h.rest]; rfl
  items := by
    have e : w.items = s.items := by rw [h.rest]
    rw [e]
    exact items_same k s
  regs _ _ := by rw [h.rest]; rfl

/-- A register of the vector engine's page. -/
theorem reg_vec (h : Worked t k rs s w) {o : Nat} (ho : o < 4096) : reg w (vecB t) o = reg s (vecB t) o :=
  h.regs _ (by simp only [pageBase, vecB]; omega)

/-- An update of the item's own record. -/
theorem modItem (f : Item → Item) (hf : ∀ x, (f x).key = x.key) (s : State) : Worked t k rs s (Machine.modItem k f s) :=
  { refl t k rs s with
    items := ⟨fun x => if x.key = k then f x else x, rfl, fun x => by
      by_cases hx : x.key = k
      · simp [hx, hf]
      · exact ⟨by simp [hx], fun _ => ⟨x.taps, by simp [hx]⟩⟩⟩ }

theorem notePoison (ps : List Bool) (s : State) : Worked t k rs s (Machine.notePoison k ps s) := by
  rw [notePoison_eq]
  exact modItem (fun x => { x with poisoned := x.poisoned || ps.any (fun b => b) }) (fun _ => rfl) s

theorem recordCasts (layer : Nat) (c : CastCounts) (s : State) : Worked t k rs s (Machine.recordCasts t k layer c s) := by
  rw [recordCasts_eq]
  exact { modItem (t := t) (rs := rs) (fun x => { x with flags := x.flags ||| BitVec.ofNat 8 (castFlags c) }) (fun _ => rfl) s with }

/-- An update of the vector engine that leaves its queue, its registers and their parity. -/
theorem modVec (f : VecSt → VecSt) (s : State) (hq : (f s.tiles[t].vec).queue = s.tiles[t].vec.queue)
    (hr : (f s.tiles[t].vec).regs = s.tiles[t].vec.regs) (hp : (f s.tiles[t].vec).poison = s.tiles[t].vec.poison)
    (hl : (f s.tiles[t].vec).badLines = s.tiles[t].vec.badLines) : Worked t k rs s (Machine.modVec t f s) :=
  { refl t k rs s with
    other := fun x hx => by rw [modVec_tile, if_neg hx]
    queue := by rw [modVec_tile_same, hq]
    lines := by rw [modVec_tile_same, hl]
    seq := by rw [modVec_tile_same]
    mov := by rw [modVec_tile_same]
    ftb := by rw [modVec_tile_same]
    wide := by rw [modVec_tile_same]
    keep := fun r k j _ _ _ => by
      simp only [Safety.lane, Safety.line, modVec_tile_same, hr, hp, and_self] }

end Worked

/-! ## What accesses and records leave to read -/

theorem notePoison_tiles (k : ItemKey) (ps : List Bool) (s : State) : (notePoison k ps s).tiles = s.tiles := by
  rw [notePoison_eq]
  rfl

theorem recordCasts_tiles (t : TileId) (k : ItemKey) (layer : Nat) (c : CastCounts) (s : State) :
    (recordCasts t k layer c s).tiles = s.tiles := by
  rw [recordCasts_eq]
  rfl

theorem tmem_congr {s w : State} (h : w.tiles = s.tiles) (t : TileId) (m : MemSel) : tmem w t m = tmem s t m := by
  cases m <;> simp only [tmem, h]

theorem lane_congr {s w : State} (h : w.tiles = s.tiles) (t : TileId) (r k : Nat) : Safety.lane w t r k = Safety.lane s t r k := by
  simp only [Safety.lane, h]

theorem RegsOnly.tmem {t : TileId} {rs : List Nat} {s w : State} (h : RegsOnly t rs s w) (m : MemSel) :
    tmem w t m = tmem s t m := by
  cases m <;> simp only [Machine.tmem] <;> rw [h.tile]

namespace VecAccess

variable {t : TileId} {s w : State}

theorem vecs (h : VecAccess t s w) (x : TileId) : w.tiles[x].vec = s.tiles[x].vec := by
  by_cases hx : x = t
  · rw [hx, h.vec]
  · rw [h.other x hx]

theorem mCtx (h : VecAccess t s w) (m : MArgs) : Machine.mCtx w t m = Machine.mCtx s t m := by
  rw [Machine.mCtx, h.vec, Machine.mCtx]

theorem itemJob (h : VecAccess t s w) (i : Item) : Machine.itemJob w i = Machine.itemJob s i := by
  simp only [Machine.itemJob, jobParam, h.vecs]

theorem itemSeed (h : VecAccess t s w) (i : Item) : Machine.itemSeed w i = Machine.itemSeed s i := by
  simp only [Machine.itemSeed, h.itemJob]

theorem lane (h : VecAccess t s w) (r k : Nat) : Safety.lane w t r k = Safety.lane s t r k := by
  simp only [Safety.lane, h.vec]

theorem line (h : VecAccess t s w) (r j : Nat) : Safety.line w t r j = Safety.line s t r j := by
  simp only [Safety.line, h.vec]

end VecAccess

/-! ## The completion of an instruction that reaches memory -/

/-- What an instruction's work and its completion leave together. -/
theorem vecMemFrame_of_worked {t : TileId} {i : Item} {rs : List Nat} {s w u : State} {beats : Nat}
    (h : Worked t i.key rs (Safety.unmarked s) w) (c : VecCompleted t i beats w u) : Safety.vecMemFrame t i rs s u := by
  obtain ⟨f, hf, same⟩ := h.items
  obtain ⟨fl, -, items⟩ := c.items
  refine ⟨fun x hx => ?_, ?_, ?_, ?_, ?_, fun r k j hr hk hj => ?_, ?_, ?_, ?_, ?_, fun x hx hk => ?_, ?_⟩
  · rw [c.tile, if_neg hx]
    exact h.other x hx
  · rw [c.tile, if_pos rfl]
    exact congrArg (List.drop 1) h.queue
  · rw [c.tile, if_pos rfl]
    exact h.seq
  · rw [c.tile, if_pos rfl]
    exact h.mov
  · rw [c.tile, if_pos rfl]
    exact h.ftb
  · rw [(c.reads r k j).1, (c.reads r k j).2]
    exact h.keep r k j hr hk hj
  · rw [c.rest]
    exact h.hbm.1
  · rw [c.rest]
    exact h.flt
  · rw [c.rest]
    exact h.dev
  · rw [items, hf]
    simp only [List.map_map]
    refine List.map_congr_left fun x _ => ?_
    have key := (same x).1
    by_cases hx : (f x).key = i.key <;> simp [hx, ← key]
  · obtain ⟨n, hn⟩ := (same x).2 hk
    refine ⟨n, ?_⟩
    rw [items, hf]
    refine List.mem_map.mpr ⟨f x, List.mem_map_of_mem hx, ?_⟩
    rw [if_neg (by rwa [(same x).1]), hn]
  · rw [c.instr, h.reg_vec (by decide)]
    rfl

theorem vecDoneLsu_completed (t : TileId) (i : Item) (s : State) :
    ∃ n, VecCompleted t i n (takeFree s).2 (vecDoneLsu t i s) := ⟨_, vecDone_completed t i _ _⟩

theorem vecCalm_of_ready {s : State} {t : TileId} (h : Safety.tileReady s t) : VecCalm t (Safety.unmarked s) :=
  ⟨h.2.1, h.2.2⟩

/-- A command whose instruction works, where nothing makes it wait, and completes. -/
theorem exec_worked {c : Instr} {opc : Nat} {body : TileId → Item → VIns → State → State} {t : TileId} {i : Item}
    {v : VIns} {s w : State} (hat : Safety.vecAt s t v i) (hr : Safety.tileReady s t) (ho : v.opc = opc)
    (hc : exec c s = .next (vecRow opc body t s)) (hin : vecOpcs.contains opc = true) {rs : List Nat} {beats : Nat}
    (hw : Worked t i.key rs (Safety.unmarked s) w)
    (hb : VecCompleted t i beats w (body t i v (Safety.unmarked s))) :
    ∃ u, exec c s = .next u ∧ Safety.vecMemFrame t i rs s u ∧ VecCompleted t i beats w u := by
  have run := vecRow_goes (body := body) hat.1 ho hin ?_ ?_ ?_
  · exact ⟨_, hc.trans (congrArg _ run), vecMemFrame_of_worked hw hb, hb⟩
  · rw [hb.rest]
    exact hw.held (vecCalm_of_ready hr)
  · rw [hb.rest]
    exact hw.passed
  · rw [hb.rest]
    exact hw.flt

theorem VecCompleted.tmem {t : TileId} {i : Item} {beats : Nat} {s u : State} (h : VecCompleted t i beats s u)
    (x : TileId) (m : MemSel) : Machine.tmem u x m = Machine.tmem s x m := by
  have e := h.tile x
  by_cases hx : x = t
  · subst hx
    rw [if_pos rfl] at e
    cases m <;> simp only [Machine.tmem, e]
  · rw [if_neg hx] at e
    cases m <;> simp only [Machine.tmem, e]

/-- The same for an instruction that the load/store unit alone carries out. -/
theorem exec_worked_lsu {c : Instr} {opc : Nat} {body : TileId → Item → VIns → State → State} {t : TileId} {i : Item}
    {v : VIns} {s w : State} (hat : Safety.vecAt s t v i) (hr : Safety.tileReady s t) (ho : v.opc = opc)
    (hc : exec c s = .next (vecRow opc body t s)) (hin : vecOpcs.contains opc = true) {rs : List Nat}
    (hw : Worked t i.key rs (Safety.unmarked s) w) (hb : body t i v (Safety.unmarked s) = vecDoneLsu t i w) :
    ∃ u, exec c s = .next u ∧ Safety.vecMemFrame t i rs s u ∧ u.hbmErr = s.hbmErr ∧ u.tiles[t].vec.ctx = w.tiles[t].vec.ctx ∧
      (∀ x m, tmem u x m = tmem w x m) ∧ ∀ r k, Safety.lane u t r k = Safety.lane w t r k := by
  obtain ⟨n, done⟩ := vecDoneLsu_completed t i w
  obtain ⟨u, run, fr, c⟩ := exec_worked hat hr ho hc hin (hw.trans (.of_access (VecReads.takeFree w).access i.key rs)) (hb ▸ done)
  refine ⟨u, run, fr, ?_, ?_, c.tmem, fun r k => (c.reads r k 0).1⟩
  · rw [c.rest]
    exact hw.hbm.2
  · rw [c.tile, if_pos rfl]
    rfl

end Sys2Proof.Machine
end

section
/-! SUPPORT. Elements read from a tile's memories: loads and gathers (R176, R177, R180, R184). -/

namespace Sys2Proof.Machine
open Sys2Proof

/-! ## Elements of bytes and of registers -/

theorem chunksOf_map_range {α : Type} (k n : Nat) (f : Nat → α) :
    chunksOf k n ((List.range (n * k)).map f) = (List.range n).map (fun i => (List.range k).map (fun j => f (i * k + j))) := by
  induction n generalizing f with
  | zero => rfl
  | succ n ih =>
    have first : ((List.range k).map f).length = k := by simp
    rw [chunksOf, Nat.succ_mul, Nat.add_comm, List.range_add, List.map_append, List.map_map, List.take_left' first,
      List.drop_left' first, List.range_succ_eq_map, List.map_cons, List.map_map]
    refine congrArg₂ _ (by simp) ((ih _).trans (List.map_congr_left fun i _ => List.map_congr_left fun j _ => ?_))
    simp only [Function.comp]
    congr 1
    rw [Nat.succ_mul]
    omega

theorem elemsOfBytes_range (w n : Nat) (f : Nat → Byte) :
    elemsOfBytes w n ((List.range (n * w)).map f, List.replicate (n * w) false) =
      (List.range n).map (fun i => (natOfBytes ((List.range w).map (fun b => f (i * w + b))), false)) := by
  simp only [elemsOfBytes, replicate_eq_map_range, chunksOf_map_range, List.zip_map', List.map_map]
  refine List.map_congr_left fun i _ => ?_
  simp

/-- A register of one element per lane from its elements. -/
theorem regOfElems_range {rf : Nat} (h : packedFmt rf = false) (f : Nat → Elem) :
    regOfElems rf ((List.range 1024).map f) =
      vregOf (fun k => BitVec.ofNat 32 (f k).1) (fun j => (List.range 16).any (fun n => (f (j * 16 + n)).2)) := by
  have lines := chunksOf_map_range 16 64 f
  simp only [regOfElems, h, Bool.false_eq_true, if_false]
  rw [show (1024 : Nat) = 64 * 16 from rfl, lines, vregOf, List.map_map, List.map_map, List.take_of_length_le (by simp)]
  refine congrArg₂ _ rfl (List.map_congr_left fun j _ => ?_)
  simp [Function.comp_def]

theorem convElems_range (src dst : Fmt) (rnd : Nat → Rnd) (cols : Nat) (c : CastCtx) (off n : Nat) (f : Nat → Elem) :
    (convElems src dst rnd cols c off ((List.range n).map f)).1 = (List.range n).map (fun k =>
      let r := convElem src dst (rnd (elemIndex c (k / cols) (k % cols) off)) (f k).1
      (r.bits, (f k).2 || r.poison)) := by
  have z : ((List.range n).map f).zipIdx = (List.range n).map (fun k => (f k, k)) :=
    List.ext_getElem (by simp) fun k _ _ => by simp
  simp only [convElems, z, List.map_map]
  rfl

/-- A lane of a register of one element per lane. -/
theorem elemsOfReg_vregOf {rf : Nat} (h : packedFmt rf = false) (f : Nat → Word) (p : Nat → Bool) :
    elemsOfReg rf (vregOf f p) = (List.range 1024).map (fun k => ((f k).toNat, p (k / 16))) := by
  simp only [elemsOfReg, h, Bool.false_eq_true, if_false]
  rw [← List.map_eq_flatMap]
  refine List.map_congr_left fun k hk => ?_
  have hk : k < 1024 := List.mem_range.mp hk
  rw [vregOf_lane f p hk, vregOf_line f p (by omega)]

theorem indexLanes_eq (s : State) (t : TileId) (r : Nat) :
    indexLanes s t r = (List.range 1024).map (fun k => (Safety.lane s t r k, Safety.line s t r (k / 16))) := by
  rw [indexLanes, vregRaw_eq, elemsOfReg_vregOf rfl, List.map_map]
  refine List.map_congr_left fun k _ => ?_
  simp

/-! ## Reads of elements -/

/-- The element of w bytes at a view's address a. -/
def viewElem (v : MemView) (s : State) (w a : Nat) : Nat := natOfBytes (viewBytes v s a w)

theorem viewElem_congr (v : MemView) {s u : State} (h : VecReads v.tile s u) (w a : Nat) :
    viewElem v u w a = viewElem v s w a := by rw [viewElem, viewBytes_congr v h, viewElem]

/-- Reads that each append what they deliver, which no read changes. -/
theorem foldl_reads {ι β : Type} {t : TileId} {f : ι → State → List β × State} {g : ι → List β} {s : State}
    (h : ∀ x a, VecReads t s a → (f x a).1 = g x ∧ VecReads t a (f x a).2) (l : List ι) (acc : List β) (a : State)
    (ha : VecReads t s a) :
    let r := l.foldl (fun a x => (a.1 ++ (f x a.2).1, (f x a.2).2)) (acc, a)
    r.1 = acc ++ l.flatMap g ∧ VecReads t s r.2 := by
  induction l generalizing acc a with
  | nil => exact ⟨by simp, ha⟩
  | cons x l ih =>
    obtain ⟨value, keeps⟩ := h x a ha
    obtain ⟨r1, r2⟩ := ih (acc ++ (f x a).1) _ (ha.trans keeps)
    refine ⟨r1.trans ?_, r2⟩
    rw [value, List.flatMap_cons, List.append_assoc]

theorem clean_of_reads {t : TileId} {m : MemSel} {s a : State} (h : VecReads t s a) (hc : (tmem s t m).err = []) :
    (tmem a t m).err = [] := by rwa [h.mem]

/-- A row of elements read from a memory without code faults (R177). -/
theorem rowRead_spec (v : MemView) (whole : Bool) (w stride n lo : Nat) {s : State} (hc : (tmem s v.tile v.mem).err = []) :
    (rowRead v whole w stride n lo s).1 = (List.range n).map (fun i => (viewElem v s w (lo + i * stride * w), false)) ∧
      VecReads v.tile s (rowRead v whole w stride n lo s).2 := by
  unfold rowRead
  split
  · next one =>
    have row : ∀ k, (elemsOfBytes w n (viewRead v k lo (n * w) s).1, (viewRead v k lo (n * w) s).2).1 =
        (List.range n).map (fun i => (viewElem v s w (lo + i * stride * w), false)) ∧
        VecReads v.tile s (viewRead v k lo (n * w) s).2 := by
      intro k
      obtain ⟨reads, bytes, -, clean⟩ := viewRead_spec v k lo (n * w) (.of_clean hc)
      refine ⟨?_, reads⟩
      have e : (viewRead v k lo (n * w) s).1 = (viewBytes v s lo (n * w), List.replicate (n * w) false) :=
        Prod.ext bytes (clean hc)
      rw [e, viewBytes, elemsOfBytes_range]
      refine List.map_congr_left fun i _ => ?_
      simp only [viewElem, viewBytes, one, Nat.mul_one, Nat.add_assoc]
    cases whole
    · exact row _
    · exact row _
  · have one : ∀ i a, VecReads v.tile s a →
        (elemsOfBytes w 1 (viewRead v 1 (lo + i * stride * w) w a).1, (viewRead v 1 (lo + i * stride * w) w a).2).1 =
          [(viewElem v s w (lo + i * stride * w), false)] ∧
        VecReads v.tile a (viewRead v 1 (lo + i * stride * w) w a).2 := by
      intro i a ha
      obtain ⟨reads, bytes, -, clean⟩ := viewRead_spec v 1 (lo + i * stride * w) w (.of_clean (clean_of_reads ha hc))
      refine ⟨?_, reads⟩
      have e : (viewRead v 1 (lo + i * stride * w) w a).1 =
          (viewBytes v s (lo + i * stride * w) (1 * w), List.replicate (1 * w) false) := by
        rw [Nat.one_mul]
        exact Prod.ext (bytes.trans (viewBytes_congr v ha _ _)) (clean (clean_of_reads ha hc))
      rw [e, viewBytes, elemsOfBytes_range]
      simp [viewElem, viewBytes]
    obtain ⟨r1, r2⟩ := foldl_reads (f := fun i a => (elemsOfBytes w 1 (viewRead v 1 (lo + i * stride * w) w a).1,
      (viewRead v 1 (lo + i * stride * w) w a).2)) one (List.range n) [] s (.refl _ s)
    exact ⟨r1.trans (by simp [List.map_eq_flatMap]), r2⟩

/-- Rows read one after another. -/
theorem foldl_rowRead (v : MemView) (whole : Bool) (w stride n : Nat) (lo : Nat → Nat) (l : List Nat) {s : State}
    (hc : (tmem s v.tile v.mem).err = []) :
    let r := l.foldl (fun a x =>
      let (es, s) := rowRead v whole w stride n (lo x) a.2
      (a.1 ++ [es], s)) (([] : List (List Elem)), s)
    r.1 = l.map (fun x => (List.range n).map (fun j => (viewElem v s w (lo x + j * stride * w), false))) ∧
      VecReads v.tile s r.2 := by
  have row : ∀ x a, VecReads v.tile s a → [(rowRead v whole w stride n (lo x) a).1] =
        [(List.range n).map (fun j => (viewElem v s w (lo x + j * stride * w), false))] ∧
      VecReads v.tile a (rowRead v whole w stride n (lo x) a).2 := by
    intro x a ha
    obtain ⟨r1, r2⟩ := rowRead_spec v whole w stride n (lo x) (clean_of_reads ha hc)
    refine ⟨?_, r2⟩
    rw [r1]
    simp only [viewElem_congr v ha]
  obtain ⟨r1, r2⟩ := foldl_reads (f := fun x a => ([(rowRead v whole w stride n (lo x) a).1],
    (rowRead v whole w stride n (lo x) a).2)) row l [] s (.refl _ s)
  exact ⟨r1.trans (by simp [List.map_eq_flatMap]), r2⟩

/-- Elements read one after another, each with a poison of its own. -/
theorem foldl_viewRead (v : MemView) (w : Nat) (lo : Word → Nat) (xs : List (Word × Bool)) {s : State}
    (hc : (tmem s v.tile v.mem).err = []) :
    let r := xs.foldl (fun a x =>
      let (d, s) := viewRead v 1 (lo x.1) w a.2
      (a.1 ++ [(natOfBytes d.1, x.2 || d.2.any (fun b => b))], s)) (([] : List Elem), s)
    r.1 = xs.map (fun x => (viewElem v s w (lo x.1), x.2)) ∧ VecReads v.tile s r.2 := by
  have one : ∀ (x : Word × Bool) a, VecReads v.tile s a →
      [(natOfBytes (viewRead v 1 (lo x.1) w a).1.1, x.2 || (viewRead v 1 (lo x.1) w a).1.2.any (fun b => b))] =
        [(viewElem v s w (lo x.1), x.2)] ∧ VecReads v.tile a (viewRead v 1 (lo x.1) w a).2 := by
    intro x a ha
    obtain ⟨reads, bytes, -, clean⟩ := viewRead_spec v 1 (lo x.1) w (s := a) (.of_clean (clean_of_reads ha hc))
    refine ⟨?_, reads⟩
    rw [bytes, clean (clean_of_reads ha hc), viewBytes_congr v ha, viewElem]
    simp
  obtain ⟨r1, r2⟩ := foldl_reads (f := fun (x : Word × Bool) a =>
    ([(natOfBytes (viewRead v 1 (lo x.1) w a).1.1, x.2 || (viewRead v 1 (lo x.1) w a).1.2.any (fun b => b))],
      (viewRead v 1 (lo x.1) w a).2)) one xs [] s (.refl _ s)
  exact ⟨r1.trans (by simp [List.map_eq_flatMap]), r2⟩

/-! ## What a load or a gather makes (R176, R184) -/

/-- An element of a load converted to the register format. -/
def loadedElem (s : State) (t : TileId) (i : Item) (v : VIns) (n a : Nat) : CastRes :=
  let m := mArgs v
  let c := mCtx s t m
  convElem (mfOf m) (fmtOfReg m.rf) (ctxRnd m.round (itemSeed s i) c (elemIndex c (n / 64) (n % 64) m.sk))
    (viewElem (mView t i m) s (fmtWidth (mfOf m) / 8) a)

theorem loadedElem_congr {s a : State} {t : TileId} (h : VecReads t s a) (i : Item) (v : VIns) (n x : Nat) :
    loadedElem a t i v n x = loadedElem s t i v n x := by
  simp only [loadedElem, h.access.mCtx, h.access.itemSeed, viewElem_congr (mView t i (mArgs v)) h]

/-- The register that elements read at addresses `ad` make, where line j brings poison p j of its own. -/
def loadedReg (s : State) (t : TileId) (i : Item) (v : VIns) (ad : Nat → Nat) (p : Nat → Bool) : VReg :=
  vregOf (fun n => BitVec.ofNat 32 (loadedElem s t i v n (ad n)).bits)
    (fun j => (List.range 16).any (fun n => p (j * 16 + n) || (loadedElem s t i v (j * 16 + n) (ad (j * 16 + n))).poison))

theorem loadedReg_eq {s : State} {t : TileId} {i : Item} {v : VIns} (hp : packedFmt (mArgs v).rf = false) (ad : Nat → Nat)
    (p : Nat → Bool) :
    let m := mArgs v
    let c := mCtx s t m
    regOfElems m.rf (convElems (mfOf m) (fmtOfReg m.rf) (ctxRnd m.round (itemSeed s i) c) 64 c m.sk
      ((List.range 1024).map (fun n => (viewElem (mView t i m) s (fmtWidth (mfOf m) / 8) (ad n), p n)))).1 =
      loadedReg s t i v ad p := by
  intro m c
  rw [convElems_range, regOfElems_range hp]
  rfl

/-- What a load or a gather leaves: registers and records, after reads. -/
theorem exec_loads {c : Instr} {opc : Nat} {body : TileId → Item → VIns → State → State} {t : TileId} {i : Item}
    {v : VIns} {s a : State} (hat : Safety.vecAt s t v i) (hr : Safety.tileReady s t) (ho : v.opc = opc)
    (hc : exec c s = .next (vecRow opc body t s)) (hin : vecOpcs.contains opc = true)
    (reads : VecReads t (Safety.unmarked s) a) {layer : Nat} {cnt : CastCounts} {ps : List Bool} {ad : Nat → Nat} {p : Nat → Bool}
    (hb : body t i v (Safety.unmarked s) = vecDoneLsu t i (notePoison i.key ps (recordCasts t i.key layer cnt
      (writeReg t v.vd (loadedReg (Safety.unmarked s) t i v ad p) a)))) :
    ∃ u, exec c s = .next u ∧ Safety.vecMemFrame t i [v.vd] s u ∧ Safety.sameMemory s u ∧
      ∀ n < 1024, Safety.lane u t v.vd n = BitVec.ofNat 32 (loadedElem (Safety.unmarked s) t i v n (ad n)).bits := by
  have read : Worked t i.key [v.vd] (Safety.unmarked s) a := .of_access reads.access i.key _
  have clean := read.clean (VecClean.of_vecAt hat)
  have regs := regsOnly_writeReg clean v.vd (fun n => BitVec.ofNat 32 (loadedElem (Safety.unmarked s) t i v n (ad n)).bits)
    (fun j => (List.range 16).any (fun n => p (j * 16 + n) || (loadedElem (Safety.unmarked s) t i v (j * 16 + n) (ad (j * 16 + n))).poison))
  have noted := ((read.trans (.of_regs regs i.key)).trans (.recordCasts layer cnt _)).trans (.notePoison ps _)
  obtain ⟨u, run, fr, err, -, mem, lanes⟩ := exec_worked_lsu hat hr ho hc hin noted hb
  have tiles := (notePoison_tiles i.key ps _).trans (recordCasts_tiles t i.key layer cnt
    (writeReg t v.vd (loadedReg (Safety.unmarked s) t i v ad p) a))
  have same : ∀ m, tmem u t m = tmem s t m := fun m =>
    (mem t m).trans ((tmem_congr tiles t m).trans ((regs.tmem m).trans (reads.mem m)))
  obtain ⟨other, -, -, -, -, -, hbm, -⟩ := id fr
  refine ⟨u, run, fr, ⟨hbm, err, fun x => ?_⟩, fun n hn => ?_⟩
  · by_cases hx : x = t
    · subst hx
      exact ⟨same .amem, same .pmem, same .wmem⟩
    · rw [other x hx]
      exact ⟨rfl, rfl, rfl⟩
  · refine (lanes _ _).trans ((lane_congr tiles _ _ _).trans ?_)
    exact (lane_writeReg clean v.vd v.vd _ _ hn).trans (if_pos rfl)

/-! ## Loads of plain regions (R176, R177) -/

/-- Where lane n of a plain load stands: with TRN, memory rows are register columns. -/
def loadAddr (m : MArgs) (n : Nat) : Nat :=
  m.base + (if m.trn then n % 64 else n / 64) * m.rs + (if m.trn then n / 64 else n % 64) * m.es * (fmtWidth (mfOf m) / 8)

theorem plainLoad_eq {t : TileId} {i : Item} {v : VIns} {s : State} (hp : packedFmt (mArgs v).rf = false)
    (hc : (tmem s t ((memOfIndex (mArgs v).mem).getD .amem)).err = []) :
    ∃ a cnt ps, VecReads t s a ∧ plainLoad t i v s = vecDoneLsu t i (notePoison i.key ps (recordCasts t i.key i.layer.toNat cnt
      (writeReg t v.vd (loadedReg s t i v (loadAddr (mArgs v)) (fun _ => false)) a))) := by
  have cols : regCols (mArgs v).rf = 64 := by simp [regCols, hp]
  unfold plainLoad
  simp only [cols]
  obtain ⟨rows, reads⟩ := foldl_rowRead (mView t i (mArgs v)) ((mArgs v).trn && (mArgs v).plt) (fmtWidth (mfOf (mArgs v)) / 8)
    (mArgs v).es (if (mArgs v).trn then 16 else 64) (fun r => (mArgs v).base + r * (mArgs v).rs)
    (List.range (if (mArgs v).trn then 64 else 16)) hc
  generalize List.foldl _ _ (List.range (if (mArgs v).trn then 64 else 16)) = r at rows reads
  have reads : VecReads t s r.2 := reads
  have elems : (List.range 16).flatMap (fun y => (List.range 64).map (fun x =>
      if (mArgs v).trn then (r.1.getD x []).getD y (0, false) else (r.1.getD y []).getD x (0, false))) =
      (List.range 1024).map (fun n => (viewElem (mView t i (mArgs v)) r.2 (fmtWidth (mfOf (mArgs v)) / 8)
        (loadAddr (mArgs v) n), false)) := by
    rw [flatMap_range_map 16 64]
    refine List.map_congr_left fun n hn => ?_
    have hn : n < 16 * 64 := List.mem_range.mp hn
    rw [rows, viewElem_congr (mView t i (mArgs v)) reads]
    unfold loadAddr
    cases (mArgs v).trn
    · simp only [Bool.false_eq_true, if_false]
      rw [getD_map_range _ _ (by omega), getD_map_range _ _ (by omega)]
    · simp only [if_true]
      rw [getD_map_range _ _ (by omega), getD_map_range _ _ (by omega)]
  have made := loadedReg_eq (s := r.2) (t := t) (i := i) hp (loadAddr (mArgs v)) (fun _ => false)
  have same : loadedReg r.2 t i v (loadAddr (mArgs v)) (fun _ => false) =
      loadedReg s t i v (loadAddr (mArgs v)) (fun _ => false) := by
    simp only [loadedReg, loadedElem_congr reads]
  rw [same] at made
  rw [elems]
  exact ⟨r.2, _, _, reads, by rw [← made]⟩

/-! ## Gathers (R184) -/

/-- Where lane n of a gather stands: at the element that index lane n names. -/
def gatherAddr (s : State) (t : TileId) (v : VIns) (n : Nat) : Nat :=
  (mArgs v).base + (Safety.lane s t v.va n).toNat * (fmtWidth (mfOf (mArgs v)) / 8)

theorem vgthEff_eq {t : TileId} {i : Item} {v : VIns} {s : State} (hp : packedFmt (mArgs v).rf = false)
    (hc : (tmem s t ((memOfIndex (mArgs v).mem).getD .amem)).err = []) :
    ∃ a cnt ps, VecReads t s a ∧
      vgthEff t i v s = vecDoneLsu t i (notePoison i.key ps (recordCasts t i.key (mCtx s t (mArgs v)).layer.toNat cnt
        (writeReg t v.vd (loadedReg s t i v (gatherAddr s t v) (fun n => Safety.line s t v.va (n / 16))) a))) := by
  obtain ⟨elems, reads⟩ := foldl_viewRead (mView t i (mArgs v)) (fmtWidth (mfOf (mArgs v)) / 8)
    (fun x => (mArgs v).base + x.toNat * (fmtWidth (mfOf (mArgs v)) / 8)) (indexLanes s t v.va) hc
  unfold vgthEff
  simp only at elems reads ⊢
  generalize List.foldl _ _ (indexLanes s t v.va) = r at elems reads
  have reads : VecReads t s r.2 := reads
  have made := loadedReg_eq (s := s) (t := t) (i := i) hp (gatherAddr s t v) (fun n => Safety.line s t v.va (n / 16))
  have elems : r.1 = (List.range 1024).map (fun n => (viewElem (mView t i (mArgs v)) s (fmtWidth (mfOf (mArgs v)) / 8)
      (gatherAddr s t v n), Safety.line s t v.va (n / 16))) := by
    rw [elems, indexLanes_eq, List.map_map]
    exact List.map_congr_left fun n _ => rfl
  rw [elems, reads.access.itemSeed]
  exact ⟨r.2, _, _, reads, by rw [← made]⟩

/-! ## Block-scaled loads (R180) -/

theorem blockRowRead_reads (v : MemView) (r : RowFmt) (lo k n : Nat) {s : State} (hc : (tmem s v.tile v.mem).err = []) :
    VecReads v.tile s (blockRowRead v r lo k n s).2 := by
  have read : ∀ a lo len, VecReads v.tile s a → VecReads v.tile s (lineRead v lo len a).2 := fun a lo len ha =>
    ha.trans (lineRead_spec v lo len (.of_clean (clean_of_reads ha hc))).reads
  have header : VecReads v.tile s (if r.p = 0 then (([], []), s) else lineRead v lo ((k + n - 1) / 8 + 1) s).2 := by
    split
    · exact .refl _ s
    · exact read s _ _ (.refl _ s)
  unfold blockRowRead
  simp only
  generalize (if r.p = 0 then (([], []), s) else lineRead v lo ((k + n - 1) / 8 + 1) s) = hd at header ⊢
  refine List.foldlRecOn (motive := fun (a : List BlockRead × State) => VecReads v.tile s a.2) _ _ (read _ _ _ (read _ _ _ header))
    fun a ha i _ => ?_
  split
  · exact read _ _ _ ha
  · exact ha

/-- Failing an item touches no memory and no register (R306). -/
structure DataKept (s w : State) : Prop where
  hbm : w.hbm = s.hbm ∧ w.hbmErr = s.hbmErr
  mems : ∀ (x : TileId) m, tmem w x m = tmem s x m
  regs : ∀ x : TileId, w.tiles[x].vec.regs = s.tiles[x].vec.regs ∧ w.tiles[x].vec.poison = s.tiles[x].vec.poison

theorem DataKept.refl (s : State) : DataKept s s := ⟨⟨rfl, rfl⟩, fun _ _ => rfl, fun _ => ⟨rfl, rfl⟩⟩

theorem DataKept.trans {s u w : State} (h : DataKept s u) (g : DataKept u w) : DataKept s w :=
  ⟨⟨g.hbm.1.trans h.hbm.1, g.hbm.2.trans h.hbm.2⟩, fun x m => (g.mems x m).trans (h.mems x m),
    fun x => ⟨(g.regs x).1.trans (h.regs x).1, (g.regs x).2.trans (h.regs x).2⟩⟩

theorem dataKept_modTile (t : TileId) {f : TileSt → TileSt} (s : State)
    (h : ∀ x, (f x).amem = x.amem ∧ (f x).pmem = x.pmem ∧ (f x).wmem = x.wmem ∧ (f x).vec.regs = x.vec.regs ∧
      (f x).vec.poison = x.vec.poison) : DataKept s (modTile t f s) := by
  have tile : ∀ x : TileId, (modTile t f s).tiles[x] = if x = t then f s.tiles[t] else s.tiles[x] := fun x => by
    simp only [modTile_tiles, Fin.getElem_fin, Vector.getElem_set, Fin.ext_iff, eq_comm]
  obtain ⟨ha, hp, hw, hr, hq⟩ := h s.tiles[t]
  refine ⟨⟨rfl, rfl⟩, fun x m => ?_, fun x => ?_⟩
  · by_cases hx : x = t
    · subst hx
      cases m <;> simp only [tmem, tile, if_true, ha, hp, hw]
    · cases m <;> simp only [tmem, tile, if_neg hx]
  · by_cases hx : x = t
    · subst hx
      simp only [tile, if_true, hr, hq, and_self]
    · simp only [tile, if_neg hx, and_self]

theorem dataKept_failItem (k : ItemKey) (t : TileId) (code : Nat) (b : Block) (s : State) :
    DataKept s (failItem k t code b s) := by
  have mod : ∀ f s, DataKept s (modItem k f s) := fun f s => ⟨⟨rfl, rfl⟩, fun x m => by cases m <;> rfl, fun _ => ⟨rfl, rfl⟩⟩
  have discarded : ∀ s, DataKept s (discardEntries k t s) := fun s => by
    unfold discardEntries freeTokens modSeq modMnt modMov modVec
    refine .trans (.trans (.trans (dataKept_modTile t s ?_) (dataKept_modTile t _ ?_)) (dataKept_modTile _ _ ?_))
      (dataKept_modTile t _ ?_) <;> exact fun x => ⟨rfl, rfl, rfl, rfl, rfl⟩
  unfold failItem stopItem
  have stopped := (mod (fun i => { i with errs := i.errs ++ [(code, blockId b)] }) s).trans
    ((discarded _).trans (mod (fun i => if i.state = .running then { i with state := .finishing, listEnded := true } else i) _))
  simp only
  split
  · refine stopped.trans ?_
    unfold stopList modSeq
    exact dataKept_modTile t _ fun x => ⟨rfl, rfl, rfl, rfl, rfl⟩
  · exact stopped

/-- A vector instruction at the head of the queue is held back or carried out. -/
theorem vecRow_or {opc : Nat} {body : TileId → Item → VIns → State → State} {t : TileId} {s : State} {v : VIns} {i : Item}
    (h : vecHead s t = some (v, i)) (ho : v.opc = opc) (hin : vecOpcs.contains opc = true) :
    vecRow opc body t s = s ∨ vecRow opc body t s = { body t i v (Safety.unmarked s) with passed := [] } := by
  simp only [vecRow, h, ho, hin, Bool.not_true, Bool.false_eq_true, if_false, if_true]
  have held : unlessHeld (body t i v) s = s ∨ unlessHeld (body t i v) s = { body t i v (Safety.unmarked s) with passed := [] } := by
    unfold unlessHeld
    simp only
    split
    · exact .inl rfl
    · exact .inr rfl
  unfold viaPort
  simp only
  split
  · exact .inl rfl
  · exact held

/-- A register write reaches no other register. -/
theorem regsOnly_writeReg_of_le {t : TileId} {s : State} (h : VecClean t s) (d : Nat) {x : VReg} (hl : x.lanes.length ≤ 1024)
    (hp : x.poison.length ≤ 64) : RegsOnly t [d] s (writeReg t d x s) where
  rest := by rw [writeReg_clean h]; rfl
  other x hx := by rw [writeReg_clean h, modVec_tile, if_neg hx]
  tile := by rw [writeReg_clean h, modVec_tile_same]
  keep r k j hr hk hj := by
    have hr : r ≠ d := by simpa using hr
    simp only [writeReg_clean h, Safety.lane, Safety.line, modVec_tile_same]
    exact ⟨fget_fwrite_out _ _ _ _ _ (by omega), fget_fwrite_out _ _ _ _ _ (by omega)⟩

theorem length_chunksOf {α : Type} (k n : Nat) (l : List α) : (chunksOf k n l).length = n := by
  induction n generalizing l with
  | zero => rfl
  | succ n ih => simp [chunksOf, ih]

theorem regOfElems_length (rf : Nat) (es : List Elem) :
    (regOfElems rf es).lanes.length ≤ 1024 ∧ (regOfElems rf es).poison.length ≤ 64 := by
  unfold regOfElems
  simp only [List.length_map, length_chunksOf, le_refl, and_true]
  split
  · simp [length_chunksOf]
  · simp

/-- Instructions complete without a change to memory or registers. -/
theorem VecCompleted.dataKept {t : TileId} {i : Item} {beats : Nat} {s u : State} (h : VecCompleted t i beats s u) : DataKept s u := by
  refine ⟨by rw [h.rest]; exact ⟨rfl, rfl⟩, h.tmem, fun x => ?_⟩
  rw [h.tile]
  split
  · next hx => subst hx; exact ⟨rfl, rfl⟩
  · exact ⟨rfl, rfl⟩

theorem vecDoneLsu_dataKept (t : TileId) (i : Item) (s : State) : DataKept s (vecDoneLsu t i s) := by
  obtain ⟨n, done⟩ := vecDoneLsu_completed t i s
  have taken : DataKept s (takeFree s).2 := ⟨⟨rfl, rfl⟩, fun x m => by cases m <;> rfl, fun _ => ⟨rfl, rfl⟩⟩
  exact taken.trans done.dataKept

/-- A block-scaled load, from registers without a parity fault: registers but its own stay, and so does every memory. -/
theorem blockLoad_keeps {t : TileId} {i : Item} {v : VIns} {s : State} (clean : VecClean t s)
    (hc : (tmem s t ((memOfIndex (mArgs v).mem).getD .amem)).err = []) :
    ∃ w, Worked t i.key [v.vd] s w ∧ (∀ m, tmem w t m = tmem s t m) ∧ DataKept w (blockLoad t i v s) := by
  have rows : ∀ (l : List Nat) (lo : Nat → Nat) (r : RowFmt) (k n : Nat), VecReads t s (l.foldl (fun a x =>
      (a.1 ++ [(blockRowRead (mView t i (mArgs v)) r (lo x) k n a.2).1], (blockRowRead (mView t i (mArgs v)) r (lo x) k n a.2).2))
        (([] : List (List BlockRead)), s)).2 := by
    intro l lo r k n
    refine List.foldlRecOn (motive := fun (a : List (List BlockRead) × State) => VecReads t s a.2) _ _ (.refl t s)
      fun a ha x _ => ha.trans ?_
    exact blockRowRead_reads (mView t i (mArgs v)) r (lo x) k n (clean_of_reads ha hc)
  unfold blockLoad
  simp only
  have read := rows (List.range 16) (fun r => (mArgs v).base + r * (mCtx s t (mArgs v)).rowBytes) (rowFmtOf (mArgs v) (mCtx s t (mArgs v)))
    (mArgs v).sk (blocksAt (mCtx s t (mArgs v)).kb (mArgs v).sk)
  generalize List.foldl _ _ (List.range 16) = a at read ⊢
  have work : Worked t i.key [v.vd] s a.2 := .of_access read.access i.key _
  generalize hd : regOfElems 0 _ = d
  obtain ⟨lanes, lines⟩ : d.lanes.length ≤ 1024 ∧ d.poison.length ≤ 64 := hd ▸ regOfElems_length 0 _
  have regs := regsOnly_writeReg_of_le (work.clean clean) v.vd lanes lines
  have noted := (work.trans (.of_regs regs i.key)).trans (.notePoison d.poison _)
  have done := vecDoneLsu_dataKept t i (notePoison i.key d.poison (writeReg t v.vd d a.2))
  refine ⟨_, noted, fun m => ?_, ?_⟩
  · exact (tmem_congr (notePoison_tiles i.key d.poison _) t m).trans ((regs.tmem m).trans (read.mem m))
  · split
    · exact done
    · exact done.trans (dataKept_failItem _ _ _ _ _)

/-! ## The statement -/

/-- Scalars that are not poisoned, s[SK] included. -/
theorem mPoisoned_false {v : VIns} (h : mPoisoned v true = false) (sk : Bool) : mPoisoned v sk = false := by
  unfold mPoisoned at h ⊢
  simp only [Bool.true_and, Bool.or_eq_false_iff] at h
  obtain ⟨⟨h1, h2⟩, h3⟩ := h
  simp [h1, h2, h3]

/-- A job that draws where it must (R173) has a seed. -/
theorem seed_present {α : Type} {b : Bool} {o : Option α} (h : b = true → o.isSome = true) : (b && o.isNone) = false := by
  cases b
  · rfl
  · rw [Option.isNone_eq_false_iff.mpr (h rfl)]
    rfl

theorem vldBody_plain {t : TileId} {v : VIns} {i : Item} {s : State} (hx : mPoisoned v true = false) (hf : mFormatBad (mArgs v) = false)
    (hs : ((mArgs v).round && rounds (mfOf (mArgs v)) (fmtOfReg (mArgs v).rf)) = true → (itemJob s i).seed.isSome = true)
    (hu : mUnused v true false false true true = false) (hm : 6 < (mArgs v).mf) (hp : packedFmt (mArgs v).rf = false)
    (hr : firstFail (plainRegion (mArgs v) (if (mArgs v).trn then 64 else 16) (if (mArgs v).trn then 16 else 64)
      (fmtWidth (mfOf (mArgs v)) / 8)) = none) : vldBody t i v s = plainLoad t i v s := by
  have cols : regCols (mArgs v).rf = 64 := by simp [regCols, hp]
  have block : decide ((mArgs v).mf ≤ 6) = false := decide_eq_false (by omega)
  unfold vldBody
  simp only [block, cols, Bool.not_false, Bool.and_true, Bool.false_and, mPoisoned_false hx, Bool.false_eq_true, if_false]
  rw [vecChecked_pass (by rw [firstFail_cons, firstFail_cons, hu, hf]; exact ⟨rfl, rfl, rfl⟩), vecChecked_pass]
  simp only [List.cons_append, List.nil_append]
  rw [firstFail_cons, firstFail_cons, firstFail_cons, seed_present hs]
  exact ⟨rfl, rfl, rfl, hr⟩

theorem vldBody_block {t : TileId} {v : VIns} {i : Item} {s : State} (hx : mPoisoned v true = false) (hf : mFormatBad (mArgs v) = false)
    (hu : mUnused v true false false true true = false) (hm : (mArgs v).mf ≤ 6) (ht : (mArgs v).trn = false) (he : (mArgs v).es = 1)
    (hrf : (mArgs v).rf = 0) (hsc : tscaleOk (mCtx s t (mArgs v)).tscale = true)
    (hr : firstFail (blockRegion (mArgs v) (mCtx s t (mArgs v))) = none) : vldBody t i v s = blockLoad t i v s := by
  have block : decide ((mArgs v).mf ≤ 6) = true := decide_eq_true hm
  unfold vldBody
  simp only [block, Bool.not_true, Bool.and_false, Bool.false_and, mPoisoned_false hx, Bool.false_eq_true, if_false, if_true,
    Bool.true_and]
  rw [vecChecked_pass (by rw [firstFail_cons, firstFail_cons, hu, hf]; exact ⟨rfl, rfl, rfl⟩), vecChecked_pass]
  simp only [List.cons_append, List.nil_append]
  rw [firstFail_cons, firstFail_cons, firstFail_cons, ht, hsc]
  exact ⟨by simp [he, hrf], rfl, rfl, hr⟩

theorem firstFail_region {m : MArgs} {len w : Nat} {mem : MemSel} (hm : memOfIndex m.mem = some mem) (ha : m.base % w = 0)
    (hl : m.base + len ≤ memBytes mem) : decide (m.base % w ≠ 0) = false ∧ beyondMem m len = false := by
  refine ⟨by simp [ha], ?_⟩
  rw [beyondMem, hm]
  exact decide_eq_false (by simpa using hl)

/-- The body of a gather or a scatter whose checks pass. -/
theorem gatherRow_pass {vd vb wOk : Bool} {fmtOk stochOf : MArgs → Bool} {eff : TileId → Item → VIns → State → State} {t : TileId}
    {v : VIns} {i : Item} {s : State} {mem : MemSel} (clean : VecClean t s) (hx : mPoisoned v true = false)
    (hf : mFormatBad (mArgs v) = false) (hu : mUnused v vd true vb wOk false = false) (hk : fmtOk (mArgs v) = true)
    (hs : stochOf (mArgs v) = true → (itemJob s i).seed.isSome = true) (hm : memOfIndex (mArgs v).mem = some mem)
    (ha : (mArgs v).base % (fmtWidth (mfOf (mArgs v)) / 8) = 0)
    (hl : (mArgs v).base + mSS v * (fmtWidth (mfOf (mArgs v)) / 8) ≤ memBytes mem)
    (hi : ∀ k < 1024, 0 ≤ (Safety.lane s t v.va k).toInt ∧ (Safety.lane s t v.va k).toNat < mSS v) :
    gatherRow vd vb wOk fmtOk stochOf eff t i v s = eff t i v s := by
  obtain ⟨aligned, within⟩ := firstFail_region hm ha hl
  have indices : ((indexLanes s t v.va).map (·.1)).any (fun x => decide (x.toInt < 0) || decide (mSS v ≤ x.toNat)) = false := by
    rw [indexLanes_eq, List.map_map, List.any_eq_false]
    intro x hx
    obtain ⟨k, hk, rfl⟩ := List.mem_map.mp hx
    obtain ⟨h1, h2⟩ := hi k (List.mem_range.mp hk)
    simp only [Function.comp, Bool.or_eq_true, decide_eq_true_eq, not_or]
    omega
  unfold gatherRow
  rw [vecChecked_pass (by rw [firstFail_cons, firstFail_cons, hu, hf, hk]; exact ⟨rfl, rfl, rfl⟩), mPoisoned_false hx,
    if_neg (by simp), checkRegs_clean clean]
  refine vecChecked_pass ?_ t i v _ s
  rw [List.cons_append, List.nil_append, firstFail_cons, seed_present hs, gatherChecks, firstFail_cons, firstFail_cons, aligned,
    within, indices]
  exact ⟨rfl, rfl, rfl, rfl⟩

/-- Settles O25: each load reads its elements at their addresses (`rowRead_spec`, `viewRead_spec`), and `exec_loads` says what writing
them to a register leaves. -/
theorem vectorLoads : Obligations.VectorLoads := by
  unfold Obligations.VectorLoads
  intro t v i s hat hr hx m c mem hm at' w elem conv hf hs
  have clean := VecClean.of_vecAt hat
  have quiet : (tmem (Safety.unmarked s) t ((memOfIndex (mArgs v).mem).getD .amem)).err = [] := hr.1 _
  have made : ∀ n a, BitVec.ofNat 32 (loadedElem (Safety.unmarked s) t i v n a).bits = conv n a := fun n a => by
    have e : viewElem (mView t i m) (Safety.unmarked s) w a = elem a := by
      simp only [viewElem, viewBytes, mView, MemView.place, hm, Option.getD_some]
      rfl
    show BitVec.ofNat 32 (convElem _ _ _ (viewElem (mView t i m) (Safety.unmarked s) w a)).bits = _
    rw [e]
    rfl
  have seeded : (m.round && rounds (mfOf m) (fmtOfReg m.rf)) = true → (itemJob (Safety.unmarked s) i).seed.isSome = true := hs
  refine ⟨fun ho hu hmf hp ha hl => ?plain, fun ho hu hmf ht he hrf hsc hreg => ?block, fun ho hu hg ha hl hi => ?gather⟩
  case plain =>
    obtain ⟨aligned, within⟩ := firstFail_region hm ha (len := ((if m.trn then 64 else 16) - 1) * m.rs +
      ((if m.trn then 16 else 64) - 1) * m.es * w + w) (by omega)
    have body := vldBody_plain (t := t) (s := Safety.unmarked s) hx hf seeded hu hmf hp (by
      rw [plainRegion, firstFail_cons, firstFail_cons, within, aligned]
      exact ⟨rfl, rfl, rfl⟩)
    obtain ⟨a, cnt, ps, reads, loaded⟩ := plainLoad_eq (i := i) hp quiet
    obtain ⟨u, run, fr, mem, lanes⟩ := exec_loads (c := .vld t) hat hr ho rfl (by decide) reads (body.trans loaded)
    exact ⟨u, run, fr, mem, fun n hn => (lanes n hn).trans (made n _)⟩
  case gather =>
    have hp : packedFmt m.rf = false := by
      simp only [gatherFmts, Bool.and_eq_true, Bool.not_eq_true'] at hg
      exact hg.2
    have body := gatherRow_pass (stochOf := fun m => m.round && rounds (mfOf m) (fmtOfReg m.rf)) (eff := vgthEff) clean hx hf hu hg seeded hm ha hl hi
    obtain ⟨a, cnt, ps, reads, loaded⟩ := vgthEff_eq (i := i) hp quiet
    obtain ⟨u, run, fr, mem, lanes⟩ := exec_loads (c := .vgth t) hat hr ho rfl (by decide) reads (body.trans loaded)
    exact ⟨u, run, fr, mem, fun n hn => (lanes n hn).trans (made n _)⟩
  case block =>
    have body := vldBody_block (t := t) (i := i) (s := Safety.unmarked s) hx hf hu hmf ht he hrf hsc hreg
    obtain ⟨z, work, mems, kept⟩ := blockLoad_keeps (i := i) clean quiet
    rw [← body] at kept
    have regs : ∀ r k j, r ≠ v.vd → k < 1024 → j < 64 →
        Safety.lane (vldBody t i v (Safety.unmarked s)) t r k = Safety.lane s t r k ∧
          Safety.line (vldBody t i v (Safety.unmarked s)) t r j = Safety.line s t r j := fun r k j h hk hj => by
      obtain ⟨lane, line⟩ := work.keep r k j (by simpa using h) hk hj
      simp only [Safety.lane, Safety.line, kept.regs t]
      exact ⟨lane, line⟩
    have same : Safety.sameMemory s (vldBody t i v (Safety.unmarked s)) := by
      refine ⟨kept.hbm.1.trans work.hbm.1, kept.hbm.2.trans work.hbm.2, fun x => ?_⟩
      have mem : ∀ m, tmem (vldBody t i v (Safety.unmarked s)) x m = tmem s x m := fun m => by
        rw [kept.mems]
        by_cases e : x = t
        · rw [e]
          exact mems m
        · cases m <;> simp only [tmem, work.other x e] <;> rfl
      exact ⟨mem .amem, mem .pmem, mem .wmem⟩
    have run : exec (.vld t) s = .next (vecRow 0x01 vldBody t s) := rfl
    rcases vecRow_or (body := vldBody) hat.1 ho (by decide) with e | e <;> rw [e] at run
    · refine ⟨fun r k j u h hk hj hu => ?_, s, run, ⟨rfl, rfl, fun _ => ⟨rfl, rfl, rfl⟩⟩, rfl⟩
      rw [run] at hu
      injection hu with hu
      subst hu
      exact ⟨rfl, rfl⟩
    · refine ⟨fun r k j u h hk hj hu => ?_, _, run, same, same.1⟩
      rw [run] at hu
      injection hu with hu
      subst hu
      exact regs r k j h hk hj

end Sys2Proof.Machine
end

section
/-! SUPPORT. Elements written to a tile's memories: plain stores and scatters (R176, R177, R184). -/

namespace Sys2Proof.Machine
open Sys2Proof

/-! ## Elements written in order -/

/-- w is s after elements lo to hi − 1, each of `width` bytes, were written through a view in order: element n at `ad n`, its bytes `val n`.
Every other byte stays, and an element that no later one overlaps stands where it was written. -/
structure Puts (v : MemView) (width : Nat) (ad : Nat → Nat) (val : Nat → List Byte) (lo hi : Nat) (s w : State) : Prop where
  writes : WritesIn v (fun a => ∃ n, lo ≤ n ∧ n < hi ∧ ad n ≤ a ∧ a < ad n + width) s w
  clean : (tmem s v.tile v.mem).err = [] → (tmem w v.tile v.mem).err = []
  bytes : ∀ n, lo ≤ n → n < hi → (∀ k, n < k → k < hi → ad n + width ≤ ad k ∨ ad k + width ≤ ad n) → ∀ b < width,
    Safety.byteAt w v.tile v.mem (v.place (ad n + b)) = (val n).getD b 0

namespace Puts

variable {v : MemView} {width : Nat} {ad : Nat → Nat} {val : Nat → List Byte} {lo mid hi : Nat} {s u w : State}

theorem none (s : State) : Puts v width ad val lo lo s s :=
  ⟨.refl _ _ _, id, fun n h1 h2 => by omega⟩

theorem append (h : Puts v width ad val lo mid s u) (g : Puts v width ad val mid hi u w) (h1 : lo ≤ mid) (h2 : mid ≤ hi) :
    Puts v width ad val lo hi s w where
  writes := (h.writes.mono fun a ⟨n, n1, n2, r⟩ => ⟨n, n1, by omega, r⟩).trans
    (g.writes.mono fun a ⟨n, n1, n2, r⟩ => ⟨n, by omega, n2, r⟩)
  clean e := g.clean (h.clean e)
  bytes n n1 n2 last b hb := by
    by_cases hn : n < mid
    · refine (g.writes.kept ?_).trans (h.bytes n n1 hn (fun k k1 k2 => last k k1 (by omega)) b hb)
      rintro ⟨k, k1, k2, k3, k4⟩
      have := last k (by omega) k2
      omega
    · exact g.bytes n (by omega) n2 (fun k k1 k2 => last k k1 k2) b hb

theorem armed (h : Puts v width ad val lo hi s w) (hs : s.flt.armed = []) : w.flt.armed = [] := h.writes.armed hs

/-- One element. -/
theorem one {n : Nat} (h : ViewPut v (ad n) (val n) s w) (hl : (val n).length = width) :
    Puts v width ad val n (n + 1) s w where
  writes := h.writes.mono fun a ha => ⟨n, le_rfl, by omega, by omega⟩
  clean := h.clean
  bytes m m1 m2 _ b hb := by
    obtain rfl : m = n := by omega
    exact h.bytes b (by omega)

/-- Runs of elements written one after another. -/
theorem foldl_range {start : Nat → Nat} (mono : ∀ x, start x ≤ start (x + 1)) {f : State → Nat → State} {m : Nat}
    (h : ∀ x < m, ∀ a, a.flt.armed = [] → Puts v width ad val (start x) (start (x + 1)) a (f a x)) (hs : s.flt.armed = []) :
    Puts v width ad val (start 0) (start m) s ((List.range m).foldl f s) := by
  induction m with
  | zero => exact none s
  | succ m ih =>
    rw [List.range_succ, List.foldl_append]
    have first := ih fun x hx => h x (by omega)
    exact first.append (h m (by omega) _ (first.armed hs)) (monotone_nat_of_le_succ mono (Nat.zero_le m)) (mono m)

end Puts

theorem length_bytesOfNat (n x : Nat) : (bytesOfNat n x).length = n := by
  induction n generalizing x with
  | zero => rfl
  | succ n ih => simp [bytesOfNat, ih]

/-- Bytes that a clean element writes carry no poison. -/
theorem any_replicate_false (n : Nat) : (List.replicate n false).any (fun b => b) = false := by simp

/-- Elements of equal widths, laid end to end. -/
theorem flatMap_bytes (m w : Nat) (g : Nat → List Byte) (hg : ∀ j < m, (g j).length = w) :
    (List.range m).flatMap g = (List.range (m * w)).map (fun k => (g (k / w)).getD (k % w) 0) := by
  rw [← flatMap_range_map m w (fun j b => (g j).getD b 0), List.flatMap_def, List.flatMap_def]
  congr 1
  refine List.map_congr_left fun j hj => ?_
  have hj := hg j (List.mem_range.mp hj)
  refine List.ext_getElem (by simp [hj]) fun b h1 h2 => ?_
  simp [List.getD_eq_getElem?_getD, h1]

/-- A row of elements without poison. -/
theorem rowWrite_puts (v : MemView) (w stride lo m n0 : Nat) (g : Nat → Nat) {ad : Nat → Nat} {val : Nat → List Byte}
    (had : ∀ j < m, ad (n0 + j) = lo + j * stride * w) (hval : ∀ j < m, val (n0 + j) = bytesOfNat w (g j)) {s : State}
    (ha : s.flt.armed = []) :
    Puts v w ad val n0 (n0 + m) s (rowWrite v w stride lo ((List.range m).map (fun j => (g j, false))) s) := by
  unfold rowWrite
  split
  · next one =>
    have bytes : ((List.range m).map (fun j => (g j, false))).flatMap (fun e => bytesOfNat w e.1) =
        (List.range (m * w)).map (fun k => (bytesOfNat w (g (k / w))).getD (k % w) 0) := by
      rw [List.flatMap_map]
      exact flatMap_bytes m w _ fun j _ => length_bytesOfNat _ _
    have marks : ((List.range m).map (fun j => (g j, false))).flatMap (fun e => List.replicate w e.2) =
        List.replicate (m * w) false := by
      rw [List.flatMap_map]
      simp only [replicate_eq_map_range]
      exact flatMap_range_map m w (fun _ _ => false)
    rw [bytes, marks]
    have put := viewWrite_put v (lineCount lo (m * w)) lo ((List.range (m * w)).map (fun k => (bytesOfNat w (g (k / w))).getD (k % w) 0))
      (List.replicate (m * w) false) ha (by simp) (any_replicate_false _)
    have size : ((List.range (m * w)).map (fun k => (bytesOfNat w (g (k / w))).getD (k % w) (0 : Byte))).length = m * w := by simp
    have inside : ∀ j < m, ∀ b < w, j * w + b < m * w := fun j hj b hb => by
      calc j * w + b < j * w + w := by omega
        _ = (j + 1) * w := by ring
        _ ≤ m * w := Nat.mul_le_mul_right w hj
    unfold lineWrite
    rw [size]
    refine ⟨put.writes.mono fun a hx => ?_, put.clean, fun n n1 n2 _ b hb => ?_⟩
    · rw [size] at hx
      obtain ⟨x, rfl⟩ := Nat.exists_eq_add_of_le hx.1
      have hw : 0 < w := Nat.pos_of_ne_zero fun e => by simp [e] at hx
      have hj : x / w < m := (Nat.div_lt_iff_lt_mul hw).mpr (by omega)
      have whole := Nat.div_add_mod' x w
      have rest := Nat.mod_lt x hw
      generalize x / w = j at hj whole
      refine ⟨n0 + j, by omega, by omega, ?_⟩
      rw [had _ hj, one, Nat.mul_one]
      omega
    · obtain ⟨j, rfl⟩ := Nat.exists_eq_add_of_le n1
      have hj : j < m := by omega
      rw [had j hj, hval j hj, one, Nat.mul_one, Nat.add_assoc]
      refine (put.bytes _ (by rw [size]; exact inside j hj b hb)).trans ?_
      rw [getD_map_range _ _ (inside j hj b hb), Nat.mul_comm j w, Nat.mul_add_div (by omega), Nat.div_eq_of_lt hb, Nat.mul_add_mod,
        Nat.mod_eq_of_lt hb, Nat.add_zero]
  · have z : ((List.range m).map (fun j => (g j, false))).zipIdx = (List.range m).map (fun j => ((g j, false), j)) :=
      List.ext_getElem (by simp) fun k _ _ => by simp
    rw [z, List.foldl_map]
    refine Puts.foldl_range (start := (n0 + ·)) (fun x => Nat.le_succ _) (fun j hj a ha => ?_) ha
    refine Puts.one ?_ (by rw [hval j hj, length_bytesOfNat])
    rw [had j hj, hval j hj]
    exact viewWrite_put v 1 _ _ _ ha (by simp [length_bytesOfNat]) (any_replicate_false _)

/-! ## Casts to formats wider than a byte -/

/-- A format whose casts raise no poison: 16 and 32 bits wide. -/
def wideFmt (f : Fmt) : Bool := f == .bf16 || f == .fp16 || f == .fp32 || f == .int32

theorem castElem_wide {f : Fmt} (h : wideFmt f = true) (rnd : Rnd) (x : FVal) : (castElem f rnd x).poison = false := by
  have half : ∀ f, f = .bf16 ∨ f = .fp16 → (castElem f rnd x).poison = false := by
    rintro f (rfl | rfl)
    all_goals
      cases x with
      | nan => rfl
      | inf n => rfl
      | fin n m e =>
        simp only [castElem, fmtSpec]
        split
        · rfl
        · split <;> rfl
  cases f <;> simp [wideFmt] at h
  · exact half _ (.inl rfl)
  · exact half _ (.inr rfl)
  · rfl
  · rfl

theorem convElem_wide {dst : Fmt} (h : wideFmt dst = true) (src : Fmt) (rnd : Rnd) (x : Nat) :
    (convElem src dst rnd x).poison = false := by
  unfold convElem
  split
  · rfl
  · exact castElem_wide h rnd _

theorem wideFmt_mfOf {m : MArgs} (h : 6 < m.mf) (hf : mFormatBad m = false) : wideFmt (mfOf m) = true := by
  have hm : m.mf ≤ 10 := by
    simp only [mFormatBad, Bool.or_eq_false_iff, decide_eq_false_iff_not] at hf
    omega
  unfold mfOf
  interval_cases m.mf <;> rfl

/-! ## Plain stores (R176) -/

/-- The cast of lane n of a store. -/
def storedElem (s : State) (t : TileId) (i : Item) (v : VIns) (r n : Nat) : CastRes :=
  let m := mArgs v
  let c := mCtx s t m
  convElem (fmtOfReg m.rf) (mfOf m) (ctxRnd m.round (itemSeed s i) c (elemIndex c (n / 64) (n % 64) m.sk)) (Safety.lane s t r n).toNat

/-- The elements of a store from a register without poison. -/
theorem storedElems_eq {s : State} {t : TileId} {i : Item} {v : VIns} {r : Nat} (hp : packedFmt (mArgs v).rf = false)
    (hw : wideFmt (mfOf (mArgs v)) = true) (hl : ∀ j, Safety.line s t r j = false) :
    let m := mArgs v
    let c := mCtx s t m
    (convElems (fmtOfReg m.rf) (mfOf m) (ctxRnd m.round (itemSeed s i) c) 64 c m.sk (elemsOfReg m.rf (vregRaw s.tiles[t].vec r))).1 =
      (List.range 1024).map (fun n => ((storedElem s t i v r n).bits, false)) := by
  intro m c
  rw [vregRaw_eq, elemsOfReg_vregOf hp, convElems_range]
  refine List.map_congr_left fun n _ => Prod.ext rfl ?_
  simp only [hl, Bool.false_or]
  exact convElem_wide hw _ _ _

/-- Where lane n of a plain store goes. -/
def storeAddr (m : MArgs) (n : Nat) : Nat := m.base + n / 64 * m.rs + n % 64 * m.es * (fmtWidth (mfOf m) / 8)

theorem plainStore_eq {t : TileId} {i : Item} {v : VIns} {s : State} (clean : VecClean t s) (hp : packedFmt (mArgs v).rf = false)
    (hw : wideFmt (mfOf (mArgs v)) = true) (hl : ∀ j, Safety.line s t v.vd j = false) :
    ∃ a taps layer cnt ps, Puts (mView t i (mArgs v)) (fmtWidth (mfOf (mArgs v)) / 8) (storeAddr (mArgs v))
        (fun n => bytesOfNat (fmtWidth (mfOf (mArgs v)) / 8) (storedElem s t i v v.vd n).bits) 0 1024 s a ∧
      plainStore t i v s = vecDoneLsu t i (notePoison i.key ps (recordCasts t i.key layer cnt (tapValues t i.key layer .vst taps a))) := by
  have cols : regCols (mArgs v).rf = 64 := by simp [regCols, hp]
  have elems := storedElems_eq (s := s) (t := t) (i := i) hp hw hl
  have rows : (chunksOf 64 16 ((List.range (16 * 64)).map (fun n => ((storedElem s t i v v.vd n).bits, false)))).zipIdx =
      (List.range 16).map (fun r => ((List.range 64).map (fun c => ((storedElem s t i v v.vd (r * 64 + c)).bits, false)), r)) := by
    rw [chunksOf_map_range]
    exact List.ext_getElem (by simp) fun k _ _ => by simp
  unfold plainStore
  simp only [cols, checkRegs_clean clean]
  rw [elems]
  refine ⟨_, _, _, _, _, ?_, rfl⟩
  rw [rows, List.foldl_map]
  refine Puts.foldl_range (start := (· * 64)) (m := 16) (fun x => by omega) (fun r hr a ha => ?_) clean.unarmed
  simp only [Nat.succ_mul]
  refine rowWrite_puts _ _ _ _ 64 (r * 64) (fun c => (storedElem s t i v v.vd (r * 64 + c)).bits) (fun j hj => ?_) (fun j hj => rfl) ha
  rw [storeAddr, show (r * 64 + j) / 64 = r by omega, show (r * 64 + j) % 64 = j by omega]

/-- What a store leaves: the memory and the contexts that its work w left, and the frame. -/
structure Stored (t : TileId) (i : Item) (mem : MemSel) (s w u : State) : Prop where
  frame : Safety.vecMemFrame t i [] s u
  other : ∀ x, x ≠ mem → tmem u t x = tmem s t x
  mem : tmem u t mem = tmem w t mem
  ctx : u.tiles[t].vec.ctx = w.tiles[t].vec.ctx

/-- A command whose instruction writes through a view, may tap and count what it wrote, and completes. -/
theorem exec_stores {c : Instr} {opc : Nat} {body : TileId → Item → VIns → State → State} {t : TileId} {i : Item}
    {v : VIns} {s a w : State} (hat : Safety.vecAt s t v i) (hr : Safety.tileReady s t) (ho : v.opc = opc)
    (hc : exec c s = .next (vecRow opc body t s)) (hin : vecOpcs.contains opc = true) {m : MemView} (ht : m.tile = t)
    {A : Nat → Prop} (writes : WritesIn m A (Safety.unmarked s) a) (work : Worked t i.key [] a w)
    (mems : ∀ x, tmem w t x = tmem a t x) (hb : body t i v (Safety.unmarked s) = vecDoneLsu t i w) :
    ∃ u, exec c s = .next u ∧ Stored t i m.mem s w u := by
  subst ht
  have all := (Worked.of_access writes.access i.key []).trans work
  obtain ⟨u, run, fr, -, ctx, mem, -⟩ := exec_worked_lsu hat hr ho hc hin all hb
  exact ⟨u, run, fr, fun x hx => (mem _ x).trans ((mems x).trans (writes.other x hx)), mem _ _, ctx⟩

/-- Counts and poison recorded change nothing but records. -/
theorem recorded_work (t : TileId) (k : ItemKey) (layer : Nat) (cnt : CastCounts) (ps : List Bool) (a : State) :
    Worked t k [] a (notePoison k ps (recordCasts t k layer cnt a)) ∧
      (notePoison k ps (recordCasts t k layer cnt a)).tiles = a.tiles :=
  ⟨(Worked.recordCasts layer cnt a).trans (.notePoison ps _), (notePoison_tiles _ _ _).trans (recordCasts_tiles _ _ _ _ _)⟩

/-! ## Scatters (R184) -/

theorem vsctEff_eq {t : TileId} {i : Item} {v : VIns} {s : State} (clean : VecClean t s) (hp : packedFmt (mArgs v).rf = false)
    (hw : wideFmt (mfOf (mArgs v)) = true) (hl : ∀ r j, Safety.line s t r j = false) :
    ∃ a layer cnt ps, Puts (mView t i (mArgs v)) (fmtWidth (mfOf (mArgs v)) / 8) (gatherAddr s t v)
        (fun n => bytesOfNat (fmtWidth (mfOf (mArgs v)) / 8) (storedElem s t i v v.vb n).bits) 0 1024 s a ∧
      vsctEff t i v s = vecDoneLsu t i (notePoison i.key ps (recordCasts t i.key layer cnt a)) := by
  have elems := storedElems_eq (s := s) (t := t) (i := i) hp hw (hl v.vb)
  unfold vsctEff
  simp only
  rw [elems, indexLanes_eq, List.zip_map', List.foldl_map]
  refine ⟨_, _, _, _, ?_, rfl⟩
  refine Puts.foldl_range (start := id) (m := 1024) (fun x => Nat.le_succ x) (fun n hn a ha => ?_) clean.unarmed
  refine Puts.one (viewWrite_put _ 1 _ _ _ ha (by simp [length_bytesOfNat]) ?_) (length_bytesOfNat _ _)
  simp only [hl, Bool.or_self]
  exact any_replicate_false _

theorem natOfBytes_bytesOfNat (n x : Nat) : natOfBytes (bytesOfNat n x) = x % 256 ^ n := by
  induction n generalizing x with
  | zero => simp [bytesOfNat, natOfBytes, Nat.mod_one]
  | succ n ih => rw [bytesOfNat, natOfBytes, ih, Nat.pow_succ', Nat.mod_mul, BitVec.toNat_ofNat]

/-- The word at a view's address. -/
def viewWord (v : MemView) (s : State) (a : Nat) : Word := BitVec.ofNat 32 (natOfBytes (viewBytes v s a 4))

/-- Indices at which VSCTA adds, in lane order: after the first n lanes, the word at x has gained the lanes of index x. -/
structure Added (v : MemView) (base : Nat) (idx : Nat → Nat) (val : Nat → Word) (n : Nat) (s w : State) : Prop where
  writes : WritesIn v (fun a => ∃ k < n, base + idx k * 4 ≤ a ∧ a < base + idx k * 4 + 4) s w
  clean : (tmem w v.tile v.mem).err = []
  words : ∀ x, viewWord v w (base + x * 4) =
    ((List.range n).filter (fun k => decide (idx k = x))).foldl (fun z k => f32Add z (val k)) (viewWord v s (base + x * 4))

/-- The bytes of a view where a clean write has put them. -/
theorem ViewPut.viewBytes {v : MemView} {lo : Nat} {bs : List Byte} {s w : State} (h : ViewPut v lo bs s w) :
    Machine.viewBytes v w lo bs.length = bs := by
  refine List.ext_getElem (by simp [Machine.viewBytes]) fun k h1 h2 => ?_
  simp only [Machine.viewBytes, List.getElem_map, List.getElem_range, h.bytes k h2]
  simp [List.getD_eq_getElem?_getD, h2]

theorem viewWord_put {v : MemView} {a : Nat} {x : Word} {s w : State} (h : ViewPut v a (bytesOfNat 4 x.toNat) s w) :
    viewWord v w a = x := by
  have bytes := h.viewBytes
  rw [length_bytesOfNat] at bytes
  rw [viewWord, bytes, natOfBytes_bytesOfNat]
  have := x.isLt
  exact BitVec.eq_of_toNat_eq (by rw [BitVec.toNat_ofNat]; omega)

/-- The word at an address that writes do not reach. -/
theorem viewWord_kept {v : MemView} {A : Nat → Prop} {s w : State} (h : WritesIn v A s w) {a : Nat} (ha : ∀ b < 4, ¬ A (a + b)) :
    viewWord v w a = viewWord v s a := by
  have bytes : Machine.viewBytes v w a 4 = Machine.viewBytes v s a 4 :=
    List.map_congr_left fun k hk => h.kept (ha k (List.mem_range.mp hk))
  rw [viewWord, bytes, viewWord]

/-- One lane of VSCTA on clean data: the word gains the lane. -/
theorem scatterAdd_put (v : MemView) (a : Nat) (x : Word) {s : State} (hc : (tmem s v.tile v.mem).err = []) (ha : s.flt.armed = []) :
    ViewPut v a (bytesOfNat 4 (f32Add (viewWord v s a) x).toNat) s (scatterAdd v a x false s).2 := by
  obtain ⟨reads, bytes, -, clean⟩ := viewRead_spec v 1 a 4 (s := s) (.of_clean hc)
  have word : wordOf (viewRead v 1 a 4 s).1.1 = natOfBytes (Machine.viewBytes v s a 4) := by
    rw [wordOf, bytes, List.take_of_length_le (by simp [Machine.viewBytes])]
  have marks : (false || (viewRead v 1 a 4 s).1.2.any (fun b => b)) = false := by rw [clean hc]; rfl
  unfold scatterAdd
  simp only
  rw [word, marks]
  exact .of_reads reads (viewWrite_put v 1 a _ _ (reads.access.armed.trans ha) (by simp [length_bytesOfNat]) (any_replicate_false _))

theorem Added.zero {v : MemView} {base : Nat} {idx : Nat → Nat} {val : Nat → Word} {s : State}
    (hc : (tmem s v.tile v.mem).err = []) : Added v base idx val 0 s s :=
  ⟨.refl _ _ _, hc, fun x => by simp⟩

/-- Words 4 bytes apart do not overlap. -/
theorem added_step {v : MemView} {base : Nat} {idx : Nat → Nat} {val : Nat → Word} {n : Nat} {s u w : State}
    (h : Added v base idx val n s u)
    (g : ViewPut v (base + idx n * 4) (bytesOfNat 4 (f32Add (viewWord v u (base + idx n * 4)) (val n)).toNat) u w) :
    Added v base idx val (n + 1) s w := by
  have put : WritesIn v (fun a => base + idx n * 4 ≤ a ∧ a < base + idx n * 4 + 4) u w :=
    g.writes.mono fun a ha => by rwa [length_bytesOfNat] at ha
  refine ⟨(h.writes.mono fun a ⟨k, hk, r⟩ => ⟨k, by omega, r⟩).trans (put.mono fun a ha => ⟨n, by omega, ha⟩), g.clean h.clean,
    fun x => ?_⟩
  rw [List.range_succ, List.filter_append, List.foldl_append, ← h.words x]
  by_cases hx : idx n = x
  · subst hx
    simp [viewWord_put g]
  · simp only [hx, List.filter_cons, decide_false, Bool.false_eq_true, if_false, List.filter_nil, List.foldl_nil]
    exact viewWord_kept put fun b hb => by omega

theorem vsctaEff_eq {t : TileId} {i : Item} {v : VIns} {s : State} (clean : VecClean t s)
    (hc : (tmem s t ((memOfIndex (mArgs v).mem).getD .amem)).err = []) (hl : ∀ r j, Safety.line s t r j = false) :
    ∃ a ps, Added (mView t i (mArgs v)) (mArgs v).base (fun k => (Safety.lane s t v.va k).toNat) (Safety.lane s t v.vb) 1024 s a ∧
      vsctaEff t i v s = vecDoneLsu t i (notePoison i.key ps a) := by
  have lanes : (indexLanes s t v.va).zip (elemsOfReg 0 (vregRaw s.tiles[t].vec v.vb)) =
      (List.range 1024).map (fun k => ((Safety.lane s t v.va k, false), ((Safety.lane s t v.vb k).toNat, false))) := by
    rw [indexLanes_eq, vregRaw_eq, elemsOfReg_vregOf rfl, List.zip_map']
    simp only [hl]
  have run : ∀ n ≤ 1024, Added (mView t i (mArgs v)) (mArgs v).base (fun k => (Safety.lane s t v.va k).toNat) (Safety.lane s t v.vb) n s
      ((List.range n).foldl (fun a k => (a.1 || (scatterAdd (mView t i (mArgs v)) ((mArgs v).base + (Safety.lane s t v.va k).toNat * 4)
          (Safety.lane s t v.vb k) false a.2).1,
        (scatterAdd (mView t i (mArgs v)) ((mArgs v).base + (Safety.lane s t v.va k).toNat * 4)
          (Safety.lane s t v.vb k) false a.2).2)) (false, s)).2 := by
    intro n hn
    induction n with
    | zero => exact .zero hc
    | succ n ih =>
      have first := ih (by omega)
      rw [List.range_succ, List.foldl_append]
      exact added_step first (scatterAdd_put _ _ _ first.clean (first.writes.armed clean.unarmed))
  have done := run 1024 le_rfl
  unfold vsctaEff
  simp only [lanes, List.foldl_map, BitVec.ofNat_toNat, BitVec.setWidth_eq, Bool.or_self]
  generalize List.foldl _ _ (List.range 1024) = r at done ⊢
  exact ⟨r.2, _, done, rfl⟩

end Sys2Proof.Machine
end

section
/-! SUPPORT. Block rows written to a tile's memories (R78, R92, R181): which bytes they reach. -/

namespace Sys2Proof.Machine
open Sys2Proof

/-! ## Writes of whole words, and of clean bytes -/

/-- Whole words, poisoned or not: nothing but them changes. -/
theorem lineWrite_words (v : MemView) {lo : Nat} {bs : List Byte} {ps : List Bool} {s : State} (hm : v.mem ≠ .wmem)
    (ha : s.flt.armed = []) (hl : ps.length = bs.length) (h1 : lo % 4 = 0) (h2 : bs.length % 4 = 0) :
    WritesIn v (fun a => lo ≤ a ∧ a < lo + bs.length) s (lineWrite v lo bs ps s) :=
  (viewWrite_in v _ lo bs ps ha hl (.inl hm)).mono fun a h => by
    rcases h with h | ⟨-, h⟩
    · exact h
    · omega

/-- Bytes without poison: nothing but them changes. -/
theorem lineWrite_clean (v : MemView) (lo : Nat) (bs : List Byte) {n : Nat} (hl : n = bs.length) {s : State}
    (ha : s.flt.armed = []) : WritesIn v (fun a => lo ≤ a ∧ a < lo + bs.length) s (lineWrite v lo bs (clean n) s) :=
  (viewWrite_put v _ lo bs (clean n) ha (by simp [clean, hl]) (any_replicate_false n)).writes

/-! ## Promotions (R90, R91) -/

/-- Promoted blocks are the b-th, b + 1-st and so on of their row, and lie below a capacity. -/
def Promoted (cap : Nat) : Nat → List PromoCast → Prop
  | _, [] => True
  | b, p :: ps => (p.promoted = true → b < cap) ∧ Promoted cap (b + b2n p.promoted) ps

theorem castPromo_room {cap : Nat} {room : Bool} {qerr t : Word} {rnds : List Rnd} {xs : List Word}
    (h : (castPromo cap room qerr t rnds xs).promoted = true) : room = true := by
  unfold castPromo at h
  simp only at h
  split at h
  · cases h
  split at h
  · split at h
    · assumption
    · cases h
  · cases h

theorem castRowBlocks_length (r : RowFmt) (rc : RowCast) (rnd : Nat → Rnd) (n : Nat) (xs : List (List Word)) :
    (castRowBlocks r rc rnd n xs).1.length = xs.length := by
  induction xs generalizing rc n with
  | nil => rfl
  | cons x xs ih => simp [castRowBlocks, ih]

theorem castRowBlocks_promoted (r : RowFmt) (qerr : Word) (cap below : Nat) (rnd : Nat → Rnd) (n : Nat) (xs : List (List Word)) :
    Promoted cap below (castRowBlocks r ⟨qerr, below, cap⟩ rnd n xs).1 := by
  induction xs generalizing below n with
  | nil => trivial
  | cons x xs ih =>
    refine ⟨fun h => ?_, ih _ _⟩
    simp only at h
    split at h
    · exact of_decide_eq_true (castPromo_room h)
    · cases h

/-! ## One block row (R78) -/

/-- The parts of a block row, and where they end. -/
theorem rowLayout_parts (f : Fmt) (kb p : Nat) :
    let l := rowLayout f kb p
    l.scales % 64 = 0 ∧ l.slots % 64 = 0 ∧ l.ext % 64 = 0 ∧ (0 < p → (kb + 7) / 8 ≤ l.scales) ∧ l.scales + kb ≤ l.slots ∧
      l.slots + kb * blockBytes f ≤ l.ext ∧ l.ext ≤ l.size ∧ (0 < p → l.ext + 16 * p ≤ l.size) := by
  have up : ∀ n, n ≤ roundUp n 64 ∧ roundUp n 64 % 64 = 0 := fun n => by unfold roundUp; omega
  have h1 := up kb
  have h2 := up (kb * blockBytes f)
  have h3 := up (p * 16)
  simp only [rowLayout]
  generalize roundUp kb 64 = a at *
  generalize roundUp (kb * blockBytes f) 64 = b at *
  generalize roundUp (p * 16) 64 = c at *
  generalize kb * blockBytes f = x at *
  refine ⟨?_, ?_, ?_, ?_, ?_, ?_, ?_, ?_⟩ <;> split <;> omega

theorem headerBits_eq (s : State) (t : TileId) (i : Item) (m : MArgs) (c : CastCtx) (lo : Nat) :
    headerBits s t m c lo = natOfBytes (viewBytes (mView t i m) s lo ((c.kb + 7) / 8)) := by
  unfold headerBits viewBytes
  simp only
  congr 1
  refine List.map_congr_left fun j _ => ?_
  rw [memGet_eq]
  simp only [List.range_one, List.map_cons, List.map_nil, List.headD_cons, Nat.add_zero]
  rfl

/-- The bytes of the block row at lo. -/
def inRow (r : RowFmt) (lo a : Nat) : Prop := lo ≤ a ∧ a < lo + (rowLayout r.f r.kb r.p).size

/-- The extension slots of promoted blocks lie in the row (R92). -/
theorem extWrites_in {v : MemView} {r : RowFmt} {lo : Nat} (hm : v.mem ≠ .wmem) (hlo : lo % 64 = 0) (hp : 0 < r.p)
    (bad : PromoCast × Bool → Bool) (cs : List (PromoCast × Bool)) (n : Nat) (room : Promoted r.p n (cs.map (·.1))) {s : State}
    (ha : s.flt.armed = []) :
    WritesIn v (inRow r lo) s (cs.foldl (fun a c =>
      if c.1.promoted then
        (a.1 + 1, lineWrite v (lo + (rowLayout r.f r.kb r.p).ext + 16 * a.1) (bytesOfNat 16 (packBits 4 (promoExt c.1.cast.codes)))
          (List.replicate 16 (bad c)) a.2)
      else a) (n, s)).2 := by
  obtain ⟨-, -, aligned, -, -, -, -, size⟩ := rowLayout_parts r.f r.kb r.p
  induction cs generalizing n s with
  | nil => exact .refl _ _ _
  | cons c cs ih =>
    obtain ⟨below, rest⟩ := room
    rw [List.foldl_cons]
    by_cases hc : c.1.promoted = true
    · rw [if_pos hc]
      have one := lineWrite_words v (lo := lo + (rowLayout r.f r.kb r.p).ext + 16 * n)
        (bs := bytesOfNat 16 (packBits 4 (promoExt c.1.cast.codes))) (ps := List.replicate 16 (bad c)) hm ha
        (by simp [length_bytesOfNat]) (by omega) (by simp [length_bytesOfNat])
      have first : WritesIn v (inRow r lo) s _ := one.mono fun a h => by
        rw [length_bytesOfNat] at h
        have := below hc
        have := size hp
        unfold inRow
        omega
      refine first.trans (ih (n + 1) ?_ (first.armed ha))
      rw [hc] at rest
      exact rest
    · rw [if_neg hc]
      refine ih n ?_ ha
      rw [Bool.not_eq_true] at hc
      rw [hc] at rest
      exact rest

/-- K-blocks of a row written into it change no byte outside it (R78, R92). -/
theorem blockRowWrite_in {v : MemView} {r : RowFmt} {lo k : Nat} {cs : List (PromoCast × Bool)} {s : State} (hm : v.mem ≠ .wmem)
    (hlo : lo % 64 = 0) (hk : k + cs.length ≤ r.kb) (hn : 0 < cs.length)
    (room : 0 < r.p → Promoted r.p (((List.range k).filter (bitOf (natOfBytes (viewBytes v s lo ((r.kb + 7) / 8))))).length)
      (cs.map (·.1))) (quiet : Silent v.mem (tmem s v.tile v.mem)) (ha : s.flt.armed = []) :
    WritesIn v (inRow r lo) s (blockRowWrite v r lo k cs s) := by
  obtain ⟨scales, slots, -, header, hslots, hext, hsize, -⟩ := rowLayout_parts r.f r.kb r.p
  obtain ⟨hd, hhd⟩ : ∃ hd, hd = (if r.p = 0 then (([], []), s) else lineRead v lo ((r.kb + 7) / 8) s) := ⟨_, rfl⟩
  have read : VecReads v.tile s hd.2 ∧ (0 < r.p → hd.1.1 = viewBytes v s lo ((r.kb + 7) / 8)) := by
    rw [hhd]
    split
    · exact ⟨.refl _ s, fun h => by omega⟩
    · obtain ⟨reads, bytes, -, -⟩ := lineRead_spec v lo ((r.kb + 7) / 8) quiet
      exact ⟨reads, fun _ => bytes⟩
  have width : blockBytes r.f % 4 = 0 := by unfold blockBytes; omega
  have span : (k + cs.length) * blockBytes r.f ≤ r.kb * blockBytes r.f := Nat.mul_le_mul_right _ hk
  rw [Nat.add_mul] at span
  have start : k * blockBytes r.f % 4 = 0 := by rw [Nat.mul_mod, width, Nat.mul_zero, Nat.zero_mod]
  have len : ∀ {α : Type} (f : PromoCast × Bool → List α), (∀ c, (f c).length = blockBytes r.f) →
      (cs.flatMap f).length = cs.length * blockBytes r.f := fun f hf => by
    rw [List.length_flatMap, List.map_congr_left fun c _ => hf c]
    simp
  have words : cs.length * blockBytes r.f % 4 = 0 := by rw [Nat.mul_mod, width, Nat.mul_zero, Nat.zero_mod]
  unfold blockRowWrite
  simp only [← hhd]
  generalize hd.2 = z at *
  obtain ⟨reads, bytes⟩ := read
  have h0 : WritesIn v (inRow r lo) s z := .of_reads reads _
  have h1 := h0.trans ((lineWrite_clean v (lo + (rowLayout r.f r.kb r.p).scales + k)
    (cs.map (fun c => BitVec.ofNat 8 c.1.cast.scale)) (n := cs.length) (by simp) (h0.armed ha)).mono fun a h => by
      rw [List.length_map] at h
      unfold inRow
      omega)
  generalize lineWrite v (lo + (rowLayout r.f r.kb r.p).scales + k) _ _ z = z1 at h1 ⊢
  have slot : ∀ (f : PromoCast × Bool → List Byte) (q : PromoCast × Bool → List Bool), (∀ c, (f c).length = blockBytes r.f) →
      (∀ c, (q c).length = blockBytes r.f) →
      WritesIn v (inRow r lo) s (lineWrite v (lo + (rowLayout r.f r.kb r.p).slots + k * blockBytes r.f) (cs.flatMap f) (cs.flatMap q) z1) :=
    fun f q hf hq => h1.trans ((lineWrite_words v hm (h1.armed ha) (by rw [len f hf, len q hq]) (by omega)
      (by rw [len f hf]; exact words)).mono fun a h => by
        rw [len f hf] at h
        unfold inRow
        omega)
  have h2 := slot _ _ (fun c => length_bytesOfNat (blockBytes r.f) (if c.1.promoted then packBits 4 (promoSlot c.1.cast.codes)
    else packBits (fmtWidth r.f) c.1.cast.codes))
    (fun c => List.length_replicate (n := blockBytes r.f) (a := hd.1.2.any (fun b => b) || c.2 || c.1.cast.poison))
  generalize lineWrite v (lo + (rowLayout r.f r.kb r.p).slots + k * blockBytes r.f) _ _ z1 = z2 at h2 ⊢
  split
  · exact h2
  · next hp =>
    have pos : 0 < r.p := by omega
    rw [bytes pos]
    have h3 := h2.trans (extWrites_in hm hlo pos (fun c => hd.1.2.any (fun b => b) || c.2 || c.1.cast.poison) cs _ (room pos) (h2.armed ha))
    refine h3.trans ((lineWrite_clean v _ _ (by simp) (h3.armed ha)).mono fun a h => ?_)
    rw [List.length_map, List.length_range] at h
    have := header pos
    unfold inRow
    omega

/-! ## Block-scaled stores (R181) -/

/-- Steps that each write within A, in a fold whose state is `st` of what it carries. -/
theorem WritesIn.foldl {σ ι : Type} {v : MemView} {A : Nat → Prop} {s : State} (st : σ → State) {f : σ → ι → σ} {l : List ι} {b : σ}
    (hb : WritesIn v A s (st b)) (h : ∀ a x, x ∈ l → WritesIn v A s (st a) → WritesIn v A s (st (f a x))) :
    WritesIn v A s (st (l.foldl f b)) :=
  List.foldlRecOn (motive := fun a => WritesIn v A s (st a)) l f hb fun a ha x hx => h a x hx ha

theorem Promoted.mono {cap cap' : Nat} (h : cap ≤ cap') {b : Nat} {ps : List PromoCast} (p : Promoted cap b ps) : Promoted cap' b ps := by
  induction ps generalizing b with
  | nil => trivial
  | cons x ps ih => exact ⟨fun hx => lt_of_lt_of_le (p.1 hx) h, ih p.2⟩

/-- The bytes of the sixteen block rows of a store. -/
def inRows (m : MArgs) (c : CastCtx) (a : Nat) : Prop := ∃ r < 16, inRow (rowFmtOf m c) (m.base + r * c.rowBytes) a

theorem blocksAt_le {kb k : Nat} (h : k < kb) : k + blocksAt kb k ≤ kb ∧ 0 < blocksAt kb k := by
  unfold blocksAt
  split <;> omega

/-- The checks of a block-scaled region, passed (R174, R256). -/
theorem blockRegion_pass {m : MArgs} {c : CastCtx} (h : firstFail (blockRegion m c) = none) :
    m.base % 64 = 0 ∧ c.rowBytes % 64 = 0 ∧ m.sk < c.kb := by
  rw [blockRegion, firstFail_cons, firstFail_cons, Bool.or_eq_false_iff, Bool.or_eq_false_iff, decide_eq_false_iff_not,
    decide_eq_false_iff_not, decide_eq_false_iff_not] at h
  obtain ⟨⟨h1, h2⟩, ⟨-, h3⟩, -⟩ := h
  omega

/-- One row of a block-scaled store. -/
theorem storedRow_in {v : MemView} {t : TileId} {i : Item} {m : MArgs} {c : CastCtx} (hv : v = mView t i m) {lo : Nat} {s : State}
    (hm : v.mem ≠ .wmem) (hlo : lo % 64 = 0) (hk : m.sk < c.kb) (j : JobParam) (rnd : Nat → Rnd) (n0 : Nat) (xs : List Word)
    (pz : Nat → Bool) (quiet : Silent v.mem (tmem s v.tile v.mem)) (ha : s.flt.armed = []) :
    let below := if c.p = 0 then 0 else ((List.range m.sk).filter (bitOf (headerBits s t m c lo))).length
    let ps := (castRowBlocks (rowFmtOf m c) ⟨j.qerr, below, promoCap c.kb c.p j⟩ rnd n0 (chunksOf 32 (blocksAt c.kb m.sk) xs)).1
    WritesIn v (inRow (rowFmtOf m c) lo) s
      (blockRowWrite v (rowFmtOf m c) lo m.sk (ps.zip ((List.range (blocksAt c.kb m.sk)).map pz)) s) := by
  intro below ps
  obtain ⟨within, some⟩ := blocksAt_le hk
  have len : ps.length = blocksAt c.kb m.sk := (castRowBlocks_length _ _ _ _ _).trans (length_chunksOf _ _ _)
  have size : (ps.zip ((List.range (blocksAt c.kb m.sk)).map pz)).length = blocksAt c.kb m.sk := by simp [len]
  refine blockRowWrite_in hm hlo (by rw [size]; exact within) (by rw [size]; exact some) (fun hp => ?_) quiet ha
  rw [List.map_fst_zip (by simp [len])]
  have room : Promoted (promoCap c.kb c.p j) below ps := castRowBlocks_promoted _ _ _ _ _ _ _
  have hp : c.p ≠ 0 := Nat.pos_iff_ne_zero.mp hp
  have count : below = ((List.range m.sk).filter (bitOf (natOfBytes (viewBytes v s lo ((c.kb + 7) / 8))))).length := by
    simp only [below, hp, if_false, headerBits_eq s t i m c lo, ← hv]
  rw [count] at room
  exact room.mono (Nat.min_le_left _ _)

theorem blockStore_eq {t : TileId} {i : Item} {v : VIns} {s : State} (clean : VecClean t s)
    (hc : (tmem s t ((memOfIndex (mArgs v).mem).getD .amem)).err = []) (hm : (memOfIndex (mArgs v).mem).getD .amem ≠ .wmem)
    (hr : firstFail (blockRegion (mArgs v) (mCtx s t (mArgs v))) = none) :
    ∃ a layer cnt ps, WritesIn (mView t i (mArgs v)) (inRows (mArgs v) (mCtx s t (mArgs v))) s a ∧
      blockStore t i v s = vecDoneLsu t i (notePoison i.key ps (recordCasts t i.key layer cnt a)) := by
  obtain ⟨base, pitch, sk⟩ := blockRegion_pass hr
  unfold blockStore
  simp only [checkRegs_clean clean]
  refine ⟨_, _, _, _, ?_, rfl⟩
  have range : ∀ r ∈ List.range 16, r < 16 := fun r => List.mem_range.mp
  generalize List.range 16 = rows at range ⊢
  refine WritesIn.foldl (fun a : CastCounts × Bool × State => a.2.2) ?_ fun a r hr ha => ?_
  · exact .refl _ _ _
  have hr := range r hr
  have offset : r * (mCtx s t (mArgs v)).rowBytes % 64 = 0 := by rw [Nat.mul_mod, pitch, Nat.mul_zero, Nat.zero_mod]
  have row := storedRow_in (v := mView t i (mArgs v)) (c := mCtx s t (mArgs v)) (lo := (mArgs v).base + r * (mCtx s t (mArgs v)).rowBytes)
    rfl hm (by omega) sk (itemJob s i) (ctxRnd (mArgs v).round (itemSeed s i) (mCtx s t (mArgs v)))
    (elemIndex (mCtx s t (mArgs v)) r 0 (32 * (mArgs v).sk)) (((vregRaw s.tiles[t].vec v.vd).lanes.drop (64 * r)).take 64)
    (fun b => (vregRaw s.tiles[t].vec v.vd).poison.getD (4 * r + 2 * b) false ||
      (vregRaw s.tiles[t].vec v.vd).poison.getD (4 * r + 2 * b + 1) false) (ha.silent (.of_clean hc)) (ha.armed clean.unarmed)
  have rows := ha.trans (row.mono fun x hx => ⟨r, hr, hx⟩)
  exact rows.trans (.of_reads (VecReads.tapValues (t := t) _ _ _ _ _) _)

/-! ## Pruning stores (R154, R182) -/

/-- Any write through a view of A-mem or P-mem. -/
theorem viewWrite_any (v : MemView) (n lo : Nat) {bs : List Byte} {ps : List Bool} (hm : v.mem ≠ .wmem) {s : State}
    (ha : s.flt.armed = []) (hl : ps.length = bs.length) : WritesIn v (fun _ => True) s (viewWrite v n lo bs ps s) :=
  (viewWrite_in v n lo bs ps ha hl (.inl hm)).mono fun _ _ => trivial

/-- The map of a row group is written through its view. -/
theorem writeMap_in {v : MemView} (hm : v.mem ≠ .wmem) (lo kb k cursor : Nat) (bs : List (Option PrunedBlk)) {s : State}
    (quiet : Silent v.mem (tmem s v.tile v.mem)) (ha : s.flt.armed = []) :
    WritesIn v (fun _ => True) s (writeMap v lo kb k cursor bs s) := by
  have size : 12 ≤ mapBytes kb := by unfold mapBytes; omega
  have count : WritesIn v (fun _ => True) s (if k = 0 then lineWrite v lo (bytesOfNat 4 (countTrue (bs.map (·.isSome))) ++
        bytesOfNat 8 cursor ++ List.replicate (mapBytes kb - 12) 0) (clean (mapBytes kb)) s
      else viewWrite v 1 lo (bytesOfNat 4 ((wordOf (viewRead v 1 lo 4 s).1.1 + countTrue (bs.map (·.isSome))) % 65536))
        (List.replicate 4 ((viewRead v 1 lo 4 s).1.2.any (fun b => b))) (viewRead v 1 lo 4 s).2) := by
    split
    · exact viewWrite_any v _ _ hm ha (by simp [clean, length_bytesOfNat]; omega)
    · have read := WritesIn.of_reads (viewRead_spec v 1 lo 4 quiet).reads (fun _ => True)
      exact read.trans (viewWrite_any v _ _ hm (read.armed ha) (by simp [length_bytesOfNat]))
  unfold writeMap
  simp only
  generalize (if k = 0 then _ else _ : State) = z at count ⊢
  have bit := viewRead_spec v 1 (lo + 64 + k / 8) 1 (count.silent quiet)
  have read := count.trans (WritesIn.of_reads bit.reads (fun _ => True))
  have presence := read.trans (viewWrite_any v 1 (lo + 64 + k / 8) hm (read.armed ha) (by simpa using bit.marks)
    (bs := [BitVec.ofNat 8 (((List.range 8).map (fun j => 2 ^ j * b2n (if k % 8 ≤ j ∧ j < k % 8 + bs.length
      then ((bs.getD (j - k % 8) none).isSome)
      else bitOf ((viewRead v 1 (lo + 64 + k / 8) 1 z).1.1.headD 0).toNat j))).sum)]))
  exact presence.trans (viewWrite_any v _ _ hm (presence.armed ha) (by simp [clean]))

/-- The blocks of a pruning store are written one after another from the cursor on, by a step f. -/
theorem listWrites_in {v : MemView} (hm : v.mem ≠ .wmem) {list : Nat} {f : Nat × State → Option PrunedBlk → Nat × State}
    (none_eq : ∀ a, f a none = a)
    (some_eq : ∀ a x, f a (some x) = (a.1 + roundUp x.bytes.length 64,
      lineWrite v (list + a.1) x.bytes (List.replicate x.bytes.length x.poison) a.2))
    (bs : List (Option PrunedBlk)) (cur : Nat) {s : State} (ha : s.flt.armed = []) :
    (bs.foldl f (cur, s)).1 = cur + listBytes bs ∧ WritesIn v (fun _ => True) s (bs.foldl f (cur, s)).2 := by
  induction bs generalizing cur s with
  | nil => exact ⟨rfl, .refl _ _ _⟩
  | cons b bs ih =>
    cases b with
    | none =>
      obtain ⟨r1, r2⟩ := ih cur ha
      rw [List.foldl_cons, none_eq]
      exact ⟨r1.trans (by simp [listBytes]), r2⟩
    | some x =>
      have one := viewWrite_any v (lineCount (list + cur) x.bytes.length) (list + cur) (bs := x.bytes)
        (ps := List.replicate x.bytes.length x.poison) hm ha (by simp)
      obtain ⟨r1, r2⟩ := ih (cur + roundUp x.bytes.length 64) (one.armed ha)
      rw [List.foldl_cons, some_eq]
      refine ⟨r1.trans ?_, one.trans r2⟩
      simp only [listBytes, List.map_cons, List.sum_cons]
      omega

/-- What a pruning store makes of the context it goes through (R182). -/
def prunedCtx (s : State) (t : TileId) (i : Item) (v : VIns) : CastCtx :=
  let c := mCtx s t (mArgs v)
  { c with
    cursor := cursorOf c + listBytes (prunedBlocks s t i v), started := true, lastG := mSS v, lastK := (mArgs v).sk,
    promos := promosAfter (if (mArgs v).sk = 0 then [] else c.promos) (prunedBlocks s t i v) }

/-- The records of a pruning store: its context, its counts and taps, its flag and its poison. -/
theorem prunedRecords_work (t : TileId) (k : ItemKey) (cx : Nat) (c : CastCtx) (layer : Nat) (cnt : CastCounts)
    (taps : List (FVal × Bool)) (escaped : Bool) (ps : List Bool) (a : State) :
    let w := notePoison k ps ((if escaped = true then itemFlags k 16 else fun s => s) (tapValues t k layer .vst taps
      (recordCasts t k layer cnt (modVec t (fun x => { x with ctx := vput x.ctx cx c }) a))))
    Worked t k [] a w ∧ (∀ x, tmem w t x = tmem a t x) ∧ w.tiles[t].vec.ctx = vput a.tiles[t].vec.ctx cx c := by
  intro w
  have put : Worked t k [] a (modVec t (fun x => { x with ctx := vput x.ctx cx c }) a) := .modVec _ a rfl rfl rfl rfl
  have counted := put.trans (.recordCasts layer cnt _)
  have tapped := VecReads.tapValues (t := t) k layer .vst taps (recordCasts t k layer cnt
    (modVec t (fun x => { x with ctx := vput x.ctx cx c }) a))
  have flagged : ∀ z, Worked t k [] z ((if escaped = true then itemFlags k 16 else fun s => s) z) ∧
      ((if escaped = true then itemFlags k 16 else fun s => s) z).tiles = z.tiles := fun z => by
    split
    · exact ⟨.modItem (fun x => { x with flags := x.flags ||| BitVec.ofNat 8 16 }) (fun _ => rfl) z, rfl⟩
    · exact ⟨.refl _ _ _ z, rfl⟩
  have tiles := (notePoison_tiles k ps _).trans (flagged (tapValues t k layer .vst taps (recordCasts t k layer cnt
    (modVec t (fun x => { x with ctx := vput x.ctx cx c }) a)))).2
  refine ⟨((counted.trans (.of_access tapped.access k [])).trans (flagged _).1).trans (.notePoison ps _), fun x => ?_, ?_⟩
  · refine (tmem_congr tiles t x).trans ((tapped.mem x).trans ((tmem_congr (recordCasts_tiles _ _ _ _ _) t x).trans ?_))
    cases x <;> simp only [tmem, modVec_tile_same]
  · refine (congrArg (fun z => z[t].vec.ctx) tiles).trans ((congrArg VecSt.ctx tapped.access.vec).trans ?_)
    rw [recordCasts_tiles, modVec_tile_same]

theorem pruneStore_eq {t : TileId} {i : Item} {v : VIns} {s : State} (clean : VecClean t s)
    (hc : (tmem s t ((memOfIndex (mArgs v).mem).getD .amem)).err = []) (hm : (memOfIndex (mArgs v).mem).getD .amem ≠ .wmem) :
    ∃ a w, WritesIn (mView t i (mArgs v)) (fun _ => True) s a ∧ Worked t i.key [] a w ∧ (∀ x, tmem w t x = tmem a t x) ∧
      w.tiles[t].vec.ctx = vput s.tiles[t].vec.ctx (mArgs v).cx (prunedCtx s t i v) ∧ pruneStore t i v s = vecDoneLsu t i w := by
  have written := fun f none_eq some_eq => listWrites_in (v := mView t i (mArgs v)) (f := f) hm none_eq some_eq
    (list := (mArgs v).base + (mCtx s t (mArgs v)).rowGroups * mapBytes (mCtx s t (mArgs v)).kb) (prunedBlocks s t i v)
    (cursorOf (mCtx s t (mArgs v))) clean.unarmed
  have wrote := fun f none_eq some_eq => (written f none_eq some_eq).2.trans (writeMap_in (v := mView t i (mArgs v)) hm
    ((mArgs v).base + mSS v * mapBytes (mCtx s t (mArgs v)).kb) (mCtx s t (mArgs v)).kb (mArgs v).sk
    (cursorOf (mCtx s t (mArgs v))) (prunedBlocks s t i v) ((written f none_eq some_eq).2.silent (.of_clean hc))
    ((written f none_eq some_eq).2.armed clean.unarmed))
  unfold pruneStore
  simp only [checkRegs_clean clean]
  rw [(written _ (fun _ => rfl) (fun _ _ => rfl)).1]
  refine ⟨_, _, wrote _ (fun _ => by rfl) (fun _ _ => by rfl), (prunedRecords_work t i.key _ _ _ _ _ _ _ _).1,
    (prunedRecords_work t i.key _ _ _ _ _ _ _ _).2.1, (prunedRecords_work t i.key _ _ _ _ _ _ _ _).2.2.trans ?_, rfl⟩
  exact congrArg (fun z => vput (VecSt.ctx z) (mArgs v).cx (prunedCtx s t i v))
    (wrote _ (fun _ => by rfl) (fun _ _ => by rfl)).access.vec

end Sys2Proof.Machine
end

section
/-! SUPPORT. The statement of stores and scatters (R176, R181, R182, R184). -/

namespace Sys2Proof.Machine
open Sys2Proof

/-! ## The checks of a store -/

theorem vstBody_plain {t : TileId} {v : VIns} {i : Item} {s : State} (hx : mPoisoned v true = false) (hf : mFormatBad (mArgs v) = false)
    (hs : (mArgs v).round = true → (itemJob s i).seed.isSome = true) (hu : mUnused v true false false false false = false)
    (hpr : (mArgs v).prune = 0) (hm : 6 < (mArgs v).mf) (hp : packedFmt (mArgs v).rf = false)
    (hr : firstFail (plainRegion (mArgs v) 16 64 (fmtWidth (mfOf (mArgs v)) / 8)) = none) :
    vstBody t i v s = plainStore t i v s := by
  have cols : regCols (mArgs v).rf = 64 := by simp [regCols, hp]
  have block : decide ((mArgs v).mf ≤ 6) = false := decide_eq_false (by omega)
  have prune : decide ((mArgs v).prune ≠ 0) = false := decide_eq_false (by simp [hpr])
  have few : decide (4 < (mArgs v).prune) = false := decide_eq_false (by omega)
  have seed : ((mArgs v).round && rounds (fmtOfReg (mArgs v).rf) (mfOf (mArgs v)) && (itemJob s i).seed.isNone) = false :=
    seed_present fun h => hs (by simpa using (Bool.and_eq_true_iff.mp h).1)
  unfold vstBody
  simp only [block, prune, cols, few, Bool.false_and, Bool.false_or, Bool.or_false, mPoisoned_false hx, Bool.false_eq_true, if_false]
  rw [vecChecked_pass (by rw [firstFail_cons, firstFail_cons, hu, hf]; exact ⟨rfl, rfl, rfl⟩), vecChecked_pass]
  simp only [List.cons_append, List.nil_append]
  rw [firstFail_cons, firstFail_cons, firstFail_cons, firstFail_cons, seed]
  exact ⟨rfl, rfl, rfl, rfl, hr⟩

theorem vstBody_block {t : TileId} {v : VIns} {i : Item} {s : State} (hx : mPoisoned v true = false) (hf : mFormatBad (mArgs v) = false)
    (hs : (mArgs v).round = true → (itemJob s i).seed.isSome = true) (hu : mUnused v true false false false false = false)
    (hpr : (mArgs v).prune = 0) (hm : (mArgs v).mf ≤ 6) (he : (mArgs v).es = 1) (hrf : (mArgs v).rf = 0)
    (hh : headerAhead s t (mArgs v) (mCtx s t (mArgs v)) = false) (hsc : tscaleOk (mCtx s t (mArgs v)).tscale = true)
    (hr : firstFail (blockRegion (mArgs v) (mCtx s t (mArgs v))) = none) : vstBody t i v s = blockStore t i v s := by
  have block : decide ((mArgs v).mf ≤ 6) = true := decide_eq_true hm
  have prune : decide ((mArgs v).prune ≠ 0) = false := decide_eq_false (by simp [hpr])
  have few : decide (4 < (mArgs v).prune) = false := decide_eq_false (by omega)
  unfold vstBody
  simp only [block, prune, few, Bool.false_and, Bool.true_and, Bool.or_false, Bool.true_or, Bool.and_true, Bool.not_false,
    mPoisoned_false hx, Bool.false_eq_true, if_false, if_true]
  rw [vecChecked_pass (by rw [firstFail_cons, firstFail_cons, hu, hf]; exact ⟨rfl, rfl, rfl⟩), vecChecked_pass]
  simp only [List.cons_append, List.nil_append]
  rw [firstFail_cons, firstFail_cons, firstFail_cons, firstFail_cons, seed_present hs, hsc, hh]
  exact ⟨rfl, by simp [he, hrf], rfl, rfl, hr⟩

theorem vstBody_prune {t : TileId} {v : VIns} {i : Item} {s : State} {mem : MemSel} (hx : mPoisoned v true = false)
    (hf : mFormatBad (mArgs v) = false) (hs : (mArgs v).round = true → (itemJob s i).seed.isSome = true)
    (hu : mUnused v true false false false false = false) (hpr : 0 < (mArgs v).prune) (hp4 : (mArgs v).prune ≤ 4)
    (hm : (mArgs v).mf ≤ 6) (hrf : (mArgs v).rf = 0) (hd : v.vd < 31)
    (ho : pruneOrderBad (mCtx s t (mArgs v)) (mSS v) (mArgs v).sk = false) (hsc : tscaleOk (mCtx s t (mArgs v)).tscale = true)
    (hb : (mArgs v).base % 64 = 0) (hc : cursorOf (mCtx s t (mArgs v)) % 64 = 0) (hk : (mArgs v).sk < (mCtx s t (mArgs v)).kb)
    (hg : mSS v < (mCtx s t (mArgs v)).rowGroups) (hmem : memOfIndex (mArgs v).mem = some mem)
    (hl : (mArgs v).base + (mCtx s t (mArgs v)).rowGroups * mapBytes (mCtx s t (mArgs v)).kb + cursorOf (mCtx s t (mArgs v)) +
      listBytes (prunedBlocks s t i v) ≤ memBytes mem) : vstBody t i v s = pruneStore t i v s := by
  have block : decide ((mArgs v).mf ≤ 6) = true := decide_eq_true hm
  have prune : decide ((mArgs v).prune ≠ 0) = true := decide_eq_true (by omega)
  have few : decide (4 < (mArgs v).prune) = false := decide_eq_false (by omega)
  obtain ⟨-, within⟩ := firstFail_region hmem hb (len := (mCtx s t (mArgs v)).rowGroups * mapBytes (mCtx s t (mArgs v)).kb +
    cursorOf (mCtx s t (mArgs v)) + listBytes (prunedBlocks s t i v)) (by omega)
  unfold vstBody
  simp only [block, prune, few, Bool.true_and, Bool.or_false, Bool.true_or, Bool.and_true, Bool.not_true, Bool.and_false,
    Bool.false_and, mPoisoned_false hx, Bool.false_eq_true, if_false, if_true]
  rw [vecChecked_pass (by rw [firstFail_cons, firstFail_cons, hu, hf]; exact ⟨rfl, rfl, rfl⟩), vecChecked_pass]
  simp only [List.cons_append, List.nil_append]
  rw [firstFail_cons, firstFail_cons, firstFail_cons, firstFail_cons, firstFail_cons, firstFail_cons, seed_present hs, hsc, ho,
    beyond_eq_false.mpr (by omega), within]
  refine ⟨by simp [hrf], rfl, rfl, rfl, by simp [hb, hc], ?_, rfl⟩
  simp only [Bool.or_false, Bool.or_eq_false_iff, decide_eq_false_iff_not]
  omega

/-! ## What the statement reads of a store -/

theorem mView_mem {m : MArgs} {mem : MemSel} (h : memOfIndex m.mem = some mem) (t : TileId) (i : Item) : (mView t i m).mem = mem := by
  simp [mView, h]

theorem mView_place {m : MArgs} {mem : MemSel} (h : memOfIndex m.mem = some mem) (t : TileId) (i : Item) (a : Nat) :
    (mView t i m).place a = if m.plt then pleatAddr mem a else a := by
  simp [mView, MemView.place, h]

section Stores

variable {t : TileId} {i : Item} {m : MArgs} {mem : MemSel} {s a w u : State}

/-- The bytes of a store's memory are those that its writes left. -/
theorem Stored.byte (h : Stored t i mem s w u) (mems : ∀ x, tmem w t x = tmem a t x) (b : Nat) :
    Safety.byteAt u t mem b = Safety.byteAt a t mem b := by
  rw [Safety.byteAt, h.mem, mems, Safety.byteAt]

theorem Stored.word (h : Stored t i mem s w u) (mems : ∀ x, tmem w t x = tmem a t x) (b : Nat) :
    Safety.wordAt u t mem b = Safety.wordAt a t mem b := by
  simp only [Safety.wordAt, memGet_eq, h.byte mems]

/-- Bytes that no write reached. -/
theorem Stored.outside {A : Nat → Prop} (h : Stored t i mem s w u) (mems : ∀ x, tmem w t x = tmem a t x)
    (hm : memOfIndex m.mem = some mem) (writes : WritesIn (mView t i m) A (Safety.unmarked s) a) {b : Nat}
    (hb : ∀ x, A x → b ≠ if m.plt then pleatAddr mem x else x) : Safety.byteAt u t mem b = Safety.byteAt s t mem b := by
  have kept := writes.outside b fun x hx => by rw [mView_place hm]; exact hb x hx
  rw [mView_mem hm] at kept
  exact (h.byte mems b).trans kept

/-- Elements where they were written. -/
theorem Stored.element {width : Nat} {ad : Nat → Nat} {val : Nat → List Byte} (h : Stored t i mem s w u)
    (mems : ∀ x, tmem w t x = tmem a t x) (hm : memOfIndex m.mem = some mem)
    (puts : Puts (mView t i m) width ad val 0 1024 (Safety.unmarked s) a) {n : Nat} (hn : n < 1024)
    (last : ∀ k < 1024, n < k → ad n + width ≤ ad k ∨ ad k + width ≤ ad n) {b : Nat} (hb : b < width) :
    Safety.byteAt u t mem (if m.plt then pleatAddr mem (ad n + b) else ad n + b) = (val n).getD b 0 := by
  have put := puts.bytes n (Nat.zero_le n) hn (fun k hk hk' => last k hk' hk) b hb
  rw [mView_mem hm, mView_place hm] at put
  exact (h.byte mems _).trans put

end Stores

/-- Elements of one width whose indices differ do not overlap. -/
theorem gatherAddr_apart {s : State} {t : TileId} {v : VIns} {n k : Nat} (h : gatherAddr s t v n ≠ gatherAddr s t v k) :
    gatherAddr s t v k + fmtWidth (mfOf (mArgs v)) / 8 ≤ gatherAddr s t v n ∨
      gatherAddr s t v n + fmtWidth (mfOf (mArgs v)) / 8 ≤ gatherAddr s t v k := by
  unfold gatherAddr at h ⊢
  generalize fmtWidth (mfOf (mArgs v)) / 8 = w at h ⊢
  generalize (Safety.lane s t v.va n).toNat = x at h ⊢
  generalize (Safety.lane s t v.va k).toNat = y at h ⊢
  have below : ∀ p q, p < q → p * w + w ≤ q * w := fun p q hpq => by
    rw [← Nat.succ_mul]
    exact Nat.mul_le_mul_right w hpq
  rcases Nat.lt_trichotomy x y with hxy | hxy | hxy
  · exact .inr (by have := below x y hxy; omega)
  · exact absurd (by rw [hxy]) h
  · exact .inl (by have := below y x hxy; omega)

/-- The word at an aligned address, which lies in one line. -/
theorem viewWord_wordAt (v : MemView) (s : State) {x : Nat} (h : x % 4 = 0) :
    viewWord v s x = Safety.wordAt s v.tile v.mem (v.place x) := by
  rw [viewWord, Safety.wordAt, memGet_eq, viewBytes]
  congr 2
  refine List.map_congr_left fun k hk => ?_
  have hk : k < 4 := List.mem_range.mp hk
  rw [v.place_add (by omega)]

/-- Settles O26: what each store writes is `Puts` of its elements, `Added` of its lanes, or writes within its rows, and
`exec_stores` says what a store leaves besides. -/
theorem vectorStores : Obligations.VectorStores := by
  unfold Obligations.VectorStores
  intro t v i s hat hr hx hl m c mem hm hw at' w hf hs bits
  have clean := VecClean.of_vecAt hat
  have view : (mView t i m).mem = mem := mView_mem hm t i
  have quiet : (tmem (Safety.unmarked s) t ((memOfIndex (mArgs v).mem).getD .amem)).err = [] := hr.1 _
  have native : (memOfIndex (mArgs v).mem).getD .amem ≠ .wmem := by rw [hm]; exact hw
  have lines : ∀ r j, Safety.line (Safety.unmarked s) t r j = false := hl
  have seeded : m.round = true → (itemJob (Safety.unmarked s) i).seed.isSome = true := hs
  refine ⟨fun ho hu hpr hmf hp ha hlen => ?plain, fun ho hu hpr hmf he hrf hh hsc hreg => ?block,
    fun ho hu hpr hp4 hmf hrf hd hord hsc hb hcur hk hg hlen => ?prune, fun hop hu ha hlen hi => ?scatters⟩
  case plain =>
    intro ad
    obtain ⟨aligned, within⟩ := firstFail_region hm ha (len := (16 - 1) * m.rs + (64 - 1) * m.es * w + w)
      (by rw [← Nat.add_assoc, ← Nat.add_assoc]; exact hlen)
    have body := vstBody_plain (t := t) (s := Safety.unmarked s) hx hf seeded hu hpr hmf hp (by
      rw [plainRegion, firstFail_cons, firstFail_cons, within, aligned]
      exact ⟨rfl, rfl, rfl⟩)
    obtain ⟨a, taps, layer, cnt, ps, puts, stored⟩ := plainStore_eq (i := i) clean hp (wideFmt_mfOf hmf hf) (lines v.vd)
    have tapped := VecReads.tapValues (t := t) i.key layer .vst taps a
    obtain ⟨rec, tiles⟩ := recorded_work t i.key layer cnt ps (tapValues t i.key layer .vst taps a)
    have mems := fun x => (tmem_congr tiles t x).trans (tapped.mem x)
    obtain ⟨u, run, st⟩ := exec_stores (c := .vst t) hat hr ho rfl (by decide) rfl puts.writes
      ((Worked.of_access tapped.access i.key []).trans rec) mems (body.trans stored)
    rw [view] at st
    refine ⟨u, run, st.frame, st.other, fun b hb => st.outside mems hm puts.writes ?_, fun n hn last b hb => ?_⟩
    · rintro x ⟨n, -, hn, h1, h2⟩
      obtain ⟨b, rfl⟩ := Nat.exists_eq_add_of_le h1
      exact hb n hn b (Nat.add_lt_add_iff_left.mp h2)
    · exact st.element mems hm puts hn last hb
  case block =>
    have body := vstBody_block (t := t) (s := Safety.unmarked s) hx hf seeded hu hpr hmf he hrf hh hsc hreg
    obtain ⟨a, layer, cnt, ps, writes, stored⟩ := blockStore_eq (i := i) clean quiet native hreg
    obtain ⟨rec, tiles⟩ := recorded_work t i.key layer cnt ps a
    have mems := tmem_congr tiles t
    obtain ⟨u, run, st⟩ := exec_stores (c := .vst t) hat hr ho rfl (by decide) rfl writes rec mems (body.trans stored)
    rw [view] at st
    refine ⟨u, run, st.frame, st.other, fun b hb => st.outside mems hm writes ?_⟩
    rintro x ⟨r, hr, h1, h2⟩
    obtain ⟨b, rfl⟩ := Nat.exists_eq_add_of_le h1
    exact hb r hr b (Nat.add_lt_add_iff_left.mp h2)
  case prune =>
    have body := vstBody_prune (t := t) (i := i) (s := Safety.unmarked s) hx hf seeded hu hpr hp4 hmf hrf hd hord hsc hb hcur hk hg hm hlen
    obtain ⟨a, w, writes, work, mems, ctx, stored⟩ := pruneStore_eq (i := i) clean quiet native
    obtain ⟨u, run, st⟩ := exec_stores (c := .vst t) hat hr ho rfl (by decide) rfl writes work mems (body.trans stored)
    rw [view] at st
    have put : mCtx u t m = prunedCtx (Safety.unmarked s) t i v := by
      have room : (mArgs v).cx < 8 := Nat.mod_lt _ (by decide)
      rw [mCtx, st.ctx, ctx]
      simp [vat, vput, m, room]
    refine ⟨u, run, st.frame, st.other, ?_⟩
    rw [put]
    exact ⟨rfl, rfl, rfl, rfl⟩
  case scatters =>
    intro ad
    refine ⟨fun ho hg => ?scatter, fun ho hmf => ?add⟩
    case scatter =>
      obtain ⟨wide, hp⟩ : 6 < m.mf ∧ packedFmt m.rf = false := by
        simp only [gatherFmts, Bool.and_eq_true, Bool.not_eq_true', decide_eq_true_eq] at hg
        exact hg
      have body := gatherRow_pass (stochOf := fun m => m.round && rounds (fmtOfReg m.rf) (mfOf m)) (eff := vsctEff) clean hx hf hu hg
        (fun h => seeded (Bool.and_eq_true_iff.mp h).1) hm ha hlen hi
      obtain ⟨a, layer, cnt, ps, puts, stored⟩ := vsctEff_eq (i := i) clean hp (wideFmt_mfOf wide hf) lines
      obtain ⟨rec, tiles⟩ := recorded_work t i.key layer cnt ps a
      have mems := tmem_congr tiles t
      obtain ⟨u, run, st⟩ := exec_stores (c := .vsct t) hat hr ho rfl (by decide) rfl puts.writes rec mems (body.trans stored)
      rw [view] at st
      refine ⟨u, run, st.frame, st.other, fun b hb => st.outside mems hm puts.writes ?_, fun k hk last b hb => ?_⟩
      · rintro x ⟨n, -, hn, h1, h2⟩
        obtain ⟨b, rfl⟩ := Nat.exists_eq_add_of_le h1
        exact hb n hn b (Nat.add_lt_add_iff_left.mp h2)
      · refine st.element mems hm puts hk (fun n hn hkn => ?_) hb
        exact gatherAddr_apart (last n hn hkn)
    case add =>
      have four : w = 4 := by simp [w, mfOf, hmf, fmtOfCode, fmtWidth]
      have body := gatherRow_pass (fmtOk := fun m => m.mf == 9) (stochOf := fun _ => false) (eff := vsctaEff) (i := i) clean hx hf hu
        (by simpa using hmf) (fun h => by cases h) hm ha hlen hi
      obtain ⟨a, ps, added, stored⟩ := vsctaEff_eq (i := i) clean quiet lines
      obtain ⟨u, run, st⟩ := exec_stores (c := .vscta t) hat hr ho rfl (by decide) rfl added.writes (.notePoison ps a)
        (tmem_congr (notePoison_tiles i.key ps a) t) (body.trans stored)
      rw [view] at st
      have mems := tmem_congr (notePoison_tiles i.key ps a) t
      refine ⟨u, run, st.frame, st.other, fun b hb => st.outside mems hm added.writes ?_, fun n hn => ?_⟩
      · rintro x ⟨k, hk, h1, h2⟩
        obtain ⟨b, rfl⟩ := Nat.exists_eq_add_of_le h1
        simp only [ad, four] at hb
        exact hb k hk b (Nat.add_lt_add_iff_left.mp h2)
      · have base : m.base % 4 = 0 := four ▸ ha
        have word := added.words n
        rw [viewWord_wordAt _ _ (x := m.base + n * 4) (by omega), viewWord_wordAt _ _ (x := m.base + n * 4) (by omega), view, mView_place hm,
          Nat.mul_comm n 4] at word
        exact (st.word mems _).trans word

end Sys2Proof.Machine
end

section
/-! SUPPORT. Element programs on registers and streams (R185 to R190). -/

namespace Sys2Proof.Machine
open Sys2Proof

/-! ## The width of a packed element (R164) -/

/-- A magnitude that a format with infinities can hold encodes below its infinity. -/
theorem encodeMag_lt (sp : FSpec) (he : 1 ≤ sp.eb) (m : Nat) (q : Int) (hq : 1 - (sp.bias : Int) - sp.mb ≤ q)
    (h : magLe m q (2 ^ (sp.mb + 1) - 1) ((2 ^ sp.eb : Nat) - 2 - (sp.bias : Int) - sp.mb) = true) :
    encodeMag sp m q < (2 ^ sp.eb - 1) * 2 ^ sp.mb := by
  have two : 2 ≤ 2 ^ sp.eb := by
    calc 2 = 2 ^ 1 := rfl
      _ ≤ 2 ^ sp.eb := Nat.pow_le_pow_right (by decide) he
  have unit : 2 ^ sp.mb ≤ (2 ^ sp.eb - 1) * 2 ^ sp.mb := Nat.le_mul_of_pos_left _ (by omega)
  unfold encodeMag
  split
  · exact lt_of_lt_of_le (Nat.two_pow_pos _) unit
  next hm =>
  have hm : m ≠ 0 := by simpa using hm
  have low := Nat.log2_self_le hm
  have high := Nat.lt_log2_self (n := m)
  simp only
  generalize Nat.log2 m = l at low high ⊢
  have top : q + l ≤ (2 ^ sp.eb : Nat) - 2 - (sp.bias : Int) := by
    unfold magLe at h
    split at h
    · next hle =>
      obtain ⟨d, hd⟩ := Int.eq_ofNat_of_zero_le (show 0 ≤ ((2 ^ sp.eb : Nat) : Int) - 2 - sp.bias - sp.mb - q by omega)
      have h : m ≤ (2 ^ (sp.mb + 1) - 1) * 2 ^ d := by
        rw [hd, Int.toNat_natCast, Nat.shiftLeft_eq] at h
        exact of_decide_eq_true h
      have lt : 2 ^ l < 2 ^ (sp.mb + 1 + d) := by
        calc 2 ^ l ≤ (2 ^ (sp.mb + 1) - 1) * 2 ^ d := low.trans h
          _ < 2 ^ (sp.mb + 1) * 2 ^ d := Nat.mul_lt_mul_of_pos_right (Nat.sub_lt (Nat.two_pow_pos _) Nat.one_pos) (Nat.two_pow_pos _)
          _ = 2 ^ (sp.mb + 1 + d) := (Nat.pow_add _ _ _).symm
      have := (Nat.pow_lt_pow_iff_right (by decide)).mp lt
      omega
    · next hle =>
      obtain ⟨d, hd⟩ := Int.eq_ofNat_of_zero_le (show 0 ≤ q - (((2 ^ sp.eb : Nat) : Int) - 2 - sp.bias - sp.mb) by omega)
      have h : m * 2 ^ d ≤ 2 ^ (sp.mb + 1) - 1 := by
        rw [hd, Int.toNat_natCast, Nat.shiftLeft_eq] at h
        exact of_decide_eq_true h
      have lt : 2 ^ (l + d) < 2 ^ (sp.mb + 1) := by
        calc 2 ^ (l + d) = 2 ^ l * 2 ^ d := Nat.pow_add _ _ _
          _ ≤ m * 2 ^ d := Nat.mul_le_mul_right _ low
          _ < 2 ^ (sp.mb + 1) := lt_of_le_of_lt h (Nat.sub_lt (Nat.two_pow_pos _) Nat.one_pos)
      have := (Nat.pow_lt_pow_iff_right (by decide)).mp lt
      omega
  split
  · next small =>
    obtain ⟨d, hd⟩ := Int.eq_ofNat_of_zero_le (show 0 ≤ q - (1 - (sp.bias : Int) - sp.mb) by omega)
    rw [hd, Int.toNat_natCast, Nat.shiftLeft_eq]
    calc m * 2 ^ d < 2 ^ (l + 1) * 2 ^ d := Nat.mul_lt_mul_of_pos_right high (Nat.two_pow_pos _)
      _ = 2 ^ (l + 1 + d) := (Nat.pow_add _ _ _).symm
      _ ≤ 2 ^ sp.mb := Nat.pow_le_pow_right (by decide) (by omega)
      _ ≤ _ := unit
  · next large =>
    obtain ⟨f, hf⟩ := Int.eq_ofNat_of_zero_le (show 0 ≤ q + l + sp.bias by omega)
    rw [hf, Int.toNat_natCast, Nat.shiftLeft_eq, Nat.shiftLeft_eq, Nat.shiftRight_eq_div_pow]
    have mant : m * 2 ^ sp.mb / 2 ^ l < 2 ^ (sp.mb + 1) := by
      refine Nat.div_lt_of_lt_mul ?_
      calc m * 2 ^ sp.mb < 2 ^ (l + 1) * 2 ^ sp.mb := Nat.mul_lt_mul_of_pos_right high (Nat.two_pow_pos _)
        _ = 2 ^ l * 2 ^ (sp.mb + 1) := by ring
    have field : f + 1 ≤ 2 ^ sp.eb - 1 := by omega
    have fits := Nat.mul_le_mul_right (2 ^ sp.mb) field
    rw [Nat.succ_mul] at fits
    rw [Nat.pow_succ] at mant
    have := Nat.two_pow_pos sp.mb
    generalize m * 2 ^ sp.mb / 2 ^ l = x at mant ⊢
    omega

/-- A magnitude with its sign takes 16 bits in a format of 16 bits with infinities. -/
theorem signedMag_lt {sp : FSpec} (hi : sp.special = .ieee) (he : 1 ≤ sp.eb) (size : sp.eb + sp.mb = 15) (n : Bool) {m : Nat} {q : Int}
    (hq : 1 - (sp.bias : Int) - sp.mb ≤ q) (h : magLe m q (maxFinite sp).1 (maxFinite sp).2 = true) :
    signBit sp n + encodeMag sp m q < 2 ^ 16 := by
  rw [maxFinite, hi] at h
  have mag := encodeMag_lt sp he m q hq h
  have top : (2 ^ sp.eb - 1) * 2 ^ sp.mb < 2 ^ 15 := by
    calc (2 ^ sp.eb - 1) * 2 ^ sp.mb < 2 ^ sp.eb * 2 ^ sp.mb :=
          Nat.mul_lt_mul_of_pos_right (Nat.sub_lt (Nat.two_pow_pos _) Nat.one_pos) (Nat.two_pow_pos _)
      _ = 2 ^ 15 := by rw [← Nat.pow_add, size]
  have sign : signBit sp n ≤ 2 ^ 15 := by
    unfold signBit
    rw [size]
    split <;> omega
  omega

/-- A cast to a 16-bit format has 16 bits. -/
theorem castElem_half {f : Fmt} (hf : f = .bf16 ∨ f = .fp16) (rnd : Rnd) (x : FVal) : (castElem f rnd x).bits < 2 ^ 16 := by
  rcases hf with rfl | rfl
  all_goals
    cases x with
    | nan =>
      simp only [castElem, fmtSpec]
      decide
    | inf n =>
      simp only [castElem, fmtSpec]
      cases n <;> decide
    | fin n m e =>
      simp only [castElem, fmtSpec]
      split
      · cases n <;> decide
      · split
        · next h => exact signedMag_lt rfl (by decide) rfl n (le_max_right _ _) h
        · cases n <;> decide

/-- An output takes the bits of its format (R187). -/
theorem packElem_lt {f : Fmt} (hf : wideFmt f = true) (x : Word) : (packElem f x).bits < 2 ^ fmtWidth f := by
  unfold packElem
  cases f <;> simp [wideFmt] at hf
  · exact castElem_half (.inl rfl) _ _
  · exact castElem_half (.inr rfl) _ _
  · exact x.isLt
  · exact x.isLt

theorem packElem_clean {f : Fmt} (hf : wideFmt f = true) (x : Word) : (packElem f x).poison = false := by
  unfold packElem
  split
  · rfl
  · exact castElem_wide hf _ _

/-! ## Elements of registers (R161) -/

/-- Element j of a register with lanes f, as a register format shows it. -/
def elemOf (fmt : Nat) (f : Nat → Word) (j : Nat) : Nat :=
  if packedFmt fmt then (if j % 2 = 0 then loHalf (f (j / 2)) else hiHalf (f (j / 2))) else (f j).toNat

/-- Registers of a packed format from rows of pairs. -/
theorem flatMap_pairs {α : Type} (n : Nat) (x y : Nat → α) :
    (List.range n).flatMap (fun k => [x k, y k]) = (List.range (n * 2)).map (fun j => if j % 2 = 0 then x (j / 2) else y (j / 2)) := by
  rw [← flatMap_range_map n 2 (fun k m => if m = 0 then x k else y k)]
  refine List.flatMap_congr fun k _ => ?_
  simp [List.range_succ]

theorem elemsOfReg_eq (fmt : Nat) (f : Nat → Word) (p : Nat → Bool) :
    elemsOfReg fmt (vregOf f p) = (List.range (16 * regCols fmt)).map (fun j => (elemOf fmt f j, p (j / (regCols fmt / 4)))) := by
  by_cases h : packedFmt fmt = true
  · have cols : regCols fmt = 128 := by simp [regCols, h]
    have lane : ∀ k ∈ List.range 1024, [(loHalf ((vregOf f p).lanes.getD k 0), (vregOf f p).poison.getD (k / 16) false),
        (hiHalf ((vregOf f p).lanes.getD k 0), (vregOf f p).poison.getD (k / 16) false)] =
        [(loHalf (f k), p (k / 16)), (hiHalf (f k), p (k / 16))] := fun k hk => by
      have hk : k < 1024 := List.mem_range.mp hk
      rw [vregOf_lane f p hk, vregOf_line f p (by omega)]
    simp only [elemsOfReg, h, if_true, cols]
    rw [List.flatMap_congr lane, flatMap_pairs]
    refine List.map_congr_left fun j _ => ?_
    simp only [elemOf, h, if_true, show j / 2 / 16 = j / (128 / 4) by omega]
    split <;> rfl
  · have h : packedFmt fmt = false := by simpa using h
    have cols : regCols fmt = 64 := by simp [regCols, h]
    rw [elemsOfReg_vregOf h, cols]
    refine List.map_congr_left fun j _ => ?_
    simp [elemOf, h]

/-- The lanes of a register whose element j is E j. -/
def laneOf (fmt : Nat) (E : Nat → Nat) (k : Nat) : Word :=
  if packedFmt fmt then packLane (E (2 * k)) (E (2 * k + 1)) else BitVec.ofNat 32 (E k)

theorem elemOf_laneOf {fmt : Nat} {E : Nat → Nat} (hE : ∀ j, E j < 2 ^ (if packedFmt fmt then 16 else 32)) (j : Nat) :
    elemOf fmt (laneOf fmt E) j = E j := by
  have lo : ∀ x y, loHalf (packLane x y) = x % 65536 := fun x y => by simp [loHalf, packLane]
  have hi : ∀ x y, hiHalf (packLane x y) = y % 65536 := fun x y => by simp [hiHalf, packLane]; omega
  have := hE j
  unfold elemOf laneOf
  split at this
  · next h =>
    simp only [h, if_true]
    split
    · rw [lo, show 2 * (j / 2) = j by omega]
      omega
    · rw [hi, show 2 * (j / 2) + 1 = j by omega]
      omega
  · next h =>
    simp only [h, Bool.false_eq_true, if_false, BitVec.toNat_ofNat]
    omega

theorem regOfElems_eq (fmt : Nat) (E : Nat → Nat) (P : Nat → Bool) :
    ∃ p, regOfElems fmt ((List.range (16 * regCols fmt)).map (fun j => (E j, P j))) = vregOf (laneOf fmt E) p := by
  by_cases h : packedFmt fmt = true
  · have pairs := chunksOf_map_range 2 1024 (fun j => (E j, P j))
    have lines := chunksOf_map_range 32 64 (fun j => (E j, P j))
    refine ⟨fun j => (List.range 32).any (fun n => P (j * 32 + n)), ?_⟩
    simp only [regOfElems, regCols, h, if_true]
    rw [show 16 * 128 = 1024 * 2 from rfl, pairs, show 1024 * 2 = 64 * 32 from rfl, lines, vregOf, List.map_map, List.map_map]
    refine congrArg₂ _ (List.map_congr_left fun k _ => ?_) (List.map_congr_left fun j _ => ?_)
    · simp [laneOf, h, List.range_succ, Nat.mul_comm]
    · simp [Function.comp_def]
  · have h : packedFmt fmt = false := by simpa using h
    refine ⟨fun j => (List.range 16).any (fun n => P (j * 16 + n)), ?_⟩
    have made := regOfElems_range h (fun j => (E j, P j))
    rw [show 16 * regCols fmt = 1024 by simp [regCols, h], made]
    exact congrArg (fun f => vregOf f _) (funext fun k => by simp [laneOf, h])

/-! ## Runs of a program (R186, R190) -/

/-- No function bank that a program can look up has a failing line. -/
def CleanBanks (env : ProgEnv) : Prop := ∀ k, (env.banks.getD k ftBankEmpty).badLines = []

theorem slotEval_lines {b : FtBank} (h : b.badLines = []) (x : Word) : (slotEval b x).2 = none := by
  simp [slotEval, h]

/-- A lookup of a clean bank reports no line, and no other micro-operation does. -/
theorem runUop_lines {env : ProgEnv} (h : CleanBanks env) (n : Nat) (ins : List Word) (r : ElemRun) (u : Uop) :
    (runUop env n ins r u).lines = r.lines := by
  unfold runUop
  extract_lets a b c put ones
  by_cases lut : u.op = 0x21
  · have none := slotEval_lines (h u.imm) a
    simp only [lut, Nat.reduceEqDiff, if_false, if_true, none, Option.map_none, Option.toList_none, List.append_nil]
  · have branch : ∀ (c : Prop) [Decidable c] (x y : ElemRun), x.lines = r.lines → y.lines = r.lines →
        (if c then x else y).lines = r.lines := fun c _ x y hx hy => by split <;> assumption
    simp only [lut, if_false]
    repeat' refine branch _ _ _ rfl ?_
    rfl

theorem runElem_lines {env : ProgEnv} (h : CleanBanks env) (n : Nat) (ins : List Word) : (runElem env n ins).lines = [] :=
  List.foldlRecOn (motive := fun r : ElemRun => r.lines = []) _ _ rfl fun r hr u _ => (runUop_lines h n ins r u).trans hr

/-- Output o of a program for an element of index n. -/
def progOut (env : ProgEnv) (f : Fmt) (o n : Nat) (ins : List Word) : CastRes := packElem f ((runElem env n ins).outs.getD o 0)

theorem zipIdx_map_const {α β : Type} (l : List α) (g : α → β) : l.zipIdx.map (fun x => g x.1) = l.map g := by
  have e := congrArg (List.map g) (List.zipIdx_map_fst 0 l)
  rwa [List.map_map] at e

/-- The inputs of element j of a run. -/
def runInputs (fIn : Nat → Fmt) (ins : List (List Elem)) (j : Nat) : List Word :=
  (ins.map (fun l => l.getD j (0, false))).zipIdx.map (fun x => unpackElem (fIn x.2) x.1.1)

/-- The poison of output o of element j, its cast's own included. -/
def runMark (env : ProgEnv) (bad : Bool) (idx : Nat → Nat) (ins : List (List Elem)) (fIn fOut : Nat → Fmt) (o j : Nat) : Bool :=
  (bad || (ins.map (fun l => l.getD j (0, false))).any (·.2)) || (progOut env (fOut o) o (idx j) (runInputs fIn ins j)).poison

/-- The outputs of a run: for each stream, its elements with their poison; clean banks report nothing. -/
theorem runElems_eq {env : ProgEnv} (h : CleanBanks env) (bad : Bool) (idx : Nat → Nat) (ins : List (List Elem)) (fIn fOut : Nat → Fmt)
    (count : Nat) :
    (runElems env bad idx ins fIn fOut count).1 = (List.range env.prog.nout).map (fun o => (List.range count).map (fun j =>
      ((progOut env (fOut o) o (idx j) (runInputs fIn ins j)).bits, runMark env bad idx ins fIn fOut o j))) ∧
    (runElems env bad idx ins fIn fOut count).2.2 = [] := by
  constructor
  · simp only [runElems, List.map_map, runElem_lines h]
    refine List.map_congr_left fun o _ => ?_
    simp only [Function.comp, List.map_map]
    refine List.map_congr_left fun j _ => ?_
    simp [Function.comp, progOut, runInputs, runMark]
  · simp [runElems, runElem_lines h]

theorem reportLines_nil (t : TileId) (item : Nat) (s : State) : reportLines t item [] s = s := by
  unfold reportLines
  refine List.foldlRecOn (motive := fun a => a = s) _ _ rfl fun a ha f _ => ?_
  rw [ha]
  rfl

theorem checkProg_clean {t : TileId} {s : State} (h : VecClean t s) (item p : Nat) : checkProg t item p s = s := by
  rw [checkProg, checkLines, h.good]
  rfl

theorem recordRun_work (t : TileId) (i : Item) (env : ProgEnv) (cnt : CastCounts × CastCounts) (ps : List Bool) (a : State) :
    Worked t i.key [] a (notePoison i.key ps (recordRun t i env cnt a)) ∧
      (notePoison i.key ps (recordRun t i env cnt a)).tiles = a.tiles :=
  ⟨((Worked.recordCasts _ _ a).trans (.recordCasts _ _ _)).trans (.notePoison ps _),
    (notePoison_tiles _ _ _).trans ((recordCasts_tiles _ _ _ _ _).trans (recordCasts_tiles _ _ _ _ _))⟩

theorem cleanBanks_progEnv {s : State} {t : TileId} (h : ∀ k : Fin 8, (s.tiles[t].ftb[k]).activeBank.badLines = []) (i : Item) (p : Prog) :
    CleanBanks (progEnv s t i p) := by
  intro k
  unfold progEnv
  simp only [List.getD_eq_getElem?_getD, List.getElem?_map]
  by_cases hk : k < 8
  · have e : s.tiles[t].ftb.toList[k]? = some s.tiles[t].ftb[k] := by simp [hk]
    rw [e]
    exact h ⟨k, hk⟩
  · have e : s.tiles[t].ftb.toList[k]? = none := by simp; omega
    rw [e]
    rfl

end Sys2Proof.Machine
end

section
/-! SUPPORT. VPRG: a program on a run of registers (R187, R189). -/

namespace Sys2Proof.Machine
open Sys2Proof

/-! ## Registers written one by one -/

/-- Registers D 0 to D (m − 1) written in order, register D o with lanes f o and lines p o. -/
def writeEach (t : TileId) (D : Nat → Nat) (m : Nat) (f : Nat → Nat → Word) (p : Nat → Nat → Bool) (s : State) : State :=
  (List.range m).foldl (fun a o => writeReg t (D o) (vregOf (f o) (p o)) a) s

theorem writeEach_succ (t : TileId) (D : Nat → Nat) (m : Nat) (f : Nat → Nat → Word) (p : Nat → Nat → Bool) (s : State) :
    writeEach t D (m + 1) f p s = writeReg t (D m) (vregOf (f m) (p m)) (writeEach t D m f p s) := by
  simp [writeEach, List.range_succ]

theorem regsOnly_writeEach {t : TileId} {s : State} (h : VecClean t s) (D : Nat → Nat) (m : Nat) (f : Nat → Nat → Word)
    (p : Nat → Nat → Bool) : RegsOnly t ((List.range m).map D) s (writeEach t D m f p s) := by
  induction m with
  | zero => exact .refl t _ s
  | succ m ih =>
    rw [writeEach_succ, List.range_succ, List.map_append]
    exact (ih.mono fun r hr => List.mem_append_left _ hr).trans
      ((regsOnly_writeReg (h.regsOnly ih) _ _ _).mono fun r hr => List.mem_append_right _ (by simpa using hr))

/-- Registers that differ hold what was written to each. -/
theorem lane_writeEach {t : TileId} {s : State} (h : VecClean t s) {D : Nat → Nat} {m : Nat} (f : Nat → Nat → Word)
    (p : Nat → Nat → Bool) (hD : ∀ o < m, ∀ q < m, o ≠ q → D o ≠ D q) {o : Nat} (ho : o < m) {k : Nat} (hk : k < 1024) :
    Safety.lane (writeEach t D m f p s) t (D o) k = f o k := by
  induction m with
  | zero => omega
  | succ m ih =>
    rw [writeEach_succ, lane_writeReg (h.regsOnly (regsOnly_writeEach h D m f p)) _ _ _ _ hk]
    by_cases e : o = m
    · rw [e, if_pos rfl]
    · rw [if_neg (hD o ho m (by omega) e)]
      exact ih (fun a ha b hb => hD a (by omega) b (by omega)) (by omega)

/-! ## One register of a run -/

theorem wideFmt_fmtOfReg (f : Nat) : wideFmt (fmtOfReg f) = true := by
  unfold fmtOfReg
  split_ifs <;> rfl

theorem fmtWidth_fmtOfReg {f : Nat} (h : f ≤ 3) : fmtWidth (fmtOfReg f) = if packedFmt f then 16 else 32 := by
  interval_cases f <;> rfl

/-- Output o of the program for element j of the k-th register of a run. -/
def vprgOut (s : State) (t : TileId) (v : VIns) (env : ProgEnv) (k o j : Nat) : CastRes :=
  progOut env (fmtOfReg v.fmt) o (elemIndex env.ctx (16 * k + j / regCols v.fmt) (j % regCols v.fmt) 0)
    ((progIns v env.prog).map (fun a => unpackElem (fmtOfReg v.fmt) (Safety.elem s t v.fmt (a + k) j)))

/-- Output base o of a run. -/
def outBase (v : VIns) (p : Prog) (o : Nat) : Nat := (progOuts v p).getD o 0

theorem progOuts_eq {v : VIns} {p : Prog} (h : p.nout ≤ 2) :
    progOuts v p = (List.range p.nout).map (outBase v p) := by
  refine List.ext_getElem (by simp [progOuts, h]) fun k h1 h2 => ?_
  simp [outBase, List.getD_eq_getElem?_getD, h1]

theorem vprgReg_eq {t : TileId} {i : Item} {v : VIns} {env : ProgEnv} {a : State} (clean : VecClean t a) (banks : CleanBanks env)
    (hout : env.prog.nout ≤ 2) (bad : Bool) (k : Nat) :
    ∃ p cnt ps, vprgReg t i v env bad k a = notePoison i.key ps (recordRun t i env cnt
      (writeEach t (fun o => outBase v env.prog o + k) env.prog.nout (fun o => laneOf v.fmt (fun j => (vprgOut a t v env k o j).bits))
        p a)) := by
  obtain ⟨outs, none⟩ := runElems_eq banks bad (fun j => elemIndex env.ctx (16 * k + j / regCols v.fmt) (j % regCols v.fmt) 0)
    (((progIns v env.prog).map (fun r => vregRaw a.tiles[t].vec (r + k))).map (elemsOfReg v.fmt)) (fun _ => fmtOfReg v.fmt)
    (fun _ => fmtOfReg v.fmt) (16 * regCols v.fmt)
  have inputs : ∀ j < 16 * regCols v.fmt, runInputs (fun _ => fmtOfReg v.fmt) (((progIns v env.prog).map
      (fun r => vregRaw a.tiles[t].vec (r + k))).map (elemsOfReg v.fmt)) j =
      (progIns v env.prog).map (fun r => unpackElem (fmtOfReg v.fmt) (Safety.elem a t v.fmt (r + k) j)) := fun j hj => by
    rw [runInputs, zipIdx_map_const _ (fun x : Elem => unpackElem (fmtOfReg v.fmt) x.1), List.map_map, List.map_map, List.map_map]
    refine List.map_congr_left fun r _ => ?_
    simp only [Function.comp, vregRaw_eq, elemsOfReg_eq, getD_map_range _ _ hj]
    rfl
  generalize runMark env bad _ _ _ _ = Q at outs
  have elems := outs.trans (List.map_congr_left fun o _ => List.map_congr_left (g := fun j => ((vprgOut a t v env k o j).bits, Q o j))
    fun j hj => by rw [inputs j (List.mem_range.mp hj)]; rfl)
  choose p made using fun o => regOfElems_eq v.fmt (fun j => (vprgOut a t v env k o j).bits) (Q o)
  have paired := fun row : Nat → List Elem => (congrArg (((List.range env.prog.nout).map row).zip ·) (progOuts_eq (v := v) hout)).trans
    List.zip_map'
  unfold vprgReg
  simp only [checkRegs_clean clean]
  rw [none, reportLines_nil, elems, paired, List.foldl_map]
  simp only [made]
  exact ⟨p, _, _, rfl⟩

/-! ## The run (R187) -/

/-- How the registers of a run lie: its outputs apart from each other, and each apart from every input, or in its place. -/
structure RunShape (v : VIns) (p : Prog) : Prop where
  outs : p.nout ≤ 2
  apart : ∀ o < p.nout, ∀ q < p.nout, o ≠ q → outBase v p o + runLen v ≤ outBase v p q ∨ outBase v p q + runLen v ≤ outBase v p o
  inputs : ∀ o < p.nout, ∀ a ∈ progIns v p, outBase v p o + runLen v ≤ a ∨ a + runLen v ≤ outBase v p o ∨ outBase v p o = a

theorem laneOf_congr {fmt : Nat} {E F : Nat → Nat} (h : ∀ j < 16 * regCols fmt, E j = F j) {c : Nat} (hc : c < 1024) :
    laneOf fmt E c = laneOf fmt F c := by
  unfold laneOf
  split
  · next p =>
    have cols : regCols fmt = 128 := by simp [regCols, p]
    rw [h (2 * c) (by omega), h (2 * c + 1) (by omega)]
  · next p =>
    have cols : regCols fmt = 64 := by simp [regCols, p]
    rw [h c (by omega)]

theorem elem_congr {a s : State} {t : TileId} {r : Nat} (h : ∀ c < 1024, Safety.lane a t r c = Safety.lane s t r c) {fmt j : Nat}
    (hj : j < 16 * regCols fmt) : Safety.elem a t fmt r j = Safety.elem s t fmt r j := by
  unfold Safety.elem
  split
  · next p =>
    have cols : regCols fmt = 128 := by simp [regCols, p]
    rw [h _ (by omega)]
  · next p =>
    have cols : regCols fmt = 64 := by simp [regCols, p]
    rw [h _ (by omega)]

/-- The state after the first k registers of a run. -/
structure Ran (t : TileId) (i : Item) (v : VIns) (env : ProgEnv) (k : Nat) (s a : State) : Prop where
  work : Worked t i.key ((progOuts v env.prog).flatMap (fun d => (List.range (runLen v)).map (d + ·))) s a
  kept : ∀ r, (∀ o < env.prog.nout, ∀ x < k, r ≠ outBase v env.prog o + x) → ∀ c < 1024, Safety.lane a t r c = Safety.lane s t r c
  made : ∀ o < env.prog.nout, ∀ x < k, ∀ c < 1024,
    Safety.lane a t (outBase v env.prog o + x) c = laneOf v.fmt (fun j => (vprgOut s t v env x o j).bits) c

/-- The next register of a run. -/
theorem Ran.step {t : TileId} {i : Item} {v : VIns} {env : ProgEnv} {k : Nat} {s a : State} (h : Ran t i v env k s a)
    (clean : VecClean t s) (banks : CleanBanks env) (shape : RunShape v env.prog) (hk : k < runLen v) (bad : Bool) :
    Ran t i v env (k + 1) s (vprgReg t i v env bad k a) := by
  obtain ⟨p, cnt, ps, run⟩ := vprgReg_eq (i := i) (h.work.clean clean) banks shape.outs bad k
  have before := h.work.clean clean
  have wrote := regsOnly_writeEach before (fun o => outBase v env.prog o + k) env.prog.nout
    (fun o => laneOf v.fmt (fun j => (vprgOut a t v env k o j).bits)) p
  obtain ⟨rec, tiles⟩ := recordRun_work t i env cnt ps (writeEach t (fun o => outBase v env.prog o + k) env.prog.nout
    (fun o => laneOf v.fmt (fun j => (vprgOut a t v env k o j).bits)) p a)
  have inputs : ∀ o < env.prog.nout, ∀ c < 1024, laneOf v.fmt (fun j => (vprgOut a t v env k o j).bits) c =
      laneOf v.fmt (fun j => (vprgOut s t v env k o j).bits) c := fun o ho c hc => by
    refine laneOf_congr (fun j hj => ?_) hc
    unfold vprgOut
    congr 2
    refine List.map_congr_left fun x hx => ?_
    rw [elem_congr (h.kept (x + k) fun q hq y hy => ?_) hj]
    have := shape.inputs q hq x hx
    omega
  have apart : ∀ o < env.prog.nout, ∀ q < env.prog.nout, o ≠ q → outBase v env.prog o + k ≠ outBase v env.prog q + k :=
    fun o ho q hq ne => by
      have := shape.apart o ho q hq ne
      omega
  have member : ∀ o < env.prog.nout, outBase v env.prog o ∈ progOuts v env.prog := fun o ho => by
    rw [progOuts_eq shape.outs]
    exact List.mem_map_of_mem (List.mem_range.mpr ho)
  rw [← run] at rec tiles
  have same := lane_congr tiles t
  refine ⟨h.work.trans (((Worked.of_regs wrote i.key).mono fun r hr => ?_).trans (rec.mono fun r hr => absurd hr (by simp))),
    fun r hr c hc => ?_, fun o ho x hx c hc => ?_⟩
  · obtain ⟨o, ho, rfl⟩ := List.mem_map.mp hr
    exact List.mem_flatMap.mpr ⟨_, member o (List.mem_range.mp ho), List.mem_map_of_mem (List.mem_range.mpr hk)⟩
  · rw [same, (wrote.keep _ c 0 (fun hm => ?_) hc (by decide)).1, h.kept r (fun o ho x hx => hr o ho x (by omega)) c hc]
    obtain ⟨o, ho, e⟩ := List.mem_map.mp hm
    exact hr o (List.mem_range.mp ho) k (by omega) e.symm
  · rw [same]
    by_cases e : x = k
    · rw [e, lane_writeEach before _ _ apart ho hc, inputs o ho c hc]
    · rw [(wrote.keep _ c 0 (fun hm => ?_) hc (by decide)).1, h.made o ho x (by omega) c hc]
      obtain ⟨q, hq, at_q⟩ := List.mem_map.mp hm
      have := shape.apart o ho q (List.mem_range.mp hq)
      have q_lt := List.mem_range.mp hq
      by_cases oq : o = q
      · subst oq
        have : outBase v env.prog o + k = outBase v env.prog o + x := at_q
        omega
      · have := this oq
        have : outBase v env.prog q + k = outBase v env.prog o + x := at_q
        omega

/-- A run, register by register. -/
theorem ran_fold {t : TileId} {i : Item} {v : VIns} {env : ProgEnv} {s : State} (clean : VecClean t s) (banks : CleanBanks env)
    (shape : RunShape v env.prog) (bad : Bool) {k : Nat} (hk : k ≤ runLen v) :
    Ran t i v env k s ((List.range k).foldl (fun a k => vprgReg t i v env bad k a) s) := by
  induction k with
  | zero => exact ⟨.refl t i.key _ s, fun _ _ _ _ => rfl, fun _ _ _ h => absurd h (by omega)⟩
  | succ k ih =>
    rw [List.range_succ, List.foldl_append]
    exact (ih (by omega)).step clean banks shape (by omega) bad

/-- The registers of a run lie as the checks of VPRG and the architect's order of the outputs leave them. -/
theorem runShape {v : VIns} {p : Prog} (h2 : p.nout ≤ 2)
    (hin : ∀ d ∈ progOuts v p, ∀ a ∈ progIns v p, d + runLen v ≤ a ∨ a + runLen v ≤ d ∨ d = a)
    (hout : (progOuts v p).Pairwise (fun d e => d + runLen v ≤ e ∨ e + runLen v ≤ d)) : RunShape v p := by
  rw [progOuts_eq h2] at hin hout
  refine ⟨h2, fun o ho q hq ne => ?_, fun o ho a ha => hin _ (List.mem_map_of_mem (List.mem_range.mpr ho)) a ha⟩
  rw [List.pairwise_map, List.pairwise_iff_getElem] at hout
  rcases Nat.lt_or_gt_of_ne ne with lt | gt
  · have := hout o q (by simpa using ho) (by simpa using hq) lt
    rwa [List.getElem_range, List.getElem_range] at this
  · have := hout q o (by simpa using hq) (by simpa using ho) gt
    rw [List.getElem_range, List.getElem_range] at this
    exact this.symm

theorem progChecks_pass {s : State} {t : TileId} {i : Item} {p : Prog} (hd : p.draws = true → (itemJob s i).seed.isSome = true)
    (hl : ∀ f ∈ p.luts, slotEmpty s t f = false) : firstFail (progChecks s t i (some p)) = none := by
  rw [progChecks, firstFail_cons, firstFail_cons, seed_present hd, List.any_eq_false.mpr fun f hf => by rw [hl f hf]; decide]
  exact ⟨rfl, rfl, rfl⟩

/-- The beats of a program on a run (R189). -/
def runBeats (v : VIns) (p : Prog) : Nat := runLen v * max 1 p.weight * (if packedFmt v.fmt then 2 else 1)

theorem vprgBody_run {t : TileId} {i : Item} {v : VIns} {s : State} {p : Prog} (clean : VecClean t s) (hz : fld v.x 13 0 = 0)
    (hf : v.fmt ≤ 3) (hp : progSlot s t v = some p)
    (hr : (progIns v p ++ progOuts v p).all (fun r => decide (r + runLen v ≤ 32)) = true)
    (hin : ∀ d ∈ progOuts v p, ∀ a ∈ progIns v p, d + runLen v ≤ a ∨ a + runLen v ≤ d ∨ d = a)
    (hd : p.draws = true → (itemJob s i).seed.isSome = true) (hl : ∀ f ∈ p.luts, slotEmpty s t f = false) :
    vprgBody t i v s = vecDone t i (runBeats v p) ((List.range (runLen v)).foldl
      (fun a k => vprgReg t i v (progEnv s t i p) (progPoisoned s t (fld v.x 21 19)) k a) s) := by
  have within : (progIns v p ++ progOuts v p).any (fun r => beyond r (runLen v)) = false := List.any_eq_false.mpr fun r hm => by
    rw [beyond_eq_false.mpr (of_decide_eq_true (List.all_eq_true.mp hr r hm))]
    decide
  have apart : (progOuts v p).any (fun d => (progIns v p).any (fun a => clash d (runLen v) a (runLen v))) = false :=
    List.any_eq_false.mpr fun d hm => by
      rw [List.any_eq_false.mpr fun a ha => ?_]
      · decide
      · have apart : clash d (runLen v) a (runLen v) = false := by
          have := hin d hm a ha
          simp [clash]
          omega
        rw [apart]
        decide
  unfold vprgBody
  simp only [hp]
  rw [vecChecked_pass, checkProg_clean clean]
  · rfl
  · rw [List.cons_append, List.cons_append, List.cons_append, List.nil_append, firstFail_cons, firstFail_cons, firstFail_cons, within, apart]
    exact ⟨decide_eq_false (by simpa using hz), decide_eq_false (by omega), rfl, progChecks_pass hd hl⟩

/-- The elements that a run leaves in its outputs. -/
theorem Ran.elem {t : TileId} {i : Item} {v : VIns} {env : ProgEnv} {s a : State} (h : Ran t i v env (runLen v) s a) (hf : v.fmt ≤ 3)
    {o k n : Nat} (ho : o < env.prog.nout) (hk : k < runLen v) (hn : n < 16 * regCols v.fmt) :
    Safety.elem a t v.fmt (outBase v env.prog o + k) n = (vprgOut s t v env k o n).bits := by
  have width : ∀ j, (vprgOut s t v env k o j).bits < 2 ^ (if packedFmt v.fmt then 16 else 32) := fun j => by
    rw [← fmtWidth_fmtOfReg hf]
    exact packElem_lt (wideFmt_fmtOfReg _) _
  rw [← elemOf_laneOf width n]
  have lanes := h.made o ho k hk
  by_cases p : packedFmt v.fmt = true
  · have cols : regCols v.fmt = 128 := by simp [regCols, p]
    simp only [Safety.elem, elemOf, p, if_true]
    rw [lanes _ (by omega)]
  · have cols : regCols v.fmt = 64 := by simp [regCols, p]
    simp only [Safety.elem, elemOf, p, if_false, Bool.false_eq_true]
    rw [lanes _ (by omega)]

theorem vprgBody_empty {t : TileId} {i : Item} {v : VIns} {s : State} (hz : fld v.x 13 0 = 0) (hf : v.fmt ≤ 3)
    (hp : progSlot s t v = none) : vprgBody t i v s = vecFail t i v eSlot s := by
  have z : decide (fld v.x 13 0 ≠ 0) = false := decide_eq_false (by simpa using hz)
  have f : decide (3 < v.fmt) = false := decide_eq_false (by omega)
  unfold vprgBody
  simp only [hp, z, f]
  rfl

/-- What an instruction's step is judged by: whether it is held back, the banks it passed by, and the fault messages. -/
def stepMarks (s : State) := (s.heldBack, s.passed, s.flt)

theorem stepMarks_discardEntries (k : ItemKey) (t : TileId) (s : State) : stepMarks (discardEntries k t s) = stepMarks s := by
  unfold discardEntries
  rfl

theorem stepMarks_stopList (t : TileId) (s : State) : stepMarks (stopList t s) = stepMarks s := rfl

theorem stepMarks_stopItem (k : ItemKey) (t : TileId) (s : State) : stepMarks (stopItem k t s) = stepMarks s := by
  have item : ∀ f a, stepMarks (modItem k f a) = stepMarks a := fun _ _ => rfl
  have list : ∀ (b : Prop) [Decidable b] a, stepMarks (if b then stopList t a else a) = stepMarks a := fun b _ a => by
    split
    · exact stepMarks_stopList t a
    · rfl
  exact (list _ _).trans ((item _ _).trans (stepMarks_discardEntries k t s))

theorem stepMarks_vecFail (t : TileId) (i : Item) (v : VIns) (code : Nat) (s : State) :
    stepMarks (vecFail t i v code s) = stepMarks s :=
  stepMarks_stopItem _ _ _

/-- An instruction that fails a check is carried out at once. -/
theorem exec_fails {c : Instr} {opc : Nat} {body : TileId → Item → VIns → State → State} {t : TileId} {i : Item} {v : VIns} {s : State}
    (hat : Safety.vecAt s t v i) (ho : v.opc = opc) (hc : exec c s = .next (vecRow opc body t s))
    (hin : vecOpcs.contains opc = true) {code : Nat} (hb : body t i v (Safety.unmarked s) = vecFail t i v code (Safety.unmarked s)) :
    exec c s = .next (vecFail t i v code (Safety.unmarked s)) := by
  have marks := hb ▸ stepMarks_vecFail t i v code (Safety.unmarked s)
  rw [hc, vecRow_goes hat.1 ho hin (congrArg (·.1) marks) (congrArg (·.2.1) marks) (congrArg (·.2.2) marks), hb]

end Sys2Proof.Machine
end

section
/-! SUPPORT. VPRGM: a program on streams in tile memory (R187), and the statement of element programs. -/

namespace Sys2Proof.Machine
open Sys2Proof

/-! ## The streams -/

/-- Every memory of a tile without code faults. -/
def QuietMems (t : TileId) (s : State) : Prop := ∀ m, (tmem s t m).err = []

/-- Element j of a stream. -/
def streamElem (t : TileId) (i : Item) (s : State) (x : Stream) (j : Nat) : Nat :=
  viewElem (x.view t i) s x.width (x.base + j * x.stride * x.width)

theorem readStreams_spec {t : TileId} (i : Item) {s : State} (quiet : QuietMems t s) (count : Nat) (ins : List Stream) :
    let r := ins.foldl (fun a x =>
      let (es, s) := rowRead (x.view t i) false x.width x.stride count x.base a.2
      (a.1 ++ [es], s)) (([] : List (List Elem)), s)
    r.1 = ins.map (fun x => (List.range count).map (fun j => (streamElem t i s x j, false))) ∧ VecReads t s r.2 := by
  have one : ∀ (x : Stream) a, VecReads t s a →
      [(rowRead (x.view t i) false x.width x.stride count x.base a).1] =
        [(List.range count).map (fun j => (streamElem t i s x j, false))] ∧
      VecReads t a (rowRead (x.view t i) false x.width x.stride count x.base a).2 := fun x a ha => by
    obtain ⟨els, reads⟩ := rowRead_spec (x.view t i) false x.width x.stride count x.base (s := a) (clean_of_reads ha (quiet _))
    refine ⟨?_, reads⟩
    rw [els]
    refine congrArg (fun l => [l]) (List.map_congr_left fun j _ => ?_)
    rw [viewElem_congr (x.view t i) ha]
    rfl
  obtain ⟨r1, r2⟩ := foldl_reads (f := fun x a => ([(rowRead (Stream.view x t i) false x.width x.stride count x.base a).1],
    (rowRead (Stream.view x t i) false x.width x.stride count x.base a).2)) one ins [] s (.refl t s)
  exact ⟨r1.trans (by simp [List.map_eq_flatMap]), r2⟩

/-- Output streams written one after another, stream o with the elements E o. -/
def putStreams (t : TileId) (i : Item) (X : Nat → Stream) (E : Nat → Nat → Nat) (count n : Nat) (s : State) : State :=
  (List.range n).foldl (fun a o => rowWrite ((X o).view t i) (X o).width (X o).stride (X o).base
    ((List.range count).map (fun j => (E o j, false))) a) s

/-- The place of a stream in its memory. -/
def Stream.memory (x : Stream) : MemSel := (memOfIndex x.mem).getD .amem

/-- Two streams share no byte. -/
def StreamsApart (count : Nat) (x y : Stream) : Prop :=
  y.mem ≠ x.mem ∨ y.base + y.width * (count * y.stride) ≤ x.base ∨ x.base + x.width * (count * x.stride) ≤ y.base

/-- An element of a stream lies within it. -/
theorem stream_within (x : Stream) (hs : 1 ≤ x.stride) {count j : Nat} (hj : j < count) :
    x.base + j * x.stride * x.width + x.width ≤ x.base + x.width * (count * x.stride) := by
  have : (j * x.stride + 1) * x.width ≤ count * x.stride * x.width := by
    refine Nat.mul_le_mul_right _ ?_
    calc j * x.stride + 1 ≤ (j + 1) * x.stride := by rw [Nat.succ_mul]; omega
      _ ≤ count * x.stride := Nat.mul_le_mul_right _ hj
  rw [Nat.mul_comm x.width]
  rw [Nat.succ_mul] at this
  omega

/-- The elements of a stream lie apart from each other. -/
theorem stream_apart (x : Stream) (hs : 1 ≤ x.stride) {j k : Nat} (h : j < k) :
    x.base + j * x.stride * x.width + x.width ≤ x.base + k * x.stride * x.width := by
  have : (j * x.stride + 1) * x.width ≤ k * x.stride * x.width := by
    refine Nat.mul_le_mul_right _ ?_
    calc j * x.stride + 1 ≤ (j + 1) * x.stride := by rw [Nat.succ_mul]; omega
      _ ≤ k * x.stride := Nat.mul_le_mul_right _ h
  rw [Nat.succ_mul] at this
  omega

/-- The state after the first n output streams are written. -/
structure StreamsPut (t : TileId) (X : Nat → Stream) (E : Nat → Nat → Nat) (count n : Nat) (s a : State) : Prop where
  access : VecAccess t s a
  bytes : ∀ o < n, (∀ q < n, q ≠ o → StreamsApart count (X o) (X q)) → ∀ j < count, ∀ b < (X o).width,
    Safety.byteAt a t (X o).memory ((X o).base + j * (X o).stride * (X o).width + b) = (bytesOfNat (X o).width (E o j)).getD b 0

/-- Streams in memories of different indices lie in different memories. -/
theorem memory_ne {x y : Stream} (hx : x.mem < 2) (hy : y.mem < 2) (h : y.mem ≠ x.mem) : x.memory ≠ y.memory := by
  unfold Stream.memory
  generalize x.mem = a at hx h ⊢
  generalize y.mem = b at hy h ⊢
  obtain ⟨rfl, rfl⟩ | ⟨rfl, rfl⟩ : (a = 0 ∧ b = 1) ∨ (a = 1 ∧ b = 0) := by omega
  · decide
  · decide

theorem putStreams_spec {t : TileId} {i : Item} {X : Nat → Stream} {E : Nat → Nat → Nat} {count : Nat} {s : State}
    (ha : s.flt.armed = []) (n : Nat) (hX : ∀ o < n, (X o).mem < 2 ∧ 1 ≤ (X o).stride) :
    StreamsPut t X E count n s (putStreams t i X E count n s) := by
  induction n with
  | zero => exact ⟨.refl t s, fun _ h => absurd h (by omega)⟩
  | succ n ih =>
    have before := ih fun o ho => hX o (by omega)
    have step := rowWrite_puts ((X n).view t i) (X n).width (X n).stride (X n).base count 0 (E n)
      (ad := fun j => (X n).base + j * (X n).stride * (X n).width) (val := fun j => bytesOfNat (X n).width (E n j))
      (fun j _ => by simp only [Nat.zero_add]) (fun j _ => by simp only [Nat.zero_add])
      (s := putStreams t i X E count n s) (before.access.armed.trans ha)
    have e : putStreams t i X E count (n + 1) s = rowWrite ((X n).view t i) (X n).width (X n).stride (X n).base
        ((List.range count).map (fun j => (E n j, false))) (putStreams t i X E count n s) := by
      simp [putStreams, List.range_succ]
    rw [e]
    refine ⟨before.access.trans step.writes.access, fun o ho apart j hj b hb => ?_⟩
    by_cases on : o = n
    · subst on
      refine step.bytes j (by omega) (by omega) (fun k hk _ => .inl ?_) b hb
      exact stream_apart (X o) (hX o ho).2 hk
    · refine Eq.trans ?_ (before.bytes o (by omega) (fun q hq => apart q (by omega)) j hj b hb)
      have away := apart n (by omega) (fun h => on h.symm)
      by_cases hm : (X n).mem = (X o).mem
      · have same : (X o).memory = (X n).memory := by rw [Stream.memory, Stream.memory, hm]
        rw [same]
        refine step.writes.kept (v := (X n).view t i) ?_
        rintro ⟨k, -, hk, h1, h2⟩
        have wo := stream_within (X o) (hX o ho).2 hj
        have wn := stream_within (X n) (hX n (by omega)).2 (show k < count by omega)
        rcases away with h | h | h
        · exact h hm
        · omega
        · omega
      · have ne := memory_ne (hX o ho).1 (hX n (by omega)).1 hm
        exact congrArg (fun m : TMem => fget zeroByte m.bytes _) (step.writes.other _ ne)

/-! ## The run -/

theorem progEnv_access {t : TileId} {s w : State} (h : VecAccess t s w) (i : Item) (p : Prog) : progEnv w t i p = progEnv s t i p := by
  rw [progEnv, h.itemSeed, h.vec, h.tile]
  rfl

/-- The output streams of a binding record. -/
def outStream (ws : List Word) (o : Nat) : Stream := bindStream ws (4 + o)

/-- Output o of element j of a run of VPRGM. -/
def vprgmOut (s : State) (t : TileId) (i : Item) (p : Prog) (ws : List Word) (o j : Nat) : CastRes :=
  progOut (progEnv s t i p) (outStream ws o).f o ((progEnv s t i p).ctx.indexBase.toNat + j)
    ((progStreams p ws).1.map (fun y => unpackElem y.f (streamElem t i s y j)))

/-- The elements of streams beside the streams' own formats. -/
theorem zipIdx_map_getD {α β γ : Type} (l : List α) (d : α) (g : α → β) (f : α → β → γ) :
    (l.map g).zipIdx.map (fun x => f (l.getD x.2 d) x.1) = l.map (fun y => f y (g y)) := by
  refine List.ext_getElem (by simp) fun k h1 h2 => ?_
  have hk : k < l.length := by simpa using h2
  simp [List.getD_eq_getElem?_getD, hk]

/-- The elements of the input streams. -/
def vprgmIns (s : State) (t : TileId) (i : Item) (p : Prog) (ws : List Word) : List (List Elem) :=
  (progStreams p ws).1.map (fun x => (List.range (ws.getD 0 0).toNat).map (fun j => (streamElem t i s x j, false)))

/-- What the program of a clean run makes of the input streams. -/
theorem vprgmElems_eq {t : TileId} {i : Item} {p : Prog} {ws : List Word} {s : State} (banks : CleanBanks (progEnv s t i p))
    (hX : ∀ o < p.nout, wideFmt (outStream ws o).f = true) :
    let r := runElems (progEnv s t i p) false (fun j => (progEnv s t i p).ctx.indexBase.toNat + j) (vprgmIns s t i p ws)
      (fun k => ((progStreams p ws).1.getD k ⟨0, 0, 9, 0⟩).f) (fun k => ((progStreams p ws).2.getD k ⟨0, 0, 9, 0⟩).f) (ws.getD 0 0).toNat
    r.1 = (List.range p.nout).map (fun o => (List.range (ws.getD 0 0).toNat).map (fun j => ((vprgmOut s t i p ws o j).bits, false))) ∧
      r.2.2 = [] := by
  intro r
  obtain ⟨outs, none⟩ := runElems_eq banks false (fun j => (progEnv s t i p).ctx.indexBase.toNat + j) (vprgmIns s t i p ws)
    (fun k => ((progStreams p ws).1.getD k ⟨0, 0, 9, 0⟩).f) (fun k => ((progStreams p ws).2.getD k ⟨0, 0, 9, 0⟩).f) (ws.getD 0 0).toNat
  refine ⟨outs.trans (List.map_congr_left fun o ho => List.map_congr_left fun j hj => ?_), none⟩
  have ho : o < p.nout := List.mem_range.mp ho
  have row : ∀ x : Stream, ((List.range (ws.getD 0 0).toNat).map (fun j => (streamElem t i s x j, false))).getD j (0, false) =
      (streamElem t i s x j, false) := fun x => getD_map_range _ _ (List.mem_range.mp hj)
  have stream : (progStreams p ws).2.getD o ⟨0, 0, 9, 0⟩ = outStream ws o := getD_map_range _ _ ho
  have inputs : runInputs (fun k => ((progStreams p ws).1.getD k ⟨0, 0, 9, 0⟩).f) (vprgmIns s t i p ws) j =
      (progStreams p ws).1.map (fun y => unpackElem y.f (streamElem t i s y j)) := by
    simp only [runInputs, vprgmIns, List.map_map, Function.comp_def, row]
    exact zipIdx_map_getD _ ⟨0, 0, 9, 0⟩ (fun y => (streamElem t i s y j, false)) (fun y e => unpackElem y.f e.1)
  have marks : runMark (progEnv s t i p) false (fun j => (progEnv s t i p).ctx.indexBase.toNat + j) (vprgmIns s t i p ws)
      (fun k => ((progStreams p ws).1.getD k ⟨0, 0, 9, 0⟩).f) (fun k => ((progStreams p ws).2.getD k ⟨0, 0, 9, 0⟩).f) o j = false := by
    have cast : (vprgmOut s t i p ws o j).poison = false := packElem_clean (hX o ho) _
    rw [runMark, inputs, stream]
    simp only [vprgmIns, List.map_map, Function.comp_def, row]
    rw [show (progOut _ _ o _ _).poison = false from cast]
    simp
  rw [inputs, marks, stream]
  rfl

theorem vprgmRun_eq {t : TileId} {i : Item} {p : Prog} {slot : Nat} {ws : List Word} {s : State} (clean : VecClean t s)
    (quiet : QuietMems t s) (banks : CleanBanks (progEnv s t i p)) (live : progPoisoned s t slot = false)
    (hX : ∀ o < p.nout, ((outStream ws o).mem < 2 ∧ 1 ≤ (outStream ws o).stride) ∧ wideFmt (outStream ws o).f = true) :
    ∃ a w beats, StreamsPut t (outStream ws) (fun o j => (vprgmOut s t i p ws o j).bits) (ws.getD 0 0).toNat p.nout s a ∧
      Worked t i.key [] a w ∧ (∀ m, tmem w t m = tmem a t m) ∧ vprgmRun t i p slot ws s = vecDoneMem t i beats w := by
  obtain ⟨els, reads⟩ := readStreams_spec i quiet (ws.getD 0 0).toNat (progStreams p ws).1
  obtain ⟨outs, none⟩ := vprgmElems_eq banks fun o ho => (hX o ho).2
  unfold vprgmRun
  simp only [checkProg_clean clean, live]
  simp only at els reads
  generalize (progStreams p ws).1.foldl _ _ = r at els reads ⊢
  rw [els]
  rw [vprgmIns] at outs none
  generalize runElems _ _ _ _ _ _ _ = R at outs none ⊢
  have put := putStreams_spec (t := t) (i := i) (E := fun o j => (vprgmOut s t i p ws o j).bits) (count := (ws.getD 0 0).toNat)
    (reads.access.armed.trans clean.unarmed) p.nout fun o ho => (hX o ho).1
  have written : (R.1.zip (progStreams p ws).2).foldl (fun a x => rowWrite (x.2.view t i) x.2.width x.2.stride x.2.base x.1 a) r.2 =
      putStreams t i (outStream ws) (fun o j => (vprgmOut s t i p ws o j).bits) (ws.getD 0 0).toNat p.nout r.2 := by
    rw [outs, progStreams, List.zip_map', List.foldl_map]
    rfl
  rw [written, none, reportLines_nil]
  generalize putStreams _ _ _ _ _ _ _ = a at put ⊢
  have tapped : ∀ l : List ((List Elem × Stream) × Nat), VecReads t a (l.foldl (fun a x => tapValues t i.key i.layer.toNat
      (if x.2 = 0 then .out0 else .out1) (x.1.1.map (fun e => (decodeElem x.1.2.f e.1, e.2))) a) a) := fun l =>
    List.foldlRecOn (motive := fun b => VecReads t a b) _ _ (.refl t a) fun b hb x _ => hb.trans (.tapValues ..)
  have taps := tapped (R.1.zip (progStreams p ws).2).zipIdx
  generalize List.foldl _ a _ = b at taps ⊢
  refine ⟨a, _, _, ⟨reads.access.trans put.access, put.bytes⟩, ?_, fun m => ?_, rfl⟩
  · exact (Worked.of_access taps.access i.key []).trans (recordRun_work t i _ _ _ b).1
  · exact (tmem_congr (recordRun_work t i _ _ _ b).2 t m).trans (taps.mem m)

/-! ## The binding record -/

theorem wordsOfBytes_range (n : Nat) (f : Nat → Byte) : wordsOfBytes n ((List.range (n * 4)).map f) =
    (List.range n).map (fun k => BitVec.ofNat 32 (natOfBytes ((List.range 4).map (fun b => f (4 * k + b))))) := by
  induction n generalizing f with
  | zero => rfl
  | succ n ih =>
    have rest : ((List.range ((n + 1) * 4)).map f).drop 4 = (List.range (n * 4)).map (fun k => f (k + 4)) :=
      List.ext_getElem (by simp [Nat.succ_mul]) fun k _ _ => by simp [Nat.add_comm]
    have head : ((List.range ((n + 1) * 4)).map f).take 4 = (List.range 4).map f :=
      List.ext_getElem (by simp [Nat.succ_mul]) fun k _ _ => by simp
    rw [wordsOfBytes, rest, ih, wordOf, head, List.range_succ_eq_map (n := n), List.map_cons, List.map_map]
    refine List.cons_eq_cons.mpr ⟨by simp, List.map_congr_left fun k _ => ?_⟩
    simp only [Function.comp]
    congr 3
    funext b
    congr 1
    omega

/-- The words of the binding record. -/
def bindWords (s : State) (t : TileId) (v : VIns) : List Word :=
  (List.range 16).map (fun k => Safety.wordAt s t .amem (amemScalar v + 4 * k))

theorem bindWords_read (t : TileId) (i : Item) (v : VIns) (s : State) :
    wordsOfBytes 16 (viewBytes (amemView t i) s (amemScalar v) 64) = bindWords s t v := by
  rw [viewBytes, show 64 = 16 * 4 from rfl, wordsOfBytes_range]
  refine List.map_congr_left fun k _ => ?_
  rw [Safety.wordAt, memGet_eq]
  simp only [← Nat.add_assoc]
  rfl

theorem bindChecks_pass {ins outs : List Stream} {count : Nat} (ho : ∀ x ∈ outs, x.mem < 2)
    (h : ∀ x ∈ ins ++ outs, x.mem < 3 ∧ 7 ≤ x.fmt ∧ x.fmt ≤ 10 ∧ x.base % x.width = 0 ∧ x.beyond count = false) :
    firstFail (bindChecks ins outs count).1 = none ∧ firstFail (bindChecks ins outs count).2 = none := by
  have all : ∀ f : Stream → Bool, (∀ x ∈ ins ++ outs, f x = false) → (ins ++ outs).any f = false := fun f hf =>
    List.any_eq_false.mpr fun x hx => by simp [hf x hx]
  have inputs : ins.any (fun x => decide (x.mem = 3)) = false := List.any_eq_false.mpr fun x hx => by
    have := (h x (List.mem_append_left _ hx)).1
    simp only [decide_eq_true_eq]
    omega
  have outputs : outs.any (fun x => decide (2 ≤ x.mem)) = false := List.any_eq_false.mpr fun x hx => by
    have := ho x hx
    simp only [decide_eq_true_eq]
    omega
  have formats := all (fun x => decide (x.fmt < 7) || decide (10 < x.fmt)) fun x hx => by
    obtain ⟨-, lo, hi, -⟩ := h x hx
    rw [decide_eq_false (by omega), decide_eq_false (by omega)]
    rfl
  have aligned := all (fun x => decide (x.base % x.width ≠ 0)) fun x hx => by
    obtain ⟨-, -, -, a, -⟩ := h x hx
    exact decide_eq_false (by simpa using a)
  have within := all (fun x => x.beyond count) fun x hx => (h x hx).2.2.2.2
  simp only [bindChecks, firstFail_cons]
  exact ⟨⟨by rw [inputs, outputs]; rfl, formats, rfl⟩, aligned, within, rfl⟩

theorem firstFail_append {l r : List (Bool × Nat)} (hl : firstFail l = none) (hr : firstFail r = none) : firstFail (l ++ r) = none := by
  induction l with
  | nil => exact hr
  | cons x l ih =>
    obtain ⟨hx, hl⟩ := (firstFail_cons x.1 x.2 l).mp hl
    exact (firstFail_cons x.1 x.2 (l ++ r)).mpr ⟨hx, ih hl⟩

/-- VPRGM reads its record and runs its program. -/
theorem vprgmBody_run {t : TileId} {i : Item} {v : VIns} {s : State} {p : Prog} (quiet : QuietMems t s) (hn : noRegs v = true)
    (hz : fld v.x 27 22 = 0) (hz' : fld v.x 18 0 = 0) (hx : v.scalarPoisoned (fld v.x 31 28) = false) (ha : amemScalar v % 64 = 0)
    (hl : amemScalar v + 64 ≤ memBytes .amem) (hp : progSlot s t v = some p)
    (hc : firstFail (bindChecks (progStreams p (bindWords s t v)).1 (progStreams p (bindWords s t v)).2
      ((bindWords s t v).getD 0 0).toNat).1 = none)
    (hc' : firstFail (bindChecks (progStreams p (bindWords s t v)).1 (progStreams p (bindWords s t v)).2
      ((bindWords s t v).getD 0 0).toNat).2 = none) (hk : firstFail (progChecks s t i (some p)) = none) :
    ∃ s1, VecReads t s s1 ∧ vprgmBody t i v s = vprgmRun t i p (fld v.x 21 19) (bindWords s t v) s1 := by
  obtain ⟨reads, bytes, -, clean⟩ := lineRead_spec (amemView t i) (amemScalar v) 64 (s := s) (.of_clean (quiet _))
  have record : (lineRead (amemView t i) (amemScalar v) 64 s).1 =
      (viewBytes (amemView t i) s (amemScalar v) 64, List.replicate 64 false) := Prod.ext bytes (clean (quiet _))
  refine ⟨_, reads, ?_⟩
  have fields : firstFail [(!noRegs v || decide (fld v.x 27 22 ≠ 0) || decide (fld v.x 18 0 ≠ 0), eProgram)] = none := by
    rw [firstFail_cons, hn, hz, hz']
    exact ⟨rfl, rfl⟩
  have region : firstFail (recordChecks v 64) = none := by
    rw [recordChecks, firstFail_cons, firstFail_cons]
    exact ⟨decide_eq_false (by simpa using ha), decide_eq_false (by omega), rfl⟩
  unfold vprgmBody
  rw [vecChecked_pass fields, hx]
  simp only [hp, decide_eq_true ha, decide_eq_true hl, Bool.and_true, if_true, Bool.false_eq_true, if_false, record,
    any_replicate_false, bindWords_read]
  exact vecChecked_pass (firstFail_append (firstFail_append (firstFail_append hc hk) region) hc') t i v _ _

/-! ## The statement -/

theorem streamElem_eq (t : TileId) (i : Item) (z : State) (x : Stream) (j : Nat) :
    streamElem t i z x j = natOfBytes (memGet z t x.memory (x.base + x.width * j * x.stride) x.width) := by
  rw [streamElem, viewElem, viewBytes, memGet_eq, show x.width * j * x.stride = j * x.stride * x.width by ring]
  rfl

theorem progOuts_length {v : VIns} {p : Prog} (h : p.nout ≤ 2) : (progOuts v p).length = p.nout := by
  rw [progOuts_eq h, List.length_map, List.length_range]

/-- The stream formats of a checked record are BF16, FP16, FP32 and INT32 (R187). -/
theorem stream_format {x : Stream} (h1 : 7 ≤ x.fmt) (h2 : x.fmt ≤ 10) : wideFmt x.f = true ∧ 2 ^ fmtWidth x.f = 256 ^ x.width := by
  unfold Stream.f Stream.width
  generalize x.fmt = f at h1 h2
  interval_cases f
  all_goals exact ⟨rfl, rfl⟩

/-- A stream holds the outputs written to it. -/
theorem StreamsPut.elem {t : TileId} {X : Nat → Stream} {E : Nat → Nat → Nat} {count n : Nat} {s a : State}
    (h : StreamsPut t X E count n s a) (i : Item) {o : Nat} (ho : o < n) (apart : ∀ q < n, q ≠ o → StreamsApart count (X o) (X q)) {j : Nat}
    (hj : j < count) (size : E o j < 256 ^ (X o).width) : streamElem t i a (X o) j = E o j := by
  have bytes : viewBytes ((X o).view t i) a ((X o).base + j * (X o).stride * (X o).width) (X o).width =
      bytesOfNat (X o).width (E o j) :=
    List.ext_getElem (by simp [viewBytes, length_bytesOfNat]) fun b h1 h2 => by
      have hb : b < (X o).width := by rwa [length_bytesOfNat] at h2
      have byte := h.bytes o ho apart j hj b hb
      rw [List.getD_eq_getElem _ _ h2] at byte
      rw [← byte]
      simp [viewBytes]
      rfl
  rw [streamElem, viewElem, bytes, natOfBytes_bytesOfNat, Nat.mod_eq_of_lt size]

/-- Settles O28: VPRG is a run of `vprgReg`, whose registers `Ran` gives, and VPRGM a run on streams, which `StreamsPut` gives. -/
theorem vectorPrograms : Obligations.VectorPrograms := by
  unfold Obligations.VectorPrograms
  intro t v i s hat hr hb
  have clean := VecClean.of_vecAt hat
  have banks : ∀ p, CleanBanks (progEnv (Safety.unmarked s) t i p) := fun p => cleanBanks_progEnv hb i p
  have quiet : QuietMems t (Safety.unmarked s) := hr.1
  refine ⟨fun ho hz hf p hp hin hout within apart pairs seed luts => ?run, fun ho hz hf hp => ?empty,
    fun ho hn hz hz' hx ha hl p hp => ?streams⟩
  case run =>
    have ran := ran_fold (i := i) clean (banks p) (runShape hout apart pairs) (progPoisoned s t (fld v.x 21 19)) le_rfl
    obtain ⟨u, exec, frame, done⟩ := exec_worked (c := .vprg t) hat hr ho rfl (by decide) ran.work
      ((vprgBody_run clean hz hf hp within apart seed luts) ▸ vecDone_completed t i (runBeats v p) _)
    refine ⟨u, exec, frame, ?_, fun o hlen k hk n hn => ?_⟩
    · rw [done.counted, ran.work.reg_vec (by decide)]
      rfl
    · rw [elem_congr (fun c _ => (done.reads _ c 0).1) hn]
      exact ran.elem hf (progOuts_length hout ▸ hlen) hk hn
  case empty => exact exec_fails hat ho rfl (by decide) (vprgBody_empty hz hf hp)
  case streams =>
    intro ws count ins outs hin hout live place streams seed luts bits
    have stream : ∀ o < p.nout, outStream ws o ∈ outs := fun o ho => List.mem_map_of_mem (List.mem_range.mpr ho)
    have format : ∀ o < p.nout, wideFmt (outStream ws o).f = true ∧ 2 ^ fmtWidth (outStream ws o).f = 256 ^ (outStream ws o).width :=
      fun o ho => by
        obtain ⟨-, h7, h10, -⟩ := streams _ (List.mem_append_right _ (stream o ho))
        exact stream_format h7 h10
    obtain ⟨early, late⟩ := bindChecks_pass (fun x hx => (place x hx).1) streams
    obtain ⟨s1, reads, body⟩ := vprgmBody_run (v := v) (s := Safety.unmarked s) quiet hn hz hz' hx ha hl hp early late (progChecks_pass seed luts)
    have env := progEnv_access reads.access i p
    have kept : ∀ y j, streamElem t i s1 y j = streamElem t i s y j := fun y j => viewElem_congr (y.view t i) reads _ _
    have out : ∀ o j, vprgmOut s1 t i p ws o j = vprgmOut s t i p ws o j := fun o j => by
      simp only [vprgmOut, env, kept]
      rfl
    obtain ⟨a, w, beats, put, work, mems, run⟩ := vprgmRun_eq (i := i) (p := p) (slot := fld v.x 21 19) (ws := ws)
      (Worked.clean (.of_access reads.access i.key []) clean) (fun m => by rw [reads.mem]; exact quiet m) (env ▸ banks p)
      (by rw [progPoisoned, reads.access.vec]; exact live) (fun o ho => ⟨place _ (stream o ho), (format o ho).1⟩)
    have work := (Worked.of_access (reads.access.trans put.access) i.key []).trans work
    obtain ⟨u, exec, frame, done⟩ := exec_worked (c := .vprgm t) hat hr ho rfl (by decide)
      (work.trans (.of_access (VecReads.takeFree w).access i.key [])) ((body.trans run).symm ▸ vecDone_completed t i _ _ : VecCompleted t i
        (beats + (takeFree w).1) (takeFree w).2 (vprgmBody t i v (Safety.unmarked s)))
    refine ⟨u, exec, frame, fun o x hx apart j hj => ?_⟩
    have ho : o < p.nout := by simpa [outs, progStreams] using (List.getElem?_eq_some_iff.mp hx).1
    have nth : ∀ q < p.nout, outs[q]? = some (outStream ws q) := fun q hq => by simp [outs, progStreams, hq, outStream]
    obtain rfl : outStream ws o = x := Option.some.inj ((nth o ho).symm.trans hx)
    have mem : ∀ m, tmem u t m = tmem a t m := fun m => (done.tmem t m).trans (((VecReads.takeFree w).mem m).trans (mems m))
    have size : (vprgmOut s1 t i p ws o j).bits < 256 ^ (outStream ws o).width := by
      rw [← (format o ho).2]
      exact packElem_lt (format o ho).1 _
    have made := put.elem i ho (fun q hq ne => apart q _ (nth q hq) ne) hj size
    rw [out, streamElem_eq] at made
    simp only [bits, memGet, mem] at made ⊢
    rw [show ((memOfIndex (outStream ws o).mem).getD .amem) = (outStream ws o).memory from rfl]
    refine made.trans ?_
    simp only [vprgmOut, progOut, streamElem_eq]
    rfl

end Sys2Proof.Machine
end

section
/-! SUPPORT. The stage chain (R199 to R203): what its lines leave of the state, whatever they report. -/

namespace Sys2Proof.Machine
open Sys2Proof

/-! ## One line -/

/-- The source of a line: the fill word, or what it reads. -/
def scSource (t : TileId) (c : ScCfg) (d : Nat) (s : State) : (List Byte × List Bool) × State :=
  if c.fillSrc then ((List.flatten (List.replicate (c.srcLine / 4) (bytesOfNat 4 c.fill)), clean c.srcLine), s)
  else lineRead (scView t c.smem) (c.src + d * c.srcLine) c.srcLine s

/-- A line that does not match the memory: counted, and noted where it is the first. -/
def scMismatch (t : TileId) (at' : Nat) (s : State) : State :=
  bump32 (vecB t) Off.vecScMismatch
    (if reg s (vecB t) Off.vecScMismatch = 0 then setReg (vecB t) Off.vecScFirst at' s else s)

/-- The destination of a line: written, compared or discarded. -/
def scPut (t : TileId) (c : ScCfg) (at' : Nat) (out : List Byte) (bad : Bool) (s : State) : State :=
  if c.wmode = 0 then lineWrite (scView t c.dmem) at' out (List.replicate 64 bad) s
  else if c.wmode = 1 then
    let r := lineRead (scView t c.dmem) at' 64 s
    if r.1.1 = out ∧ !bad ∧ !(r.1.2.any (fun b => b)) then r.2 else scMismatch t at' r.2
  else s

/-- A line: its source, its stages, its destination, and the count of lines done. -/
theorem scLine_eq (t : TileId) (c : ScCfg) (sel : Bool) (bank : FtBank) (d : Nat) (s : State) :
    scLine t c sel bank d s =
      let r := scSource t c d s
      let o := c.lineOut bank r.1.1
      let a := scPut t c (c.dst + 64 * d) o.1 (r.1.2.any (fun b => b) || !o.2.isEmpty) (reportTable t 0 c.tslot sel o.2 r.2)
      setReg (vecB t) Off.vecScDone (reg a (vecB t) Off.vecScDone + 1) a := by
  unfold scLine scSource
  generalize (if c.fillSrc = true then _ else _) = r
  obtain ⟨src, a⟩ := r
  simp only
  generalize c.lineOut bank src.1 = o
  obtain ⟨out, ls⟩ := o
  simp only [scPut, scMismatch]

/-! ## Steps of a chain of tile t -/

/-- What a chain of tile t leaves of a state: the wide accesses that wait reserved nothing holds it back. -/
structure ChainStep (t : TileId) (s w : State) : Prop where
  mov : ∀ x : TileId, w.tiles[x].mov = s.tiles[x].mov
  wide : w.tiles[t].wideReserved = s.tiles[t].wideReserved
  hbm : w.hbm = s.hbm
  items : w.items = s.items
  passed : w.passed = s.passed
  held : BankFree t s → w.heldBack = s.heldBack

namespace ChainStep

variable {t : TileId} {s u w : State}

/-- A step that leaves the tiles as they are. -/
theorem of_tiles (ht : w.tiles = s.tiles) (hm : w.hbm = s.hbm) (hi : w.items = s.items) (hp : w.passed = s.passed) (hb : w.heldBack = s.heldBack) :
    ChainStep t s w :=
  ⟨fun _ => by rw [ht], by rw [ht], hm, hi, hp, fun _ => hb⟩

theorem refl (t : TileId) (s : State) : ChainStep t s s := of_tiles rfl rfl rfl rfl rfl

theorem banks (h : ChainStep t s w) (c : BankFree t s) : BankFree t w :=
  fun m lo len => (bankReserved_congr h.mov h.wide m lo len).trans (c m lo len)

theorem trans (h : ChainStep t s u) (g : ChainStep t u w) : ChainStep t s w where
  mov x := (g.mov x).trans (h.mov x)
  wide := g.wide.trans h.wide
  hbm := g.hbm.trans h.hbm
  items := g.items.trans h.items
  passed := g.passed.trans h.passed
  held c := (g.held (h.banks c)).trans (h.held c)

theorem foldl {α : Type} {f : State → α → State} (h : ∀ a x, ChainStep t a (f a x)) (l : List α) (s : State) :
    ChainStep t s (l.foldl f s) :=
  foldl_of_steps (refl t) trans h l s

theorem foldl_snd {α β : Type} {f : β × State → α → β × State} (h : ∀ a x, ChainStep t a.2 (f a x).2) (l : List α) (a : β × State) :
    ChainStep t a.2 (l.foldl f a).2 :=
  foldl_of_steps (R := fun a b => ChainStep t a.2 b.2) (fun a => refl t a.2) trans h l a

/-- A change of tile t's own state. -/
theorem modTile (t : TileId) {f : TileSt → TileSt} (h : ∀ x, (f x).mov = x.mov ∧ (f x).wideReserved = x.wideReserved) (s : State) :
    ChainStep t s (Machine.modTile t f s) where
  mov x := by
    rw [modTile_tile]
    split
    · next e => rw [(h _).1, e]
    · rfl
  wide := by rw [modTile_tile, if_pos rfl, (h _).2]
  hbm := rfl
  items := rfl
  passed := rfl
  held _ := rfl

theorem raiseFault (b : Block) (kind addr item detail : Nat) (s : State) : ChainStep t s (raiseFault b kind addr item detail s) :=
  of_tiles rfl rfl rfl rfl rfl

theorem takeFree (s : State) : ChainStep t s (takeFree s).2 := of_tiles rfl rfl rfl rfl rfl

theorem setReg (b : Block) (o v : Nat) (s : State) : ChainStep t s (setReg b o v s) := of_tiles rfl rfl rfl rfl rfl

theorem bump (b : Block) (o n : Nat) (s : State) : ChainStep t s (bump b o n s) := of_tiles rfl rfl rfl rfl rfl

/-! ## Accesses -/

theorem countAccess (r : MemReq) (lo len : Nat) (s : State) : ChainStep t s (countAccess r lo len s) := by
  have answer : ChainStep t s (answerAccess r s) := by
    unfold answerAccess
    split
    · exact of_tiles rfl rfl rfl rfl rfl
    · exact refl t s
  unfold Machine.countAccess
  split
  · exact refl t s
  have counted := answer.trans (bump (.tile r.tile .tmem) Off.tmemAcc r.accesses _)
  dsimp only
  split
  · exact counted
  · exact counted.trans (bump _ _ _ _)

theorem grantAccess (r : MemReq) (lo len : Nat) (s : State) : ChainStep r.tile s (grantAccess r lo len s) := by
  have served : ChainStep r.tile s (servePromoted r lo len (Machine.countAccess r lo len s)) := by
    refine (countAccess r lo len s).trans ?_
    unfold servePromoted
    split
    · exact refl _ _
    · exact modTile _ (fun _ => by exact ⟨rfl, rfl⟩) _
  unfold Machine.grantAccess
  dsimp only
  split
  · next hb => exact ⟨served.mov, served.wide, served.hbm, served.items, served.passed, fun c => absurd (c _ _ _) (by rw [hb]; decide)⟩
  · exact served

theorem setTmem (m : MemSel) (v : TMem) (s : State) : ChainStep t s (setTmem t m v s) := by
  unfold Machine.setTmem
  refine modTile t (fun x => ?_) s
  cases m <;> exact ⟨rfl, rfl⟩

theorem touchLine (r : MemReq) (lo len : Nat) (s : State) (line : Nat) : ChainStep r.tile s (touchLine r lo len s line) := by
  have repaired : ∀ (kind : Nat) v pb word bits words, ChainStep r.tile s (if kind = 0 then s
      else tmemReport r.tile r.mem false pb r.item line kind word bits words (Machine.setTmem r.tile r.mem v s)) := fun _ _ _ _ _ _ => by
    split
    · exact refl _ s
    · exact (((setTmem _ _ s).trans (bump _ _ _ _)).trans (setReg _ _ _ _)).trans (raiseFault _ _ _ _ _ _)
  have marked : ∀ (b : Bool) a, ChainStep r.tile a (if b then Machine.bump (.tile r.tile .tmem) Off.tmemMark 1 a else a) := fun b a => by
    cases b
    · exact refl _ a
    · exact bump _ _ _ a
  unfold Machine.touchLine
  split
  exact (repaired _ _ _ _ _ _).trans (marked _ _)

theorem tmRead (r : MemReq) (lo len : Nat) (s : State) : ChainStep r.tile s (tmRead r lo len s).2 :=
  (grantAccess r lo len s).trans (foldl (fun a l => touchLine r lo len a l) _ _)

theorem tmWrite (r : MemReq) (lo : Nat) (bs : List Byte) (ps : List Bool) (s : State) : ChainStep r.tile s (tmWrite r lo bs ps s) := by
  have raw : ∀ a, ChainStep r.tile a (tmWriteRaw r.tile r.mem lo bs ps a) := fun a => by
    unfold tmWriteRaw
    generalize r.mem = mem
    cases mem <;> exact setTmem _ _ a
  have noted : ∀ a, ChainStep r.tile a (noteDisturb r.tile r.mem lo bs.length a) := fun a => by
    unfold noteDisturb
    dsimp only
    split
    · exact refl _ a
    · exact modTile _ (fun _ => by exact ⟨rfl, rfl⟩) a
  have injected : ∀ a, ChainStep r.tile a (applyInject r.tile r.mem lo bs.length a) := fun a => by
    unfold applyInject
    split
    · exact refl _ a
    · exact (setTmem _ _ a).trans (of_tiles rfl rfl rfl rfl rfl)
  exact (((grantAccess r lo bs.length s).trans (raw _)).trans (noted _)).trans (injected _)

theorem viewRead (v : MemView) (n lo len : Nat) (s : State) : ChainStep v.tile s (viewRead v n lo len s).2 := by
  unfold Machine.viewRead
  split
  · refine (countAccess (v.req n) lo len s).trans (foldl_snd (fun a p => ?_) _ (_, _))
    exact tmRead (v.req 0) _ _ _
  · exact tmRead (v.req n) lo len s

theorem viewWrite (v : MemView) (n lo : Nat) (bs : List Byte) (ps : List Bool) (s : State) :
    ChainStep v.tile s (viewWrite v n lo bs ps s) := by
  unfold Machine.viewWrite
  split
  · exact (countAccess (v.req n) lo bs.length s).trans (foldl (fun a p => tmWrite (v.req 0) _ _ _ a) _ _)
  · exact tmWrite (v.req n) lo bs ps s

/-! ## Lines -/

theorem setFtSlot (f : Nat) (x : FtSlot) (s : State) : ChainStep t s (setFtSlot t f x s) :=
  modTile t (fun _ => by exact ⟨rfl, rfl⟩) s

theorem reportTable (item f : Nat) (bank : Bool) (lines : List FtLine) (s : State) :
    ChainStep t s (reportTable t item f bank lines s) := by
  unfold Machine.reportTable
  refine foldl (fun a l => ?_) _ s
  dsimp only
  split
  · exact refl t a
  · refine .trans ?_ (raiseFault _ _ _ _ _ _)
    split
    · exact setFtSlot _ _ a
    · exact (setFtSlot _ _ a).trans (takeFree _)

theorem scSource (c : ScCfg) (d : Nat) (s : State) : ChainStep t s (scSource t c d s).2 := by
  unfold Machine.scSource
  split
  · exact refl t s
  · exact viewRead (scView t c.smem) _ _ _ s

theorem scMismatch (at' : Nat) (s : State) : ChainStep t s (scMismatch t at' s) := by
  unfold Machine.scMismatch
  refine .trans ?_ (setReg _ _ _ _)
  split
  · exact setReg _ _ _ s
  · exact refl t s

theorem scPut (c : ScCfg) (at' : Nat) (out : List Byte) (bad : Bool) (s : State) : ChainStep t s (scPut t c at' out bad s) := by
  unfold Machine.scPut
  split
  · exact viewWrite (scView t c.dmem) _ _ _ _ s
  split
  · refine (viewRead (scView t c.dmem) (lineCount at' 64) at' 64 s).trans ?_
    dsimp only
    split
    · exact refl t _
    · exact scMismatch _ _
  · exact refl t s

theorem scLine (c : ScCfg) (sel : Bool) (bank : FtBank) (d : Nat) (s : State) : ChainStep t s (scLine t c sel bank d s) := by
  rw [scLine_eq]
  exact (((scSource c d s).trans (reportTable _ _ _ _ _)).trans (scPut c _ _ _ _)).trans (setReg _ _ _ _)

theorem scLines (c : ScCfg) (sel : Bool) (bank : FtBank) (n : Nat) (s : State) : ChainStep t s (scLines t c sel bank n s) :=
  foldl (fun a d => scLine c sel bank d a) _ s

end ChainStep

end Sys2Proof.Machine
end

section
/-! SUPPORT. How a stage chain ends (R199, R201), and what a fill writes. -/

namespace Sys2Proof.Machine
open Sys2Proof

/-! ## The end of a chain -/

namespace ChainStep

variable {t : TileId}

theorem noteWipe (c : ScCfg) (n : Nat) (s : State) : ChainStep t s (noteWipe t c n s) := by
  unfold Machine.noteWipe
  split
  · split
    · exact modTile t (fun _ => by exact ⟨rfl, rfl⟩) s
    · exact refl t s
  · exact refl t s

/-- What follows a chain's lines: the wipe noted, its table's bank left, its settings gone. -/
theorem scEnd (n state code : Nat) (s : State) : ChainStep t s (scEnd t n state code s) := by
  have left : ∀ (b : Bool) f x a, ChainStep t a (if b then Machine.setFtSlot t f x a else a) := fun b f x a => by
    cases b
    · exact refl t a
    · exact setFtSlot _ _ a
  have ended : ∀ a, ChainStep t a (modVec t (fun v => { v with sc := ⟨false, false, false, []⟩ }) a) := fun a =>
    modTile t (fun _ => by exact ⟨rfl, rfl⟩) a
  exact (((((scLines _ _ _ _ s).trans (noteWipe _ _ _)).trans (left _ _ _ _)).trans (ended _)).trans (setReg _ _ _ _))

end ChainStep

theorem scEnd_idle (t : TileId) (n state code : Nat) (s : State) : (scEnd t n state code s).tiles[t].vec.sc.running = false := by
  have ended : ∀ a, (scStat t state code (modVec t (fun v => { v with sc := ⟨false, false, false, []⟩ }) a)).tiles[t].vec.sc.running =
      false := fun a => by
    have tiles : ∀ z, (scStat t state code z).tiles = z.tiles := fun _ => rfl
    rw [tiles, modVec, modTile_tile, if_pos rfl]
  exact ended _

theorem scEnd_stat (t : TileId) (n state code : Nat) (s : State) :
    reg (scEnd t n state code s) (vecB t) Off.vecScStat = (state + 2 ^ 8 * code) % 2 ^ 64 := by
  have noted : ∀ a, reg (scStat t state code a) (vecB t) Off.vecScStat = (state + 2 ^ 8 * code) % 2 ^ 64 := fun a =>
    (regAt_setRegAt _ _ _ a).trans (if_pos rfl)
  exact noted _

/-- Where no bank is reserved and the fault port is empty, the owner's chain completes at once. -/
theorem exec_scComplete_goes {t : TileId} {s : State} (owner : ownerChain s t = true) (safe : s.flt.safe = false)
    (port : portCount s t = 0) (banks : BankFree t s) :
    exec (.scComplete t) s = .next (scEnd t (scCfgOf s.tiles[t].vec.sc.cfg).lines 2 0 (Safety.unmarked s)) := by
  have step := ChainStep.scEnd (t := t) (scCfgOf s.tiles[t].vec.sc.cfg).lines 2 0 (Safety.unmarked s)
  have goes := unlessHeld_goes (scEnd t (scCfgOf s.tiles[t].vec.sc.cfg).lines 2 0) s (step.held banks) step.passed
  have run : exec (.scComplete t) s = .next (if ownerChain s t && !s.flt.safe then
      viaPort t (scEnd t (scCfgOf s.tiles[t].vec.sc.cfg).lines 2 0) s else s) := rfl
  rw [run, owner, safe, viaPort_free t _ s (.inr (.inr port)), goes]
  rfl

/-! ## Fills -/

/-- The bytes of a filled line. -/
def fillLine (c : ScCfg) : List Byte := List.flatten (List.replicate 16 (bytesOfNat 4 c.fill))

theorem fillLine_eq (c : ScCfg) : fillLine c = (List.range (16 * 4)).map (fun k => (bytesOfNat 4 c.fill).getD (k % 4) 0) := by
  have rows : List.replicate 16 (bytesOfNat 4 c.fill) = (List.range 16).map (fun _ => bytesOfNat 4 c.fill) := by simp
  rw [fillLine, rows, ← List.flatMap_def]
  exact flatMap_bytes 16 4 _ fun _ _ => length_bytesOfNat _ _

/-- A line of a raw fill that writes. -/
theorem scLine_fill {c : ScCfg} (hf : c.fillSrc = true) (hr : c.raw = true) (ho : c.ofmt = 15) (hw : c.wmode = 0) (t : TileId) (sel : Bool)
    (bank : FtBank) (d : Nat) (s : State) :
    ∃ n, scLine t c sel bank d s = setReg (vecB t) Off.vecScDone n
      (lineWrite (scView t c.dmem) (c.dst + 64 * d) (fillLine c) (List.replicate 64 false) s) := by
  have ifmt : c.ifmt = 15 := by simpa [ScCfg.raw] using hr
  have size : c.srcLine = 64 := by simp [ScCfg.srcLine, ho, ifmt, scWidth]
  have source : scSource t c d s = ((fillLine c, List.replicate 64 false), s) := by
    rw [scSource, if_pos hf, size]
    rfl
  have out : ∀ src, c.lineOut bank src = (src, []) := fun src => by rw [ScCfg.lineOut, if_pos hr]
  have silent : ∀ a, reportTable t 0 c.tslot sel [] a = a := fun a => rfl
  rw [scLine_eq, source]
  simp only [out, silent, scPut, hw, if_true, any_replicate_false, List.isEmpty_nil, Bool.not_true, Bool.or_false]
  exact ⟨_, rfl⟩

/-- The state after the first n lines of a fill. -/
structure Filled (t : TileId) (mem : MemSel) (c : ScCfg) (n : Nat) (s w : State) : Prop where
  armed : w.flt.armed = []
  other : ∀ x, x ≠ mem → tmem w t x = tmem s t x
  inside : ∀ a, c.dst ≤ a → a < c.dst + 64 * n → Safety.byteAt w t mem a = (bytesOfNat 4 c.fill).getD ((a - c.dst) % 4) 0
  outside : ∀ a, a < c.dst ∨ c.dst + 64 * n ≤ a → Safety.byteAt w t mem a = Safety.byteAt s t mem a

theorem Filled.tiles {t : TileId} {mem : MemSel} {c : ScCfg} {n : Nat} {s u w : State} (h : Filled t mem c n s u)
    (ha : w.flt.armed = u.flt.armed) (ht : ∀ x, tmem w t x = tmem u t x) : Filled t mem c n s w where
  armed := ha.trans h.armed
  other x hx := (ht x).trans (h.other x hx)
  inside a h1 h2 := (congrArg (fun m : TMem => fget zeroByte m.bytes a) (ht mem)).trans (h.inside a h1 h2)
  outside a ha := (congrArg (fun m : TMem => fget zeroByte m.bytes a) (ht mem)).trans (h.outside a ha)

theorem Filled.step {t : TileId} {mem : MemSel} {c : ScCfg} {n : Nat} {s w : State} (h : Filled t mem c n s w)
    (hm : memOfIndex c.dmem = some mem) :
    Filled t mem c (n + 1) s (lineWrite (scView t c.dmem) (c.dst + 64 * n) (fillLine c) (List.replicate 64 false) w) := by
  have view : (scView t c.dmem).mem = mem := by rw [scView, hm]; rfl
  have size : (fillLine c).length = 64 := by rw [fillLine_eq]; simp
  obtain ⟨writes, -, bytes⟩ := viewWrite_put (scView t c.dmem) (lineCount (c.dst + 64 * n) 64) (c.dst + 64 * n) (fillLine c)
    (List.replicate 64 false) h.armed (by rw [size]; rfl) (any_replicate_false 64)
  rw [size] at writes bytes
  unfold lineWrite
  rw [size]
  have kept : ∀ a, ¬ (c.dst + 64 * n ≤ a ∧ a < c.dst + 64 * n + 64) → Safety.byteAt (viewWrite (scView t c.dmem)
      (lineCount (c.dst + 64 * n) 64) (c.dst + 64 * n) (fillLine c) (List.replicate 64 false) w) t mem a = Safety.byteAt w t mem a :=
    fun a ha => by
      have k := writes.kept ha
      rw [view] at k
      exact k
  refine ⟨writes.armed h.armed, fun x hx => ?_, fun a h1 h2 => ?_, fun a ha => ?_⟩
  · exact (writes.other x (by rwa [view])).trans (h.other x hx)
  · by_cases last : c.dst + 64 * n ≤ a
    · obtain ⟨k, rfl⟩ := Nat.exists_eq_add_of_le last
      have hk : k < 64 := by omega
      have byte := bytes k hk
      rw [view] at byte
      refine Eq.trans byte ?_
      rw [fillLine_eq, getD_map_range _ _ hk]
      congr 1
      omega
    · rw [kept a (by omega), h.inside a h1 (by omega)]
  · rw [kept a (by omega), h.outside a (by omega)]

theorem filled_lines {t : TileId} {mem : MemSel} {c : ScCfg} {s : State} (ha : s.flt.armed = []) (hm : memOfIndex c.dmem = some mem)
    (hf : c.fillSrc = true) (hr : c.raw = true) (ho : c.ofmt = 15) (hw : c.wmode = 0) (sel : Bool) (bank : FtBank) (n : Nat) :
    Filled t mem c n s (scLines t c sel bank n s) := by
  induction n with
  | zero => exact ⟨ha, fun _ _ => rfl, fun a h1 h2 => absurd h2 (by omega), fun _ _ => rfl⟩
  | succ n ih =>
    obtain ⟨k, line⟩ := scLine_fill hf hr ho hw t sel bank n (scLines t c sel bank n s)
    have next : scLines t c sel bank (n + 1) s = scLine t c sel bank n (scLines t c sel bank n s) := by
      simp [scLines, List.range_succ]
    rw [next, line]
    exact (ih.step hm).tiles rfl fun x => tmem_congr rfl t x

/-- What follows the lines leaves the tile's memories. -/
theorem tmem_modTile (t : TileId) {f : TileSt → TileSt} (h : ∀ x, (f x).amem = x.amem ∧ (f x).pmem = x.pmem ∧ (f x).wmem = x.wmem)
    (s : State) (m : MemSel) : tmem (modTile t f s) t m = tmem s t m := by
  obtain ⟨amem, pmem, wmem⟩ := h s.tiles[t]
  cases m <;> simp only [tmem, modTile_tile, if_true, amem, pmem, wmem]

theorem Filled.scEnd {t : TileId} {mem : MemSel} {n : Nat} {s : State}
    (h : Filled t mem (scCfgOf s.tiles[t].vec.sc.cfg) n s (scLines t (scCfgOf s.tiles[t].vec.sc.cfg) s.tiles[t].vec.sc.bank
      ((ftSlot s t (scCfgOf s.tiles[t].vec.sc.cfg).tslot).bank s.tiles[t].vec.sc.bank) n s)) (state code : Nat) :
    Filled t mem (scCfgOf s.tiles[t].vec.sc.cfg) n s (scEnd t n state code s) := by
  have noted : ∀ c a, tmem (noteWipe t c n a) t = tmem a t ∧ (noteWipe t c n a).flt = a.flt := fun c a => by
    unfold noteWipe
    split
    · split
      · exact ⟨funext (tmem_modTile t (fun _ => by exact ⟨rfl, rfl, rfl⟩) a), rfl⟩
      · exact ⟨rfl, rfl⟩
    · exact ⟨rfl, rfl⟩
  have slot : ∀ f x a, tmem (setFtSlot t f x a) t = tmem a t := fun _ _ a =>
    funext (tmem_modTile t (fun _ => by exact ⟨rfl, rfl, rfl⟩) a)
  have left : ∀ (b : Bool) f x a, tmem (if b then setFtSlot t f x a else a) t = tmem a t ∧
      (if b then setFtSlot t f x a else a).flt = a.flt := fun b f x a => by
    cases b
    · exact ⟨rfl, rfl⟩
    · exact ⟨slot f x a, rfl⟩
  have ended : ∀ a, tmem (modVec t (fun v => { v with sc := ⟨false, false, false, []⟩ }) a) t = tmem a t := fun a =>
    funext (tmem_modTile t (fun _ => by exact ⟨rfl, rfl, rfl⟩) a)
  refine h.tiles ?_ fun x => ?_
  · exact congrArg (·.armed) ((left _ _ _ _).2.trans (noted _ _).2)
  · exact congrFun ((ended _).trans ((left _ _ _ _).1.trans (noted _ _).1)) x

end Sys2Proof.Machine
end

section
/-! SUPPORT. GO and ABORT of a stage chain (R199, R203), and the statement. -/

namespace Sys2Proof.Machine
open Sys2Proof

/-! ## Writes of VEC_SC_CTRL -/

/-- A write of the owner's to VEC_SC_CTRL does what that register's rule says. -/
theorem writeAt_scCtrl {m : Master} {t : TileId} {s : State} (h : Safety.owns m s) (v : Nat) :
    writeAt (masterIdx m) 4 (pageBase (.tile t .vec) 0 + Off.vecScCtrl) v s = scCtrl t v s := by
  obtain ⟨-, owner, safe⟩ := h
  rw [writeBlock_permitted (b := .tile t .vec) (o := Off.vecScCtrl) (by decide) rfl (mayWrite_owner owner nofun) (.inl safe),
    if_neg (by decide)]
  exact writeRow_own (r := ⟨Off.vecScCtrl, 1, 4, false, .mixed, 0x0, 0xfffffc⟩) (base := Off.vecScCtrl) rfl rfl rfl (by decide)
    (Nat.and_zero v) rfl

theorem writeBlock_scCtrl_ok {m : Master} {t : TileId} {v : Nat} {s u : State} (h : Safety.owns m s) (ho : scCtrl t v s = ok u) :
    writeBlock m (.tile t .vec) Off.vecScCtrl v s = Safety.wrote m u := by
  have other : ∀ x : TileId, pageBase (.tile x .vec) 0 + Off.vecScCtrl ≠ pageBase .own 0 + Off.devReset := by decide +kernel
  exact writeCmd_ok h.1 ((writeAt_scCtrl h v).trans ho) (other t)

theorem writeBlock_scCtrl_denied {m : Master} {t : TileId} {v : Nat} {s : State} (h : Safety.owns m s) (ho : scCtrl t v s = denied s) :
    writeBlock m (.tile t .vec) Off.vecScCtrl v s = Safety.denied m s :=
  writeCmd_denied h.1 ((writeAt_scCtrl h v).trans ho)

/-! ## The bits written -/

/-- GO's word sets bit 0, clears bit 1, and holds the settings. -/
theorem goWord (v : Word) : bitOf ((v &&& ~~~ 2) ||| 1).toNat 0 = true ∧ bitOf ((v &&& ~~~ 2) ||| 1).toNat 1 = false ∧
    Nat.land ((v &&& ~~~ 2) ||| 1).toNat 0xFFFFFC = Nat.land v.toNat 0xFFFFFC := by
  have bit : ∀ k, bitOf ((v &&& ~~~ 2) ||| 1).toNat k = ((v &&& ~~~ 2) ||| 1).getLsbD k := fun k => by
    rw [bitOf, BitVec.getLsbD, Nat.testBit_eq_decide_div_mod_eq]
  have settings : ((v &&& ~~~ 2) ||| 1) &&& 0xFFFFFC#32 = v &&& 0xFFFFFC#32 := by
    rw [BitVec.and_or_distrib_right, BitVec.and_assoc, show ~~~(2 : Word) &&& 0xFFFFFC#32 = 0xFFFFFC#32 by decide,
      show (1 : Word) &&& 0xFFFFFC#32 = 0#32 by decide, BitVec.or_zero]
  refine ⟨?_, ?_, ?_⟩
  · rw [bit]; simp
  · rw [bit]; simp
  · have e := congrArg BitVec.toNat settings
    rw [BitVec.toNat_and, BitVec.toNat_and] at e
    exact e

/-- ABORT's word leaves bit 0 clear and sets bit 1. -/
theorem abortWord (r : Nat) : bitOf (Nat.land r 0xFFFFFC + 2) 0 = false ∧ bitOf (Nat.land r 0xFFFFFC + 2) 1 = true := by
  have low : Nat.land r 0xFFFFFC % 2 ^ 2 = 0 := by
    have e : (r &&& 0xFFFFFC) % 2 ^ 2 = r % 2 ^ 2 &&& 0xFFFFFC % 2 ^ 2 := Nat.and_mod_two_pow
    exact e.trans (Nat.and_zero _)
  constructor
  · simp only [bitOf]
    exact decide_eq_false (by omega)
  · simp only [bitOf]
    exact decide_eq_true (by omega)

/-! ## GO -/

/-- The state with a chain's counts cleared. -/
def scCleared (t : TileId) (s : State) : State :=
  s |> setReg (vecB t) Off.vecScDone 0 |> setReg (vecB t) Off.vecScMismatch 0 |> setReg (vecB t) Off.vecScFirst 0

/-- The settings that GO takes. -/
def goCfg (t : TileId) (s : State) : List Nat := (List.range 9).map (fun k => reg s (vecB t) (Off.vecScCtrl + 4 * k))

/-- A chain started: its table's bank in use, its settings kept. -/
def scStarted (t : TileId) (cfg : List Nat) (s : State) : State :=
  let c := scCfgOf cfg
  let x := ftSlot s t c.tslot
  let s := if c.tfn then setFtSlot t c.tslot (x.setBank x.active
    { x.activeBank with inflight := x.activeBank.inflight + 1 }) s else s
  scStat t 1 0 (modVec t (fun v => { v with sc := ⟨true, false, x.active, cfg⟩ }) s)

/-- GO may start a chain. -/
def GoReady (t : TileId) (s : State) : Prop :=
  (pgState s (vecB t) = 0 ∨ pgState s (vecB t) = 4 ∨ pgState s (vecB t) = 5) ∧ s.tiles[t].vec.sc.running = false

section

variable {t : TileId} {s : State}

theorem scGo_refused (h : ¬ GoReady t s) : scGo t s = (eDenied, s) := by
  have c : (!decide (pgState s (vecB t) = 0 ∨ pgState s (vecB t) = 4 ∨ pgState s (vecB t) = 5)) = true ∨
      s.tiles[t].vec.sc.running = true := by
    by_cases st : pgState s (vecB t) = 0 ∨ pgState s (vecB t) = 4 ∨ pgState s (vecB t) = 5
    · exact .inr (by simpa [GoReady, st] using h)
    · exact .inl (by simpa using st)
  exact if_pos c

theorem scGo_ready (h : GoReady t s) : scGo t s =
    (match firstFail ((scCfgOf (goCfg t s)).checks (slotEmpty s t (scCfgOf (goCfg t s)).tslot)) with
    | some e => (stDone, scStat t 3 e (scCleared t s))
    | none => (stDone, scStarted t (goCfg t s) (scCleared t s))) := by
  obtain ⟨st, idle⟩ := h
  have c : ¬ ((!decide (pgState s (vecB t) = 0 ∨ pgState s (vecB t) = 4 ∨ pgState s (vecB t) = 5)) = true ∨
      s.tiles[t].vec.sc.running = true) := by
    rintro (no | runs)
    · simp [st] at no
    · rw [idle] at runs
      cases runs
  exact if_neg c

/-- A write that sets GO and leaves ABORT clear: a GO that is refused leaves it without effect. -/
theorem scCtrl_go {v : Nat} (go : bitOf v 0 = true) (abort : bitOf v 1 = false) {st : Nat} {u : State}
    (h : scGo t (setReg (.tile t .vec) Off.vecScCtrl (Nat.land v 0xFFFFFC) s) = (st, u)) :
    scCtrl t v s = if st = stDone then ok u else (st, s) := by
  unfold scCtrl
  simp only [go, abort, h, if_true, Bool.false_eq_true, if_false, ne_eq, ite_not]

/-- A write that sets ABORT alone. -/
theorem scCtrl_abort {v : Nat} (go : bitOf v 0 = false) (abort : bitOf v 1 = true) :
    scCtrl t v s = ok (scAbort t (setReg (.tile t .vec) Off.vecScCtrl (Nat.land v 0xFFFFFC) s)) := by
  unfold scCtrl
  simp only [go, abort, if_true, Bool.false_eq_true, if_false]

/-- The settings of a write of v: v's own in VEC_SC_CTRL, the others as they stand. -/
theorem goCfg_write (t : TileId) (v : Nat) (s : State) : goCfg t (setReg (.tile t .vec) Off.vecScCtrl (Nat.land v 0xFFFFFC) s) =
    Nat.land v 0xFFFFFC :: (List.range 8).map (fun k => reg s (vecB t) (Off.vecScCtrl + 4 * (k + 1))) := by
  have small : Nat.land v 0xFFFFFC < 2 ^ 64 := lt_of_le_of_lt Nat.and_le_right (by decide)
  rw [goCfg, List.range_succ_eq_map, List.map_cons, List.map_map]
  refine List.cons_eq_cons.mpr ⟨regAt_setRegAt_same _ _ s small, List.map_congr_left fun k _ => ?_⟩
  exact regAt_setRegAt_ne _ _ _ s (by simp only [vecB]; omega)

/-! ## ABORT -/

/-- A step that may wait leaves the state as it is, or is what it does with nothing passed by. -/
theorem viaPort_cases (t : TileId) (f : State → State) (s : State) :
    viaPort t f s = s ∨ viaPort t f s = { f (Safety.unmarked s) with passed := [] } := by
  have held : unlessHeld f s = s ∨ unlessHeld f s = { f (Safety.unmarked s) with passed := [] } :=
    ite_eq_or_eq ((f (Safety.unmarked s)).heldBack || (f (Safety.unmarked s)).passed.any (outranked (f (Safety.unmarked s)) false)) s
      { f (Safety.unmarked s) with passed := [] }
  rcases ite_eq_or_eq (decide (portCount s t < portCount (unlessHeld f s) t) && decide (8 < portCount (unlessHeld f s) t) &&
    decide (portCount s t ≠ 0)) s (unlessHeld f s) with e | e
  · exact .inl e
  · exact held.imp e.trans e.trans

/-- A chain that its owner's step leaves running is ended at once. -/
theorem ends_or_waits {P : State → Prop} {f : State → State} {a b : State} (owner : ownerChain a t = true) (now : P b)
    (later : P { f (Safety.unmarked a) with passed := [] }) : P (if ownerChain (viaPort t f a) t then b else viaPort t f a) := by
  split
  · exact now
  · next idle =>
    rcases viaPort_cases t f a with e | e
    · exact absurd owner (e ▸ idle)
    · exact e ▸ later

/-- ABORT ends the owner's chain, at a line of its own choice or, where that waits, at once. -/
theorem scAbort_owner (owner : ownerChain s t = true) (safe : s.flt.safe = false) : (scAbort t s).tiles[t].vec.sc.running = false ∧
    reg (scAbort t s) (vecB t) Off.vecScStat = 3 + 2 ^ 8 * stCancelled := by
  have ended : ∀ n a, (scEnd t n 3 stCancelled a).tiles[t].vec.sc.running = false ∧
      reg (scEnd t n 3 stCancelled a) (vecB t) Off.vecScStat = 3 + 2 ^ 8 * stCancelled := fun n a =>
    ⟨scEnd_idle .., scEnd_stat ..⟩
  have goes : (ownerChain s t && !s.flt.safe) = true := by rw [owner, safe]; rfl
  unfold scAbort
  rw [if_pos goes]
  exact ends_or_waits (P := fun u => u.tiles[t].vec.sc.running = false ∧ reg u (vecB t) Off.vecScStat = 3 + 2 ^ 8 * stCancelled)
    (a := (takeFree s).2) owner (ended _ _) (ended _ _)

theorem ownerChain_true (runs : s.tiles[t].vec.sc.running = true) (own : s.tiles[t].vec.sc.byRot = false) : ownerChain s t = true := by
  rw [ownerChain, runs, own]
  rfl

theorem ownerChain_false (other : s.tiles[t].vec.sc.running = false ∨ s.tiles[t].vec.sc.byRot = true) : ownerChain s t = false := by
  rcases other with h | h
  · rw [ownerChain, h]
    rfl
  · rw [ownerChain, h, Bool.not_true, Bool.and_false]

theorem scAbort_other (other : s.tiles[t].vec.sc.running = false ∨ s.tiles[t].vec.sc.byRot = true) : scAbort t s = s := by
  unfold scAbort
  rw [ownerChain_false other]
  rfl

end

/-! ## The statement -/

theorem checks_small {c : ScCfg} {b : Bool} {e : Nat} (h : firstFail (c.checks b) = some e) : (3 + 2 ^ 8 * e) % 2 ^ 64 = 3 + 2 ^ 8 * e := by
  have m := firstFail_mem h
  simp only [ScCfg.checks, List.map_cons, List.map_nil, List.mem_cons, List.not_mem_nil, or_false] at m
  rcases m with rfl | rfl | rfl | rfl
  all_goals decide

theorem sameMemory_modTile (t : TileId) {f : TileSt → TileSt}
    (h : ∀ x, (f x).amem = x.amem ∧ (f x).pmem = x.pmem ∧ (f x).wmem = x.wmem) (s : State) : Safety.sameMemory s (modTile t f s) := by
  refine ⟨rfl, rfl, fun x => ?_⟩
  rw [modTile_tile]
  split
  · next e => exact e ▸ h _
  · exact ⟨rfl, rfl, rfl⟩

theorem sameMemory_modVec (t : TileId) (f : VecSt → VecSt) (s : State) : Safety.sameMemory s (modVec t f s) :=
  sameMemory_modTile t (fun _ => by exact ⟨rfl, rfl, rfl⟩) s

theorem sameMemory_setFtSlot (t : TileId) (f : Nat) (x : FtSlot) (s : State) : Safety.sameMemory s (setFtSlot t f x s) :=
  sameMemory_modTile t (fun _ => by exact ⟨rfl, rfl, rfl⟩) s

theorem sameMemory_setReg (b : Block) (o v : Nat) (s : State) : Safety.sameMemory s (setReg b o v s) :=
  ⟨rfl, rfl, fun _ => ⟨rfl, rfl, rfl⟩⟩

theorem sameMemory_scCleared (t : TileId) (s : State) : Safety.sameMemory s (scCleared t s) :=
  sameMemory_trans (sameMemory_trans (sameMemory_setReg _ _ _ s) (sameMemory_setReg _ _ _ _)) (sameMemory_setReg _ _ _ _)

/-- What the start of a chain leaves. -/
theorem scStarted_spec (t : TileId) (cfg : List Nat) (s : State) :
    (scStarted t cfg s).tiles[t].vec.sc = ⟨true, false, (ftSlot s t (scCfgOf cfg).tslot).active, cfg⟩ ∧
    (∀ o, reg (scStarted t cfg s) (vecB t) o = if o = Off.vecScStat then 1 else reg s (vecB t) o) ∧
    Safety.sameMemory s (scStarted t cfg s) := by
  have taken : ∀ (b : Bool) f x, (if b then setFtSlot t f x s else s).regs = s.regs ∧
      Safety.sameMemory s (if b then setFtSlot t f x s else s) := fun b f x => by
    cases b
    · exact ⟨rfl, rfl, rfl, fun _ => ⟨rfl, rfl, rfl⟩⟩
    · exact ⟨rfl, sameMemory_setFtSlot t f x s⟩
  unfold scStarted
  dsimp only
  obtain ⟨regs, memory⟩ := taken (scCfgOf cfg).tfn (scCfgOf cfg).tslot ((ftSlot s t (scCfgOf cfg).tslot).setBank
    (ftSlot s t (scCfgOf cfg).tslot).active { (ftSlot s t (scCfgOf cfg).tslot).activeBank with
      inflight := (ftSlot s t (scCfgOf cfg).tslot).activeBank.inflight + 1 })
  generalize (if (scCfgOf cfg).tfn = true then _ else s) = a at regs memory ⊢
  have tiles : ∀ z, (scStat t 1 0 z).tiles = z.tiles := fun _ => rfl
  refine ⟨?_, fun o => ?_, ?_⟩
  · rw [tiles, modVec, modTile_tile, if_pos rfl]
  · refine (regAt_setRegAt _ _ _ _).trans ?_
    simp only [Nat.add_right_inj]
    split
    · rfl
    · exact congrArg (fun r => (fget (fun k => BitVec.ofNat 64 (regReset k)) r _).toNat) regs
  · exact sameMemory_congr (tiles _) rfl rfl (sameMemory_trans memory (sameMemory_modVec t _ a))

/-- The counts of a chain that GO has cleared. -/
theorem reg_scCleared (t : TileId) (s : State) : reg (scCleared t s) (vecB t) Off.vecScDone = 0 ∧
    reg (scCleared t s) (vecB t) Off.vecScMismatch = 0 := by
  have first : ∀ o a, o ≠ Off.vecScFirst → reg (setReg (vecB t) Off.vecScFirst 0 a) (vecB t) o = reg a (vecB t) o := fun o a ho =>
    regAt_setRegAt_ne _ _ _ a (by simpa using ho)
  have mismatch : ∀ o a, o ≠ Off.vecScMismatch → reg (setReg (vecB t) Off.vecScMismatch 0 a) (vecB t) o = reg a (vecB t) o :=
    fun o a ho => regAt_setRegAt_ne _ _ _ a (by simpa using ho)
  unfold scCleared
  refine ⟨?_, ?_⟩
  · rw [first _ _ (by decide), mismatch _ _ (by decide)]
    exact regAt_setRegAt_same _ _ _ (by decide)
  · rw [first _ _ (by decide)]
    exact regAt_setRegAt_same _ _ _ (by decide)

/-- Settles O29: GO and ABORT by the rule of VEC_SC_CTRL, the end of a chain by `ChainStep`, a fill's bytes by `Filled`. -/
theorem stageChain : Obligations.StageChain := by
  unfold Obligations.StageChain
  refine ⟨fun m t v s owns => ?_, fun t s => ⟨fun idle => ?idle, fun safe port banks => ⟨fun runs own => ?complete, ?fill⟩⟩⟩
  case idle =>
    have stays : (ownerChain s t && !s.flt.safe) = false := by
      rcases idle with h | h | h
      · rw [ownerChain_false (.inl h), Bool.false_and]
      · rw [ownerChain_false (.inr h), Bool.false_and]
      · rw [h, Bool.not_true, Bool.and_false]
    have run : exec (.scComplete t) s = .next (if ownerChain s t && !s.flt.safe then
        viaPort t (scEnd t (scCfgOf s.tiles[t].vec.sc.cfg).lines 2 0) s else s) := rfl
    rw [run, stays, if_neg (by decide)]
  case complete =>
    have step := ChainStep.scEnd (t := t) (scCfgOf s.tiles[t].vec.sc.cfg).lines 2 0 (Safety.unmarked s)
    exact ⟨_, exec_scComplete_goes (ownerChain_true runs own) safe port banks, scEnd_idle .., scEnd_stat .., step.items, step.hbm⟩
  case fill =>
    intro c mem hm runs own fill raw ofmt wmode armed size
    have filled := Filled.scEnd (s := Safety.unmarked s) (t := t) (filled_lines (s := Safety.unmarked s) (t := t) armed hm fill raw ofmt
      wmode _ _ c.lines) 2 0
    refine ⟨_, exec_scComplete_goes (ownerChain_true runs own) safe port banks, fun a h1 h2 al => ?_, filled.outside, filled.other⟩
    rw [filled.inside a h1 h2]
    have word : (a - c.dst) % 4 = a % 4 := by omega
    exact congrArg ((bytesOfNat 4 c.fill).getD · 0) word
  intro st cfg c
  obtain ⟨go, abort, settings⟩ := goWord v
  have taken : goCfg t (setReg (.tile t .vec) Off.vecScCtrl (Nat.land v.toNat 0xFFFFFC) s) = cfg := goCfg_write t v.toNat s
  have write := fun st u => scCtrl_go (t := t) (s := s) go abort (st := st) (u := u)
  rw [settings] at write
  generalize hs : setReg (.tile t .vec) Off.vecScCtrl (Nat.land v.toNat 0xFFFFFC) s = s1 at taken write
  have same : GoReady t s1 ↔ (st = 0 ∨ st = 4 ∨ st = 5) ∧ s.tiles[t].vec.sc.running = false := by
    subst hs
    exact Iff.rfl
  have empty : ∀ f, slotEmpty s1 t f = slotEmpty s t f := fun f => by
    rw [← hs]
    rfl
  refine ⟨fun refused => ?refused, fun state idle pass => ?starts, fun e state idle fails => ?fails, fun runs own => ?abort,
    fun other => ?other⟩
  case refused =>
    have not : ¬ GoReady t s1 := fun ready => by
      obtain ⟨ok, idle⟩ := same.mp ready
      exact refused.elim (· ok) fun runs => by rw [idle] at runs; cases runs
    exact congrArg Host.Outcome.next (writeBlock_scCtrl_denied owns (write _ _ (scGo_refused not)))
  case starts =>
    have start : scGo t s1 = (stDone, scStarted t cfg (scCleared t s1)) := by
      rw [scGo_ready (same.mpr ⟨state, idle⟩), taken, empty, pass]
    obtain ⟨chain, regs, memory⟩ := scStarted_spec t cfg (scCleared t s1)
    obtain ⟨done, mismatch⟩ := reg_scCleared t s1
    refine ⟨_, congrArg Host.Outcome.next (writeBlock_scCtrl_ok owns (write _ _ start)), ?_, regs _, (regs _).trans done,
      (regs _).trans mismatch, ?_, ?_⟩
    · subst hs
      exact chain
    · have before : Safety.sameMemory s (scCleared t s1) := by
        subst hs
        exact sameMemory_trans (sameMemory_setReg _ _ _ s) (sameMemory_scCleared t _)
      exact sameMemory_congr (u := scStarted t cfg (scCleared t s1)) rfl rfl rfl (sameMemory_trans before memory)
    · simp [Safety.wrote, answered]
  case fails =>
    have recorded : scGo t s1 = (stDone, scStat t 3 e (scCleared t s1)) := by
      rw [scGo_ready (same.mpr ⟨state, idle⟩), taken, empty, fails]
    have tiles : ∀ z, (Safety.wrote m (scStat t 3 e (scCleared t z))).tiles = z.tiles := fun _ => rfl
    refine ⟨_, congrArg Host.Outcome.next (writeBlock_scCtrl_ok owns (write _ _ recorded)), (tiles s1).trans (by rw [← hs]; rfl), ?_⟩
    have stat : ∀ z, reg (Safety.wrote m (scStat t 3 e z)) (vecB t) Off.vecScStat = (3 + 2 ^ 8 * e) % 2 ^ 64 := fun z =>
      (regAt_setRegAt _ _ _ z).trans (if_pos rfl)
    exact (stat _).trans (checks_small fails)
  case abort =>
    obtain ⟨go, abort⟩ := abortWord (reg s (.tile t .vec) Off.vecScCtrl)
    have ended := scAbort_owner (t := t) (s := setReg (.tile t .vec) Off.vecScCtrl
      (Nat.land (Nat.land (reg s (.tile t .vec) Off.vecScCtrl) 0xFFFFFC + 2) 0xFFFFFC) s) (ownerChain_true runs own) owns.2.2
    exact ⟨_, congrArg Host.Outcome.next (writeBlock_scCtrl_ok owns (scCtrl_abort go abort)), ended⟩
  case other =>
    obtain ⟨go, abort⟩ := abortWord (reg s (.tile t .vec) Off.vecScCtrl)
    have write := scCtrl_abort (t := t) (s := s) go abort
    rw [scAbort_other (s := setReg (.tile t .vec) Off.vecScCtrl _ s) other] at write
    exact ⟨_, congrArg Host.Outcome.next (writeBlock_scCtrl_ok owns write), rfl⟩

end Sys2Proof.Machine
end
